-- ==== Sys2Proof/Word.lean ====
section
/-! DEFINITION. The word types of the block: bytes, 64-bit words, 32-bit words. -/

namespace Sys2Proof

/-- One byte. -/
abbrev Byte := BitVec 8

/-- One 64-bit word of a descriptor, record, register or image. -/
abbrev Word := BitVec 64

/-- One FP32 or 32-bit value. -/
abbrev W32 := BitVec 32

end Sys2Proof
end

