-- ==== Sys2Proof/Config.lean ====
section
/-! DEFINITION. What the spec leaves open: constants without a body, so that no proof can see a value. Each is named in the assumption log. -/

namespace Sys2Proof.Config

/-- Random 64-bit draws of the device (stamps R403, handles R345, the unseal nonce R555, the witness R506), by draw number. -/
opaque random : Nat → Word

/-- R248: which of the three FP32 values for T[256] that keep the rule's bound of 2 units in the last place; the table holds T[0] to T[255], and T[256] is asked for where y - floor(y) rounds to 1. -/
opaque expTop : Nat

/-- The slot, 0 to 511 of its pair, of the frame that the model names by a number of its own (R210, R212 leave the slot to the allocator). -/
opaque frameSlot : Nat → Nat

/-- Where in its die's range, in units of its size, a page of 64 KiB, 2 MiB or 1 GiB that XLT_MAP allocates begins, by tier and a number of the model's own (R149 asks for alignment only). -/
opaque pagePlace : Nat → Nat → Nat

/-- The frame of the directory cache that holds a session's entry (R173 gives 1,024 entries to a frame and no place). -/
opaque cacheFrame : Nat → Nat

/-- The pair, 0 to 511 of its stack, and the stack within the die that hold a frame whose place no rule gives. -/
opaque placement : Nat → Nat × Nat

/-- The byte by which the device changes byte `i` of the first 0xB000 bytes of a control frame from the model's own arrangement of them (no rule gives the arrangement; R281, R290, R310 say what they hold). -/
opaque ctlMask : Nat → BitVec 8

/-- The pair of a die where the allocator begins to deal out the frames of an object or a region (no rule places them), by the free frames of the die. -/
opaque bulkStart : Nat → Nat

/-- The page number in the device-managed half where a pooled prefix's run is mapped, by handle (R356 names no address). -/
opaque prefixBase : Nat → Nat

/-- The part of a mirror record's body, by type, to which R501 gives no layout (a step record, completion fields, a cause), from what it tells. -/
opaque mirrorPart : Nat → List Nat → List Byte

/-- A message of the control class (R494, R498, R499, R504 to R506, R539 give no layout), from its kind and what it tells; it takes the payload of one frame. -/
opaque twinMessage : Nat → List Nat → List Byte

/-- Aon cycles that a step takes (the model keeps no step timing; R299), by draw number. -/
opaque stepCycles : Nat → Nat

/-- Page-table walks and translation cache misses of a step or request (XLT_CACHE_STAT; timing of the caches is not modelled), by draw number. -/
opaque xltCounts : Nat → Nat × Nat

/-- General-mode stream that the thresher makes of a page (R402 leaves the parse to the device; a stream that does not decode to the page is never used). -/
opaque packGeneral : List Byte → List Byte

/-- Code lengths that the thresher derives from counts of sign-exponent values (R402 fixes no derivation; a table that is not valid is never used). -/
opaque codeTable : List Nat → List Nat

/-- The order of two distance keys of which one is NaN (R415 orders numbers only). -/
opaque nanBefore : BitVec 32 → BitVec 32 → Bool

/-- The device root secret of R538, 32 bytes. -/
opaque rootSecret : List Byte

/-- The block firmware of a die (false: die 0) that flash holds once it no longer holds what the device booted from (R568 gives no bytes; a free value). -/
opaque flashFirmware : Bool → List Byte

/-- R538: the identifier and the seed of tree `t` of the HSS private key that a seed gives (0 the top tree, then the lower trees; the rule derives the key from the seed and gives no derivation). -/
opaque hssTree : List Byte → Nat → List Byte × List Byte

/-- R543: the randomizer of the one-time signature by leaf `q` of tree `t` (RFC 8554 leaves it to the signer). -/
opaque hssRandomizer : List Byte → Nat → Nat → List Byte

/-- R555: the HSS public key of Ovivira's debug root. -/
opaque debugRoot : List Byte

/-- The identity certificate chain (R542). -/
opaque certChain : List Byte

/-- The number of the element tile at a grid place (row of tiles, column of tiles) of a matrix of a format, rows and columns (R180 numbers the tiles of a matrix and fixes no walk of its grid). -/
opaque elemTile : Nat → Nat → Nat → Nat → Nat → Nat

/-- Where in its section a numbered element tile (false) or scale tile (true) of a matrix lies (R258 counts them, and no rule orders the two kinds). -/
opaque tilePlace : Nat → Nat → Nat → Bool → Nat → Nat

/-- The function's Vendor ID, which every mailbox object of Ovivira's carries (20_security; the spec gives no number). -/
opaque vendorId : Nat

/-- The function's Device ID (03_host_link; the spec gives no number). -/
opaque deviceId : Nat

/-- What RTP_LEAF.NEXT reads before R540 has fixed where the device resumes, by the reservation found at boot. -/
opaque leafUnfixed : Nat → Nat

end Sys2Proof.Config
end

