-- ==== Sys2Proof/Machine/Bits.lean ====
section
/-! DEFINITION. Bit fields, little-endian bytes, saturating counts and the canonical key-sorted map that every table of State is kept in. -/

namespace Sys2Proof.Machine

/-- Field [hi:lo] of a number, bit 0 least significant (00_scope, Notation). -/
def bits (v hi lo : Nat) : Nat := v / 2 ^ lo % 2 ^ (hi - lo + 1)

/-- One bit of a number. -/
def bit (v i : Nat) : Bool := v / 2 ^ i % 2 == 1

/-- `v` with field [hi:lo] replaced by the low bits of `x`. -/
def putBits (v hi lo x : Nat) : Nat :=
  v - bits v hi lo * 2 ^ lo + x % 2 ^ (hi - lo + 1) * 2 ^ lo

/-- A field at bit `lo`, `width` bits wide, holding `x`. -/
def fieldAt (lo width x : Nat) : Nat := x % 2 ^ width * 2 ^ lo

/-- 1 for true. -/
def b2n (b : Bool) : Nat := if b then 1 else 0

/-- R4: the number that bytes in ascending address order hold. -/
def leNat : List Byte → Nat
  | [] => 0
  | b :: bs => b.toNat + 256 * leNat bs

/-- R4: `n` bytes of a number, least significant first. -/
def natLe : Nat → Nat → List Byte
  | 0, _ => []
  | n + 1, v => BitVec.ofNat 8 v :: natLe n (v / 256)

/-- `n` bytes from offset `o` of a byte string; bytes past its end read 0. -/
def bytesAt (bs : List Byte) (o n : Nat) : List Byte :=
  let t := (bs.drop o).take n
  t ++ List.replicate (n - t.length) 0

/-- The little-endian number in `n` bytes at offset `o`. -/
def leAt (bs : List Byte) (o n : Nat) : Nat := leNat (bytesAt bs o n)

/-- ceil(a / b). -/
def cdiv (a b : Nat) : Nat := (a + b - 1) / b

/-- `a` rounded up to a multiple of `b`. -/
def roundUp (a b : Nat) : Nat := cdiv a b * b

/-- A count that saturates at `w` bits. -/
def satAdd (w a b : Nat) : Nat := min (a + b) (2 ^ w - 1)

/-- Entry `i` of a list, or the default given. -/
def nth {α : Type} (l : List α) (i : Nat) (d : α) : α := l.getD i d

/-- A list with entry `i` replaced. -/
def setNth {α : Type} (l : List α) (i : Nat) (a : α) : List α := l.set i a

/-- The lexicographically first element of a list under `le`-style choice: keeps the earliest best. -/
def bestBy {α : Type} (better : α → α → Bool) : List α → Option α
  | [] => none
  | a :: as => some (as.foldl (fun m x => if better x m then x else m) a)

/-! ## Key-sorted maps -/

/-- A table keyed by number, keys strictly rising: equal tables are equal data. -/
abbrev Map (α : Type) := List (Nat × α)

/-- The entry under a key. -/
def mapGet {α : Type} : Map α → Nat → Option α
  | [], _ => none
  | (k, a) :: m, i => if k = i then some a else mapGet m i

/-- Enters or replaces the entry under a key, keeping the order. -/
def mapSet {α : Type} : Map α → Nat → α → Map α
  | [], i, x => [(i, x)]
  | (k, a) :: m, i, x =>
    if i < k then (i, x) :: (k, a) :: m
    else if i = k then (i, x) :: m
    else (k, a) :: mapSet m i x

/-- Removes the entry under a key. -/
def mapDel {α : Type} : Map α → Nat → Map α
  | [], _ => []
  | (k, a) :: m, i => if k = i then mapDel m i else (k, a) :: mapDel m i

/-- True when a key has an entry. -/
def mapHas {α : Type} (m : Map α) (i : Nat) : Bool := (mapGet m i).isSome

/-- Changes the entry under a key, when there is one. -/
def mapMod {α : Type} (m : Map α) (i : Nat) (f : α → α) : Map α :=
  match mapGet m i with
  | none => m
  | some a => mapSet m i (f a)

/-- Keys strictly rising. -/
def mapWf {α : Type} : Map α → Bool
  | [] => true
  | [_] => true
  | (k, _) :: (k', a) :: m => decide (k < k') && mapWf ((k', a) :: m)

/-! ## Byte memories: cells of value 0 are not listed -/

/-- A byte memory in which an unlisted address reads 0. -/
abbrev Cells := Map Byte

/-- One byte of a zero-default memory. -/
def cellGet (m : Cells) (a : Nat) : Byte := (mapGet m a).getD 0

/-- Writes one byte; writing 0 removes the cell, so the form stays canonical. -/
def cellSet (m : Cells) (a : Nat) (b : Byte) : Cells :=
  if b = 0 then mapDel m a else mapSet m a b

/-- Writes bytes at ascending addresses. -/
def cellsWrite : Cells → Nat → List Byte → Cells
  | m, _, [] => m
  | m, a, b :: bs => cellsWrite (cellSet m a b) (a + 1) bs

/-- Reads `n` bytes from an address. -/
def cellsRead (m : Cells) (a n : Nat) : List Byte :=
  (List.range n).map fun i => cellGet m (a + i)

/-- The canonical form of a zero-default memory: keys rising, no zero listed. -/
def cellsWf (m : Cells) : Bool := mapWf m && m.all fun c => decide (c.2 ≠ 0)

end Sys2Proof.Machine
end

