-- ==== Sys2Proof/Machine/Float.lean ====
section
/-! DEFINITION. The element formats of R236, the one rounding rule of R237, FP32 arithmetic under R245, the exponential of R248 and the constants of R251. Values are exact dyadics between roundings. -/

namespace Sys2Proof.Machine

/-- A value: NaN, a signed infinity, or (-1)^neg * m * 2^e (m = 0 keeps its sign). -/
inductive FVal where
  | nan
  | inf (neg : Bool)
  | fin (neg : Bool) (m : Nat) (e : Int)
  deriving DecidableEq, Repr

/-- How a format treats its top exponent (R236). -/
inductive FKind where
  /-- IEEE: infinities and NaNs (BF16, FP32, E5M2). -/
  | ieee
  /-- One NaN pattern per sign, no infinity (E4M3). -/
  | nanOnly
  /-- Neither (MX E2M1, E2M3, E3M2). -/
  | none
  deriving DecidableEq, Repr

/-- Exponent bits, mantissa bits, bias and kind of a format (R236). -/
structure Fmt where
  eb : Nat
  mb : Nat
  bias : Nat
  kind : FKind
  deriving DecidableEq, Repr

def fmtE2M1 : Fmt := ⟨2, 1, 1, .none⟩
def fmtE2M3 : Fmt := ⟨2, 3, 1, .none⟩
def fmtE3M2 : Fmt := ⟨3, 2, 3, .none⟩
def fmtE4M3 : Fmt := ⟨4, 3, 7, .nanOnly⟩
def fmtE5M2 : Fmt := ⟨5, 2, 15, .ieee⟩
def fmtBF16 : Fmt := ⟨8, 7, 127, .ieee⟩
def fmtFP32 : Fmt := ⟨8, 23, 127, .ieee⟩

/-- Reads an encoded element (R236). -/
def decodeF (f : Fmt) (v : Nat) : FVal :=
  let neg := bit v (f.eb + f.mb)
  let e := bits v (f.eb + f.mb - 1) f.mb
  let m := v % 2 ^ f.mb
  let top := 2 ^ f.eb - 1
  if f.kind = .ieee ∧ e = top then (if m = 0 then .inf neg else .nan)
  else if f.kind = .nanOnly ∧ e = top ∧ m = 2 ^ f.mb - 1 then .nan
  else if e = 0 then .fin neg m (1 - (f.bias : Int) - f.mb)
  else .fin neg (m + 2 ^ f.mb) ((e : Int) - f.bias - f.mb)

/-- Bits needed to write a number. -/
def bitLen (m : Nat) : Nat := if m = 0 then 0 else m.log2 + 1

/-- Shifts right by `k` rounding to nearest, ties to even. -/
def rneShift (m k : Nat) : Nat :=
  let q := m / 2 ^ k
  let r := 2 * (m % 2 ^ k)
  if r > 2 ^ k ∨ (r = 2 ^ k ∧ q % 2 = 1) then q + 1 else q

/-- R237: magnitude m * 2^e rounded into the format's exponent and mantissa fields (the top exponent not yet judged). -/
def encodeMag (f : Fmt) (m : Nat) (e : Int) : Nat :=
  if m = 0 then 0 else
  let emin : Int := 1 - (f.bias : Int) - f.mb
  let ulp : Int := max (e + bitLen m - (f.mb + 1)) emin
  let q := if ulp ≤ e then m * 2 ^ (e - ulp).toNat else rneShift m (ulp - e).toNat
  if q < 2 ^ f.mb then q else (ulp - emin).toNat * 2 ^ f.mb + q

/-- The encoding of the largest finite magnitude. -/
def maxFinite (f : Fmt) : Nat :=
  match f.kind with
  | .ieee => (2 ^ f.eb - 1) * 2 ^ f.mb - 1
  | .nanOnly => 2 ^ (f.eb + f.mb) - 2
  | .none => 2 ^ (f.eb + f.mb) - 1

/-- R237, R238: canonical NaN of a format. -/
def canonNaN (f : Fmt) : Nat :=
  match f.kind with
  | .ieee => (2 ^ f.eb - 1) * 2 ^ f.mb + 2 ^ (f.mb - 1)
  | .nanOnly => 2 ^ (f.eb + f.mb) - 1
  | .none => 0

/-- R237: conversion. FP8 formats and MX elements saturate a finite overflow; BF16 and FP32 go to infinity. -/
def encodeF (f : Fmt) (v : FVal) : Nat :=
  let s := fun (neg : Bool) => b2n neg * 2 ^ (f.eb + f.mb)
  let infE := (2 ^ f.eb - 1) * 2 ^ f.mb
  match v with
  | .nan => canonNaN f
  | .inf neg => s neg + (if f.kind = .ieee then infE else maxFinite f)
  | .fin neg m e =>
    let q := encodeMag f m e
    if q ≤ maxFinite f then s neg + q
    else if f.kind = .ieee ∧ f.eb = 8 then s neg + infE else s neg + maxFinite f

/-- An FP32 word as a value. -/
def f32 (x : W32) : FVal := decodeF fmtFP32 x.toNat

/-- A value rounded once to FP32. -/
def toF32 (v : FVal) : W32 := BitVec.ofNat 32 (encodeF fmtFP32 v)

/-- Conversion of an FP32 word into a format (R237). -/
def convertTo (f : Fmt) (x : W32) : Nat := encodeF f (f32 x)

/-- Conversion from a format into FP32, exact (R237). -/
def convertFrom (f : Fmt) (v : Nat) : W32 := toF32 (decodeF f v)

/-- R238: the canonical FP32 NaN. -/
def fNaN : W32 := 0x7FC00000

def isNaN (x : W32) : Bool := f32 x = .nan
def isInf (x : W32) : Bool := x &&& 0x7FFFFFFF = 0x7F800000
/-- NaN or infinite. -/
def notFinite (x : W32) : Bool := x &&& 0x7F800000 = 0x7F800000
def fneg (x : W32) : W32 := if isNaN x then fNaN else x ^^^ 0x80000000
def fOne : W32 := 0x3F800000
def fNegInf : W32 := 0xFF800000

/-- The signed integer of a magnitude. -/
def signed (neg : Bool) (m : Nat) : Int := if neg then -(m : Int) else m

/-- Sum of two exact finite values; an exact zero keeps a sign only when both operands agree on it. -/
def finAdd (n1 : Bool) (m1 : Nat) (e1 : Int) (n2 : Bool) (m2 : Nat) (e2 : Int) : FVal :=
  let e := min e1 e2
  let i := signed n1 (m1 * 2 ^ (e1 - e).toNat) + signed n2 (m2 * 2 ^ (e2 - e).toNat)
  if i = 0 then .fin (n1 && n2) 0 e else .fin (decide (i < 0)) i.natAbs e

/-- Exact sum of values (IEEE special cases). -/
def vAdd (a b : FVal) : FVal :=
  match a, b with
  | .nan, _ => .nan
  | _, .nan => .nan
  | .inf s, .inf t => if s = t then .inf s else .nan
  | .inf s, .fin .. => .inf s
  | .fin .., .inf t => .inf t
  | .fin n1 m1 e1, .fin n2 m2 e2 => finAdd n1 m1 e1 n2 m2 e2

/-- Exact product of values (IEEE special cases). -/
def vMul (a b : FVal) : FVal :=
  match a, b with
  | .nan, _ => .nan
  | _, .nan => .nan
  | .inf s, .inf t => .inf (s ^^ t)
  | .inf s, .fin t m _ => if m = 0 then .nan else .inf (s ^^ t)
  | .fin s m _, .inf t => if m = 0 then .nan else .inf (s ^^ t)
  | .fin n1 m1 e1, .fin n2 m2 e2 => .fin (n1 ^^ n2) (m1 * m2) (e1 + e2)

def fadd (a b : W32) : W32 := toF32 (vAdd (f32 a) (f32 b))
def fsub (a b : W32) : W32 := fadd a (fneg b)
def fmul (a b : W32) : W32 := toF32 (vMul (f32 a) (f32 b))
/-- a * b + c, rounded once (R245). -/
def fma (a b c : W32) : W32 := toF32 (vAdd (vMul (f32 a) (f32 b)) (f32 c))

/-- Correctly rounded quotient (R245): 64 extra bits and a sticky bit decide the rounding. -/
def fdiv (a b : W32) : W32 :=
  match f32 a, f32 b with
  | .nan, _ => fNaN
  | _, .nan => fNaN
  | .inf _, .inf _ => fNaN
  | .inf s, .fin t _ _ => toF32 (.inf (s ^^ t))
  | .fin s _ _, .inf t => toF32 (.fin (s ^^ t) 0 0)
  | .fin s m1 e1, .fin t m2 e2 =>
    if m2 = 0 then (if m1 = 0 then fNaN else toF32 (.inf (s ^^ t)))
    else
      let n := m1 * 2 ^ 64
      let q := n / m2
      toF32 (.fin (s ^^ t) (2 * q + b2n (n % m2 ≠ 0)) (e1 - e2 - 65))

/-- Integer square root by bits, `k` halving rounds. -/
def isqrtGo (n : Nat) : Nat → Nat → Nat
  | 0, r => r
  | k + 1, r =>
    let r' := r + 2 ^ k
    isqrtGo n k (if r' * r' ≤ n then r' else r)

/-- floor(sqrt(n)). -/
def isqrt (n : Nat) : Nat := isqrtGo n (bitLen n / 2 + 1) 0

/-- Correctly rounded square root (R245). -/
def fsqrt (a : W32) : W32 :=
  match f32 a with
  | .nan => fNaN
  | .inf s => if s then fNaN else a
  | .fin s m e =>
    if m = 0 then a else if s then fNaN else
    let k : Nat := if e % 2 = 0 then 64 else 65
    let n := m * 2 ^ k
    let r := isqrt n
    toF32 (.fin false (2 * r + b2n (r * r ≠ n)) ((e - k) / 2 - 1))

/-- Exact comparison of finite or infinite values; false with a NaN. -/
def fltV (a b : FVal) : Bool :=
  match a, b with
  | .nan, _ => false
  | _, .nan => false
  | .inf s, .inf t => s && !t
  | .inf s, .fin .. => s
  | .fin .., .inf t => !t
  | .fin n1 m1 e1, .fin n2 m2 e2 =>
    let e := min e1 e2
    decide (signed n1 (m1 * 2 ^ (e1 - e).toNat) < signed n2 (m2 * 2 ^ (e2 - e).toNat))

def flt (a b : W32) : Bool := fltV (f32 a) (f32 b)
def fgt (a b : W32) : Bool := flt b a
def feq (a b : W32) : Bool := !isNaN a && !isNaN b && !flt a b && !flt b a
def fle (a b : W32) : Bool := flt a b || feq a b

/-- R238: maximum; a NaN operand gives the canonical NaN, +0 is greater than −0. -/
def fmax (a b : W32) : W32 :=
  if isNaN a || isNaN b then fNaN
  else if flt a b then b
  else if flt b a then a
  else if a.msb then b else a

/-- An exact integer as FP32. -/
def fOfInt (i : Int) : W32 := toF32 (.fin (decide (i < 0)) i.natAbs 0)
/-- A natural number rounded once to FP32. -/
def fOfNat (n : Nat) : W32 := toF32 (.fin false n 0)
/-- x * 2^n, rounded once when the result is subnormal (R248 ldexp). -/
def ldexp (x : W32) (n : Int) : W32 :=
  match f32 x with
  | .fin s m e => toF32 (.fin s m (e + n))
  | v => toF32 v

/-- floor(m * 2^e) of a signed value. -/
def floorV (neg : Bool) (m : Nat) (e : Int) : Int :=
  let i := signed neg m
  if 0 ≤ e then i * 2 ^ e.toNat else i / 2 ^ (-e).toNat

/-- Largest r below 2^k + r0 with r^256 ≤ n, by bits. -/
def rootGo (n : Nat) : Nat → Nat → Nat
  | 0, r => r
  | k + 1, r =>
    let r' := r + 2 ^ k
    rootGo n k (if r' ^ 256 ≤ n then r' else r)

/-- R248: T[j], the FP32 value nearest to 2^(j/256). -/
def expT (j : Nat) : W32 :=
  let r := rootGo (2 ^ (23 * 256 + j)) 24 0
  let r := if (2 * r + 1) ^ 256 ≤ 2 ^ (24 * 256 + j) then r + 1 else r
  toF32 (.fin false r (-23))

def LOG2E : W32 := 0x3FB8AA3B
def LN2 : W32 := 0x3F317218

/-- R248: exp, by its fixed sequence, each operation rounded to FP32.  For an x below 0 by too little, f
rounds to 1 and the sequence asks for a T[256] that the rule does not give: a free value within the rule's
bound (log 121). -/
def fexp (x : W32) : W32 :=
  match f32 x with
  | .nan => fNaN
  | .inf s => if s then 0 else 0x7F800000
  | .fin .. =>
    let y := fmul x LOG2E
    if !flt y 0x43000000 then 0x7F800000
    else if flt y 0xC3160000 then 0
    else match f32 y with
      | .fin s m e =>
        let n := floorV s m e
        let f := fadd y (toF32 (.fin (decide (0 ≤ n)) n.natAbs 0))
        match f32 f with
        | .fin _ fm fe =>
          let j := (floorV false (fm * 256) fe).toNat
          let r := fmul (fadd f (toF32 (.fin true j (-8)))) LN2
          let p := fma (fma r 0x3F000000 fOne) r fOne
          ldexp (fmul (if j < 256 then expT j else BitVec.ofNat 32 (0x3FFFFFFE + Config.expTop % 3)) p) n
        | _ => fNaN
      | _ => fNaN

/-- One round of the pairwise tree of R246: adds the upper half of `s` onto the lower. -/
def halve (s : List W32) : List W32 :=
  let h := s.length / 2
  (s.take h).zipWith fadd (s.drop h)

/-- R246 within one group of 256: halving rounds down to one entry. -/
def treeSum : Nat → List W32 → W32
  | 0, s => nth s 0 0
  | k + 1, s => treeSum k (halve s)

/-- R246: reduce, groups of 256 in order, each by the fixed tree. -/
def freduce (x : List W32) : W32 :=
  (List.range (cdiv x.length 256)).foldl (fun total c =>
    let g := (x.drop (256 * c)).take 256
    fadd total (treeSum 8 (g ++ List.replicate (256 - g.length) 0))) 0

/-! ## Constants of R251 -/

/-- pi * 10^60, truncated. -/
def piE60 : Nat := 3141592653589793238462643383279502884197169399375105820974944

/-- Fixed-point scale of the trigonometric series. -/
def trigScale : Nat := 2 ^ 160

/-- Terms x^k/k! of the exponential series with alternating signs, from term `k` on, stepping by two. -/
def trigGo (x2 : Nat) : Nat → Nat → Nat → Int
  | 0, _, _ => 0
  | fuel + 1, k, t => (t : Int) - trigGo x2 fuel (k + 2) (t * x2 / trigScale / ((k + 1) * (k + 2)))

/-- (cos, sin) of i * pi / 2048 for i below 1,024, scaled by 2^160. -/
def cosSinQ (i : Nat) : Int × Int :=
  let x := trigScale * piE60 * i / (2048 * 10 ^ 60)
  let x2 := x * x / trigScale
  (trigGo x2 40 0 trigScale, trigGo x2 40 1 x)

/-- A scaled integer rounded to the nearest FP32. -/
def trigF (i : Int) : W32 := toF32 (.fin (decide (i < 0)) i.natAbs (-160))

/-- R251: C[j] and S[j], the FP32 values nearest to cos and sin of 2 pi j / 4096. -/
def cosSin (j : Nat) : W32 × W32 :=
  let (c, s) := cosSinQ (j % 1024)
  match j / 1024 % 4 with
  | 0 => (trigF c, trigF s)
  | 1 => (trigF (-s), trigF c)
  | 2 => (trigF (-c), trigF (-s))
  | _ => (trigF s, trigF (-c))

/-- R251: K, the FP32 value nearest to 2 pi / 2^32. -/
def ropeK : W32 := trigF ((trigScale * piE60 * 2 / (2 ^ 32 * 10 ^ 60) : Nat) : Int)

end Sys2Proof.Machine
end

