-- ==== Sys2Proof/Machine/Numerics.lean ====
section
/-! DEFINITION. Arithmetic of chapters 07, 08 and 11 above single FP32 operations: microscaling blocks (R239, R240), group sums (R241), accumulation (R242), attention partials and their merge (R250, R334), rotary positions (R251), normalization and activation (R252), expert routing (R253 to R255), sampling (R308), and the elementwise maximum (R218). -/

namespace Sys2Proof.Machine

/-! ## Formats by code (R257) -/

/-- The element format of a format code: MXFP4, MXFP6 E2M3, MXFP6 E3M2, MXFP8 E4M3, MXFP8 E5M2, FP8 E4M3, FP8 E5M2, BF16, FP32. -/
def fmtOfCode (c : Nat) : Fmt :=
  match c with
  | 1 => fmtE2M1
  | 2 => fmtE2M3
  | 3 => fmtE3M2
  | 4 => fmtE4M3
  | 5 => fmtE5M2
  | 6 => fmtE4M3
  | 7 => fmtE5M2
  | 8 => fmtBF16
  | _ => fmtFP32

/-- Codes 1 to 5 carry block scales (R239). -/
def isMX (c : Nat) : Bool := 1 ≤ c && c ≤ 5

/-- Exponent of the largest normal of an MX element format (R240 emax). -/
def emaxOf (c : Nat) : Int :=
  match c with
  | 1 => 2
  | 2 => 2
  | 3 => 4
  | 4 => 8
  | _ => 15

/-- The exponent of a positive finite magnitude: floor(log2(m * 2^e)). -/
def floorLog2 (m : Nat) (e : Int) : Int := e + bitLen m - 1

/-- R240: one block of 32 FP32 values to a scale byte and element encodings. -/
def mxQuantize (code : Nat) (x : List W32) : Nat × List Nat :=
  let f := fmtOfCode code
  if x.any notFinite then (0xFF, x.map fun _ => 0)
  else
    let a := x.foldl (fun a v => fmax a (v &&& 0x7FFFFFFF)) 0
    match f32 a with
    | .fin _ m e0 =>
      if m = 0 then (0x7F, x.map fun _ => 0)
      else
        let e := min (max (floorLog2 m e0 - emaxOf code) (-127)) 127
        ((e + 127).toNat, x.map fun v =>
          match f32 v with
          | .fin s m' e' => encodeF f (.fin s m' (e' - e))
          | v => encodeF f v)
    | _ => (0xFF, x.map fun _ => 0)

/-- A quantized operand vector along the reduction axis: element values and one scale exponent per group of 32 (absent outside MX; none inside an MX block whose scale is NaN). -/
structure QVec where
  code : Nat
  elems : List FVal
  scales : List (Option Int)
  deriving DecidableEq, Repr

/-- Splits a list into groups of `n`. -/
def groupsOf {α : Type} (n : Nat) (l : List α) : List (List α) :=
  (List.range (cdiv l.length n)).map fun i => (l.drop (n * i)).take n

/-- The exponent an E8M0 scale byte stands for (R236, R239). -/
def scaleExp (s : Nat) : Option Int := if s = 0xFF then none else some ((s : Int) - 127)

/-- R244: an FP32 vector quantized to an activation format; `sa` is the tensor scale of FP8 activations. -/
def quantize (code : Nat) (sa : W32) (x : List W32) : QVec :=
  if isMX code then
    let bs := (groupsOf 32 x).map (mxQuantize code)
    ⟨code, bs.flatMap fun b => b.2.map (decodeF (fmtOfCode code)), bs.map fun b => scaleExp b.1⟩
  else if code = 6 ∨ code = 7 then
    ⟨code, x.map fun v => decodeF (fmtOfCode code) (convertTo (fmtOfCode code) (fdiv v sa)),
      List.replicate (cdiv x.length 32) (some 0)⟩
  else
    ⟨code, x.map fun v => decodeF (fmtOfCode code) (convertTo (fmtOfCode code) v),
      List.replicate (cdiv x.length 32) (some 0)⟩

/-- R241 step 1 and 2: a product kept down to 2^(E - 40), magnitude toward zero. -/
def dropLow (E : Int) (v : FVal) : FVal :=
  match v with
  | .fin s m e =>
    let lo := E - 40
    if lo ≤ e then .fin s m e else .fin s (m / 2 ^ (lo - e).toNat) lo
  | v => v

/-- R241: one group of 32 products, summed exactly after step 2, scaled and rounded once. -/
def groupSum (w a : List FVal) (sw sa : Option Int) : W32 :=
  let ps := w.zipWith vMul a
  let E := ps.foldl (fun (E : Int) p =>
    match p with
    | .fin _ m e => if m = 0 then E else max E (floorLog2 m e)
    | _ => E) (-100000)
  let s := ps.foldl (fun t p => vAdd t (dropLow E p)) (.fin false 0 0)
  match sw, sa, s with
  | some x, some y, .fin n m e => toF32 (.fin n m (e + x + y))
  | some _, some _, v => toF32 v
  | _, _, _ => fNaN

/-- R242: FP32 group values added in ascending order from +0. -/
def dotQ (w a : QVec) : W32 :=
  let gs := ((groupsOf 32 w.elems).zip (groupsOf 32 a.elems)).zip (w.scales.zip a.scales)
  gs.foldl (fun acc g => fadd acc (groupSum g.1.1 g.1.2 g.2.1 g.2.2)) 0

/-- R242: FP8 weights scale the accumulated value by sw, then by sa. -/
def dotScaled (wCode : Nat) (sw sa : W32) (w a : QVec) : W32 :=
  let acc := dotQ w a
  if wCode = 6 ∨ wCode = 7 then fmul (fmul acc sw) sa else acc

/-- A plain dot product of two element lists under R241 and R242, groups of 32, the last padded with zeros. -/
def dotV (x y : List FVal) : W32 :=
  dotQ ⟨8, x, List.replicate (cdiv x.length 32) (some 0)⟩ ⟨8, y, List.replicate (cdiv y.length 32) (some 0)⟩

/-- R244, table of weight and activation pairs. -/
def pairAllowed (w a : Nat) : Bool :=
  match w with
  | 1 => a == 1 || a == 4 || a == 5
  | 2 => a == 2 || a == 4 || a == 5
  | 3 => a == 3 || a == 4 || a == 5
  | 4 => a == 4 || a == 5
  | 5 => a == 4 || a == 5
  | 6 => a == 6 || a == 7
  | 7 => a == 6 || a == 7
  | 8 => a == 8
  | _ => false

/-! ## Softmax, partials and merge -/

/-- Maximum of a list of FP32 values (−infinity when empty). -/
def fmaxList (x : List W32) : W32 :=
  match x with
  | [] => fNegInf
  | a :: as => as.foldl fmax a

/-- R249: softmax. -/
def softmax (x : List W32) : List W32 :=
  let m := fmaxList x
  let e := x.map fun v => fexp (fsub v m)
  let s := freduce e
  e.map fun v => fdiv v s

/-- An attention partial (R215, R250): running maximum, sum, weighted values and admitted positions. -/
structure Partial where
  m : W32
  l : W32
  o : List W32
  counted : Nat
  deriving DecidableEq, Repr

/-- R215, R334: the empty partial. -/
def emptyPartial (d : Nat) : Partial := ⟨fNegInf, 0, List.replicate d 0, 0⟩

/-- R250: one admitted position with score `s` and stored value vector `v`. -/
def partialStep (p : Partial) (s : W32) (v : List W32) : Partial :=
  let q : Partial :=
    if fgt s p.m then
      let a := fexp (fsub p.m s)
      ⟨s, fmul p.l a, p.o.map fun x => fmul x a, p.counted⟩
    else p
  let e := fexp (fsub s q.m)
  ⟨q.m, fadd q.l e, q.o.zipWith (fun o x => fma e x o) v, q.counted + 1⟩

/-- R216: the BLOCK_MASS value of one frame for a list of heads: scores of each head over the frame's admitted positions, heads ascending. -/
def blockMass (scores : List (List W32)) (ms : List W32) : W32 :=
  freduce (scores.zipWith (fun ss m => ss.foldl (fun t s => fadd t (fexp (fsub s m))) 0) ms)

/-- R334: merge of two partials, `a` covering lower block numbers. -/
def mergePartial (a b : Partial) : Partial :=
  if b.m = fNegInf then a
  else if a.m = fNegInf then b
  else
    let m := fmax a.m b.m
    let fa := fexp (fsub a.m m)
    let fb := fexp (fsub b.m m)
    ⟨m, fma a.l fa (fmul b.l fb), a.o.zipWith (fun x y => fma x fa (fmul y fb)) b.o, a.counted + b.counted⟩

/-- One level of the tree of R334. -/
def mergeLevel : List Partial → List Partial
  | a :: b :: rest => mergePartial a b :: mergeLevel rest
  | l => l

/-- R334: levels until one is left. -/
def mergeLevels : Nat → List Partial → List Partial
  | 0, l => l
  | k + 1, l => mergeLevels k (mergeLevel l)

/-- R334: head_result over the leaves of blocks 0 to B-1, padded to a power of two. -/
def headResult (d : Nat) (leaves : List Partial) : Partial :=
  let k := bitLen (leaves.length - 1)
  let x := leaves ++ List.replicate (2 ^ k - leaves.length) (emptyPartial d)
  nth (mergeLevels k x) 0 (emptyPartial d)

/-! ## Rotary positions, normalization, activation, routing -/

/-- R251: (cos, sin) of the rotation of position `p` for the 64-bit turn fraction `F`. -/
def ropeAngle (p F : Nat) : W32 × W32 :=
  let t := p * F % 2 ^ 64
  let j := bits t 63 52
  let r := fOfNat (bits t 51 32)
  let dl := fmul r ropeK
  let cd := fma (fmul 0xBF000000 dl) dl fOne
  let (c, s) := cosSin j
  (fma c cd (fneg (fmul s dl)), fma s cd (fmul c dl))

/-- R251: rotates one head of d elements; style 0 pairs (2i, 2i+1), style 1 pairs (i, i + d/2). -/
def rope (style p : Nat) (Fs : List Nat) (x : List W32) : List W32 :=
  let d := x.length
  let i0 := fun i => if style = 0 then 2 * i else i
  let i1 := fun i => if style = 0 then 2 * i + 1 else i + d / 2
  (List.range (d / 2)).foldl (fun y i =>
    let (cs, sn) := ropeAngle p (nth Fs i 0)
    let x0 := nth x (i0 i) 0
    let x1 := nth x (i1 i) 0
    let y := setNth y (i0 i) (fma x0 cs (fneg (fmul x1 sn)))
    setNth y (i1 i) (fma x0 sn (fmul x1 cs))) x

/-- R252: RMS normalization with gains `g`. -/
def rmsNorm (eps : W32) (x g : List W32) : List W32 :=
  let q := freduce (x.map fun v => fmul v v)
  let v := fadd (fdiv q (fOfNat x.length)) eps
  let r := fdiv fOne (fsqrt v)
  x.zipWith (fun a b => fmul (fmul a r) b) g

/-- R252: silu. -/
def silu (z : W32) : W32 := fdiv z (fadd fOne (fexp (fneg z)))

/-- R252: the residual stream: FP32 sum converted to BF16 (held as FP32). -/
def residual (x y : List W32) : List W32 :=
  x.zipWith (fun a b => convertFrom fmtBF16 (convertTo fmtBF16 (fadd a b))) y

/-- R253: indices of the `k` largest values, ties to the lower index, largest first. -/
def topK (k : Nat) (z : List W32) : List Nat :=
  let z := z.zipIdx
  let ins := fun (l : List (W32 × Nat)) (x : W32 × Nat) =>
    l.takeWhile (fun y => !fgt x.1 y.1) ++ x :: l.dropWhile (fun y => !fgt x.1 y.1)
  ((z.foldl ins []).take k).map (·.2)

/-- R254: weights of the selected experts, in rank order. -/
def routeWeights (mode : Nat) (z : List W32) (sel : List Nat) : List W32 :=
  if mode = 0 then softmax (sel.map fun i => nth z i 0)
  else
    let p := softmax z
    sel.map fun i => nth p i 0

/-! ## Sampling -/

/-- R308: greedy choice: the lowest index that holds the maximum. -/
def argmaxLow (z : List W32) : Nat :=
  let m := fmaxList z
  (z.findIdx? fun v => feq v m).getD 0

/-- R308: candidate cut by top_p: the first count at which the running sum reaches q. -/
def cutTopP (q : W32) : Nat → W32 → List W32 → Nat
  | n, _, [] => n
  | n, c, e :: es =>
    let c := fadd c e
    if fle q c then n + 1 else cutTopP q (n + 1) c es

/-- R308: the candidate whose running sum passes r, or the last. -/
def pickCand (r : W32) : W32 → List W32 → List Nat → Nat
  | _, [], _ => 0
  | _, _, [] => 0
  | c, e :: es, i :: is =>
    let c := fadd c e
    if flt r c || is.isEmpty || es.isEmpty then i else pickCand r c es is

/-- R308: logits after mask and repetition penalty. -/
def maskedLogits (z : List W32) (mask seen : Nat → Bool) (rp : W32) : List W32 :=
  z.zipIdx.map fun (v, i) =>
    if !mask i then fNegInf
    else if !(feq rp fOne) && seen i then (if fgt v 0 then fdiv v rp else fmul v rp)
    else v

/-- R311: true when the row's values make the step end with ST_DATA_ERROR. -/
def badLogits (z : List W32) (mask seen : Nat → Bool) (rp t : W32) : Bool :=
  z.any notFinite ||
  (maskedLogits z mask seen rp).zipIdx.any fun (v, i) =>
    mask i && (notFinite v || (!(feq t 0) && notFinite (fdiv v t)))

/-- R308: sample. `u` is the draw, 0 to 16,777,215. -/
def sample (z : List W32) (mask seen : Nat → Bool) (t : W32) (k : Nat) (p rp : W32) (u : Nat) : Nat :=
  let z := maskedLogits z mask seen rp
  if feq t 0 then argmaxLow z
  else
    let z := z.map fun v => if v = fNegInf then v else fdiv v t
    let live := (z.zipIdx.filter fun x => x.1 ≠ fNegInf).length
    let cand := topK (min k live) z
    let m := nth z (nth cand 0 0) 0
    let e := cand.map fun i => fexp (fsub (nth z i 0) m)
    let n :=
      if flt p fOne then
        let s := freduce e
        cutTopP (fmul p s) 0 0 e
      else e.length
    let e := e.take n
    let r := fmul (ldexp (fOfNat u) (-24)) (freduce e)
    pickCand r 0 e (cand.take n)

/-! ## Elementwise maximum (R218, R432) -/

/-- Elementwise maximum of two rows under R238. -/
def maxRow (a b : List W32) : List W32 := a.zipWith fmax b

/-- GATHER_MAX over rows in list order; no row gives +0 elements (R432). -/
def gatherMax (n : Nat) (rows : List (List W32)) : List W32 :=
  match rows with
  | [] => List.replicate n 0
  | r :: rs => rs.foldl maxRow r

/-- Elements of a row of bytes in a format of 1, 2 or 4 bytes (6 E4M3, 8 BF16, 9 FP32). -/
def elemBytes (fmt : Nat) : Nat := if fmt = 8 then 2 else if fmt = 9 then 4 else 1

/-- Bytes of a row read as FP32 values. -/
def rowToF32 (fmt : Nat) (bs : List Byte) : List W32 :=
  (groupsOf (elemBytes fmt) bs).map fun g => convertFrom (fmtOfCode fmt) (leNat g)

/-- FP32 values written back as row bytes. -/
def rowOfF32 (fmt : Nat) (x : List W32) : List Byte :=
  x.flatMap fun v => natLe (elemBytes fmt) (convertTo (fmtOfCode fmt) v)

end Sys2Proof.Machine
end

