-- ==== Sys2Proof/Machine/Types.lean ====
section
/-! DEFINITION. The data types that commands and state share: statuses, session states, directory entries, control frames, columns, turns, mirror records and the outside's answers. -/

namespace Sys2Proof.Machine

/-- R7: status codes of completions. -/
inductive Status where
  | ok | fewer | cancelled | grammarStall | replayed
  | invalidField | unsupported | wrongState | unknownHandle | sealedSt
  | noSpace | refusedFit | budget | policed
  | tierTimeout | tierError | leaseLost
  | dataError | checkMismatch | partFailed
  | lost | fenced
  deriving DecidableEq, Repr

/-- R10: session states. -/
inductive SState where
  | free | idle | queued | running | waiting | parked | pooled | moving | lost
  deriving DecidableEq, Repr

/-- R28: a directory entry; `held` is the length of the session's router store. -/
structure Entry where
  state : SState := .free
  endReason : Nat := 0
  modelSlot : Nat := 0
  grammarId : Nat := 0
  grammarBound : Bool := false
  homeDie : Bool := false
  startWaiting : Bool := false
  cancelPending : Bool := false
  markValid : Bool := false
  prefixAttached : Bool := false
  /-- 0 none, 1 packed-state region, 2 pool window, 3 host spill buffer. -/
  imagePlace : Nat := 0
  account : Nat := 0
  ckptClass : Nat := 0
  rootFrame : Nat := 0
  nextPosition : Nat := 0
  resident : Nat := 0
  turn : Nat := 0
  step : Nat := 0
  seed : Word := 0
  markPosition : Nat := 0
  prefixHandle : Nat := 0
  privateFrames : Nat := 0
  reservedFrames : Nat := 0
  idleAge : Nat := 0
  deriving DecidableEq, Repr

/-- The outside's answer to one non-posted request (R91): data (for a swap, the old value), no completion in time, Unsupported Request or Completer Abort, or a poisoned completion. -/
inductive Ans where
  | data (bs : List Byte)
  | late
  | refused
  | poisoned
  deriving DecidableEq, Repr

/-- R92: the atomic operations that a requester may send. -/
inductive AtomicOp where
  | compareAndSwap | fetchAdd | swap
  deriving DecidableEq, Repr

/-- The answers to a command's non-posted requests, in the order the device issues them. -/
abbrev Env := List Ans

/-- A descriptor as fetched: its submission ring, its free-running count, its 64-bit words (R115). -/
structure Desc where
  ring : Nat
  count : Nat
  words : List Word
  deriving DecidableEq, Repr

/-- R147: what a leaf entry of a session range says of its page. -/
structure Leaf where
  frame : Nat
  cow : Bool := false
  hold : Bool := false
  shared : Bool := false
  /-- R148: ATTR.KV. -/
  kv : Bool := false
  deriving DecidableEq, Repr

/-- R319, R322: a valid column of a session. `leaves` holds one page per layer; a pooled column has none. -/
structure Column where
  slot : Nat
  pooled : Bool := false
  score : W32 := 0
  mass : W32 := 0
  leaves : List Leaf := []
  deriving DecidableEq, Repr

/-- The control frame: pending token (R290), tokenizer carry (R281), grammar record (R377), seen set (R310). -/
structure Ctl where
  pendingTok : Option Nat := none
  carryBytes : List Byte := []
  piece : List Byte := []
  /-- 0 none, 1 L, 2 N, 3 P, 4 W. -/
  pieceClass : Nat := 0
  pieceDigits : Nat := 0
  gstate : Nat := 0
  /-- Stack symbols, bottom first. -/
  stack : List Nat := []
  gdigest : Nat := 0
  /-- Ids committed in the current turn, ascending. -/
  seen : List Nat := []
  deriving DecidableEq, Repr

/-- R294: a turn in progress and its output stream. -/
structure Turn where
  desc : Desc
  maxTokens : Nat
  outBuf : Nat
  outLen : Nat
  stops : List (List Byte)
  temperature : W32
  topP : W32
  repPenalty : W32
  topK : Nat
  /-- Output bytes of every committed step of the turn, in order (R284). -/
  stream : List Byte := []
  /-- R136: offset just past the last byte delivered. -/
  byteEnd : Nat := 0
  /-- Committed steps not yet covered by a stream record (R137). -/
  uncovered : Nat := 0
  /-- `byte_end` of the last stream record written; none before the first (R297). -/
  lastRecord : Option Nat := none
  /-- R509: the turn was taken over. -/
  replayed : Bool := false
  /-- R338: DECAY_SHIFT as it stood at the turn's start. -/
  decay : Nat := 3
  deriving DecidableEq, Repr

/-- R38: the turn mark. -/
structure Mark where
  nextPosition : Nat
  resident : Nat
  ctl : Ctl
  startWaiting : Bool
  /-- The open column, its number and its leaf entries as the mark holds them. -/
  openColumn : Option (Nat × List Leaf)
  privateFrames : Nat
  /-- What the session range held: table frames, leaf tables, map pages. -/
  tables : Nat
  leafTabs : List Nat
  mapPages : List Nat
  deriving DecidableEq, Repr

/-- R304: the prefill of an APPEND: tokens still to be written, committed chunk positions, and the working copy the last chunk makes the session's own (R274). -/
structure Lane where
  desc : Desc
  green : Bool
  toks : List Nat
  /-- R59: of these, the tokens that have entered the token queue; the segment of the others keeps its place in the intake queue. -/
  ready : Nat
  done : Nat
  ctl : Ctl
  cols : Map Column
  invalid : Nat
  taken : Nat
  deriving DecidableEq, Repr

/-- A warm session: everything its session range holds. -/
structure Warm where
  ctlLeaf : Leaf
  /-- Table frames, the root frame first (R152). -/
  tables : List Nat
  /-- Leaf tables in use, by session offset / 32 MiB, in order of allocation. -/
  leafTabs : List Nat := []
  /-- R43: headroom left on each die: frames of die 0 and of die 1. -/
  room0 : Nat := 0
  room1 : Nat := 0
  mapPages : Map Leaf := []
  columns : Map Column := []
  /-- R341: map entries whose `valid` an eviction has cleared: slot, score and mass as they stand. -/
  cleared : Map Column := []
  ctl : Ctl := {}
  turn : Option Turn := none
  mark : Option Mark := none
  lane : Option Lane := none
  deriving DecidableEq, Repr

/-- R403: a sheaf index entry. `locator`: first barn frame, pool unit or spill unit. -/
structure SheafIx where
  /-- 1 barn, 2 pool window, 3 spill region. -/
  place : Nat
  die : Bool := false
  window : Nat := 0
  locator : Nat := 0
  generation : Nat := 0
  stamp : Word := 0
  /-- bytes / 256 (R403). -/
  size : Nat := 0
  deriving DecidableEq, Repr

/-- The completion fields of a descriptor (R501). -/
structure Fin0 where
  tag : Word
  sq : Nat
  opcode : Nat
  status : Status
  count0 : Nat
  count1 : Nat
  deriving DecidableEq, Repr

/-- One valid column as sent: number, slot, score, mass and the pages of its layers. -/
structure ImageCol where
  col : Nat
  slot : Nat
  pooled : Bool
  score : W32
  mass : W32
  pages : List Cells
  deriving DecidableEq, Repr

/-- The contents a session sends or records: its entry, control frame, and every valid column's number, score, mass and page bytes. -/
structure Image where
  entry : Entry
  ctl : Ctl
  mapCount : Nat
  cols : List ImageCol
  /-- R341: entries of evicted columns. -/
  cleared : Map Column := []
  deriving DecidableEq, Repr

/-- R501: mirror record bodies. -/
inductive MBody where
  /-- R495: not a mirror record: a session's copy as sent after HELLO: entry, contents of a warm one, sheaf of a parked one, index entry of a pooled one, and of a turn in progress its fields and mark. -/
  | copy (entry : Entry) (image : Option Image) (sheaf : List Byte) (ix : Option SheafIx) (turn : Option Turn)
      (mark : Option (Entry × Ctl × List ImageCol))
  /-- R313: `ends`: the end reason, when the step ends the turn. -/
  | step (ctl : Ctl) (entry : Entry) (kv : List (List Byte)) (mass : List (Nat × W32)) (turn : Option Turn) (ends : Option Nat := none)
  | chunk (first : Nat) (kv : List (List (List Byte)))
  | appendDone (ctl : Ctl) (entry : Entry) (fin : Fin0)
  | turnStart (entry : Entry) (turn : Turn) (evicted : List Nat) (ctl : Ctl)
  | turnEnd (entry : Entry) (reason : Nat) (cancelled : Bool) (fin : Fin0)
  | cancel
  | opened (entry : Entry) (image : Option Image)
  | closed (cause : Nat)
  | parked (entry : Entry) (ix : Option SheafIx)
  | revived (die : Bool) (image : Option Image)
  | done (fin : Fin0)
  deriving DecidableEq, Repr

/-- R501: a mirror record. -/
structure MirrorRec where
  die : Bool
  session : Nat
  turn : Nat
  step : Nat
  body : MBody
  deriving DecidableEq, Repr

/-- R494: what the twin says of itself in HELLO. -/
structure Hello where
  deviceNo : Nat
  stepping : Nat
  /-- Loaded slots and their model digests. -/
  slots : Map Nat
  /-- Ids that are not FREE on the twin, and those of them that are LOST. -/
  ids : List Nat
  lost : List Nat
  interval : Nat
  credits : Nat
  /-- R540: the reservation the twin holds for this device. -/
  leafT : Nat
  deriving DecidableEq, Repr

/-- R504: what a twin asks for. -/
inductive TwinReq where
  | pages (session : Nat)
  | sheaf (session : Nat)
  | tiles (slot : Nat)
  deriving DecidableEq, Repr

/-- R499: frame grant traffic. -/
inductive Grant where
  /-- The twin asks for one more block. -/
  | asked
  /-- The twin returns one block. -/
  | returned
  /-- The twin granted this device one block. -/
  | received
  /-- This device returns one block to the twin. -/
  | gaveBack
  deriving DecidableEq, Repr

/-- R488 to R506: what the control class carries; each message takes a control frame of its own (DESIGN CHOICE, log 147). -/
inductive TwinMsg where
  /-- R494. -/
  | hello (h : Hello)
  /-- R496: the sender has issued its TWIN record of kind 5. -/
  | complete
  /-- R498. -/
  | unpair
  /-- R505. -/
  | giveUp
  /-- R499: frame grant traffic of a die. -/
  | grant (die : Bool) (g : Grant)
  /-- R504. -/
  | request (q : TwinReq)
  /-- R539: a reservation record of the signing key. -/
  | reservation (bs : List Byte)
  deriving DecidableEq, Repr

/-- R495, R504: what the bulk class carries: the copy of a session, the answer to a request. -/
inductive BulkItem where
  | copy (r : MirrorRec)
  | answer (q : TwinReq) (bs : List Byte)
  deriving DecidableEq, Repr

/-- R502: a piece of a mirror record: its first byte and its length. A record that finds room for all of it is one piece. -/
structure MirrorPiece where
  out : MirrorRec
  first : Nat := 0
  bytes : Nat
  deriving DecidableEq, Repr

/-- R592: the nine supply rails in the order of the power-up steps. -/
inductive Rail where
  | vaon | vio | vsram | vlogic0 | vlogic1 | vphy | vpp | vstk | vstkq
  deriving DecidableEq, Repr

/-- R565: causes of a fundamental or host reset. -/
inductive ResetCause where
  | perst | i3c | rstFundamental | thermal | hotReset | linkDisable | functionLevel | rstHost
  deriving DecidableEq, Repr

/-- R466: a word as its consumer fetches it again, with its two parity bits. -/
structure Fetched where
  word : Word
  even : Bool
  odd : Bool
  deriving DecidableEq, Repr

/-- R467: where a parity error was found. -/
inductive ParityPlace where
  | coreQueue | clusterSwitch | regionSwitch | dieBridge | coreStoreClean | coreStoreComputed
  | loftBacked | loftDirectory | loftHostMapping
  deriving DecidableEq, Repr

/-- R213: the outcome a bank-pair unit reports. -/
inductive UnitOutcome where
  | done | checkFailure | unitFault
  deriving DecidableEq, Repr

/-- R413: a vector record in its list. -/
structure VecRec where
  vid : Nat
  live : Bool
  norm2 : W32
  attr : Nat
  /-- Element encodings. -/
  elems : List Nat
  /-- Its check block fails (R217). -/
  bad : Bool := false
  deriving DecidableEq, Repr

/-- Who waits for a bank-unit command: nobody, a session's row of a die's step, or the job of a ring's descriptor. -/
inductive Owner where
  | nobody
  | step (die : Bool) (session : Nat)
  | job (ring : Nat)
  deriving DecidableEq, Repr

/-- R217: the operands of a DIST_SCAN: metric, element format, query as BF16 encodings, `kl`, probe rank, list position of the first record, and the records of its frames as the list stood when the search read its table entry (R423). -/
structure ScanOp where
  /-- The index and the list that it scans. -/
  index : Nat
  list : Nat
  metric : Nat
  format : Nat
  query : List Nat
  kl : Nat
  rank : Nat
  first : Nat
  recs : List VecRec
  deriving DecidableEq, Repr

/-- R218: the operands of a GATHER_MAX: the table, the bag it serves, its rows, and their bytes when they were staged (R433). -/
structure GatherOp where
  table : Nat
  bag : Nat
  rows : List Nat
  staged : List (List Byte)
  deriving DecidableEq, Repr

/-- R219: the operands of a FILL: of host-managed frames, with pattern, die, key of the mapping and first frame within it; or, with `test`, of eight frames of the pair that is being repaired (R235). -/
structure FillOp where
  pattern : Word
  die : Bool
  page : Nat
  first : Nat
  test : Bool := false
  deriving DecidableEq, Repr

/-- R214, R329: the operands of a SCORE_PARTIAL: layer, block, a position mask for each frame, the query vectors of the query heads after rotation as BF16 encodings, and MASS. -/
structure ScoreOp where
  layer : Nat
  block : Nat
  masks : List Nat
  queries : List (List Nat)
  mass : Bool
  /-- The image's slot, the position of the row, and the columns of the block. -/
  slot : Nat
  pos : Nat
  cols : List Nat
  /-- R188: the row's own position, as this step writes it, when the block holds it. -/
  own : Option (List Byte) := none
  /-- R330: of a pooled block, the pages of its columns in the layer, as staged. -/
  staged : List Cells := []
  deriving DecidableEq, Repr

/-- R213: the four commands. -/
inductive UnitOp where
  | score (o : ScoreOp)
  | scan (o : ScanOp)
  | gather (o : GatherOp)
  | fill (o : FillOp)
  deriving DecidableEq, Repr

/-- R213: a bank-unit command as queued. -/
structure BankCmd where
  op : UnitOp
  /-- The session frames it reaches; none for objects, whose frames the model does not list. -/
  frames : List Nat := []
  /-- n of R213, or r for GATHER_MAX. -/
  n : Nat
  /-- Bytes of one of the n units: 65,536, or the row width. -/
  w : Nat := 65536
  owner : Owner := .nobody
  /-- Places of the partial queue that its result takes. -/
  parts : Nat := 1
  /-- R232: the unit reported a fault, and the second try is due. -/
  faulted : Bool := false
  /-- R224, R228: it issued in doubled refresh mode. -/
  doubled : Bool := false
  /-- R328, R330: staging frames of the pair that it attends; they are taken at its issue. -/
  stage : Nat := 0
  /-- R330: the pooled pages that those frames hold, which the rows of a step share: prefix handle, layer, block. -/
  pages : Option (Nat × Nat × Nat) := none
  deriving DecidableEq, Repr

/-- R484: where in the design a fault lies. -/
structure Where where
  level : Nat := 0
  region : Nat := 0
  cluster : Nat := 0
  core : Nat := 0
  stack : Nat := 0
  pair : Nat := 0
  deriving DecidableEq, Repr

/-- R482: a unit whose errors are counted. -/
inductive UnitId where
  | core (die : Bool) (region cluster core : Nat)
  | loftFrame (die : Bool) (frame : Nat)
  | bankPair (stack pair : Nat)
  deriving DecidableEq, Repr

/-- What the boot finds (R535 to R540): the measured parts, whether images verify, and flash contents. -/
structure BootInfo where
  imageAOk : Bool
  imageBOk : Bool
  die1Ok : Bool
  /-- SHA-256 inputs of MR0 to MR4, in order. -/
  parts : List (List Byte)
  fwVersions : List Nat
  tenantEpoch : Nat
  leafF : Nat
  logSeq : Nat
  deriving DecidableEq, Repr

end Sys2Proof.Machine
end

