-- ==== Sys2Proof/Syntax.lean ====
section
/-! DEFINITION. The commands of the block: one constructor per row of spec/opcode_table.json, with the operands that a row's rule gives it. Descriptor opcodes carry the fetched descriptor and the outside's answers to the requests that carrying it out issues. -/

namespace Sys2Proof

open Machine

/-- The commands. `d` is a descriptor (R115); `env` the answers to non-posted requests, in the order of issue (R91). Dies are Booleans, false for die 0. -/
inductive Instr where
  /-- R120. -/
  | nop (d : Desc)
  /-- R127. -/
  | fence (d : Desc)
  /-- R169. -/
  | xltMap (d : Desc)
  /-- R171. -/
  | xltUnmap (d : Desc)
  /-- R184. -/
  | tileCopy (d : Desc) (env : Env)
  /-- R33. -/
  | sessOpen (d : Desc) (env : Env)
  /-- R19. -/
  | sessClose (d : Desc) (env : Env)
  /-- R35. -/
  | sessQuery (d : Desc)
  /-- R273. -/
  | append (d : Desc) (env : Env)
  /-- R295. -/
  | turnRun (d : Desc) (env : Env)
  /-- R17. -/
  | turnCancel (d : Desc)
  /-- R393. -/
  | park (d : Desc) (env : Env)
  /-- R394. -/
  | revive (d : Desc) (env : Env)
  /-- R407. -/
  | handoverOut (d : Desc) (env : Env)
  /-- R406. -/
  | handoverIn (d : Desc) (env : Env)
  /-- R354. -/
  | prefixRegister (d : Desc) (env : Env)
  /-- R365. -/
  | prefixRelease (d : Desc) (env : Env)
  /-- R374. -/
  | grammarLoad (d : Desc) (env : Env)
  /-- R376. -/
  | grammarUnload (d : Desc)
  /-- R270. -/
  | vocabLoad (d : Desc) (env : Env)
  /-- R271. -/
  | vocabUnload (d : Desc)
  /-- R263. -/
  | modelLoad (d : Desc) (env : Env)
  /-- R265. -/
  | modelUnload (d : Desc) (env : Env)
  /-- R428. -/
  | indexCreate (d : Desc) (env : Env)
  /-- R429. -/
  | indexDestroy (d : Desc)
  /-- R418. -/
  | vecInsert (d : Desc) (env : Env)
  /-- R421. -/
  | vecDelete (d : Desc) (env : Env)
  /-- R422. -/
  | indexCompact (d : Desc)
  /-- R426. -/
  | search (d : Desc) (env : Env)
  /-- R438. -/
  | tableLoad (d : Desc) (env : Env)
  /-- R438. -/
  | tableUnload (d : Desc)
  /-- R436. -/
  | rowReplace (d : Desc) (env : Env)
  /-- R432. -/
  | rowPool (d : Desc) (env : Env)
  /-- R437. -/
  | rowUpdate (d : Desc) (env : Env)
  /-- R457. -/
  | accountSet (d : Desc)
  /-- R457. -/
  | accountDelete (d : Desc)
  /-- R458. -/
  | bucketSet (d : Desc)
  /-- R458. -/
  | meterSet (d : Desc)
  /-- R520. -/
  | ckptClassSet (d : Desc) (env : Env)
  /-- R517. -/
  | ckptStart (d : Desc)
  /-- R530. -/
  | restore (d : Desc) (env : Env)
  /-- R101: a discovery request for an index. -/
  | doeDiscovery (index : Nat)
  /-- R543: the request body. -/
  | quote (body : List Byte)
  /-- R542: the request body. -/
  | cert (body : List Byte)
  /-- R542: the request body. -/
  | kemKey (body : List Byte)
  /-- R545: the request body. -/
  | keyLoad (body : List Byte)
  /-- R546: the request body. -/
  | keyDestroy (body : List Byte)
  /-- R109: a create command for a kind and an id. -/
  | ringCreate (kind id : Nat)
  /-- R600: a destroy command for a kind and an id. -/
  | ringDestroy (kind id : Nat)
  /-- R113, R114. -/
  | ringDestroyDone
  /-- R122: a write of `size` bytes at +0x0 of doorbell page `n`. -/
  | submissionTailWrite (n size : Nat) (value : Word)
  /-- R92, R94: an AtomicOp of 64 (`wide` false) or 128 bits at +`off` of page `n` of a BAR (doorbell pages lie in BAR2). -/
  | doorbellCompareAndSwap (op : AtomicOp) (bar n off : Nat) (wide : Bool) (compare swap : List Word)
  /-- R133: a write of `size` bytes at +0x8 of doorbell page `n`. -/
  | completionHeadWrite (n size : Nat) (value : Word)
  /-- R585: a write of `size` bytes at a byte offset 0 or 4 of RNG_STREAM_HEAD[n]. -/
  | streamHeadWrite (n off size : Nat) (value : Word)
  /-- R585: a write of `size` bytes at a byte offset 0 or 4 of RNG_EVENT_HEAD[n]. -/
  | eventHeadWrite (n off size : Nat) (value : Word)
  /-- R588: a write of 1 to HIF_SETUP.DONE. -/
  | setupDoneWrite
  /-- R588. -/
  | setupLockDone
  /-- R193: a write of `size` bytes at offset 0 or 4 of TIER_POOL_CFG[w] with EN 1, and the answer to the header read. -/
  | poolWindowEnable (w off size : Nat) (value : Word) (env : Env)
  /-- R583. -/
  | ideRequireWrite (off size : Nat) (value : Word)
  /-- R584. -/
  | linkHoldWrite (off size : Nat) (value : Word)
  /-- R494: HNG_PAIR_CFG.EN is set; true when the link trained. -/
  | pairEnable (trained : Bool)
  /-- R498: HNG_PAIR_CFG.EN is cleared. -/
  | unpair
  /-- R551. -/
  | tenantChange
  /-- R556: RTP_CMD.OP = 2, and the answer to the token read. -/
  | debugUnseal (env : Env)
  /-- R567: a host reset and its cause. -/
  | hostReset (cause : ResetCause)
  /-- R568: a fundamental reset, its cause, and whether the reloaded firmware of each die matches. -/
  | fundamentalReset (cause : ResetCause) (fwOk : Bool)
  /-- R580, R86, R87: a host read of `size` bytes at an offset of a BAR, the read-clear counters among them; `bar` 0 or 2, 8 for configuration space. -/
  | readClearCounter (bar off size : Nat)
  /-- R96: `how` 0: the vector is unmasked; 1: MSI-X Enable is set; 2: Function Mask is cleared. -/
  | msixUnmask (how vector : Nat)
  /-- R579: a write of `size` bytes at an offset (`bar` 0 or 2; 8 for configuration space). -/
  | registerWrite (bar off size : Nat) (value : Word)
  /-- R570: the always-on supply rises; what the boot finds. -/
  | powerOnReset (boot : BootInfo)
  /-- R592. -/
  | supplyGoodAssert (rail : Rail)
  /-- R593. -/
  | supplyLost (rail : Rail)
  /-- R571: PERST# released; speed, width and FLIT mode that train. -/
  | perstRelease (speed width : Nat) (flit : Bool)
  /-- R570: the coldest sensor, and for each stack whether it trains and its spare rows. -/
  | stackTraining (coldest : Int) (trains : List Bool) (spareRows : List Nat)
  /-- R576: the hottest sensor. -/
  | thermalTrip (hottest : Int)
  /-- R102: the lane that fails, and the highest speed that trains on the lanes left. -/
  | linkLaneRetrain (lane speed : Nat)
  /-- R103. -/
  | linkDown
  /-- R104. -/
  | linkReturn (speed width : Nat) (flit : Bool)
  /-- R105. -/
  | linkHoldExpiry
  /-- R107. -/
  | surpriseRemoval
  /-- R99. -/
  | ideIntegrityFailure (slot : Nat)
  /-- R201: the tier timeout of the oldest waiting request of a session (id) or, for `sequencer`, of a ring runs out. -/
  | tierTimeout (sequencer : Bool) (id : Nat)
  /-- R201. -/
  | lateCompletion (slot : Nat)
  /-- R199: the window answers; the answers to the retries. -/
  | releaseListRetry (w : Nat) (env : Env)
  /-- R125: the entries read, as one answer. -/
  | fetchVisit (ring : Nat) (answer : Ans)
  /-- R601. -/
  | descriptorRoute (ring : Nat)
  /-- R11: the session, or for `sequencer` the ring, whose next descriptor is carried out or goes on. -/
  | descriptorDispatch (sequencer : Bool) (id : Nat) (env : Env)
  /-- R301. -/
  | batchForm (die : Bool)
  /-- R312; whether the step's output text is formed (R473). -/
  | stepCommit (die : Bool) (session : Nat) (text : Bool)
  /-- R23: the faults that met the session's part of the step (R477). -/
  | stepFailed (die : Bool) (session : Nat) (faults : List Status)
  /-- R137. -/
  | streamRecordWrite (ring : Nat)
  /-- R130. -/
  | completionRecordWrite (ring : Nat)
  /-- R141. -/
  | eventRecordWrite (ring : Nat)
  /-- R135: kind 1 completion, 2 stream, 3 event. -/
  | coalesceTimerExpiry (kind ring : Nat)
  /-- R222. -/
  | bankCommandIssue (stack pair : Nat)
  /-- R215: the unit reports its outcome. -/
  | scorePartial (stack pair : Nat) (outcome : UnitOutcome)
  /-- R217. -/
  | distScan (stack pair : Nat) (outcome : UnitOutcome)
  /-- R218. -/
  | gatherMax (stack pair : Nat) (outcome : UnitOutcome)
  /-- R219. -/
  | fill (stack pair : Nat) (outcome : UnitOutcome)
  /-- R232: whether the second try faults. -/
  | unitFaultRetry (stack pair : Nat) (again : Bool)
  /-- R234. -/
  | pairDrain (stack pair : Nat)
  /-- R235: the failing rows when the fault lies in rows, of the even bank in bits [15:0], of the odd bank above; and whether both patterns read back. -/
  | pairFenceRepair (stack pair : Nat) (rows : Nat) (passes : Bool)
  /-- R165: whether every check value verifies. -/
  | frameMigration (frame : Nat) (good : Bool)
  /-- R166. -/
  | forwardSweep (die : Bool)
  /-- R227. -/
  | refreshTick (stack : Nat)
  /-- R228: the hottest and the coolest reading of the dies' maxima. -/
  | refreshModeChange (stack : Nat) (hottest : Int)
  /-- R229: package power in W, the hottest reading. -/
  | governorPeriod (die : Bool) (power : Nat) (hottest : Int)
  /-- R229: a loan arrives. -/
  | governorLoan (die : Bool) (bytes : Nat)
  /-- R54. -/
  | coreSwap (die : Bool) (region cluster core : Nat)
  /-- R55. -/
  | clusterFence (die : Bool) (region cluster : Nat)
  /-- R56. -/
  | regionFence (die : Bool) (region : Nat)
  /-- R58. -/
  | stackFence (stack : Nat)
  /-- R57. -/
  | dieLost (die : Bool)
  /-- R179. -/
  | loftFrameRetire (die : Bool) (frame : Nat)
  /-- R467: where, the word as each replay or re-read brought it; the session it belongs to, and the device physical address of the word. -/
  | parityReplay (die : Bool) (place : ParityPlace) (wh : Where) (reads : List Fetched) (session addr : Nat)
  /-- R26: cause 1 to 3 of R142. -/
  | sessionLost (session cause : Nat)
  /-- R586. -/
  | idleAgeTick (die : Bool)
  /-- R27: the answers to the park's requests. -/
  | policyPark (session : Nat) (env : Env)
  /-- R446: `n` intervals elapsed (R564). -/
  | bucketRefill (die : Bool) (n : Nat)
  /-- R453. -/
  | meterRefill (die : Bool) (n : Nat)
  /-- R479. -/
  | errorRateWindowEnd (die : Bool)
  /-- R480: one more repaired error of a class. -/
  | errorRateRecord (die : Bool) (cls : Nat)
  /-- R481. -/
  | watchTrigger (die : Bool)
  /-- R482. -/
  | unitPeriodEnd (die : Bool)
  /-- R482: one more error of a unit. -/
  | unitThresholdAction (unit : UnitId)
  /-- R483: words 1 to 3 of an entry are formed from these. -/
  | errorLogEntry (die : Bool) (cls kind severity : Nat) (host : Bool) (wh : Where) (session status opcode addr : Nat)
  /-- R516. -/
  | ckptTimerExpiry (cls : Nat)
  /-- R516. -/
  | ckptStepTrigger (cls : Nat)
  /-- R521. -/
  | ckptCut (die : Bool)
  /-- R522. -/
  | haspSet (session : Nat)
  /-- R526: the answers of the sheaf reads that copying needs. -/
  | epochWrite (session : Nat) (env : Env)
  /-- R529: the answer to the confirming read. -/
  | epochEnd (env : Env)
  /-- R517. -/
  | ckptPendingStart
  /-- R176. -/
  | hotCopyFill (die : Bool)
  /-- R490: the 512 bytes received. -/
  | twinFrameReceive (frame : List Byte)
  /-- R490: whether the twin's heartbeats arrive (R505), should the link go down. -/
  | twinFrameReplay (arriving : Bool)
  /-- R491: the lane that failed, and as above. -/
  | twinLaneSpare (lane : Nat) (arriving : Bool)
  /-- R491: the lanes whose check fails, and as above. -/
  | eyeCheck (bad : List Nat) (arriving : Bool)
  /-- R492. -/
  | heartbeatSend
  /-- R505: the answers of the witness read and swap. -/
  | heartbeatSilence (env : Env)
  /-- R494. -/
  | hello (h : Hello)
  /-- R495: the answer to the read of a sheaf that lies outside. -/
  | sessionSync (session : Nat) (env : Env)
  /-- R496: the twin has issued its TWIN record of kind 5; the answers of the witness read and swap. -/
  | twinSyncDone (twinToo : Bool) (env : Env)
  /-- R498. -/
  | unpairReceived
  /-- R505. -/
  | giveUpReceived
  /-- R506. -/
  | witnessSwap (env : Env)
  /-- R507. -/
  | takeover
  /-- R511. -/
  | takeoverRingHold
  /-- R507. -/
  | takeoverLeaseSwap (session : Nat) (env : Env)
  /-- R503: the answers that placing or reading a sheaf needs. -/
  | mirrorRecordApply (r : MirrorRec) (env : Env)
  /-- R504: the answer to the read of a sheaf that lies outside. -/
  | twinRequest (r : TwinReq) (env : Env)
  /-- R499. -/
  | frameGrant (die : Bool) (g : Grant)
  /-- R539: the 16 bytes of a record. -/
  | signingRecord (bytes : List Byte)
  /-- R560. -/
  | domainPowerOff (domain : Nat)
  /-- R562. -/
  | domainWake (domain : Nat)
  /-- R558: PLL 0 to 2 of a die. -/
  | pllLock (die : Bool) (pll : Nat)
  /-- R563. -/
  | deepIdleEntry
  /-- R563. -/
  | deepIdleWake
  /-- R99. -/
  | ideStreamSecure (slot : Nat)
  /-- R100. -/
  | ideKeySetSwitch (slot : Nat) (direction : Bool)
  /-- R91: as `tierTimeout`, for a PCIe completion timeout; for a descriptor fetch, `fetch` is true and `id` a ring. -/
  | pcieCompletionTimeout (fetch sequencer : Bool) (id : Nat)
  /-- R576: the hottest sensor. -/
  | thermalTripCooled (hottest : Int)
  deriving DecidableEq, Repr

end Sys2Proof
end

