-- ==== Sys2Proof/Decode.lean ====
section
/-! DEFINITION. The opcode table gives no bits to any row, so no word spells a command. The fields of a descriptor are read in Machine/Ops.lean. -/

namespace Sys2Proof

/-- The command that a word of the table spells: none, since every row has neither fixed bits nor fields. -/
def decodeTableWord (_nbits _w : Nat) : Option Instr := none

end Sys2Proof
end

