-- ==== Sys2Proof/Machine/Hash.lean ====
section
/-! DEFINITION. CRC-32C (R469), SHA-256 (R267, R375, R537) and the mixing function of the sampling generator (R309). -/

namespace Sys2Proof.Machine

/-- One bit step of CRC-32C, reflected polynomial 0x82F6_3B78 (R469). -/
def crcBit (c : W32) : W32 :=
  if c &&& 1 = 1 then (c >>> 1) ^^^ 0x82F63B78 else c >>> 1

/-- Eight bit steps over one byte. -/
def crcByte (c : W32) (b : Byte) : W32 :=
  let c := c ^^^ b.setWidth 32
  crcBit (crcBit (crcBit (crcBit (crcBit (crcBit (crcBit (crcBit c)))))))

/-- R469: CRC-32C with initial value and final XOR 0xFFFF_FFFF. -/
def crc32c (bs : List Byte) : W32 := (bs.foldl crcByte 0xFFFFFFFF) ^^^ 0xFFFFFFFF

/-- R469: the check value of a block of up to 256 bytes, padded with zeros. -/
def blockCheck (bs : List Byte) : W32 := crc32c (bytesAt bs 0 256)

/-- The check values of every 256 B block of a byte string, in block order. -/
def checkArray (bs : List Byte) : List Byte :=
  (List.range (cdiv bs.length 256)).flatMap fun i =>
    natLe 4 (blockCheck (bs.drop (256 * i))).toNat

/-! ## SHA-256

The spec names SHA-256 and leaves its definition to FIPS 180-4 (log 145). -/

/-- `acc` grown by the highest of the `bits` low bits that keep its `k`-th power at most `n`. -/
def rootFrom (k n : Nat) : Nat → Nat → Nat
  | 0, acc => acc
  | bits + 1, acc => rootFrom k n bits (if (acc + 2 ^ bits) ^ k ≤ n then acc + 2 ^ bits else acc)

/-- The first 32 fractional bits of the `k`-th root of a number under 512. -/
def rootFraction (k p : Nat) : W32 := BitVec.ofNat 32 (rootFrom k (p * 2 ^ (32 * k)) 37 0)

/-- The primes up to 311, the first 64. -/
def shaPrimes : List Nat :=
  (List.range 312).filter fun n => 2 ≤ n && (List.range 18).all fun q => q < 2 || n % q != 0 || n == q

/-- The 64 round words, out of the primes' cube roots. -/
def shaRoundWords : List W32 := shaPrimes.map (rootFraction 3)

/-- A compression under way, newest word first in both chains: the working words a to d are the last
four values of one chain and e to h those of the other.  The window holds the schedule's next 16 words. -/
structure ShaRun where
  upper  : List W32
  lower  : List W32
  window : List W32
  deriving DecidableEq, Repr

/-- The word turned right by each of the amounts, added without carry to `base`. -/
def turned (base x : W32) (amounts : List Nat) : W32 :=
  amounts.foldl (fun y r => y ^^^ x.rotateRight r) base

/-- One round with the round word `k`: both chains grow by a word and the window moves on by one. -/
def ShaRun.advance (r : ShaRun) (k : W32) : ShaRun :=
  let hi := fun i => nth r.upper i 0
  let lo := fun i => nth r.lower i 0
  let win := fun i => nth r.window i 0
  let choice := lo 2 ^^^ (lo 0 &&& (lo 1 ^^^ lo 2))
  let feed := k + win 0 + lo 3 + choice + turned 0 (lo 0) [6, 11, 25]
  let most := (hi 0 &&& hi 1) ||| (hi 2 &&& (hi 0 ||| hi 1))
  let next := win 0 + win 9 + turned (win 1 >>> 3) (win 1) [7, 18] + turned (win 14 >>> 10) (win 14) [17, 19]
  { upper := (feed + most + turned 0 (hi 0) [2, 13, 22]) :: r.upper.take 3,
    lower := (feed + hi 3) :: r.lower.take 3,
    window := r.window.drop 1 ++ [next] }

/-- The eight words of the hash, after one more block of 64 bytes. -/
def shaAbsorb (hash : List W32) (block : List Byte) : List W32 :=
  let words := (List.range 16).map fun i => BitVec.ofNat 32 (leNat (bytesAt block (4 * i) 4).reverse)
  let r := shaRoundWords.foldl ShaRun.advance ⟨hash.take 4, hash.drop 4, words⟩
  List.zipWith (· + ·) hash (r.upper ++ r.lower)

/-- The padded message: a one bit, zeros, and the length in bits as the last 8 of a multiple of 64 bytes. -/
def shaPadded (bs : List Byte) : List Byte :=
  let whole := 64 * cdiv (bs.length + 9) 64
  bytesAt (bs ++ [0x80]) 0 (whole - 8) ++ (natLe 8 (8 * bs.length)).reverse

/-- SHA-256 of a byte string, 32 bytes. -/
def sha256 (bs : List Byte) : List Byte :=
  let m := shaPadded bs
  let start := (shaPrimes.take 8).map (rootFraction 2)
  let final := (List.range (m.length / 64)).foldl (fun x _ => (shaAbsorb x.1 (x.2.take 64), x.2.drop 64)) (start, m)
  (List.range 8).flatMap fun i => (natLe 4 (nth final.1 i 0).toNat).reverse

/-- R267, R375, R396: the first 8 bytes of a SHA-256, read little-endian. -/
def digest8 (bs : List Byte) : Nat := leNat ((sha256 bs).take 8)

/-! ## The generator of R309 -/

/-- R309: mix, modulo 2^64 with logical shifts. -/
def mix (x : Word) : Word :=
  let x := (x ^^^ (x >>> 30)) * 0xBF58476D1CE4E5B9
  let x := (x ^^^ (x >>> 27)) * 0x94D049BB133111EB
  x ^^^ (x >>> 31)

/-- R309: draw(seed, turn, step), 0 to 16,777,215. -/
def draw (seed : Word) (turn step : Nat) : Nat :=
  let k := mix (seed + 0x9E3779B97F4A7C15)
  let c : Word := BitVec.ofNat 64 (turn * 2 ^ 24 + step)
  (mix (k ^^^ mix (c + 0x6A09E667F3BCC909)) >>> 40).toNat

/-- R466: the two parity bits of a word, even-numbered bits then odd-numbered bits. -/
def parityBits (w : Word) : Bool × Bool :=
  let par := fun r => (List.range 32).foldl (fun p i => p ^^ w.getLsbD (2 * i + r)) false
  (par 0, par 1)

end Sys2Proof.Machine
end

