-- ==== Sys2Proof/Machine/Unicode.lean ====
section
/-! DEFINITION. The pre-split classes of code points (09_text, Pre-splitting): ranges of the Unicode 15.1 general categories. PRESUMED: the spec names the Unicode standard and does not print it. -/

namespace Sys2Proof.Machine

/-- Ranges from U+0009 to U+03A1: first, last, class. -/
def uniRanges0 : List (Nat × Nat × Nat) :=
  [(9,13,4),(32,32,4),(33,47,3),(48,57,2),(58,64,3),(65,90,1),(91,96,3),(97,122,1),(123,126,3),(160,160,4),
    (161,169,3),(170,170,1),(171,172,3),(174,177,3),(178,179,2),(180,180,3),(181,181,1),(182,184,3),(185,185,2),
    (186,186,1),(187,187,3),(188,190,2),(191,191,3),(192,214,1),(215,215,3),(216,246,1),(247,247,3),(248,705,1),
    (706,709,3),(710,721,1),(722,735,3),(736,740,1),(741,747,3),(748,748,1),(749,749,3),(750,750,1),(751,767,3),
    (768,879,5),(880,884,1),(885,885,3),(886,887,1),(890,893,1),(894,894,3),(895,895,1),(900,901,3),(902,902,1),
    (903,903,3),(904,906,1),(908,908,1),(910,929,1)]

/-- Ranges from U+03A3 to U+070D: first, last, class. -/
def uniRanges1 : List (Nat × Nat × Nat) :=
  [(931,1013,1),(1014,1014,3),(1015,1153,1),(1154,1154,3),(1155,1161,5),(1162,1327,1),(1329,1366,1),(1369,1369,1),
    (1370,1375,3),(1376,1416,1),(1417,1418,3),(1421,1423,3),(1425,1469,5),(1470,1470,3),(1471,1471,5),(1472,1472,3),
    (1473,1474,5),(1475,1475,3),(1476,1477,5),(1478,1478,3),(1479,1479,5),(1488,1514,1),(1519,1522,1),(1523,1524,3),
    (1542,1551,3),(1552,1562,5),(1563,1563,3),(1565,1567,3),(1568,1610,1),(1611,1631,5),(1632,1641,2),(1642,1645,3),
    (1646,1647,1),(1648,1648,5),(1649,1747,1),(1748,1748,3),(1749,1749,1),(1750,1756,5),(1758,1758,3),(1759,1764,5),
    (1765,1766,1),(1767,1768,5),(1769,1769,3),(1770,1773,5),(1774,1775,1),(1776,1785,2),(1786,1788,1),(1789,1790,3),
    (1791,1791,1),(1792,1805,3)]

/-- Ranges from U+0710 to U+0990: first, last, class. -/
def uniRanges2 : List (Nat × Nat × Nat) :=
  [(1808,1808,1),(1809,1809,5),(1810,1839,1),(1840,1866,5),(1869,1957,1),(1958,1968,5),(1969,1969,1),(1984,1993,2),
    (1994,2026,1),(2027,2035,5),(2036,2037,1),(2038,2041,3),(2042,2042,1),(2045,2045,5),(2046,2047,3),(2048,2069,1),
    (2070,2073,5),(2074,2074,1),(2075,2083,5),(2084,2084,1),(2085,2087,5),(2088,2088,1),(2089,2093,5),(2096,2110,3),
    (2112,2136,1),(2137,2139,5),(2142,2142,3),(2144,2154,1),(2160,2183,1),(2184,2184,3),(2185,2190,1),(2200,2207,5),
    (2208,2249,1),(2250,2273,5),(2275,2307,5),(2308,2361,1),(2362,2364,5),(2365,2365,1),(2366,2383,5),(2384,2384,1),
    (2385,2391,5),(2392,2401,1),(2402,2403,5),(2404,2405,3),(2406,2415,2),(2416,2416,3),(2417,2432,1),(2433,2435,5),
    (2437,2444,1),(2447,2448,1)]

/-- Ranges from U+0993 to U+0ABC: first, last, class. -/
def uniRanges3 : List (Nat × Nat × Nat) :=
  [(2451,2472,1),(2474,2480,1),(2482,2482,1),(2486,2489,1),(2492,2492,5),(2493,2493,1),(2494,2500,5),(2503,2504,5),
    (2507,2509,5),(2510,2510,1),(2519,2519,5),(2524,2525,1),(2527,2529,1),(2530,2531,5),(2534,2543,2),(2544,2545,1),
    (2546,2547,3),(2548,2553,2),(2554,2555,3),(2556,2556,1),(2557,2557,3),(2558,2558,5),(2561,2563,5),(2565,2570,1),
    (2575,2576,1),(2579,2600,1),(2602,2608,1),(2610,2611,1),(2613,2614,1),(2616,2617,1),(2620,2620,5),(2622,2626,5),
    (2631,2632,5),(2635,2637,5),(2641,2641,5),(2649,2652,1),(2654,2654,1),(2662,2671,2),(2672,2673,5),(2674,2676,1),
    (2677,2677,5),(2678,2678,3),(2689,2691,5),(2693,2701,1),(2703,2705,1),(2707,2728,1),(2730,2736,1),(2738,2739,1),
    (2741,2745,1),(2748,2748,5)]

/-- Ranges from U+0ABD to U+0C04: first, last, class. -/
def uniRanges4 : List (Nat × Nat × Nat) :=
  [(2749,2749,1),(2750,2757,5),(2759,2761,5),(2763,2765,5),(2768,2768,1),(2784,2785,1),(2786,2787,5),(2790,2799,2),
    (2800,2801,3),(2809,2809,1),(2810,2815,5),(2817,2819,5),(2821,2828,1),(2831,2832,1),(2835,2856,1),(2858,2864,1),
    (2866,2867,1),(2869,2873,1),(2876,2876,5),(2877,2877,1),(2878,2884,5),(2887,2888,5),(2891,2893,5),(2901,2903,5),
    (2908,2909,1),(2911,2913,1),(2914,2915,5),(2918,2927,2),(2928,2928,3),(2929,2929,1),(2930,2935,2),(2946,2946,5),
    (2947,2947,1),(2949,2954,1),(2958,2960,1),(2962,2965,1),(2969,2970,1),(2972,2972,1),(2974,2975,1),(2979,2980,1),
    (2984,2986,1),(2990,3001,1),(3006,3010,5),(3014,3016,5),(3018,3021,5),(3024,3024,1),(3031,3031,5),(3046,3058,2),
    (3059,3066,3),(3072,3076,5)]

/-- Ranges from U+0C05 to U+0D56: first, last, class. -/
def uniRanges5 : List (Nat × Nat × Nat) :=
  [(3077,3084,1),(3086,3088,1),(3090,3112,1),(3114,3129,1),(3132,3132,5),(3133,3133,1),(3134,3140,5),(3142,3144,5),
    (3146,3149,5),(3157,3158,5),(3160,3162,1),(3165,3165,1),(3168,3169,1),(3170,3171,5),(3174,3183,2),(3191,3191,3),
    (3192,3198,2),(3199,3199,3),(3200,3200,1),(3201,3203,5),(3204,3204,3),(3205,3212,1),(3214,3216,1),(3218,3240,1),
    (3242,3251,1),(3253,3257,1),(3260,3260,5),(3261,3261,1),(3262,3268,5),(3270,3272,5),(3274,3277,5),(3285,3286,5),
    (3293,3294,1),(3296,3297,1),(3298,3299,5),(3302,3311,2),(3313,3314,1),(3315,3315,5),(3328,3331,5),(3332,3340,1),
    (3342,3344,1),(3346,3386,1),(3387,3388,5),(3389,3389,1),(3390,3396,5),(3398,3400,5),(3402,3405,5),(3406,3406,1),
    (3407,3407,3),(3412,3414,1)]

/-- Ranges from U+0D57 to U+0F33: first, last, class. -/
def uniRanges6 : List (Nat × Nat × Nat) :=
  [(3415,3415,5),(3416,3422,2),(3423,3425,1),(3426,3427,5),(3430,3448,2),(3449,3449,3),(3450,3455,1),(3457,3459,5),
    (3461,3478,1),(3482,3505,1),(3507,3515,1),(3517,3517,1),(3520,3526,1),(3530,3530,5),(3535,3540,5),(3542,3542,5),
    (3544,3551,5),(3558,3567,2),(3570,3571,5),(3572,3572,3),(3585,3632,1),(3633,3633,5),(3634,3635,1),(3636,3642,5),
    (3647,3647,3),(3648,3654,1),(3655,3662,5),(3663,3663,3),(3664,3673,2),(3674,3675,3),(3713,3714,1),(3716,3716,1),
    (3718,3722,1),(3724,3747,1),(3749,3749,1),(3751,3760,1),(3761,3761,5),(3762,3763,1),(3764,3772,5),(3773,3773,1),
    (3776,3780,1),(3782,3782,1),(3784,3790,5),(3792,3801,2),(3804,3807,1),(3840,3840,1),(3841,3863,3),(3864,3865,5),
    (3866,3871,3),(3872,3891,2)]

/-- Ranges from U+0F34 to U+1256: first, last, class. -/
def uniRanges7 : List (Nat × Nat × Nat) :=
  [(3892,3892,3),(3893,3893,5),(3894,3894,3),(3895,3895,5),(3896,3896,3),(3897,3897,5),(3898,3901,3),(3902,3903,5),
    (3904,3911,1),(3913,3948,1),(3953,3972,5),(3973,3973,3),(3974,3975,5),(3976,3980,1),(3981,3991,5),(3993,4028,5),
    (4030,4037,3),(4038,4038,5),(4039,4044,3),(4046,4058,3),(4096,4138,1),(4139,4158,5),(4159,4159,1),(4160,4169,2),
    (4170,4175,3),(4176,4181,1),(4182,4185,5),(4186,4189,1),(4190,4192,5),(4193,4193,1),(4194,4196,5),(4197,4198,1),
    (4199,4205,5),(4206,4208,1),(4209,4212,5),(4213,4225,1),(4226,4237,5),(4238,4238,1),(4239,4239,5),(4240,4249,2),
    (4250,4253,5),(4254,4255,3),(4256,4293,1),(4295,4295,1),(4301,4301,1),(4304,4346,1),(4347,4347,3),(4348,4680,1),
    (4682,4685,1),(4688,4694,1)]

/-- Ranges from U+1258 to U+17F9: first, last, class. -/
def uniRanges8 : List (Nat × Nat × Nat) :=
  [(4696,4696,1),(4698,4701,1),(4704,4744,1),(4746,4749,1),(4752,4784,1),(4786,4789,1),(4792,4798,1),(4800,4800,1),
    (4802,4805,1),(4808,4822,1),(4824,4880,1),(4882,4885,1),(4888,4954,1),(4957,4959,5),(4960,4968,3),(4969,4988,2),
    (4992,5007,1),(5008,5017,3),(5024,5109,1),(5112,5117,1),(5120,5120,3),(5121,5740,1),(5741,5742,3),(5743,5759,1),
    (5760,5760,4),(5761,5786,1),(5787,5788,3),(5792,5866,1),(5867,5869,3),(5870,5872,2),(5873,5880,1),(5888,5905,1),
    (5906,5909,5),(5919,5937,1),(5938,5940,5),(5941,5942,3),(5952,5969,1),(5970,5971,5),(5984,5996,1),(5998,6000,1),
    (6002,6003,5),(6016,6067,1),(6068,6099,5),(6100,6102,3),(6103,6103,1),(6104,6107,3),(6108,6108,1),(6109,6109,5),
    (6112,6121,2),(6128,6137,2)]

/-- Ranges from U+1800 to U+1BE5: first, last, class. -/
def uniRanges9 : List (Nat × Nat × Nat) :=
  [(6144,6154,3),(6155,6157,5),(6159,6159,5),(6160,6169,2),(6176,6264,1),(6272,6276,1),(6277,6278,5),(6279,6312,1),
    (6313,6313,5),(6314,6314,1),(6320,6389,1),(6400,6430,1),(6432,6443,5),(6448,6459,5),(6464,6464,3),(6468,6469,3),
    (6470,6479,2),(6480,6509,1),(6512,6516,1),(6528,6571,1),(6576,6601,1),(6608,6618,2),(6622,6655,3),(6656,6678,1),
    (6679,6683,5),(6686,6687,3),(6688,6740,1),(6741,6750,5),(6752,6780,5),(6783,6783,5),(6784,6793,2),(6800,6809,2),
    (6816,6822,3),(6823,6823,1),(6824,6829,3),(6832,6862,5),(6912,6916,5),(6917,6963,1),(6964,6980,5),(6981,6988,1),
    (6992,7001,2),(7002,7018,3),(7019,7027,5),(7028,7038,3),(7040,7042,5),(7043,7072,1),(7073,7085,5),(7086,7087,1),
    (7088,7097,2),(7098,7141,1)]

/-- Ranges from U+1BE6 to U+1FFC: first, last, class. -/
def uniRanges10 : List (Nat × Nat × Nat) :=
  [(7142,7155,5),(7164,7167,3),(7168,7203,1),(7204,7223,5),(7227,7231,3),(7232,7241,2),(7245,7247,1),(7248,7257,2),
    (7258,7293,1),(7294,7295,3),(7296,7304,1),(7312,7354,1),(7357,7359,1),(7360,7367,3),(7376,7378,5),(7379,7379,3),
    (7380,7400,5),(7401,7404,1),(7405,7405,5),(7406,7411,1),(7412,7412,5),(7413,7414,1),(7415,7417,5),(7418,7418,1),
    (7424,7615,1),(7616,7679,5),(7680,7957,1),(7960,7965,1),(7968,8005,1),(8008,8013,1),(8016,8023,1),(8025,8025,1),
    (8027,8027,1),(8029,8029,1),(8031,8061,1),(8064,8116,1),(8118,8124,1),(8125,8125,3),(8126,8126,1),(8127,8129,3),
    (8130,8132,1),(8134,8140,1),(8141,8143,3),(8144,8147,1),(8150,8155,1),(8157,8159,3),(8160,8172,1),(8173,8175,3),
    (8178,8180,1),(8182,8188,1)]

/-- Ranges from U+1FFD to U+244A: first, last, class. -/
def uniRanges11 : List (Nat × Nat × Nat) :=
  [(8189,8190,3),(8192,8202,4),(8208,8231,3),(8232,8233,4),(8239,8239,4),(8240,8286,3),(8287,8287,4),(8304,8304,2),
    (8305,8305,1),(8308,8313,2),(8314,8318,3),(8319,8319,1),(8320,8329,2),(8330,8334,3),(8336,8348,1),(8352,8384,3),
    (8400,8432,5),(8448,8449,3),(8450,8450,1),(8451,8454,3),(8455,8455,1),(8456,8457,3),(8458,8467,1),(8468,8468,3),
    (8469,8469,1),(8470,8472,3),(8473,8477,1),(8478,8483,3),(8484,8484,1),(8485,8485,3),(8486,8486,1),(8487,8487,3),
    (8488,8488,1),(8489,8489,3),(8490,8493,1),(8494,8494,3),(8495,8505,1),(8506,8507,3),(8508,8511,1),(8512,8516,3),
    (8517,8521,1),(8522,8525,3),(8526,8526,1),(8527,8527,3),(8528,8578,2),(8579,8580,1),(8581,8585,2),(8586,8587,3),
    (8592,9254,3),(9280,9290,3)]

/-- Ranges from U+2460 to U+3037: first, last, class. -/
def uniRanges12 : List (Nat × Nat × Nat) :=
  [(9312,9371,2),(9372,9449,3),(9450,9471,2),(9472,10101,3),(10102,10131,2),(10132,11123,3),(11126,11157,3),
    (11159,11263,3),(11264,11492,1),(11493,11498,3),(11499,11502,1),(11503,11505,5),(11506,11507,1),(11513,11516,3),
    (11517,11517,2),(11518,11519,3),(11520,11557,1),(11559,11559,1),(11565,11565,1),(11568,11623,1),(11631,11631,1),
    (11632,11632,3),(11647,11647,5),(11648,11670,1),(11680,11686,1),(11688,11694,1),(11696,11702,1),(11704,11710,1),
    (11712,11718,1),(11720,11726,1),(11728,11734,1),(11736,11742,1),(11744,11775,5),(11776,11822,3),(11823,11823,1),
    (11824,11869,3),(11904,11929,3),(11931,12019,3),(12032,12245,3),(12272,12287,3),(12288,12288,4),(12289,12292,3),
    (12293,12294,1),(12295,12295,2),(12296,12320,3),(12321,12329,2),(12330,12335,5),(12336,12336,3),(12337,12341,1),
    (12342,12343,3)]

/-- Ranges from U+3038 to U+A6E5: first, last, class. -/
def uniRanges13 : List (Nat × Nat × Nat) :=
  [(12344,12346,2),(12347,12348,1),(12349,12351,3),(12353,12438,1),(12441,12442,5),(12443,12444,3),(12445,12447,1),
    (12448,12448,3),(12449,12538,1),(12539,12539,3),(12540,12543,1),(12549,12591,1),(12593,12686,1),(12688,12689,3),
    (12690,12693,2),(12694,12703,3),(12704,12735,1),(12736,12771,3),(12783,12783,3),(12784,12799,1),(12800,12830,3),
    (12832,12841,2),(12842,12871,3),(12872,12879,2),(12880,12880,3),(12881,12895,2),(12896,12927,3),(12928,12937,2),
    (12938,12976,3),(12977,12991,2),(12992,13311,3),(13312,19903,1),(19904,19967,3),(19968,42124,1),(42128,42182,3),
    (42192,42237,1),(42238,42239,3),(42240,42508,1),(42509,42511,3),(42512,42527,1),(42528,42537,2),(42538,42539,1),
    (42560,42606,1),(42607,42610,5),(42611,42611,3),(42612,42621,5),(42622,42622,3),(42623,42653,1),(42654,42655,5),
    (42656,42725,1)]

/-- Ranges from U+A6E6 to U+A9CD: first, last, class. -/
def uniRanges14 : List (Nat × Nat × Nat) :=
  [(42726,42735,2),(42736,42737,5),(42738,42743,3),(42752,42774,3),(42775,42783,1),(42784,42785,3),(42786,42888,1),
    (42889,42890,3),(42891,42954,1),(42960,42961,1),(42963,42963,1),(42965,42969,1),(42994,43009,1),(43010,43010,5),
    (43011,43013,1),(43014,43014,5),(43015,43018,1),(43019,43019,5),(43020,43042,1),(43043,43047,5),(43048,43051,3),
    (43052,43052,5),(43056,43061,2),(43062,43065,3),(43072,43123,1),(43124,43127,3),(43136,43137,5),(43138,43187,1),
    (43188,43205,5),(43214,43215,3),(43216,43225,2),(43232,43249,5),(43250,43255,1),(43256,43258,3),(43259,43259,1),
    (43260,43260,3),(43261,43262,1),(43263,43263,5),(43264,43273,2),(43274,43301,1),(43302,43309,5),(43310,43311,3),
    (43312,43334,1),(43335,43347,5),(43359,43359,3),(43360,43388,1),(43392,43395,5),(43396,43442,1),(43443,43456,5),
    (43457,43469,3)]

/-- Ranges from U+A9CF to U+ABEB: first, last, class. -/
def uniRanges15 : List (Nat × Nat × Nat) :=
  [(43471,43471,1),(43472,43481,2),(43486,43487,3),(43488,43492,1),(43493,43493,5),(43494,43503,1),(43504,43513,2),
    (43514,43518,1),(43520,43560,1),(43561,43574,5),(43584,43586,1),(43587,43587,5),(43588,43595,1),(43596,43597,5),
    (43600,43609,2),(43612,43615,3),(43616,43638,1),(43639,43641,3),(43642,43642,1),(43643,43645,5),(43646,43695,1),
    (43696,43696,5),(43697,43697,1),(43698,43700,5),(43701,43702,1),(43703,43704,5),(43705,43709,1),(43710,43711,5),
    (43712,43712,1),(43713,43713,5),(43714,43714,1),(43739,43741,1),(43742,43743,3),(43744,43754,1),(43755,43759,5),
    (43760,43761,3),(43762,43764,1),(43765,43766,5),(43777,43782,1),(43785,43790,1),(43793,43798,1),(43808,43814,1),
    (43816,43822,1),(43824,43866,1),(43867,43867,3),(43868,43881,1),(43882,43883,3),(43888,44002,1),(44003,44010,5),
    (44011,44011,3)]

/-- Ranges from U+ABEC to U+FFFD: first, last, class. -/
def uniRanges16 : List (Nat × Nat × Nat) :=
  [(44012,44013,5),(44016,44025,2),(44032,55203,1),(55216,55238,1),(55243,55291,1),(63744,64109,1),(64112,64217,1),
    (64256,64262,1),(64275,64279,1),(64285,64285,1),(64286,64286,5),(64287,64296,1),(64297,64297,3),(64298,64310,1),
    (64312,64316,1),(64318,64318,1),(64320,64321,1),(64323,64324,1),(64326,64433,1),(64434,64450,3),(64467,64829,1),
    (64830,64847,3),(64848,64911,1),(64914,64967,1),(64975,64975,3),(65008,65019,1),(65020,65023,3),(65024,65039,5),
    (65040,65049,3),(65056,65071,5),(65072,65106,3),(65108,65126,3),(65128,65131,3),(65136,65140,1),(65142,65276,1),
    (65281,65295,3),(65296,65305,2),(65306,65312,3),(65313,65338,1),(65339,65344,3),(65345,65370,1),(65371,65381,3),
    (65382,65470,1),(65474,65479,1),(65482,65487,1),(65490,65495,1),(65498,65500,1),(65504,65510,3),(65512,65518,3),
    (65532,65533,3)]

/-- Ranges from U+10000 to U+105B9: first, last, class. -/
def uniRanges17 : List (Nat × Nat × Nat) :=
  [(65536,65547,1),(65549,65574,1),(65576,65594,1),(65596,65597,1),(65599,65613,1),(65616,65629,1),(65664,65786,1),
    (65792,65794,3),(65799,65843,2),(65847,65855,3),(65856,65912,2),(65913,65929,3),(65930,65931,2),(65932,65934,3),
    (65936,65948,3),(65952,65952,3),(66000,66044,3),(66045,66045,5),(66176,66204,1),(66208,66256,1),(66272,66272,5),
    (66273,66299,2),(66304,66335,1),(66336,66339,2),(66349,66368,1),(66369,66369,2),(66370,66377,1),(66378,66378,2),
    (66384,66421,1),(66422,66426,5),(66432,66461,1),(66463,66463,3),(66464,66499,1),(66504,66511,1),(66512,66512,3),
    (66513,66517,2),(66560,66717,1),(66720,66729,2),(66736,66771,1),(66776,66811,1),(66816,66855,1),(66864,66915,1),
    (66927,66927,3),(66928,66938,1),(66940,66954,1),(66956,66962,1),(66964,66965,1),(66967,66977,1),(66979,66993,1),
    (66995,67001,1)]

/-- Ranges from U+105BB to U+10AC7: first, last, class. -/
def uniRanges18 : List (Nat × Nat × Nat) :=
  [(67003,67004,1),(67072,67382,1),(67392,67413,1),(67424,67431,1),(67456,67461,1),(67463,67504,1),(67506,67514,1),
    (67584,67589,1),(67592,67592,1),(67594,67637,1),(67639,67640,1),(67644,67644,1),(67647,67669,1),(67671,67671,3),
    (67672,67679,2),(67680,67702,1),(67703,67704,3),(67705,67711,2),(67712,67742,1),(67751,67759,2),(67808,67826,1),
    (67828,67829,1),(67835,67839,2),(67840,67861,1),(67862,67867,2),(67871,67871,3),(67872,67897,1),(67903,67903,3),
    (67968,68023,1),(68028,68029,2),(68030,68031,1),(68032,68047,2),(68050,68095,2),(68096,68096,1),(68097,68099,5),
    (68101,68102,5),(68108,68111,5),(68112,68115,1),(68117,68119,1),(68121,68149,1),(68152,68154,5),(68159,68159,5),
    (68160,68168,2),(68176,68184,3),(68192,68220,1),(68221,68222,2),(68223,68223,3),(68224,68252,1),(68253,68255,2),
    (68288,68295,1)]

/-- Ranges from U+10AC8 to U+11082: first, last, class. -/
def uniRanges19 : List (Nat × Nat × Nat) :=
  [(68296,68296,3),(68297,68324,1),(68325,68326,5),(68331,68335,2),(68336,68342,3),(68352,68405,1),(68409,68415,3),
    (68416,68437,1),(68440,68447,2),(68448,68466,1),(68472,68479,2),(68480,68497,1),(68505,68508,3),(68521,68527,2),
    (68608,68680,1),(68736,68786,1),(68800,68850,1),(68858,68863,2),(68864,68899,1),(68900,68903,5),(68912,68921,2),
    (69216,69246,2),(69248,69289,1),(69291,69292,5),(69293,69293,3),(69296,69297,1),(69373,69375,5),(69376,69404,1),
    (69405,69414,2),(69415,69415,1),(69424,69445,1),(69446,69456,5),(69457,69460,2),(69461,69465,3),(69488,69505,1),
    (69506,69509,5),(69510,69513,3),(69552,69572,1),(69573,69579,2),(69600,69622,1),(69632,69634,5),(69635,69687,1),
    (69688,69702,5),(69703,69709,3),(69714,69743,2),(69744,69744,5),(69745,69746,1),(69747,69748,5),(69749,69749,1),
    (69759,69762,5)]

/-- Ranges from U+11083 to U+11303: first, last, class. -/
def uniRanges20 : List (Nat × Nat × Nat) :=
  [(69763,69807,1),(69808,69818,5),(69819,69820,3),(69822,69825,3),(69826,69826,5),(69840,69864,1),(69872,69881,2),
    (69888,69890,5),(69891,69926,1),(69927,69940,5),(69942,69951,2),(69952,69955,3),(69956,69956,1),(69957,69958,5),
    (69959,69959,1),(69968,70002,1),(70003,70003,5),(70004,70005,3),(70006,70006,1),(70016,70018,5),(70019,70066,1),
    (70067,70080,5),(70081,70084,1),(70085,70088,3),(70089,70092,5),(70093,70093,3),(70094,70095,5),(70096,70105,2),
    (70106,70106,1),(70107,70107,3),(70108,70108,1),(70109,70111,3),(70113,70132,2),(70144,70161,1),(70163,70187,1),
    (70188,70199,5),(70200,70205,3),(70206,70206,5),(70207,70208,1),(70209,70209,5),(70272,70278,1),(70280,70280,1),
    (70282,70285,1),(70287,70301,1),(70303,70312,1),(70313,70313,3),(70320,70366,1),(70367,70378,5),(70384,70393,2),
    (70400,70403,5)]

/-- Ranges from U+11305 to U+1171A: first, last, class. -/
def uniRanges21 : List (Nat × Nat × Nat) :=
  [(70405,70412,1),(70415,70416,1),(70419,70440,1),(70442,70448,1),(70450,70451,1),(70453,70457,1),(70459,70460,5),
    (70461,70461,1),(70462,70468,5),(70471,70472,5),(70475,70477,5),(70480,70480,1),(70487,70487,5),(70493,70497,1),
    (70498,70499,5),(70502,70508,5),(70512,70516,5),(70656,70708,1),(70709,70726,5),(70727,70730,1),(70731,70735,3),
    (70736,70745,2),(70746,70747,3),(70749,70749,3),(70750,70750,5),(70751,70753,1),(70784,70831,1),(70832,70851,5),
    (70852,70853,1),(70854,70854,3),(70855,70855,1),(70864,70873,2),(71040,71086,1),(71087,71093,5),(71096,71104,5),
    (71105,71127,3),(71128,71131,1),(71132,71133,5),(71168,71215,1),(71216,71232,5),(71233,71235,3),(71236,71236,1),
    (71248,71257,2),(71264,71276,3),(71296,71338,1),(71339,71351,5),(71352,71352,1),(71353,71353,3),(71360,71369,2),
    (71424,71450,1)]

/-- Ranges from U+1171D to U+11C2E: first, last, class. -/
def uniRanges22 : List (Nat × Nat × Nat) :=
  [(71453,71467,5),(71472,71483,2),(71484,71487,3),(71488,71494,1),(71680,71723,1),(71724,71738,5),(71739,71739,3),
    (71840,71903,1),(71904,71922,2),(71935,71942,1),(71945,71945,1),(71948,71955,1),(71957,71958,1),(71960,71983,1),
    (71984,71989,5),(71991,71992,5),(71995,71998,5),(71999,71999,1),(72000,72000,5),(72001,72001,1),(72002,72003,5),
    (72004,72006,3),(72016,72025,2),(72096,72103,1),(72106,72144,1),(72145,72151,5),(72154,72160,5),(72161,72161,1),
    (72162,72162,3),(72163,72163,1),(72164,72164,5),(72192,72192,1),(72193,72202,5),(72203,72242,1),(72243,72249,5),
    (72250,72250,1),(72251,72254,5),(72255,72262,3),(72263,72263,5),(72272,72272,1),(72273,72283,5),(72284,72329,1),
    (72330,72345,5),(72346,72348,3),(72349,72349,1),(72350,72354,3),(72368,72440,1),(72448,72457,3),(72704,72712,1),
    (72714,72750,1)]

/-- Ranges from U+11C2F to U+1342F: first, last, class. -/
def uniRanges23 : List (Nat × Nat × Nat) :=
  [(72751,72758,5),(72760,72767,5),(72768,72768,1),(72769,72773,3),(72784,72812,2),(72816,72817,3),(72818,72847,1),
    (72850,72871,5),(72873,72886,5),(72960,72966,1),(72968,72969,1),(72971,73008,1),(73009,73014,5),(73018,73018,5),
    (73020,73021,5),(73023,73029,5),(73030,73030,1),(73031,73031,5),(73040,73049,2),(73056,73061,1),(73063,73064,1),
    (73066,73097,1),(73098,73102,5),(73104,73105,5),(73107,73111,5),(73112,73112,1),(73120,73129,2),(73440,73458,1),
    (73459,73462,5),(73463,73464,3),(73472,73473,5),(73474,73474,1),(73475,73475,5),(73476,73488,1),(73490,73523,1),
    (73524,73530,5),(73534,73538,5),(73539,73551,3),(73552,73561,2),(73648,73648,1),(73664,73684,2),(73685,73713,3),
    (73727,73727,3),(73728,74649,1),(74752,74862,2),(74864,74868,3),(74880,75075,1),(77712,77808,1),(77809,77810,3),
    (77824,78895,1)]

/-- Ranges from U+13440 to U+1BC7C: first, last, class. -/
def uniRanges24 : List (Nat × Nat × Nat) :=
  [(78912,78912,5),(78913,78918,1),(78919,78933,5),(82944,83526,1),(92160,92728,1),(92736,92766,1),(92768,92777,2),
    (92782,92783,3),(92784,92862,1),(92864,92873,2),(92880,92909,1),(92912,92916,5),(92917,92917,3),(92928,92975,1),
    (92976,92982,5),(92983,92991,3),(92992,92995,1),(92996,92997,3),(93008,93017,2),(93019,93025,2),(93027,93047,1),
    (93053,93071,1),(93760,93823,1),(93824,93846,2),(93847,93850,3),(93952,94026,1),(94031,94031,5),(94032,94032,1),
    (94033,94087,5),(94095,94098,5),(94099,94111,1),(94176,94177,1),(94178,94178,3),(94179,94179,1),(94180,94180,5),
    (94192,94193,5),(94208,100343,1),(100352,101589,1),(101632,101640,1),(110576,110579,1),(110581,110587,1),
    (110589,110590,1),(110592,110882,1),(110898,110898,1),(110928,110930,1),(110933,110933,1),(110948,110951,1),
    (110960,111355,1),(113664,113770,1),(113776,113788,1)]

/-- Ranges from U+1BC80 to U+1D6DB: first, last, class. -/
def uniRanges25 : List (Nat × Nat × Nat) :=
  [(113792,113800,1),(113808,113817,1),(113820,113820,3),(113821,113822,5),(113823,113823,3),(118528,118573,5),
    (118576,118598,5),(118608,118723,3),(118784,119029,3),(119040,119078,3),(119081,119140,3),(119141,119145,5),
    (119146,119148,3),(119149,119154,5),(119163,119170,5),(119171,119172,3),(119173,119179,5),(119180,119209,3),
    (119210,119213,5),(119214,119274,3),(119296,119361,3),(119362,119364,5),(119365,119365,3),(119488,119507,2),
    (119520,119539,2),(119552,119638,3),(119648,119672,2),(119808,119892,1),(119894,119964,1),(119966,119967,1),
    (119970,119970,1),(119973,119974,1),(119977,119980,1),(119982,119993,1),(119995,119995,1),(119997,120003,1),
    (120005,120069,1),(120071,120074,1),(120077,120084,1),(120086,120092,1),(120094,120121,1),(120123,120126,1),
    (120128,120132,1),(120134,120134,1),(120138,120144,1),(120146,120485,1),(120488,120512,1),(120513,120513,3),
    (120514,120538,1),(120539,120539,3)]

/-- Ranges from U+1D6DC to U+1E2FF: first, last, class. -/
def uniRanges26 : List (Nat × Nat × Nat) :=
  [(120540,120570,1),(120571,120571,3),(120572,120596,1),(120597,120597,3),(120598,120628,1),(120629,120629,3),
    (120630,120654,1),(120655,120655,3),(120656,120686,1),(120687,120687,3),(120688,120712,1),(120713,120713,3),
    (120714,120744,1),(120745,120745,3),(120746,120770,1),(120771,120771,3),(120772,120779,1),(120782,120831,2),
    (120832,121343,3),(121344,121398,5),(121399,121402,3),(121403,121452,5),(121453,121460,3),(121461,121461,5),
    (121462,121475,3),(121476,121476,5),(121477,121483,3),(121499,121503,5),(121505,121519,5),(122624,122654,1),
    (122661,122666,1),(122880,122886,5),(122888,122904,5),(122907,122913,5),(122915,122916,5),(122918,122922,5),
    (122928,122989,1),(123023,123023,5),(123136,123180,1),(123184,123190,5),(123191,123197,1),(123200,123209,2),
    (123214,123214,1),(123215,123215,3),(123536,123565,1),(123566,123566,5),(123584,123627,1),(123628,123631,5),
    (123632,123641,2),(123647,123647,3)]

/-- Ranges from U+1E4D0 to U+1EE7C: first, last, class. -/
def uniRanges27 : List (Nat × Nat × Nat) :=
  [(124112,124139,1),(124140,124143,5),(124144,124153,2),(124896,124902,1),(124904,124907,1),(124909,124910,1),
    (124912,124926,1),(124928,125124,1),(125127,125135,2),(125136,125142,5),(125184,125251,1),(125252,125258,5),
    (125259,125259,1),(125264,125273,2),(125278,125279,3),(126065,126123,2),(126124,126124,3),(126125,126127,2),
    (126128,126128,3),(126129,126132,2),(126209,126253,2),(126254,126254,3),(126255,126269,2),(126464,126467,1),
    (126469,126495,1),(126497,126498,1),(126500,126500,1),(126503,126503,1),(126505,126514,1),(126516,126519,1),
    (126521,126521,1),(126523,126523,1),(126530,126530,1),(126535,126535,1),(126537,126537,1),(126539,126539,1),
    (126541,126543,1),(126545,126546,1),(126548,126548,1),(126551,126551,1),(126553,126553,1),(126555,126555,1),
    (126557,126557,1),(126559,126559,1),(126561,126562,1),(126564,126564,1),(126567,126570,1),(126572,126578,1),
    (126580,126583,1),(126585,126588,1)]

/-- Ranges from U+1EE7E to U+2EBE0: first, last, class. -/
def uniRanges28 : List (Nat × Nat × Nat) :=
  [(126590,126590,1),(126592,126601,1),(126603,126619,1),(126625,126627,1),(126629,126633,1),(126635,126651,1),
    (126704,126705,3),(126976,127019,3),(127024,127123,3),(127136,127150,3),(127153,127167,3),(127169,127183,3),
    (127185,127221,3),(127232,127244,2),(127245,127405,3),(127462,127490,3),(127504,127547,3),(127552,127560,3),
    (127568,127569,3),(127584,127589,3),(127744,128727,3),(128732,128748,3),(128752,128764,3),(128768,128886,3),
    (128891,128985,3),(128992,129003,3),(129008,129008,3),(129024,129035,3),(129040,129095,3),(129104,129113,3),
    (129120,129159,3),(129168,129197,3),(129200,129201,3),(129280,129619,3),(129632,129645,3),(129648,129660,3),
    (129664,129672,3),(129680,129725,3),(129727,129733,3),(129742,129755,3),(129760,129768,3),(129776,129784,3),
    (129792,129938,3),(129940,129994,3),(130032,130041,2),(131072,173791,1),(173824,177977,1),(177984,178205,1),
    (178208,183969,1),(183984,191456,1)]

/-- Ranges from U+2EBF0 to U+E01EF: first, last, class. -/
def uniRanges29 : List (Nat × Nat × Nat) :=
  [(191472,192093,1),(194560,195101,1),(196608,201546,1),(201552,205743,1),(917760,917999,5)]

/-- Every range of the classes L (1), N (2), P (3), W (4) and M (5); every other code point is of class C (0). -/
def uniRanges : List (List (Nat × Nat × Nat)) :=
  [uniRanges0, uniRanges1, uniRanges2, uniRanges3, uniRanges4, uniRanges5, uniRanges6, uniRanges7, uniRanges8, uniRanges9, uniRanges10, uniRanges11, uniRanges12, uniRanges13, uniRanges14, uniRanges15, uniRanges16, uniRanges17, uniRanges18, uniRanges19, uniRanges20, uniRanges21, uniRanges22, uniRanges23, uniRanges24, uniRanges25, uniRanges26, uniRanges27, uniRanges28, uniRanges29]

/-- The class of a code point in a list of ranges. -/
def classIn : List (Nat × Nat × Nat) → Nat → Nat
  | [], _ => 0
  | (lo, hi, k) :: rs, p => if lo ≤ p ∧ p ≤ hi then k else classIn rs p

/-- The first class that some list gives. -/
def classOver : List (List (Nat × Nat × Nat)) → Nat → Nat
  | [], _ => 0
  | l :: ls, p =>
    match classIn l p with
    | 0 => classOver ls p
    | k => k

/-- The pre-split class of a code point: 0 C, 1 L, 2 N, 3 P, 4 W, 5 M. -/
def charClass (p : Nat) : Nat := classOver uniRanges p

end Sys2Proof.Machine
end

