-- ==== Sys2Proof/Machine/Tokenizer.lean ====
section
/-! DEFINITION. Vocabulary images and the tokenizer (09_text): lookup (R269), UTF-8 decoding (R278), pre-splitting (R279), ranked merge (R280), the carry (R281), detokenization (R284), holding back (R285) and stop strings (R286, R287). -/

namespace Sys2Proof.Machine

/-! ## Vocabulary images (R267 to R269) -/

/-- A 64-bit word of a byte string at a byte offset. -/
def wordAt (bs : List Byte) (off : Nat) : Nat := leAt bs off 8

/-- A field of word `w` of an image header. -/
def hdrField (bs : List Byte) (w hi lo : Nat) : Nat := bits (wordAt bs (8 * w)) hi lo

def vocabTokens (v : List Byte) : Nat := hdrField v 1 31 0
def vocabSlotsLog2 (v : List Byte) : Nat := hdrField v 1 36 32
def vocabSpaceJoin (v : List Byte) : Bool := hdrField v 0 40 40 == 1
def vocabDigitGroup (v : List Byte) : Nat := hdrField v 0 42 41
def vocabSurfTable (v : List Byte) : Nat := hdrField v 3 31 0
def vocabSurfBytes (v : List Byte) : Nat := hdrField v 3 63 32
def vocabHashTable (v : List Byte) : Nat := hdrField v 4 31 0
def vocabSurfLen (v : List Byte) : Nat := hdrField v 4 63 32

/-- R267: end of the body. -/
def vocabBody (v : List Byte) : Nat := vocabHashTable v + 16 * 2 ^ vocabSlotsLog2 v

/-- R267: offset of the check array. -/
def vocabCheckAt (v : List Byte) : Nat := roundUp (vocabBody v) 256

/-- R270 check 3, on the 64 header bytes. -/
def vocabHeaderBad (h : List Byte) (bytes : Nat) : Bool :=
  hdrField h 0 31 0 != 0x4F565643 || hdrField h 0 39 32 != 1 || wordAt h 16 != bytes ||
  hdrField h 0 63 43 != 0 || hdrField h 1 63 37 != 0 || wordAt h 40 != 0 || wordAt h 48 != 0 || hdrField h 7 63 32 != 0 ||
  vocabTokens h < 256 || 262144 < vocabTokens h || vocabSlotsLog2 h < 10 || 24 < vocabSlotsLog2 h ||
  vocabSurfTable h < 64 || vocabSurfBytes h < vocabSurfTable h + 8 * vocabTokens h ||
  vocabHashTable h < vocabSurfBytes h + vocabSurfLen h ||
  bytes != vocabCheckAt h + 4 * (vocabCheckAt h / 256)

/-- A header's own CRC-32C of bytes 0 to 55 (R257, R267, R368). -/
def hdrCheckBad (h : List Byte) : Bool := (crc32c (bytesAt h 0 56)).toNat != hdrField h 7 31 0

/-- The surface table entry of an id. -/
def surfEntry (v : List Byte) (id : Nat) : Nat := wordAt v (vocabSurfTable v + 8 * id)

def isControl (v : List Byte) (id : Nat) : Bool := bit (surfEntry v id) 40
def isStopTok (v : List Byte) (id : Nat) : Bool := bit (surfEntry v id) 41
def isToolTok (v : List Byte) (id : Nat) : Bool := bit (surfEntry v id) 42
def isShown (v : List Byte) (id : Nat) : Bool := bit (surfEntry v id) 43

/-- The surface bytes of an id. -/
def surface (v : List Byte) (id : Nat) : List Byte :=
  bytesAt v (vocabSurfBytes v + bits (surfEntry v id) 31 0) (bits (surfEntry v id) 39 32)

/-- R268 and the surface part of R270 check 7, for one id. A surface of length 0 is refused for every id, since R268 gives a surface 1 to 255 bytes and check 7 names no status for it (DEDUCED, log 47). -/
def surfBad (v : List Byte) (id : Nat) : Bool :=
  let e := surfEntry v id
  bits e 63 44 != 0 || bits e 39 32 == 0 || vocabSurfLen v < bits e 31 0 + bits e 39 32 ||
  (!bit e 40 && (bit e 41 || bit e 42 || bit e 43)) || (bit e 41 && bit e 42) ||
  (id < 256 && (bits e 39 32 != 1 || bit e 40 || leNat (surface v id) != id))

/-- The slot part of R270 check 7, for one slot. The bits that R269 gives as 0 (the rest of a key, the rank of a kind 0 entry, the reserved bits of a slot that is not used) are refused as reserved bits are: check 7 names none of them (DEDUCED, log 47). -/
def slotBad (v : List Byte) (i : Nat) : Bool :=
  let w0 := wordAt v (vocabHashTable v + 16 * i)
  let w1 := wordAt v (vocabHashTable v + 16 * i + 8)
  bits w0 63 42 != 0 || bits w1 63 50 != 0 ||
  (bit w0 0 &&
    (vocabTokens v ≤ bits w1 17 0 || isControl v (bits w1 17 0) ||
     (if bit w0 1 then bits w0 41 38 != 0 else bits w0 41 23 != 0 || bits w1 49 18 != 0)))

/-- R270 check 7. -/
def vocabBodyBad (v : List Byte) : Bool :=
  (List.range (vocabTokens v)).any (surfBad v) || (List.range (2 ^ vocabSlotsLog2 v)).any (slotBad v) ||
  (bytesAt v (vocabBody v) (vocabCheckAt v - vocabBody v)).any (· != 0)

/-- R269: probing from slot `i`; every slot is probed at most once, so that a full table without the key answers none, where the loop of R269 has no end (DESIGN CHOICE, log 148). -/
def probe (v : List Byte) (w : Nat) : Nat → Nat → Option (Nat × Nat)
  | 0, _ => none
  | fuel + 1, i =>
    let off := vocabHashTable v + 16 * i
    let w0 := wordAt v off
    if !bit w0 0 then none
    else if w0 = w then some (bits (wordAt v (off + 8)) 17 0, bits (wordAt v (off + 8)) 49 18)
    else probe v w fuel ((i + 1) % 2 ^ vocabSlotsLog2 v)

/-- R269: (id, rank) under a key. -/
def lookup (v : List Byte) (kind key : Nat) : Option (Nat × Nat) :=
  let w := 1 + 2 * kind + 4 * key
  probe v w (2 ^ vocabSlotsLog2 v) ((crc32c (natLe 8 w)).toNat % 2 ^ vocabSlotsLog2 v)

/-! ## Decoding (R278) -/

/-- Length of the sequence that a lead byte opens, and the range of its second byte; length 0 for no lead byte. -/
def leadOf (b : Nat) : Nat × Nat × Nat :=
  if b < 0x80 then (1, 0, 0)
  else if 0xC2 ≤ b ∧ b ≤ 0xDF then (2, 0x80, 0xBF)
  else if b = 0xE0 then (3, 0xA0, 0xBF)
  else if b = 0xED then (3, 0x80, 0x9F)
  else if 0xE1 ≤ b ∧ b ≤ 0xEF then (3, 0x80, 0xBF)
  else if b = 0xF0 then (4, 0x90, 0xBF)
  else if b = 0xF4 then (4, 0x80, 0x8F)
  else if 0xF1 ≤ b ∧ b ≤ 0xF3 then (4, 0x80, 0xBF)
  else (0, 0, 0)

/-- What stands at the front of bytes: a whole character of a length, an invalid byte, or the start of a sequence that the bytes cut off. -/
inductive Utf where
  | char (len : Nat)
  | bad
  | more
  deriving DecidableEq, Repr

/-- R278: the front of a byte string that is not empty. -/
def utfFront (bs : List Byte) : Utf :=
  let (n, lo, hi) := leadOf (nth bs 0 0).toNat
  let okAt := fun k =>
    let b := (nth bs k 0).toNat
    if k = 1 then lo ≤ b && b ≤ hi else 0x80 ≤ b && b ≤ 0xBF
  if n = 0 then .bad
  else if (List.range (min n bs.length)).all fun k => k == 0 || okAt k then
    if n ≤ bs.length then .char n else .more
  else .bad

/-- The code point of a whole sequence. -/
def codePoint (bs : List Byte) : Nat :=
  match bs.map (·.toNat) with
  | [a] => a
  | [a, b] => a % 32 * 64 + b % 64
  | [a, b, c] => a % 16 * 4096 + b % 64 * 64 + c % 64
  | [a, b, c, d] => a % 8 * 262144 + b % 64 * 4096 + c % 64 * 64 + d % 64
  | _ => 0

/-- R278: the characters of bytes (`true`) and their invalid bytes (`false`), in order, and the cut-off rest. -/
def decodeText : Nat → List Byte → List (Bool × List Byte) × List Byte
  | 0, bs => ([], bs)
  | fuel + 1, bs =>
    if bs.isEmpty then ([], [])
    else match utfFront bs with
      | .more => ([], bs)
      | .bad =>
        let (l, r) := decodeText fuel (bs.drop 1)
        ((false, bs.take 1) :: l, r)
      | .char n =>
        let (l, r) := decodeText fuel (bs.drop n)
        ((true, bs.take n) :: l, r)

/-! ## Ranked merge (R280) -/

/-- R280: the symbols of one character: its entry, or byte fallback that never merges. -/
def charSyms (v : List Byte) (ch : List Byte) : List (Nat × Bool) :=
  match lookup v 0 (codePoint ch) with
  | some (id, _) => [(id, true)]
  | none => ch.map fun b => (b.toNat, false)

/-- The best merge among adjacent mergeable symbols: place, merged id, rank; leftmost of equals. -/
def bestPair (v : List Byte) : Nat → List (Nat × Bool) → Option (Nat × Nat × Nat)
  | i, (a, ma) :: (b, mb) :: rest =>
    let r := bestPair v (i + 1) ((b, mb) :: rest)
    match (if ma && mb then lookup v 1 (a + b * 2 ^ 18) else none), r with
    | some (id, rank), some (_, _, rank') => if rank ≤ rank' then some (i, id, rank) else r
    | some (id, rank), none => some (i, id, rank)
    | none, r => r
  | _, _ => none

/-- R280: merge rounds. -/
def mergeSyms (v : List Byte) : Nat → List (Nat × Bool) → List (Nat × Bool)
  | 0, s => s
  | fuel + 1, s =>
    match bestPair v 0 s with
    | none => s
    | some (i, id, _) => mergeSyms v fuel (s.take i ++ (id, true) :: s.drop (i + 2))

/-- R280: the tokens of a piece of whole characters. -/
def bpe (v : List Byte) (piece : List Byte) : List Nat :=
  let s := (decodeText piece.length piece).1.flatMap fun c => charSyms v c.2
  (mergeSyms v s.length s).map (·.1)

/-! ## Pre-splitting and the carry (R279, R281) -/

/-- The open piece, its class (0 none, 1 L, 2 N, 3 P, 4 W) and digits, the tokens of closed pieces, and the invalid bytes met. -/
structure Split where
  piece : List Byte
  cls : Nat
  digits : Nat
  toks : List Nat := []
  invalid : Nat := 0
  deriving DecidableEq, Repr

/-- A piece closes and goes to the ranked merge. -/
def closePiece (v : List Byte) (s : Split) : Split :=
  if s.cls = 0 then s else { s with piece := [], cls := 0, digits := 0, toks := s.toks ++ bpe v s.piece }

/-- A new piece opens. -/
def openPiece (s : Split) (cls : Nat) (bs : List Byte) : Split :=
  { s with piece := bs, cls := cls, digits := if cls = 2 then 1 else 0 }

/-- R278: an invalid byte is a piece of its own. -/
def putInvalid (v : List Byte) (s : Split) (b : Byte) : Split :=
  let s := closePiece v s
  { s with toks := s.toks ++ [b.toNat], invalid := s.invalid + 1 }

/-- R279 rules 2, 3 and 6: a character of class `k` joins the open piece. -/
def joinPiece (v : List Byte) (s : Split) (k : Nat) (ch : List Byte) : Split :=
  if k = 2 && vocabDigitGroup v != 0 && vocabDigitGroup v ≤ s.digits then openPiece (closePiece v s) 2 ch
  else if 256 < s.piece.length + ch.length then
    { openPiece (closePiece v s) s.cls ch with digits := if k = 2 then 1 else 0 }
  else { s with piece := s.piece ++ ch, digits := if k = 2 then s.digits + 1 else s.digits }

/-- R279: one character. -/
def putChar (v : List Byte) (s : Split) (ch : List Byte) : Split :=
  match charClass (codePoint ch) with
  | 0 =>
    let s := closePiece v s
    { s with toks := s.toks ++ bpe v ch }
  | 5 => if s.cls = 0 then openPiece s 1 ch else joinPiece v s 5 ch
  | k =>
    if k = s.cls then joinPiece v s k ch
    else if vocabSpaceJoin v && (k == 1 || k == 3) && s.cls == 4 && s.piece.getLast? == some 0x20 then
      let w := s.piece.dropLast
      let s := if w.isEmpty then { s with piece := [], cls := 0 } else closePiece v { s with piece := w }
      openPiece s k (0x20 :: ch)
    else openPiece (closePiece v s) k ch

/-- R281: text behind a carry; with `eot` the pending piece closes and the carry bytes become invalid, and the carry is left empty. -/
def tokenizeText (v : List Byte) (c : Ctl) (text : List Byte) (eot : Bool) : List Nat × Nat × Ctl :=
  let bs := c.carryBytes ++ text
  let (chars, rest) := decodeText bs.length bs
  let s0 : Split := ⟨c.piece, c.pieceClass, c.pieceDigits, [], 0⟩
  let s := chars.foldl (fun s x => if x.1 then putChar v s x.2 else putInvalid v s (nth x.2 0 0)) s0
  if eot then
    let s := rest.foldl (putInvalid v) (closePiece v s)
    (s.toks, s.invalid, { c with carryBytes := [], piece := [], pieceClass := 0, pieceDigits := 0 })
  else
    (s.toks, s.invalid, { c with carryBytes := rest, piece := s.piece, pieceClass := s.cls, pieceDigits := s.digits })

/-! ## Output (R284 to R287) -/

/-- R284: the bytes a committed token gives. -/
def outBytes (v : List Byte) (id : Nat) : List Byte :=
  if isStopTok v id || isToolTok v id then []
  else if isControl v id then (if isShown v id then surface v id else [])
  else surface v id

/-- R285: a suffix that is the start of a sequence not yet complete. -/
def cutOff (s : List Byte) : Bool := !s.isEmpty && utfFront s == .more

/-- R285: a suffix that is a proper prefix of a stop string. -/
def stopPrefix (stops : List (List Byte)) (s : List Byte) : Bool :=
  !s.isEmpty && stops.any fun t => s.length < t.length && t.take s.length == s

/-- R285: the length of the longest suffix held back. -/
def heldLen (stream : List Byte) (stops : List (List Byte)) : Nat :=
  ((List.range (min stream.length 63 + 1)).reverse.find? fun n =>
    let s := stream.drop (stream.length - n)
    (n ≤ 3 && cutOff s) || stopPrefix stops s).getD 0

/-- R287: the longest stop string that ends at byte `e` of the stream. -/
def stopEndsAt (stream : List Byte) (stops : List (List Byte)) (e : Nat) : Option Nat :=
  let pre := stream.take e
  stops.foldl (fun best t =>
    if t.length ≤ e && pre.drop (e - t.length) == t then some (max (best.getD 0) t.length) else best) none

/-- R287: the first match that ends after byte `from0`: the offset of its first byte. -/
def stopMatch (stream : List Byte) (stops : List (List Byte)) (from0 : Nat) : Option Nat :=
  (List.range (stream.length - from0)).findSome? fun i =>
    (stopEndsAt stream stops (from0 + i + 1)).map fun n => from0 + i + 1 - n

/-- R286: the strings of a stop list; none when it is refused. -/
def stopList (bs : List Byte) : Option (List (List Byte)) :=
  let n := leAt bs 0 1
  let len := fun i => leAt bs (1 + i) 1
  if 8 < n || (bytesAt bs 9 55).any (· != 0) || (List.range n).any fun i => len i == 0 || 64 < len i then none
  else some ((List.range n).map fun i => bytesAt bs (64 + 64 * i) (len i))

/-- R286: the 576 bytes of a stop list of at most 8 strings. -/
def stopsBytes (stops : List (List Byte)) : List Byte :=
  bytesAt (natLe 1 stops.length ++ stops.flatMap fun t => natLe 1 t.length) 0 64 ++ (List.range 8).flatMap fun i => bytesAt (nth stops i []) 0 64

end Sys2Proof.Machine
end

