-- ==== Sys2Proof/Machine/Images.lean ====
section
/-! DEFINITION. Model images (08_numerics_models): header (R257), section table (R258, R602), limits (R259), dies (R260), tiles (R180) and the values they hold. -/

namespace Sys2Proof.Machine

/-! ## Header (R257) -/

def miSealed (m : List Byte) : Bool := hdrField m 0 40 40 == 1
def miSpanned (m : List Byte) : Bool := hdrField m 0 41 41 == 1
def miSections (m : List Byte) : Nat := hdrField m 0 63 48
def miLayers (m : List Byte) : Nat := hdrField m 2 7 0
def miHidden (m : List Byte) : Nat := hdrField m 2 23 8
def miQHeads (m : List Byte) : Nat := hdrField m 2 31 24
def miKvHeads (m : List Byte) : Nat := hdrField m 2 39 32
def miHeadDim (m : List Byte) : Nat := hdrField m 2 47 40
def miVocab (m : List Byte) : Nat := hdrField m 3 31 0
def miExperts (m : List Byte) : Nat := hdrField m 3 40 32
def miTopK (m : List Byte) : Nat := hdrField m 3 44 41
def miShared (m : List Byte) : Nat := hdrField m 3 46 45
def miRouteMode (m : List Byte) : Nat := hdrField m 3 47 47
def miFfn (m : List Byte) : Nat := hdrField m 4 31 0
def miWFmt (m : List Byte) : Nat := hdrField m 4 35 32
def miAFmt (m : List Byte) : Nat := hdrField m 4 39 36
def miKvFmt (m : List Byte) : Nat := hdrField m 4 43 40
def miRopeStyle (m : List Byte) : Nat := hdrField m 4 44 44
def miEpsilon (m : List Byte) : W32 := BitVec.ofNat 32 (hdrField m 6 31 0)
def miKeyId (m : List Byte) : Nat := hdrField m 6 63 32

/-- R263 check 3: the header's shape. -/
def miHeaderBad (h : List Byte) (bytes : Nat) : Bool :=
  hdrField h 0 31 0 != 0x4F564D44 || hdrField h 0 39 32 != 1 || wordAt h 8 != bytes ||
  hdrField h 0 47 42 != 0 || hdrField h 2 63 48 != 0 || hdrField h 3 63 48 != 0 || hdrField h 4 63 45 != 0 ||
  hdrField h 7 63 32 != 0

/-- R259, R263 check 5. `shared` has two bits and the values 0 to 2: a 3 beside experts fails no check of R263 and counts as three shared experts (DESIGN CHOICE, log 179). -/
def miLimits (h : List Byte) : Bool :=
  let L := miLayers h
  let q := miQHeads h
  let kv := miKvHeads h
  let d := miHeadDim h
  let e := miExperts h
  (if miSpanned h then 2 ≤ L else 1 ≤ L) && L ≤ 160 &&
  256 ≤ miHidden h && miHidden h ≤ 32768 && miHidden h % 128 == 0 && (d == 64 || d == 128) &&
  1 ≤ kv && kv ≤ 16 && q % kv == 0 && 1 ≤ q / kv && q / kv ≤ 64 && 2 * q * d ≤ 16384 &&
  256 ≤ miVocab h && miVocab h ≤ 262144 &&
  (e == 0 || (2 ≤ e && e ≤ 256 && 1 ≤ miTopK h && miTopK h ≤ 8 && miTopK h ≤ e)) &&
  (e != 0 || miShared h == 0) && pairAllowed (miWFmt h) (miAFmt h) && (miKvFmt h == 6 || miKvFmt h == 7)

/-! ## Sections (R258, R602) -/

/-- R258: a section table entry. -/
structure Section where
  kind : Nat
  layer : Nat
  expert : Nat
  format : Nat
  hotRank : Nat
  rows : Nat
  cols : Nat
  offset : Nat
  tiles : Nat
  wScale : W32
  aScale : W32
  deriving DecidableEq, Repr

/-- Entry `i` of a section table (its bytes from the first entry on). -/
def sectionAt (t : List Byte) (i : Nat) : Section :=
  let w := fun j => wordAt t (48 * i + 8 * j)
  { kind := bits (w 0) 7 0, layer := bits (w 0) 15 8, expert := bits (w 0) 24 16, format := bits (w 0) 39 32
    hotRank := bits (w 0) 55 40, rows := bits (w 1) 31 0, cols := bits (w 1) 63 32, offset := w 2
    tiles := bits (w 3) 31 0, wScale := BitVec.ofNat 32 (bits (w 4) 31 0), aScale := BitVec.ofNat 32 (bits (w 4) 63 32) }

/-- A reserved bit of an entry. -/
def sectionReserved (t : List Byte) (i : Nat) : Bool :=
  let w := fun j => wordAt t (48 * i + 8 * j)
  bits (w 0) 31 25 != 0 || bits (w 0) 63 56 != 0 || bits (w 3) 63 32 != 0 || w 5 != 0

/-- The section table of an image. -/
def sectionsOf (m : List Byte) : List Section :=
  (List.range (miSections m)).map (sectionAt (m.drop 64))

/-- R180: columns of an element tile. -/
def tileCols (fmt : Nat) : Nat :=
  match fmt with
  | 1 => 1024 | 2 => 640 | 3 => 640 | 4 => 512 | 5 => 512 | 6 => 512 | 7 => 512 | 8 => 256 | _ => 128

/-- R180: element tiles for each scale tile; 0 for formats without scales. -/
def tilesPerScale (fmt : Nat) : Nat :=
  match fmt with
  | 1 => 16 | 2 => 25 | 3 => 25 | 4 => 32 | 5 => 32 | _ => 0

/-- Element tiles of a matrix. -/
def elemTiles (fmt rows cols : Nat) : Nat := cdiv rows 128 * cdiv cols (tileCols fmt)

/-- Scale tiles of a matrix. -/
def scaleTiles (fmt rows cols : Nat) : Nat :=
  if tilesPerScale fmt = 0 then 0 else cdiv (elemTiles fmt rows cols) (tilesPerScale fmt)

/-- R602: the experts of feed-forward sections. -/
def expertIds (h : List Byte) : List Nat :=
  if miExperts h = 0 then [0x1FF] else List.range (miExperts h) ++ (List.range (miShared h)).map (256 + ·)

/-- R602: (kind, layer, expert, rows, columns) of every section of a model. -/
def requiredSections (h : List Byte) : List (Nat × Nat × Nat × Nat × Nat) :=
  let V := miVocab h
  let hd := miHidden h
  let qd := miQHeads h * miHeadDim h
  let kd := miKvHeads h * miHeadDim h
  let F := miFfn h
  [(1, 0xFF, 0x1FF, V, hd), (2, 0xFF, 0x1FF, V, hd), (3, 0xFF, 0x1FF, 1, hd),
    (12, 0xFF, 0x1FF, 1, 4 * miLayers h * miKvHeads h + miHeadDim h)] ++
  (List.range (miLayers h)).flatMap fun l =>
    [(3, l, 0x1FF, 2, hd), (4, l, 0x1FF, qd, hd), (5, l, 0x1FF, kd, hd), (6, l, 0x1FF, kd, hd), (7, l, 0x1FF, hd, qd)] ++
    (if miExperts h = 0 then [] else [(11, l, 0x1FF, miExperts h, hd)]) ++
    (expertIds h).flatMap fun e => [(8, l, e, F, hd), (9, l, e, F, hd), (10, l, e, hd, F)]

/-- Bytes that a tile takes in an image, with its check values and tag (R257, R547). -/
def tileBytes (h : List Byte) : Nat := frameSize0 + 1024 + (if miSealed h then 16 else 0)
where
  /-- Bytes of a tile. -/
  frameSize0 : Nat := 65536

/-- R263 check 6, for one entry. -/
def sectionBad (h t : List Byte) (bytes i : Nat) : Bool :=
  let s := sectionAt t i
  sectionReserved t i || s.format == 0 || 9 < s.format || (s.kind == 12 && s.format != 9) ||
  !(requiredSections h).contains (s.kind, s.layer, s.expert, s.rows, s.cols) ||
  s.tiles != elemTiles s.format s.rows s.cols + scaleTiles s.format s.rows s.cols ||
  s.offset % 65536 != 0 || bytes < s.offset + s.tiles * tileBytes h

/-- R263 check 6: every section admitted, and each required one present exactly once. -/
def sectionTableBad (h t : List Byte) (bytes : Nat) : Bool :=
  let keys := (List.range (miSections h)).map fun i =>
    let s := sectionAt t i
    (s.kind, s.layer, s.expert)
  miSections h == 0 || (List.range (miSections h)).any (sectionBad h t bytes) ||
  (requiredSections h).any fun r => keys.count (r.1, r.2.1, r.2.2.1) != 1

/-- R260: the dies that hold the sections of a layer. -/
def layerDies (h : List Byte) (layer : Nat) : List Bool :=
  if layer = 0xFF || !miSpanned h then [false, true]
  else if layer < cdiv (miLayers h) 2 then [false] else [true]

/-- R260, R264: frames of an image on a die. -/
def miFrames (h t : List Byte) (die : Bool) : Nat :=
  (List.range (miSections h)).foldl (fun n i =>
    let s := sectionAt t i
    if (layerDies h s.layer).contains die then n + s.tiles else n) 0

/-- A tile's place among the scale tiles of its section. -/
def isScaleTile (s : Section) (place : Nat) : Bool :=
  (List.range (scaleTiles s.format s.rows s.cols)).any fun g =>
    Config.tilePlace s.format s.rows s.cols true g == place

/-! ## Element values (R180, R239) -/

/-- The encoding of element `idx` of an element tile's bytes. -/
def elemCode (fmt : Nat) (tile : List Byte) (idx : Nat) : Nat :=
  match fmt with
  | 1 => leAt tile (idx / 2) 1 / 16 ^ (idx % 2) % 16
  | 2 | 3 => leAt tile (3 * (idx / 4)) 3 / 64 ^ (idx % 4) % 64
  | 8 => leAt tile (2 * idx) 2
  | 9 => leAt tile (4 * idx) 4
  | _ => leAt tile idx 1

/-- The tile at a place of a section. -/
def tileAt (m : List Byte) (s : Section) (place : Nat) : List Byte := bytesAt m (s.offset + 65536 * place) 65536

/-- The value of element (r, c) of a matrix's elements, without its scale. -/
def elemValue (m : List Byte) (s : Section) (r c : Nat) : FVal :=
  let C := tileCols s.format
  let t := Config.elemTile s.format s.rows s.cols (r / 128) (c / C)
  decodeF (fmtOfCode s.format)
    (elemCode s.format (tileAt m s (Config.tilePlace s.format s.rows s.cols false t)) (r % 128 * C + c % C))

/-- R180: the scale exponent of the block that holds element (r, c); 0 for formats without scales. -/
def elemScale (m : List Byte) (s : Section) (r c : Nat) : Option Int :=
  if isMX s.format then
    let C := tileCols s.format
    let n := tilesPerScale s.format
    let t := Config.elemTile s.format s.rows s.cols (r / 128) (c / C)
    let tile := tileAt m s (Config.tilePlace s.format s.rows s.cols true (t / n))
    scaleExp (leAt tile (t % n * (128 * C / 32) + r % 128 * (C / 32) + c % C / 32) 1)
  else some 0

/-- Row `r` of a matrix as an operand along K. -/
def rowOperand (m : List Byte) (s : Section) (r : Nat) : QVec :=
  ⟨s.format, (List.range s.cols).map (elemValue m s r),
    (List.range (cdiv s.cols 32)).map fun b => elemScale m s r (32 * b)⟩

/-- An element as FP32, its block scale applied. -/
def elemF32 (m : List Byte) (s : Section) (r c : Nat) : W32 :=
  match elemScale m s r c, elemValue m s r c with
  | some x, .fin n a e => toF32 (.fin n a (e + x))
  | some _, v => toF32 v
  | none, _ => fNaN

/-- The section of a kind, layer and expert; an empty one when the table has none. -/
def findSection (m : List Byte) (kind layer expert : Nat) : Section :=
  ((sectionsOf m).find? fun s => s.kind == kind && s.layer == layer && s.expert == expert).getD
    ⟨kind, layer, expert, 9, 0, 0, 0, 0, 0, 0, 0⟩

/-- R258: word `i` of the constants section, in 4-byte words. -/
def constWord (m : List Byte) (i : Nat) : W32 :=
  let s := findSection m 12 0xFF 0x1FF
  let t := Config.elemTile 9 s.rows s.cols 0 (i / 128)
  BitVec.ofNat 32 (elemCode 9 (tileAt m s (Config.tilePlace 9 s.rows s.cols false t)) (i % 128))

/-- R258: sk, sv and c of a layer and KV head. -/
def kvConst (m : List Byte) (layer head j : Nat) : W32 := constWord m (4 * (layer * miKvHeads m + head) + j)

/-- R258: F_i of R251. -/
def ropeF (m : List Byte) (i : Nat) : Nat :=
  let at0 := 4 * miLayers m * miKvHeads m + 2 * i
  (constWord m at0).toNat + 2 ^ 32 * (constWord m (at0 + 1)).toNat

/-- The digest of a model: its header and section table (R394). -/
def modelDigest (m : List Byte) : Nat := digest8 (bytesAt m 0 (64 + 48 * miSections m))

/-- R320: bytes of one position in one layer, and positions of a page. -/
def kvBytes (m : List Byte) : Nat := 2 * miKvHeads m * miHeadDim m
def pageP (m : List Byte) : Nat := 65536 / kvBytes m

end Sys2Proof.Machine
end

