-- ==== Sys2Proof/Machine/State.lean ====
section
/-! DEFINITION. The state of the block: every register, ring, session, frame, object, account, unit and pin that the spec gives it, as plain data; the queue of waiting commands; the reset state. -/

namespace Sys2Proof.Machine

/-- Nothing stops this block: every fault of the spec is a status, a log entry or a lost device (R7, R476). The type has no constructor. -/
inductive Fault where
  deriving DecidableEq, Repr

/-- Reasons to refuse a command. -/
inductive Refusal where
  /-- Raised by an arm of `exec` that has no meaning yet; safe, since a refused command changes nothing. -/
  | notModelled (mnemonic : String)
  deriving DecidableEq, Repr

/-- One value for each die. -/
structure PerDie (α : Type) where
  d0 : α
  d1 : α
  deriving DecidableEq, Repr

/-- The value of a die. -/
def PerDie.get {α : Type} (p : PerDie α) (d : Bool) : α := if d then p.d1 else p.d0

/-- Replaces the value of a die. -/
def PerDie.set {α : Type} (p : PerDie α) (d : Bool) (a : α) : PerDie α :=
  if d then ⟨p.d0, a⟩ else ⟨a, p.d1⟩

/-- Changes the value of a die. -/
def PerDie.mod {α : Type} (p : PerDie α) (d : Bool) (f : α → α) : PerDie α := p.set d (f (p.get d))

/-! ## Host link (03) -/

/-- The host link and its IDE streams. -/
structure Link where
  up : Bool := false
  speed : Nat := 0
  width : Nat := 0
  flit : Bool := false
  /-- Aon cycles of the current or last down period, 32 bits, saturating. -/
  downTime : Nat := 0
  /-- R105: the hold ran out and the device is held until reset. -/
  holdOut : Bool := false
  /-- Bit w: stream of slot w Secure. -/
  secure : Nat := 0
  /-- Bit w: slot w has been set up as Insecure by a failure and waits to be set up again. -/
  insecure : Nat := 0
  /-- R100: the key set in force, by 2 * slot + direction; direction 0 receive, 1 transmit. -/
  keySet : Map Nat := []
  /-- R102: bit i: lane i has failed since the link was first trained. -/
  badLanes : Nat := 0
  deriving DecidableEq, Repr

/-- The configuration registers that the host programs (R82, R83, R84, R88, R89, R91), beside MSI-X Enable and Function Mask. -/
structure Cfg where
  /-- Device Control: maximum payload size and maximum read request size, as codes of 128 * 2^n bytes; Enable Relaxed Ordering. -/
  mps : Nat := 0
  mrrs : Nat := 2
  relaxed : Bool := true
  /-- Device Control 2: 10-Bit Tag Requester Enable. -/
  tag10 : Bool := false
  /-- Link Control: ASPM Control (bit 1: L1). -/
  aspm : Nat := 0
  /-- Advanced Error Reporting: Uncorrectable Error Status. -/
  aer : Nat := 0
  /-- Base addresses of BAR0 and BAR2, in units of 16 MiB. -/
  bar0 : Nat := 0
  bar2 : Nat := 0
  deriving DecidableEq, Repr

/-- One memory write request that the device has sent: its address, its data, its Relaxed Ordering attribute (R82, R89). -/
structure Post where
  addr : Nat
  data : List Byte
  relaxed : Bool := false
  deriving DecidableEq, Repr

/-! ## Rings (04) -/

/-- A submission ring. -/
structure SubRing where
  base : Nat
  log2 : Nat
  gen : Nat
  cq : Nat
  stream : Option Nat
  prefetch : Nat
  tail : Nat := 0
  fetched : Nat := 0
  /-- Credits spent (R125). -/
  spent : Nat := 0
  /-- Fetched and not yet accepted, in fetch order. -/
  buffer : List Desc := []
  /-- Counts of fetched descriptors whose completion has not been handed to the writer (R129). -/
  opened : List Nat := []
  errored : Bool := false
  destroying : Bool := false
  deriving DecidableEq, Repr

/-- A completion, stream or event ring. -/
structure RecRing where
  base : Nat
  log2 : Nat
  irqEn : Bool
  vector : Nat
  count : Nat
  time : Nat
  head : Nat := 0
  written : Nat := 0
  /-- Records written since the last message (R135). -/
  unsignalled : Nat := 0
  errored : Bool := false
  destroying : Bool := false
  /-- Event records dropped and not yet told by an OVERFLOW record (R141). -/
  dropped : Nat := 0
  deriving DecidableEq, Repr

/-- A record in the record queue: ring kind 1 completion, 2 stream, 3 event, the ring, the words without phase and sequence number, the payload of a stream record, the completion's open descriptor. -/
structure Rec where
  kind : Nat
  ring : Nat
  words : List Nat
  irq : Bool := false
  /-- Output bytes written before the record (R89) and their bus address. -/
  payload : List Byte := []
  addr : Nat := 0
  deriving DecidableEq, Repr

/-- A record that waits for a place in the record queue (R134): a completion in its engine, with its descriptor, or what a turn's end or a takeover writes. -/
structure Engine where
  desc : Option Desc
  out : Rec
  deriving DecidableEq, Repr

/-- Rings, the record queue, the window, MSI-X. -/
structure Rings where
  subs : Map SubRing := []
  cqs : Map RecRing := []
  streams : Map RecRing := []
  events : Map RecRing := []
  /-- R59: the record queue, in the order of arrival. -/
  queue : List Rec := []
  engines : List Engine := []
  /-- R315: the stream ring on which a session whose commit waits for mirror space keeps an entry, beside a place in the record queue. -/
  keep : Map Nat := []
  /-- R125: the ring of the last fetch visit. -/
  lastRing : Nat := 0
  /-- The ring kind and id of a destroy being carried out. -/
  window : Option (Nat × Nat) := none
  /-- STATUS of the last window command. -/
  status : Nat := 0
  /-- MSI-X Enable and Function Mask of the function. -/
  msixEnable : Bool := false
  functionMask : Bool := false
  /-- Vectors whose pending bit is set. -/
  msixPending : Map Unit := []
  /-- Messages sent on each vector. -/
  msixSent : Map Nat := []
  deriving DecidableEq, Repr

/-! ## Sessions (01, 09, 10, 11) -/

/-- A request that waits: its descriptor and the answers already had. -/
structure Waiting where
  desc : Desc
  env : Env
  /-- Where the request goes: 0 the host, 1 to 15 a pool window; 16 and 17 for waits on the inside. -/
  slot : Nat
  /-- R97: the IDE stream of its address. -/
  stream : Nat := 0
  /-- R82: the non-posted requests that it takes; 0 for a posted write, and on the inside. -/
  need : Nat := 0
  /-- R88: tags that it holds; 0 before it is sent. -/
  tags : Nat := 0
  /-- R598: it was sent before the link went down, so no completion comes. -/
  lost : Bool := false
  /-- R435: the row of a bound table that it reads or writes: table, row, and whether it changes it. -/
  row : Option (Nat × Nat × Bool) := none
  /-- What the descriptor has settled for good before it waits (R208, R277). -/
  memo : List Nat := []
  deriving DecidableEq, Repr

/-- Sessions: directory, router stores, descriptors in progress, warm state. -/
structure Sessions where
  /-- Entries that are not FREE, as the directory cache has them. -/
  dir : Map Entry := []
  /-- R172, R175: entries changed in the directory cache and not yet written back, with what the stacked directory holds. -/
  changed : Map Entry := []
  /-- Held descriptors of a session, in order (R12). -/
  held : Map (List Desc) := []
  /-- The descriptor being carried out for a session. -/
  inProg : Map Desc := []
  /-- Descriptors that the sequencer holds for a ring, in order (R126). -/
  seqHeld : Map (List Desc) := []
  seqProg : Map Desc := []
  /-- Requests of descriptors in progress that wait for the outside. -/
  waiting : List Waiting := []
  /-- R21, R409: sessions whose lease word is read again first. -/
  reread : Map Unit := []
  /-- R27: sessions with a policy park in progress. -/
  parking : Map Unit := []
  /-- R586: sessions that the last comparison of their die found at their threshold or above. -/
  due : Map Unit := []
  warm : Map Warm := []
  deriving DecidableEq, Repr

/-! ## Frames, translation and tiers (05, 06) -/

/-- A stacked frame that a session, the prefix tree, a mark or a checkpoint holds. `pair` is 512 * stack + pair. -/
structure Frame where
  die : Bool
  pair : Nat := 0
  count : Nat := 1
  /-- R165, R167: its migration waits at step 1 while the forward table is full. -/
  migrating : Bool := false
  /-- Check blocks, by index, whose check value fails. -/
  bad : List Nat := []
  bytes : Cells := []
  deriving DecidableEq, Repr

/-- R165: an entry of a forward table: the frame that moved (0 for one of an object or a host mapping), the pair it left, or for a loft frame its number, and COUNT, the entries not yet rewritten. `entries`: the sessions whose leaf entries still name the old frame. -/
structure Fwd where
  frame : Nat
  pair : Nat
  loft : Bool := false
  count : Nat
  entries : List Nat := []
  /-- Of a frame of a host-managed page: the page, the frame's index in it, and the frame number it has moved to. -/
  page : Option (Nat × Nat) := none
  now : Nat := 0
  deriving DecidableEq, Repr

/-- R174: loft frames dealt in rotation over the slices that were in service: frame k lies in slice (first + k) mod the number of slices. -/
structure LoftRun where
  first : Nat := 0
  frames : Nat := 0
  slices : List Nat := []
  deriving DecidableEq, Repr

/-- R168 to R171: a host-managed mapping on one die. `kind`: 0 outbound, 1 stacks, 2 loft. -/
structure XPage where
  /-- 0 64 KiB, 1 2 MiB, 2 1 GiB. -/
  size : Nat
  write : Bool
  kind : Nat
  /-- R145, R149: the physical address of its first frame. -/
  pa : Nat := 0
  /-- R165, R166: of a page of several frames, the frame numbers of those that have moved, by index in the page (log 163). -/
  moved : Map Nat := []
  bytes : Cells := []
  bad : List Nat := []
  /-- Its loft frames, for kind 2. -/
  run : LoftRun := {}
  deriving DecidableEq, Repr

/-- A run of units of a pool window: first unit and length. -/
structure Run where
  first : Nat
  units : Nat
  deriving DecidableEq, Repr

/-- R199: an entry of a window's release list: a run to give back, or an unconfirmed take of a session's lease (R409). -/
inductive ReleaseItem where
  | run (r : Run)
  | take (locator generation : Nat) (word : List Nat)
  deriving DecidableEq, Repr

/-- A pool window (R192 to R199). -/
structure Window where
  /-- 0 off, 1 on, 2 failed, 3 header refused. -/
  state : Nat := 0
  unitLog2 : Nat := 0
  units : Nat := 0
  dataOffset : Nat := 0
  cursor : Nat := 0
  /-- Consecutive requests ended by timeout or error (R197). -/
  failures : Nat := 0
  timeouts : Nat := 0
  releases : List ReleaseItem := []
  deriving DecidableEq, Repr

/-- A sheaf as it lies in a barn or that the device otherwise keeps: its bytes. -/
structure Sheaf where
  die : Bool
  frames : Nat
  bytes : List Byte
  /-- Checkpoint references on its barn frames (R521). -/
  refs : Nat := 0
  deriving DecidableEq, Repr

/-- Memory of both dies. -/
structure Mem where
  /-- Frames of the session frame pool that are free. -/
  free : PerDie Nat := ⟨0, 0⟩
  /-- R211: frames of each of a die's 2,048 pairs that hold nothing, and frames that regions and objects hold whose places matter to no command (models, vocabularies, grammars, parts of an index beside its lists, and the regions of R189); empty before the carve. Of a pair in service they are free or reserved; of another they are out of service. -/
  pairFree : PerDie (List Nat) := ⟨[], []⟩
  pairBulk : PerDie (List Nat) := ⟨[], []⟩
  frames : Map Frame := []
  /-- The next number the model gives a frame. -/
  nextFrame : Nat := 1
  stagingFree : PerDie Nat := ⟨0, 0⟩
  /-- R189: staging frames that the carve put in each pair of a die; empty before the carve. -/
  stagePairs : PerDie (List Nat) := ⟨[], []⟩
  barnFree : PerDie Nat := ⟨0, 0⟩
  /-- Sheaves in the barns, by 2 * first barn frame + die. -/
  barn : Map Sheaf := []
  /-- R403: the link tables: each barn frame in use links to the next of its sheaf, the last to 0xFFFF_FFFF. -/
  links : PerDie (Map Nat) := ⟨[], []⟩
  xmap : PerDie (Map XPage) := ⟨[], []⟩
  /-- R166: the forward table, by number of entry. -/
  forward : PerDie (Map Fwd) := ⟨[], []⟩
  nextFwd : Nat := 0
  windows : Map Window := []
  /-- R203: the window last used. -/
  lastWindow : Nat := 0
  /-- Units of the spill region in use, as runs by first unit. -/
  spill : Map Nat := []
  /-- R403: the sheaf index, by session. -/
  index : Map SheafIx := []
  /-- Loft object-space frames free (hot copies lie in them), and frames retired (R173, R179). -/
  loftFree : PerDie Nat := ⟨0, 0⟩
  loftRetired : PerDie (Map Unit) := ⟨[], []⟩
  /-- R178: partitions as they stand after fences. -/
  dirFrames : PerDie Nat := ⟨0, 0⟩
  tailFrames : PerDie Nat := ⟨0, 0⟩
  /-- R174: the frames that the directory cache and the tail pool were dealt, and the next place of the rotation. -/
  dirRun : PerDie LoftRun := ⟨{}, {}⟩
  tailRun : PerDie LoftRun := ⟨{}, {}⟩
  loftNext : PerDie Nat := ⟨0, 0⟩
  /-- R178: required object frames not met. -/
  loftShort : PerDie Nat := ⟨0, 0⟩
  /-- R176: hot weight copies of a slot on a die, key 2 * slot + die. -/
  hot : Map Nat := []
  deriving DecidableEq, Repr

/-! ## Objects (08, 09, 12, 13, 15) -/

/-- A model slot that is not empty (R262). -/
structure Model where
  /-- 1 loading, 2 loaded, 3 unloading. -/
  state : Nat
  /-- The image in plaintext, header first. -/
  image : List Byte
  frames : PerDie Nat := ⟨0, 0⟩
  /-- R58: false when its tiles were lost. -/
  available : Bool := true
  /-- R402: the code lengths of the slot's sheaves; empty before the first. -/
  codes : List Nat := []
  deriving DecidableEq, Repr

/-- A vocabulary, by digest. -/
structure Vocab where
  image : List Byte
  frames : Nat
  loft : Nat
  /-- R174: its loft frames on each die. -/
  runs : PerDie LoftRun := ⟨{}, {}⟩
  deriving DecidableEq, Repr

/-- A grammar, by id. -/
structure Grammar where
  image : List Byte
  frames : Nat
  loft : Nat
  /-- R174: its loft frames on each die. -/
  runs : PerDie LoftRun := ⟨{}, {}⟩
  deriving DecidableEq, Repr

/-- R349: a node of the prefix tree, by node index. -/
structure Node where
  key : Word
  owner : Nat
  block : Nat
  /-- Live prefixes that pass through the node. -/
  through : Nat
  /-- 0xFFFF_FFFF for block 0. -/
  parent : Nat
  deriving DecidableEq, Repr

/-- R344 to R347: a live prefix, by handle. -/
structure Prefix where
  slot : Nat
  stamp : Word
  toks : List Nat
  /-- Bit d: its pages lie on die d; 0 for a pooled prefix. -/
  dies : Nat
  window : Nat := 0
  run : Run := ⟨0, 0⟩
  /-- R356: the global address at which a pooled prefix's run is mapped. -/
  base : Nat := 0
  /-- Node indices in block order. -/
  nodes : List Nat := []
  /-- Frames by column, then layer, on each die; for a spanned model one list, kept under die 0. -/
  pages : PerDie (List (List Nat)) := ⟨[], []⟩
  /-- Page contents of a pooled prefix, by column, then layer. -/
  pooled : List (List Cells) := []
  deriving DecidableEq, Repr

/-- A prefix registration in progress (R354 to R356), by submission ring. -/
structure Registration where
  desc : Desc
  slot : Nat
  die : Bool
  toks : List Nat
  /-- R350: nodes matched, and the pages reused on each die. -/
  matched : List Nat := []
  reused : PerDie (List (List Nat)) := ⟨[], []⟩
  /-- R352: the match ended at a failed comparison. -/
  collided : Bool := false
  /-- Frames of the columns computed so far, by column, then layer. -/
  cols : List (List Nat) := []
  /-- Positions with KV written. -/
  done : Nat := 0
  /-- R354: die 0 frames taken for the token list. -/
  listFrames : Nat := 0
  deriving DecidableEq, Repr

/-- R422: the frames of a replaced list, by pair, and the rings whose searches still scan them. -/
structure LateList where
  list : Nat
  pairs : List Nat
  rings : List Nat
  deriving DecidableEq, Repr

/-- A vector index (R413). -/
structure Index where
  die : Bool
  metric : Nat
  format : Nat
  dim : Nat
  capacity : Nat
  /-- Element encodings of each centroid. -/
  centroids : List (List Nat)
  /-- Records by list, in list-position order. -/
  lists : Map (List VecRec) := []
  /-- R414: the pair of each frame of a list, in order. -/
  pairs : Map (List Nat) := []
  /-- R422: frames of lists that a compaction has replaced, while searches still scan them, the oldest first. -/
  late : List LateList := []
  /-- Frames that INDEX_CREATE took, stacked and loft. -/
  fixed : Nat := 0
  loft : Nat := 0
  run : LoftRun := {}
  deriving DecidableEq, Repr

/-- An embedding table (R431). -/
structure Table where
  die : Bool
  format : Nat
  width : Nat
  rows : Nat
  /-- Bound to a host mapping at `va`, or loaded. -/
  bound : Bool
  adaptive : Bool
  va : Nat := 0
  frames : Nat := 0
  /-- R211, R432: the pair of each of its stacked frames: those of the rows in order, then those of the accumulators. -/
  place : List Nat := []
  /-- Bytes of the rows, row r from r * width; and row numbers whose check blocks fail. -/
  bytes : Cells := []
  bad : Map Unit := []
  /-- Accumulators by row (R437). -/
  adapt : Map W32 := []
  deriving DecidableEq, Repr

/-- R419: an entry that a DIST_SCAN returned: key, probe rank, list position, record. -/
structure Hit where
  key : W32
  rank : Nat
  pos : Nat
  item : VecRec
  deriving DecidableEq, Repr

/-- What a descriptor that waits for bank-unit commands has gathered: entries of its scans and records they skipped, partial rows by bag, filter bytes, the status of a part that failed. -/
structure Job where
  desc : Desc
  hits : List Hit := []
  skipped : Nat := 0
  rows : List (Nat × List Byte) := []
  filter : List Byte := []
  failed : Option Status := none
  deriving DecidableEq, Repr

/-- Loaded objects. -/
structure Objects where
  models : Map Model := []
  vocabs : Map Vocab := []
  grammars : Map Grammar := []
  prefixes : Map Prefix := []
  /-- R349: the node table, by slot. -/
  nodes : Map Node := []
  registering : Map Registration := []
  /-- R345: handles issued since reset. -/
  issued : List Nat := []
  indexes : Map Index := []
  tables : Map Table := []
  /-- By submission ring. -/
  jobs : Map Job := []
  deriving DecidableEq, Repr

/-! ## Accounts and steps (10, 16) -/

/-- An account on one die (R446, R450, R453). -/
structure Acct where
  c : Int := 0
  e : Int := 0
  pendC : Nat := 0
  pendE : Nat := 0
  tc : Nat := 0
  tp : Nat := 0
  tag : Nat := 0
  decodeQ : List Nat := []
  laneQ : List Nat := []
  deriving DecidableEq, Repr

/-- An account's settings. -/
structure AcctCfg where
  cir : Nat
  weight : Nat
  cbs : Nat
  ebs : Nat := 1
  eir : Nat := 0
  mEnable : Bool := false
  mCir : Nat := 0
  mPir : Nat := 0
  mCbs : Nat := 0
  mPbs : Nat := 0
  deriving DecidableEq, Repr

/-- A row placed in a step (R299, R303, R444). -/
structure Row where
  session : Nat
  /-- A prefill chunk of so many positions; 0 for a decode row. -/
  chunk : Nat := 0
  account : Nat := 0
  /-- 0 none, 1 committed bucket, 2 excess bucket. -/
  bucket : Nat := 0
  charge : Nat := 0
  half : Bool := false
  /-- R477: the faults that have met its part of the step. -/
  faults : List Status := []
  deriving DecidableEq, Repr

/-- R59: a batch that waits in the batch queue for the region scheduler agents: its model slot and its rows. -/
structure Planned where
  slot : Nat
  rows : List Row
  deriving DecidableEq, Repr

/-- A step scheduler. -/
structure Sched where
  accts : Map Acct := []
  vtime : Nat := 0
  /-- Rows of the step in flight not yet committed, and its model slot. -/
  rows : List Row := []
  slot : Nat := 0
  /-- R59: the batch queue, the first to run first. -/
  batches : List Planned := []
  /-- R315: commits that wait for mirror space. -/
  waitMirror : List Nat := []
  lastRows : Nat := 0
  /-- R564: refills of buckets and of meters that fell due while the step scheduler was off. -/
  dueBuckets : Nat := 0
  dueMeters : Nat := 0
  /-- SCALE of SCHED_CAP_STAT (R464). -/
  scale : Nat := 65536
  deriving DecidableEq, Repr

/-- Rows placed on a die: those of the step in flight and those of the batches that wait. -/
def Sched.placed (s : Sched) : List Row := s.rows ++ s.batches.flatMap (·.rows)

/-! ## Bank units and governor (07) -/

/-- One bank pair that is not at its reset values. -/
structure Pair where
  /-- 0 in service, 1 draining, 2 fenced, 3 repairing. -/
  state : Nat := 0
  unitFenced : Bool := false
  errors : Nat := 0
  queue : List BankCmd := []
  /-- Commands issued and not yet reported (R221). -/
  issued : List BankCmd := []
  /-- R227: refresh debt of the even and of the odd bank. -/
  debt0 : Nat := 0
  debt1 : Nat := 0
  /-- R224: controller cycles since the running command issued, as the refresh ticks count them. -/
  clock : Nat := 0
  /-- R213: the bytes of the last result read from the unit. -/
  result : List Byte := []
  /-- R330: pooled pages staged in its frames (handle, layer, block) and the frames that they take. -/
  staged : List ((Nat × Nat × Nat) × Nat) := []
  /-- R235: spare rows of the even and of the odd bank used. -/
  spared0 : Nat := 0
  spared1 : Nat := 0
  deriving DecidableEq, Repr

/-- One stack. -/
structure Stack where
  /-- 0 not trained, 1 in service, 2 fenced. -/
  state : Nat := 0
  /-- R570: it trained at the last training. -/
  trained : Bool := false
  doubled : Bool := false
  /-- R560, R563: in self-refresh: its controller's domain is off, or the device has tripped. -/
  selfRefresh : Bool := false
  temp : Nat := 0
  spareRows : Nat := 0
  /-- Results in the partial queue (R59). -/
  partials : Nat := 0
  /-- R59: commands that found the bank command queue full, with their pairs, in order. -/
  delayed : List (Nat × BankCmd) := []
  pairs : Map Pair := []
  deriving DecidableEq, Repr

/-- A die's activity governor (R229). -/
structure Gov where
  level : Nat := 0
  calm : Nat := 0
  allow : Int := 0
  /-- The loan received for this period. -/
  loan : Nat := 0
  /-- R231: a CAPACITY record of cause 5 stands at this level; 0 for none. -/
  holding : Nat := 0
  /-- The loan sent and not yet arrived at the other die. -/
  lent : Nat := 0
  deriving DecidableEq, Repr

/-! ## Levels (02) -/

/-- The cores, clusters and regions of a die. -/
structure Levels where
  /-- Cores failed in a cluster, key 8 * region + cluster. -/
  cores : Map Nat := []
  clusters : Map Unit := []
  regions : Map Unit := []
  lost : Bool := false
  deriving DecidableEq, Repr

/-! ## Errors (17) -/

/-- Error counts of one die. -/
structure Rates where
  /-- Counts of classes 1 to 8 in the current and the last window. -/
  now : Map Nat := []
  last : Map Nat := []
  /-- R480, R481, R484: classes already recorded, watch classes already started, classes whose first repaired error of this window is already logged. -/
  told : Map Unit := []
  watched : Map Unit := []
  logged : Map Unit := []
  /-- R482: counts per core (key 9 * (8 * region + cluster) + core) and per loft frame. -/
  cores : Map Nat := []
  frames : Map Nat := []
  deriving DecidableEq, Repr

/-- The error log and counters. -/
structure Errors where
  /-- Entries by slot: four words. -/
  log : Map (List Nat) := []
  next : Nat := 0
  /-- R483: entries held on die 1, and dropped there. -/
  held1 : List (List Nat) := []
  dropped1 : Nat := 0
  fatal : Option (List Nat) := none
  rates : PerDie Rates := ⟨{}, {}⟩
  deriving DecidableEq, Repr

/-! ## Twin (18) -/

/-- A shadow session (R499 to R503). -/
structure Shadow where
  entry : Entry
  ctl : Ctl := {}
  cols : List ImageCol := []
  cleared : Map Column := []
  mapCount : Nat := 0
  /-- R503: where this device keeps the sheaf of a parked one, or the index entry of a pooled one. -/
  ix : Option SheafIx := none
  turn : Option Turn := none
  mark : Option (Entry × Ctl × List ImageCol) := none
  /-- R313: the end reason that the turn's last step record holds, where that step ends the turn. -/
  ends : Option Nat := none
  /-- Columns of the chunks of an APPEND not yet done. -/
  lane : List (List (List Byte)) := []
  fin : Option Fin0 := none
  /-- Its contents have not come to this device: a session that the twin restored. -/
  bare : Bool := false
  deriving DecidableEq, Repr

/-- R312, R502: what waits for mirror space: a record, and the completion that follows it: descriptor, status, counts; with `replayed`, of a turn that was taken over. -/
structure LateRec where
  out : MirrorRec
  fin : Option (Desc × Status × Nat × Nat) := none
  replayed : Bool := false
  deriving DecidableEq, Repr

/-- A frame in the retry buffer (R488, R490): its class, what it acknowledges or asks for, the credits it returns, and its payload. -/
structure TxFrame where
  seq : Nat
  cls : Nat
  resends : Nat := 0
  ack : Nat := 0
  nak : Bool := false
  creditCls : Nat := 0
  credits : Nat := 0
  payload : List Byte := []
  deriving DecidableEq, Repr

/-- The pair. -/
structure Twin where
  linkUp : Bool := false
  /-- HNG_PAIR_STATUS.STATE and CAUSE. -/
  state : Nat := 0
  cause : Nat := 0
  sparesUsed : Nat := 0
  /-- Lanes failed, of lanes 0 to 33. -/
  badLanes : Map Unit := []
  half : Bool := false
  twinNo : Nat := 0
  hello : Option Hello := none
  txSeq : Nat := 0
  rxNext : Nat := 0
  nak : Bool := false
  /-- R490: the twin has asked for a replay. -/
  replay : Bool := false
  retry : List TxFrame := []
  /-- Credits left to send, by class 0 to 2. -/
  credits : Map Nat := []
  /-- R489: frames taken, by class, whose credit has not been returned. -/
  owed : Map Nat := []
  /-- Heartbeats sent, and silent: no heartbeat for MISS periods. -/
  beats : Nat := 0
  silent : Bool := false
  /-- R506: the witness must be won before a takeover. -/
  seeking : Bool := false
  /-- R495: own sessions still to be sent. -/
  toSend : List Nat := []
  /-- Ids of the twin's sessions whose shadow is not complete. -/
  toRecv : List Nat := []
  recvDone : Bool := false
  shadows : Map Shadow := []
  /-- Frames the twin has granted to this device, and frames this device has granted. -/
  granted : PerDie Nat := ⟨0, 0⟩
  lent : PerDie Nat := ⟨0, 0⟩
  /-- R498: the device unpairs: what it has still to send goes first. -/
  unpairing : Bool := false
  saidUnpair : Bool := false
  /-- R499: a further block has been asked for, and has not come. -/
  asked : PerDie Bool := ⟨false, false⟩
  /-- Mirror records, or pieces of them, not yet sent in full, and bytes of the first already sent. -/
  mirror : List MirrorPiece := []
  mirrorSent : Nat := 0
  /-- R502: bytes of a record that is still being made, by session, that have entered the queue. -/
  entered : Map Nat := []
  /-- R312: records that wait for mirror space. -/
  late : List LateRec := []
  gaveUp : Bool := false
  /-- GIVE_UP messages sent; the model's own count. -/
  giveUps : Nat := 0
  /-- R507: a takeover has started, and its shadows are still to be promoted. -/
  taking : Bool := false
  /-- R462: a takeover stands. -/
  taken : Bool := false
  takeovers : Nat := 0
  /-- R511. -/
  ringHold : Bool := false
  /-- R510: kept completions not yet written. -/
  kept : Map Fin0 := []
  /-- R507: pooled sessions whose lease still names the dead twin, with its device number. -/
  leases : Map Nat := []
  /-- Requests sent to the twin for pages, sheaves or tiles; answers sent to the twin's requests. -/
  requests : List TwinReq := []
  /-- R495: copies of sessions sent to the twin, newest last. -/
  copies : List MirrorRec := []
  /-- R489: what waits in the control and the bulk class; bytes of the first bulk item already sent; the place in the round of three mirror frames and one bulk frame. -/
  ctl : List TwinMsg := []
  bulk : List BulkItem := []
  bulkSent : Nat := 0
  share : Nat := 0
  /-- R488: the bytes that each data lane carried of the frame sent last. -/
  wire : List (List Byte) := []
  answers : List (TwinReq × List Byte) := []
  deriving DecidableEq, Repr

/-! ## Checkpoints (19) -/

/-- A checkpoint class as set (R520). -/
structure CkClass where
  enable : Bool
  dest : Bool
  window : Nat
  scope : Nat
  timerEn : Bool
  keep : Nat
  base : Nat
  areaSize : Nat
  timer : Nat
  steps : Nat
  /-- The run of units of a pool destination, and whether another device claimed it. -/
  run : Option Run := none
  attached : Bool := false
  /-- Class sequence of the next epoch (R518). -/
  seq : Nat := 0
  /-- Decode steps committed in scope since the last cut (R516). -/
  since : Nat := 0
  deriving DecidableEq, Repr

/-- What a sheaf header says of a model and a prefix, as it stood at the cut (R396). -/
structure CutHead where
  slot : Nat := 0
  kvFmt : Nat := 6
  spanned : Bool := false
  layers : Nat := 0
  digest : Nat := 0
  vocab : Nat := 0
  grammar : Nat := 0
  prefixCols : Nat := 0
  prefixStamp : Nat := 0
  deriving DecidableEq, Repr

/-- What a session in scope was at the cut: its entry; for a warm one its contents and the frames of its leaf entries; for a packed one its index entry. -/
structure CutItem where
  session : Nat
  entry : Entry
  image : Option Image := none
  head : CutHead := {}
  frames : List Nat := []
  ix : Option SheafIx := none
  deriving DecidableEq, Repr

/-- A prefix named by a session in scope, as it stood at the cut: its page contents by column, then layer. -/
structure CutPrefix where
  handle : Nat
  px : Prefix
  head : CutHead
  pages : List (List Cells)
  deriving DecidableEq, Repr

/-- The running epoch. -/
structure Epoch where
  cls : Nat
  number : Nat
  seq : Nat
  /-- The CKPT_START that names it. -/
  desc : Option Desc := none
  cut : PerDie Bool := ⟨false, false⟩
  /-- Sessions still to be recorded, in ascending id. -/
  items : List CutItem := []
  /-- The cut maps: sessions marked whose hasps are not yet set. -/
  marked : Map Unit := []
  /-- Frames whose reference passed to the checkpoint, with how many (R163, R523). -/
  frames : Map Nat := []
  /-- Frames whose old contents lie in a staging frame, with its die (R162). -/
  staged : Map Bool := []
  /-- Prefixes still to be recorded. -/
  prefixes : List CutPrefix := []
  /-- Records of the shard that each die fills, and of these the bytes that have passed from its checkpoint queue to the host port (R59). -/
  filling : PerDie (List (List Byte)) := ⟨[], []⟩
  passed : PerDie Nat := ⟨0, 0⟩
  /-- R527: the die whose shard has its place behind the shards before it, and is being written. -/
  writing : Option Bool := none
  /-- Bytes of the epoch's area written. -/
  offset : Nat := 0
  /-- Shards closed: id, die, bytes. -/
  shards : List (Nat × Bool × Nat) := []
  /-- What the manifest requires: kind, id, digest. -/
  needs : List (Nat × Nat × Nat) := []
  failed : Option Status := none
  deriving DecidableEq, Repr

/-- Checkpoints. -/
structure Ckpt where
  classes : Map CkClass := []
  /-- The number of the next epoch; none until the first, which CKP_EPOCH_BASE numbers. -/
  next : Option Nat := none
  running : Option Epoch := none
  /-- Classes with a pending start. -/
  pending : Map Unit := []
  /-- CKP_LAST. -/
  last : Map Nat := []
  /-- CKP_RESTORE_STAT. -/
  skipped : Nat := 0
  candidates : Nat := 0
  /-- Sessions whose commit waits for a staging frame (R162). -/
  stalled : Map Unit := []
  deriving DecidableEq, Repr

/-! ## Power (21, 23) -/

/-- Power, clocks and resets. -/
structure Power where
  /-- The always-on supply is good. -/
  on : Bool := false
  /-- Supply-good inputs that count as asserted (R592): bit i for rail i of the power-up order. -/
  rails : Nat := 0
  /-- R593: a supply was lost while the device ran. -/
  supplyLost : Bool := false
  perst : Bool := true
  ready : Bool := false
  cold : Bool := false
  failed : Bool := false
  tripped : Bool := false
  /-- R576: every sensor has read below 95 °C since the trip. -/
  cooled : Bool := false
  /-- R576: a fundamental reset that waits until the parts have cooled: its cause, and whether flash still holds the firmware of power-on. -/
  resetHeld : Option (ResetCause × Bool) := none
  /-- R536, R572: the parts of each die that the boot chain did not verify, which no reset verifies. -/
  unverified : PerDie Bool := ⟨false, false⟩
  /-- Training has run (R570). -/
  trained : Bool := false
  /-- Bits of the 112 switched domains. -/
  domains : Nat := 0
  /-- R561: the clusters of each die, 0 to 31, that wait for their region's start. -/
  waking : PerDie (List Nat) := ⟨[], []⟩
  /-- R561: the region of each die whose clusters started last, and the aon count of that start. -/
  started : PerDie (Option (Nat × Nat)) := ⟨none, none⟩
  /-- Locked PLLs: bits 0 to 2 die 0, bits 4 to 6 die 1. -/
  locks : Nat := 0
  deep : Bool := false
  cause : Nat := 1
  resets : Nat := 0
  /-- R57: held after a die loss. -/
  held : Bool := false
  /-- R594: open-drain outputs, true while asserted low. -/
  thermtrip : Bool := false
  /-- R554: package power in W as last averaged, and the average under way: the sum of the readings, their number, the aon count at which it began. -/
  watts : Nat := 0
  wattSum : Nat := 0
  wattReads : Nat := 0
  wattFrom : Nat := 0
  /-- R554: the hottest junction of each die as read last, rounded. -/
  temps : PerDie Nat := ⟨0, 0⟩
  deriving DecidableEq, Repr

/-- What the device answers to the last non-posted request of the host: nothing yet, Unsupported Request, or data (a register read, an AtomicOp's old value, a mailbox response). -/
inductive Reply where
  | none
  | ur
  | data (bs : List Byte)
  deriving DecidableEq, Repr

/-- R542: a mailbox object that is not answered yet: its type (none: DOE Discovery), its body, and whether it came through the registers of configuration space. -/
structure DoeObject where
  kind : Option Nat
  body : List Byte
  port : Bool := false
  deriving DecidableEq, Repr

/-- R101, R542: the Data Object Exchange mailbox: the objects not answered yet, in their order; the words written to the write mailbox and those still to be read; DOE Error; and the answers for the token read of an unseal that waits. -/
structure Doe where
  queue : List DoeObject := []
  words : List Nat := []
  out : List Nat := []
  error : Bool := false
  token : Option Env := none
  deriving DecidableEq, Repr

/-- Everything but the command queue and the root of trust. -/
structure Core where
  /-- Random draws made (Config.random); the model's own counter. -/
  draws : Nat := 0
  /-- Aon cycles since power-on. -/
  aon : Nat := 0
  /-- The memory writes that the device has sent, the last first. -/
  bus : List Post := []
  cfg : Cfg := {}
  reply : Reply := .none
  /-- BAR0 registers that do not read their reset value, by offset. -/
  regs : Map Nat := []
  /-- The lock sequence runs or has completed; the last was refused (R588). -/
  setupBusy : Bool := false
  setupDone : Bool := false
  setupRefused : Bool := false
  link : Link := {}
  rings : Rings := {}
  sess : Sessions := {}
  mem : Mem := {}
  obj : Objects := {}
  /-- Text bytes tokenized that do not yet fill a unit of TOK_STAT.BYTES_IN. -/
  tokRest : Nat := 0
  acctCfg : Map AcctCfg := []
  sched : PerDie Sched := ⟨{}, {}⟩
  stackTab : Map Stack := []
  gov : PerDie Gov := ⟨{}, {}⟩
  levels : PerDie Levels := ⟨{}, {}⟩
  errs : Errors := {}
  twin : Twin := {}
  ckpt : Ckpt := {}
  power : Power := {}
  doe : Doe := {}
  deriving DecidableEq, Repr

/-- The root of trust (20). -/
structure Rot where
  /-- Measurement registers 0 to 15, 32 bytes each (R537). -/
  mrs : List (List Byte) := List.replicate 16 (List.replicate 32 0)
  tenantEpoch : Nat := 0
  /-- Next HSS leaf; none until the first signature fixes it (R540). -/
  leaf : Option Nat := none
  gap : Bool := false
  exhausted : Bool := false
  /-- R539: the reservation held, the record sequence, the reservation the twin has recorded for this device, and the twin's own that this device keeps. -/
  reserved : Nat := 0
  logSeq : Nat := 0
  /-- R539: the bytes of the record written last, as it went to the twin. -/
  record : List Byte := []
  twinKnows : Option Nat := none
  twinLog : Nat := 0
  sealKeys : Map (List Byte) := []
  ideKeys : Map (List Byte) := []
  debug : Bool := false
  status : Nat := 0
  nonce : List Word := []
  /-- RTP_STATUS.NONCE_IDX: the unseal nonce word read last. -/
  nonceIdx : Nat := 0
  imageB : Bool := false
  fwVersions : List Nat := []
  /-- R568: the block firmware of die 0 and of die 1, as the boot image holds it. -/
  firmware : List (List Byte) := []
  /-- R553: the tenant epoch in the flash log, once this device has written one or booted from it. -/
  flashEpoch : Option Nat := none
  /-- R568: digests MR2 and MR3 were extended with. -/
  fwDigests : List (List Byte) := []
  deriving DecidableEq, Repr

/-- The state: the commands that wait, the root of trust, everything else. -/
structure State where
  pending : List Instr
  rot : Rot
  core : Core
  deriving DecidableEq, Repr

/-- Right after power-on reset: nothing is trained, nothing is carved, every register reads its reset value, and no command waits. -/
def State.reset : State := ⟨[], {}, {}⟩

end Sys2Proof.Machine
end

