-- ==== Sys2Proof/Machine/Registers.lean ====
section
/-! DEFINITION. The BAR0 register map (22_registers and the field tables of every chapter): the fields of each register with access code, reset value and range, and the stored values. -/

namespace Sys2Proof.Machine

/-- R6: access codes. `rc` is an RO count that a read clears (R580). -/
inductive Access where
  | rw | ro | wo | w1c | rws | rc
  deriving DecidableEq, Repr

/-- A field: lowest bit, width, access, reset value, range of the value after a write (R579). -/
structure Field where
  lo : Nat
  width : Nat
  acc : Access
  reset : Nat := 0
  min : Nat := 0
  max : Nat := 2 ^ 64
  deriving DecidableEq, Repr

/-- A family of registers at `base + stride * i`, i below `n`. -/
structure RegDef where
  base : Nat
  stride : Nat := 8
  n : Nat := 1
  fields : List Field
  deriving DecidableEq, Repr

/-- R582: HIF and RNG blocks. -/
def regsHif : List RegDef :=
  [ ⟨0x0, 8, 1, [⟨0, 8, .ro, 0xB0, 0, 255⟩, ⟨8, 8, .ro, 1, 0, 255⟩, ⟨16, 3, .ro, 7, 0, 7⟩]⟩,
    ⟨0x8, 8, 1, [⟨0, 1, .ro, 0, 0, 1⟩]⟩,
    ⟨0x10, 8, 1, [{ lo := 0, width := 16, acc := .rw }]⟩,
    ⟨0x18, 8, 1, [{ lo := 14, width := 1, acc := .w1c }]⟩,
    ⟨0x20, 8, 1, [{ lo := 0, width := 32, acc := .rw, reset := 0x017D7840 }]⟩,
    ⟨0x8000, 16, 2048, [{ lo := 0, width := 64, acc := .rw }]⟩,
    ⟨0x8008, 16, 2048, [{ lo := 0, width := 32, acc := .rw }, { lo := 32, width := 1, acc := .rw, reset := 1 }]⟩,
    ⟨0x10010, 8, 1, [{ lo := 12, width := 52, acc := .rw }]⟩,
    ⟨0x10018, 8, 1, [{ lo := 0, width := 5, acc := .rw }, { lo := 5, width := 2, acc := .rw },
      { lo := 7, width := 1, acc := .rw }, { lo := 8, width := 11, acc := .rw }]⟩,
    ⟨0x10020, 8, 1, [{ lo := 0, width := 12, acc := .rw }, { lo := 12, width := 10, acc := .rw },
      { lo := 22, width := 1, acc := .rw }, { lo := 24, width := 7, acc := .rw }]⟩,
    ⟨0x10028, 8, 1, [{ lo := 0, width := 8, acc := .rw }, { lo := 16, width := 16, acc := .rw }]⟩,
    ⟨0x10030, 8, 1, [{ lo := 0, width := 64, acc := .rw }]⟩,
    ⟨0x10038, 8, 1, [{ lo := 0, width := 32, acc := .rc }]⟩ ]

/-- R582: XLT, LOFT, TIER, HBC blocks. -/
def regsTier : List RegDef :=
  [ ⟨0x100000, 8, 1, [{ lo := 16, width := 48, acc := .rws }]⟩,
    ⟨0x100008, 8, 1, [{ lo := 0, width := 32, acc := .rc }, { lo := 32, width := 32, acc := .rc }]⟩,
    ⟨0x200000, 8, 1, [⟨0, 16, .rws, 0x400, 256, 8192⟩, ⟨16, 16, .rws, 0x2000, 1024, 16384⟩]⟩,
    ⟨0x200100, 8, 1, [⟨0, 21, .rws, 0, 0, 524288⟩, ⟨32, 15, .rws, 0x400, 256, 16384⟩]⟩,
    ⟨0x200108, 8, 1, [{ lo := 0, width := 21, acc := .rws, reset := 0x4000 }]⟩,
    ⟨0x200110, 8, 1, [{ lo := 0, width := 32, acc := .rw, reset := 0x61A8 }, { lo := 32, width := 32, acc := .rw, reset := 0x3D090 }]⟩,
    ⟨0x200118, 8, 1, [{ lo := 21, width := 43, acc := .rws }]⟩,
    ⟨0x200120, 8, 1, [{ lo := 0, width := 24, acc := .rws }]⟩,
    ⟨0x200220, 0x20, 15, [{ lo := 20, width := 44, acc := .rw }]⟩,
    ⟨0x200228, 0x20, 15, [{ lo := 20, width := 44, acc := .rw }]⟩,
    ⟨0x200230, 0x20, 15, [{ lo := 0, width := 1, acc := .rw }, { lo := 1, width := 1, acc := .rw }]⟩,
    ⟨0x300008, 0x10000, 8, [{ lo := 0, width := 32, acc := .rc }, { lo := 32, width := 4, acc := .rc }]⟩,
    ⟨0x300200, 8, 1, [⟨0, 7, .rw, 100, 10, 100⟩, { lo := 8, width := 1, acc := .rws, reset := 1 }]⟩,
    ⟨0x300208, 8, 1, [{ lo := 16, width := 32, acc := .rc }]⟩ ]

/-- R582: TOK, TMB, THR, SRCH, EMB and SCHED blocks. -/
def regsEng : List RegDef :=
  [ ⟨0x400000, 8, 1, [{ lo := 0, width := 32, acc := .rc }, { lo := 32, width := 16, acc := .rc }]⟩,
    ⟨0x410000, 8, 1, [{ lo := 16, width := 32, acc := .rc }]⟩,
    ⟨0x410008, 8, 1, [{ lo := 0, width := 32, acc := .ro }, { lo := 32, width := 32, acc := .ro }]⟩,
    ⟨0x420000, 8, 1, [{ lo := 0, width := 32, acc := .rws }]⟩,
    ⟨0x420008, 8, 1, [{ lo := 0, width := 32, acc := .rc }, { lo := 32, width := 32, acc := .rc }]⟩,
    ⟨0x430000, 8, 1, [{ lo := 0, width := 32, acc := .rc }, { lo := 32, width := 32, acc := .rc }]⟩,
    ⟨0x430008, 8, 1, [{ lo := 0, width := 32, acc := .rc }, { lo := 32, width := 32, acc := .rc }]⟩,
    ⟨0x500000, 8, 2, [{ lo := 0, width := 32, acc := .rw }]⟩,
    ⟨0x500100, 8, 1, [⟨0, 13, .rw, 0x1000, 1, 4096⟩, ⟨16, 13, .rw, 0x200, 64, 4096⟩,
      ⟨32, 15, .rw, 0x1000, 64, 16384⟩, ⟨48, 7, .rw, 0x19, 0, 100⟩]⟩,
    ⟨0x500108, 8, 1, [{ lo := 0, width := 32, acc := .rc }]⟩,
    ⟨0x500110, 8, 1, [{ lo := 0, width := 32, acc := .ro }, { lo := 32, width := 32, acc := .ro }]⟩,
    ⟨0x500140, 8, 1, [{ lo := 0, width := 1, acc := .rw, reset := 1 }, ⟨8, 5, .rw, 3, 1, 16⟩,
      { lo := 16, width := 16, acc := .rw, reset := 0x40 }, { lo := 32, width := 24, acc := .rw, reset := 0x1000 }]⟩,
    ⟨0x500148, 8, 1, [{ lo := 0, width := 32, acc := .rc }, { lo := 32, width := 32, acc := .rc }]⟩,
    ⟨0x500180, 8, 1, [{ lo := 48, width := 16, acc := .rc }]⟩,
    ⟨0x500200, 8, 1, [⟨0, 32, .rws, 0x61A8, 250, 25000000⟩]⟩,
    ⟨0x500208, 8, 1, [{ lo := 0, width := 32, acc := .rws }]⟩,
    ⟨0x500228, 8, 1, [{ lo := 0, width := 32, acc := .rc }, { lo := 32, width := 32, acc := .rc }]⟩,
    ⟨0x500300, 8, 16, [⟨0, 16, .rw, 0x3E8, 1, 65535⟩, ⟨16, 16, .rw, 0xFA, 1, 65535⟩]⟩ ]

/-- R582: INT, HNG, CKP, RTP, PWR blocks. -/
def regsSys : List RegDef :=
  [ ⟨0x600000, 8, 1, [{ lo := 40, width := 16, acc := .rc }]⟩,
    ⟨0x600040, 8, 1, [⟨0, 32, .rw, 0x017D7840, 25000, 0xFFFFFFFF⟩]⟩,
    ⟨0x600080, 8, 8, [{ lo := 0, width := 32, acc := .rw, reset := 0x400 }]⟩,
    ⟨0x600100, 8, 1, [{ lo := 0, width := 32, acc := .rw, reset := 0x2710 }, { lo := 32, width := 32, acc := .rw, reset := 0x186A0 }]⟩,
    ⟨0x600108, 8, 1, [⟨0, 8, .rw, 0x10, 1, 255⟩, ⟨8, 8, .rw, 4, 1, 255⟩, ⟨16, 16, .rw, 0x100, 1, 65535⟩, ⟨32, 16, .rw, 0x400, 1, 65535⟩]⟩,
    ⟨0x700000, 8, 1, [{ lo := 0, width := 1, acc := .rw }, { lo := 1, width := 1, acc := .rw, reset := 1 }]⟩,
    ⟨0x700010, 8, 1, [⟨0, 16, .rws, 0x9C4, 250, 65535⟩, ⟨16, 8, .rws, 0xA, 2, 255⟩]⟩,
    ⟨0x700018, 8, 1, [{ lo := 0, width := 4, acc := .rws }, { lo := 4, width := 44, acc := .rws }]⟩,
    ⟨0x700020, 8, 1, [{ lo := 0, width := 12, acc := .rw }, { lo := 12, width := 10, acc := .rw }]⟩,
    ⟨0x710000, 8, 1, [{ lo := 0, width := 64, acc := .rws, reset := 1, min := 1 }]⟩,
    ⟨0x710008, 8, 1, [{ lo := 32, width := 32, acc := .rc }]⟩,
    ⟨0x800008, 8, 1, [{ lo := 6, width := 58, acc := .rw }]⟩,
    ⟨0x900000, 8, 1, [{ lo := 0, width := 32, acc := .rw, reset := 0x9C4 }, { lo := 32, width := 32, acc := .rw, reset := 0x2625A0 }]⟩,
    ⟨0x900020, 8, 1, [{ lo := 32, width := 32, acc := .rc }]⟩ ]

/-- Every register with a stored field. -/
def regTable : List RegDef := regsHif ++ regsTier ++ regsEng ++ regsSys

/-- True when an offset belongs to a family. -/
def RegDef.covers (r : RegDef) (off : Nat) : Bool :=
  r.base ≤ off && (off - r.base) % r.stride == 0 && (off - r.base) / r.stride < r.n

/-- The stored fields of the register at an offset; none for an offset without any. -/
def regFields (off : Nat) : List Field :=
  match regTable.find? fun r => r.covers off with
  | some r => r.fields
  | none => []

/-- The reset value of a register, from its fields. -/
def regReset (off : Nat) : Nat :=
  (regFields off).foldl (fun v f => v + fieldAt f.lo f.width f.reset) 0

/-- The stored value of a register: an unlisted one reads its reset value. -/
def regGet (c : Core) (off : Nat) : Nat := (mapGet c.regs off).getD (regReset off)

/-- Stores a register's value; the reset value is not listed, so equal registers are equal data. -/
def regSet (c : Core) (off v : Nat) : Core :=
  { c with regs := if v = regReset off then mapDel c.regs off else mapSet c.regs off v }

/-- A field of a stored register. -/
def regField (c : Core) (off hi lo : Nat) : Nat := bits (regGet c off) hi lo

/-- Replaces a field of a stored register. -/
def regPut (c : Core) (off hi lo x : Nat) : Core := regSet c off (putBits (regGet c off) hi lo x)

/-- Adds to a saturating count field. -/
def regCount (c : Core) (off hi lo n : Nat) : Core :=
  regPut c off hi lo (satAdd (hi - lo + 1) (regField c off hi lo) n)

/-- The 13 registers of R587 in ascending offset. -/
def rwsRegs : List Nat :=
  [0x100000, 0x200000, 0x200100, 0x200108, 0x200118, 0x200120, 0x300200, 0x420000, 0x500200, 0x500208, 0x700010,
    0x700018, 0x710000]

/-- R589: a register's RWS fields, every other bit zero. -/
def rwsValue (c : Core) (off : Nat) : Nat :=
  (regFields off).foldl (fun v f =>
    if f.acc = .rws then v + fieldAt f.lo f.width (bits (regGet c off) (f.lo + f.width - 1) f.lo) else v) 0

/-- R589: the 104 bytes measured into MR5. -/
def rwsString (c : Core) : List Byte := rwsRegs.flatMap fun o => natLe 8 (rwsValue c o)

/-- R588: RWS fields are frozen from the write of DONE on. -/
def rwsLocked (c : Core) : Bool := c.setupBusy || c.setupDone

/-- The bits of an 8-byte register that an access of `size` bytes at byte `half` (0 or 4) reaches, as (low bit, width). -/
def accessLo (half : Nat) : Nat := 8 * half

/-- The value a register would hold after a write of `value`, field by field under its own code (R6, R579). -/
def writtenValue (locked : Bool) (old : Nat) (fs : List Field) (half size value : Nat) : Nat :=
  fs.foldl (fun v f =>
    (List.range f.width).foldl (fun v i =>
      let b := f.lo + i
      if accessLo half ≤ b ∧ b < accessLo half + 8 * size then
        let nb := bit value (b - accessLo half)
        match f.acc with
        | .rw => putBits v b b (b2n nb)
        | .rws => if locked then v else putBits v b b (b2n nb)
        | .w1c => if nb then putBits v b b 0 else v
        | _ => v
      else v) v) old

/-- R579: every writable field in its range. -/
def inRange (off v : Nat) : Bool :=
  ((regFields off).all fun f =>
    let x := bits v (f.lo + f.width - 1) f.lo
    f.acc == .ro || f.acc == .rc || f.acc == .w1c || (f.min ≤ x && x ≤ f.max)) &&
  (if off = 0x500100 then
    bits v 28 16 % 64 == 0 && bits v 28 16 ≤ bits v 46 32
  else true)

/-- R6, R588: the write would change the value of a locked field. -/
def locksChange (old : Nat) (fs : List Field) (half size value : Nat) : Bool :=
  writtenValue false old (fs.filter fun f => f.acc == .rws) half size value != old

/-- R86: a BAR0 access of 4 or 8 bytes, aligned. -/
def alignedAccess (off size : Nat) : Bool := (size == 4 || size == 8) && off % size == 0

end Sys2Proof.Machine
end

