-- ==== Sys2Proof/Machine/Ops.lean ====
section
/-! DEFINITION. The named operations that the meanings share: status codes, descriptor fields, the error log, event records, the record queue and its writers, completions, the carrying out of a descriptor against the outside's answers, frames, and measurement. -/

namespace Sys2Proof.Machine

/-- R7: the code of a status. -/
def stCode : Status → Nat
  | .ok => 0 | .fewer => 1 | .cancelled => 2 | .grammarStall => 3 | .replayed => 4
  | .invalidField => 0x10 | .unsupported => 0x11 | .wrongState => 0x12 | .unknownHandle => 0x13 | .sealedSt => 0x14
  | .noSpace => 0x20 | .refusedFit => 0x21 | .budget => 0x22 | .policed => 0x23
  | .tierTimeout => 0x30 | .tierError => 0x31 | .leaseLost => 0x32
  | .dataError => 0x40 | .checkMismatch => 0x41 | .partFailed => 0x42
  | .lost => 0x50 | .fenced => 0x51

/-- R10: the value of a session state. -/
def stateCode : SState → Nat
  | .free => 0 | .idle => 1 | .queued => 2 | .running => 3 | .waiting => 4
  | .parked => 5 | .pooled => 6 | .moving => 7 | .lost => 8

/-- R10: the state of a value. -/
def stateOf : Nat → SState
  | 1 => .idle | 2 => .queued | 3 => .running | 4 => .waiting
  | 5 => .parked | 6 => .pooled | 7 => .moving | 8 => .lost | _ => .free

/-- R10: the warm states. -/
def isWarm (s : SState) : Bool := s == .idle || s == .queued || s == .running || s == .waiting

/-! ## Descriptor fields (R115, R118) -/

/-- Word `i` of a descriptor; a word beyond the entry size reads 0. -/
def Desc.word (d : Desc) (i : Nat) : Nat := (d.words.getD i 0).toNat

/-- A field of a descriptor; one beyond the entry size takes its default (R118). -/
def Desc.field (d : Desc) (w hi lo dflt : Nat) : Nat := if w < d.words.length then bits (d.word w) hi lo else dflt

def Desc.opcode (d : Desc) : Nat := bits (d.word 0) 7 0
def Desc.generation (d : Desc) : Nat := bits (d.word 0) 9 8
def Desc.fenceBefore (d : Desc) : Bool := bit (d.word 0) 10
def Desc.irq (d : Desc) : Bool := bit (d.word 0) 11
def Desc.session (d : Desc) : Nat := bits (d.word 0) 39 16
def Desc.account (d : Desc) : Nat := bits (d.word 0) 55 40
def Desc.flags (d : Desc) : Nat := bits (d.word 0) 63 56
def Desc.tag (d : Desc) : Nat := d.word 1

/-- The directory die of a session: die 1 for odd ids. -/
def dirDie (sid : Nat) : Bool := sid % 2 == 1

/-- R57, R576: the device has power, has not failed, has not tripped and is not held. -/
def alive (c : Core) : Bool := c.power.on && !c.power.failed && !c.power.tripped && !c.power.held

/-- R570: alive and READY. -/
def ready (c : Core) : Bool := alive c && c.power.ready

/-- R575: ready and past the set-up lock. -/
def serving (c : Core) : Bool := ready c && c.setupDone

/-- R98, R99: traffic of an IDE slot is barred. -/
def slotBarred (c : Core) (w : Nat) : Bool :=
  (bit (regGet c 0x10) w && !bit c.link.secure w) || bit c.link.insecure w

/-- R98, R103: fetching and record writes are held. -/
def linkHeld (c : Core) : Bool := !c.link.up || slotBarred c 0

/-- R97, R192: an address lies in the range of a pool window that is set up. -/
def inWindow (c : Core) (w a : Nat) : Bool :=
  let base := regField c (0x200200 + 0x20 * w) 63 20 * 2 ^ 20
  (((mapGet c.mem.windows w).map (·.state)).getD 0) != 0 && base ≤ a && decide (a < base + regField c (0x200208 + 0x20 * w) 63 20 * 2 ^ 20)

/-- R97: the IDE stream of an outbound address: its window's slot, or the host's. -/
def ideStream (c : Core) (a : Nat) : Nat := (((List.range 15).map (· + 1)).find? fun w => inWindow c w a).getD 0

/-- R97: the IDE stream of a request to a slot at an address; a window's own requests lie in its range. -/
def streamAt (c : Core) (slot a : Nat) : Nat := if slot = 0 then ideStream c a else slot

/-- R98, R99: the stream that a request to a slot at an address needs is barred. -/
def barredAt (c : Core) (slot a : Nat) : Bool := slotBarred c (streamAt c slot a)

/-- R82: bytes of the largest payload, and of the largest read request, that the host has set; the device supports up to 512 and 4,096. -/
def maxPayload (c : Core) : Nat := 128 * 2 ^ min c.cfg.mps 2
def maxRead (c : Core) : Nat := 128 * 2 ^ min c.cfg.mrrs 5

/-- R82: non-posted requests that a read of `n` bytes takes. -/
def readNeed (c : Core) (n : Nat) : Nat := max 1 (cdiv n (maxRead c))

/-- R88: non-posted requests that may be outstanding. -/
def tagLimit (c : Core) : Nat := if c.cfg.tag10 then 768 else 256

/-- R88: non-posted requests outstanding. -/
def tagsUsed (c : Core) : Nat := c.sess.waiting.foldl (fun n w => n + w.tags) 0

/-- R88: non-posted requests that may still be sent. -/
def tagsFree (c : Core) : Nat := tagLimit c - tagsUsed c

/-- THR_LEASE_CFG.DEVICE_NO. -/
def deviceNo (c : Core) : Nat := regField c 0x420000 31 0

/-- The directory entry of a session; FREE when none is listed. -/
def entryOf (c : Core) (sid : Nat) : Entry := (mapGet c.sess.dir sid).getD {}

/-- R173: entries that a die's directory cache holds. -/
def dirCacheMax (c : Core) (die : Bool) : Nat := 1024 * c.mem.dirFrames.get die

/-- R175: a session's changed entry has been written back to the directory. -/
def writeBack (c : Core) (sid : Nat) : Core := { c with sess := { c.sess with changed := mapDel c.sess.changed sid } }

/-- R175: changed entries of a die that the directory cache holds. -/
def changedOn (c : Core) (die : Bool) : List Nat := (c.sess.changed.map (·.1)).filter fun sid => dirDie sid == die

/-- R172, R175: an entry is about to change in the directory cache: what the directory holds of it stands until it is written back. A cache that is full writes one back first, which the device chooses. -/
def noteChanged (c : Core) (sid : Nat) : Core :=
  if mapHas c.sess.changed sid || dirCacheMax c (dirDie sid) = 0 then c
  else
    let on := changedOn c (dirDie sid)
    let c := if dirCacheMax c (dirDie sid) ≤ on.length then writeBack c (nth on (Config.cacheFrame sid % on.length) 0) else c
    { c with sess := { c.sess with changed := mapSet c.sess.changed sid (entryOf c sid) } }

/-- Writes a directory entry; a FREE entry is all zero and not listed (R28). A session that leaves the warm states has its entry written back (R175). -/
def setEntry (c : Core) (sid : Nat) (e : Entry) : Core :=
  let was := (entryOf c sid).state
  let c := noteChanged c sid
  let m := c.sess.dir
  let c := { c with sess := { c.sess with dir := if e.state = .free then mapDel m sid else mapSet m sid e } }
  if isWarm was && !isWarm e.state then writeBack c sid else c

/-- Changes a directory entry. -/
def modEntry (c : Core) (sid : Nat) (f : Entry → Entry) : Core := setEntry c sid (f (entryOf c sid))

/-- R27, R586: a descriptor for a session clears its idle age. -/
def clearAge (c : Core) (sid : Nat) : Core :=
  match mapGet c.sess.dir sid with
  | some e => if e.idleAge = 0 then c else setEntry c sid { e with idleAge := 0 }
  | none => c

/-- The next draw of the device's random source. -/
def drawWord (c : Core) : Word × Core := (Config.random c.draws, { c with draws := c.draws + 1 })

/-! ## The error log (R483 to R486) -/

/-- What an entry records beyond its words' constants. -/
structure LogItem where
  cls : Nat := 0
  kind : Nat
  die : Bool := false
  severity : Nat := 1
  host : Bool := false
  wh : Where := {}
  session : Nat := 0
  status : Nat := 0
  opcode : Nat := 0
  addr : Nat := 0
  deriving DecidableEq, Repr

/-- R484: words 1 to 3, and word 0 without its sequence number. -/
def logWords (aon : Nat) (i : LogItem) : List Nat :=
  [ fieldAt 32 8 i.cls + fieldAt 40 8 i.kind + fieldAt 48 1 (b2n i.die) + fieldAt 49 2 i.severity + fieldAt 51 1 (b2n i.host),
    aon % 2 ^ 64,
    fieldAt 0 3 i.wh.level + fieldAt 3 2 i.wh.region + fieldAt 5 3 i.wh.cluster + fieldAt 8 4 i.wh.core +
      fieldAt 12 2 i.wh.stack + fieldAt 14 9 i.wh.pair + fieldAt 24 24 i.session + fieldAt 48 8 i.status + fieldAt 56 8 i.opcode,
    i.addr % 2 ^ 64 ]

/-- R483, R486: gives words their sequence number and enters them; the first severity 3 entry is also kept in INT_FATAL. -/
def logPut (e : Errors) (ws : List Nat) : Errors :=
  let ws := match ws with
    | w0 :: rest => (w0 + e.next % 2 ^ 32) :: rest
    | [] => []
  { e with
    log := mapSet e.log (e.next % 1024) ws
    next := e.next + 1
    fatal := if bits (nth ws 0 0) 50 49 = 3 && e.fatal.isNone then some ws else e.fatal }

/-- R484: kinds of repaired errors: the first of a class, die and window is logged. -/
def repairedKind (k : Nat) : Bool := k == 1 || k == 2 || k == 5

/-- R483: enters an item. A lost die 0 acknowledges nothing, so die 1 holds up to 64 entries and then drops. -/
def logErr (c : Core) (i : LogItem) : Core :=
  let r := c.errs.rates.get i.die
  let key := i.cls
  if repairedKind i.kind && mapHas r.logged key then c
  else
    let ws := logWords c.aon i
    let e := if repairedKind i.kind then
        { c.errs with rates := c.errs.rates.set i.die { r with logged := mapSet r.logged key () } } else c.errs
    let e :=
      if i.die && c.levels.d0.lost then
        if e.held1.length < 64 then { e with held1 := e.held1 ++ [ws] }
        else { e with dropped1 := satAdd 16 e.dropped1 1 }
      else logPut e ws
    { c with errs := e }

/-- R483: die 0 acknowledges again: the entries that die 1 held arrive, in order. -/
def takeHeld (c : Core) : Core :=
  if c.levels.d0.lost || c.errs.held1.isEmpty then c
  else { c with errs := { c.errs.held1.foldl logPut c.errs with held1 := [] } }

/-- A refused or ignored host access (kinds 0x0B, 0x0C). -/
def logHost (c : Core) (kind addr : Nat) : Core :=
  logErr c { kind := kind, severity := 0, host := true, addr := addr }

/-! ## Records (R130 to R142) -/

/-- R59: places of the record queue. -/
def recQueueMax : Nat := 4096

/-- The record ring of a kind and id. -/
def recRing (c : Core) (kind id : Nat) : Option RecRing :=
  if kind = 1 then mapGet c.rings.cqs id
  else if kind = 2 then mapGet c.rings.streams id
  else if kind = 3 then mapGet c.rings.events id
  else none

/-- Replaces a record ring. -/
def setRecRing (c : Core) (kind id : Nat) (r : RecRing) : Core :=
  let g := c.rings
  { c with rings :=
      if kind = 1 then { g with cqs := mapSet g.cqs id r }
      else if kind = 2 then { g with streams := mapSet g.streams id r }
      else { g with events := mapSet g.events id r } }

/-- Records of a ring in the queue. -/
def queuedFor (c : Core) (kind id : Nat) : Nat :=
  (c.rings.queue.filter fun r => r.kind == kind && r.ring == id).length

/-- R133, R138, R315: entries of a record ring that no written or queued record takes, and no waiting commit keeps. R141 drops a record whose event ring is full; records queued and not yet written count as taking their entries (DESIGN CHOICE, log 161). -/
def freeEntries (c : Core) (kind id : Nat) (r : RecRing) : Nat :=
  2 ^ r.log2 - (r.written - r.head + queuedFor c kind id + if kind = 2 then (c.rings.keep.filter fun p => p.2 == id).length else 0)

/-- R59, R315: a place is free: no record has it, and no waiting commit keeps it. -/
def queueRoom (c : Core) : Bool := c.rings.queue.length + c.rings.keep.length < recQueueMax

/-- R315: a session's commit keeps no entry and no place any more. -/
def dropKeep (c : Core) (sid : Nat) : Core :=
  if mapHas c.rings.keep sid then { c with rings := { c.rings with keep := mapDel c.rings.keep sid } } else c

/-- R114, R143: records may still be queued for a ring: it is neither errored nor being destroyed. -/
def takesRecords (r : RecRing) : Bool := !r.errored && !r.destroying

/-- Puts a record at the end of the queue. -/
def pushRec (c : Core) (r : Rec) : Core :=
  { c with rings := { c.rings with queue := c.rings.queue ++ [r] } }

/-- R142: word 0 without phase. -/
def eventWord0 (type : Nat) (die : Bool) (session account : Nat) : Nat :=
  fieldAt 0 8 type + fieldAt 8 1 (b2n die) + fieldAt 16 24 session + fieldAt 40 16 account

/-- R141: issues an event record: queued on the ring that RNG_EVENT_ROUTE names, or dropped and counted. -/
def issueEvent (c : Core) (type : Nat) (die : Bool) (session account arg0 arg1 : Nat) : Core :=
  let id := bits (regGet c 0x10030) (4 * type + 3) (4 * type)
  match mapGet c.rings.events id with
  | none => regCount c 0x10038 31 0 1
  | some r =>
    if r.destroying then regCount c 0x10038 31 0 1
    else if r.errored || freeEntries c 3 id r = 0 || !queueRoom c then
      setRecRing (regCount c 0x10038 31 0 1) 3 id { r with dropped := r.dropped + 1 }
    else pushRec c ⟨3, id, [eventWord0 type die session account, arg0, arg1], false, [], 0⟩

/-- R141: an OVERFLOW record for each ring that dropped records and has room again. -/
def overflowRecords (c : Core) : Core :=
  c.rings.events.foldl (fun c p =>
    match mapGet c.rings.events p.1 with
    | none => c
    | some r =>
      if r.dropped > 0 && takesRecords r && 0 < freeEntries c 3 p.1 r && queueRoom c then
        pushRec (setRecRing c 3 p.1 { r with dropped := 0 }) ⟨3, p.1, [eventWord0 0x0B false 0 0, r.dropped, 0], false, [], 0⟩
      else c) c

/-- R136: the session and the turn of a stream record. -/
def recSession (r : Rec) : Nat := bits (nth r.words 0 0) 23 0
def recTurn (r : Rec) : Nat := bits (nth r.words 0 0) 55 24

/-- R297: a stream record is never written: the last one of its turn is the record before it. -/
def retractRec (r : Rec) (c : Core) : Core :=
  if r.kind ≠ 2 || (entryOf c (recSession r)).turn ≠ recTurn r then c
  else
    let be := bits (nth r.words 1 0) 55 24 - r.payload.length
    { c with sess := { c.sess with warm := mapMod c.sess.warm (recSession r) fun w =>
      { w with turn := w.turn.map fun t => { t with lastRecord := some be } } } }

/-- R129: a descriptor is open no more. -/
def closeDesc (c : Core) (d : Desc) : Core :=
  let c := match mapGet c.rings.subs d.ring with
    | some s => { c with rings := { c.rings with subs := mapSet c.rings.subs d.ring { s with opened := s.opened.erase d.count } } }
    | none => c
  { c with sess := { c.sess with
      inProg := if mapGet c.sess.inProg d.session = some d then mapDel c.sess.inProg d.session else c.sess.inProg
      seqProg := if d.session = 0 && mapGet c.sess.seqProg d.ring = some d then mapDel c.sess.seqProg d.ring else c.sess.seqProg } }

/-- R114, R134, R139, R143: removes records, queued or waiting in an engine for a place; the descriptor of a lost completion is open no more. -/
def discardWhere (c : Core) (p : Rec → Bool) : Core :=
  let waiting := c.rings.engines.filter fun e => p e.out
  let c' := { c with rings := { c.rings with queue := c.rings.queue.filter (fun r => !p r), engines := c.rings.engines.filter fun e => !p e.out } }
  let c' := (c.rings.queue.filter p ++ waiting.map (·.out)).foldr retractRec c'
  (waiting.filterMap (·.desc)).foldl closeDesc c'

/-- Removes the queued records of a ring. -/
def discardRecs (c : Core) (kind id : Nat) : Core := discardWhere c fun r => r.kind == kind && r.ring == id

/-- R139: removes the queued stream records of a session's turn. -/
def discardTurn (c : Core) (sid turn : Nat) : Core := discardWhere c fun r => r.kind == 2 && recSession r == sid && recTurn r == turn

/-! ## MSI-X (R95, R96, R135) -/

/-- R95: the mask bit of a vector's control word. -/
def vectorMasked (c : Core) (v : Nat) : Bool := bit (regGet c (0x8008 + 16 * v)) 32

/-! ## Bus writes (R82, R89) -/

/-- R82: the memory write requests of some data: each ends at the next multiple of the maximum payload. -/
def postsOf (relaxed : Bool) (most : Nat) : Nat → Nat → List Byte → List Post
  | 0, _, _ => []
  | _ + 1, _, [] => []
  | fuel + 1, a, b :: bs =>
    let n := most - a % most
    ⟨a % 2 ^ 64, (b :: bs).take n, relaxed⟩ :: postsOf relaxed most fuel (a + n) ((b :: bs).drop n)

/-- Sends data to an address, the Relaxed Ordering attribute as given. -/
def busPost (c : Core) (relaxed : Bool) (a : Nat) (bs : List Byte) : Core :=
  { c with bus := (postsOf relaxed (maxPayload c) bs.length a bs).reverse ++ c.bus }

/-- R89: a record, a message or a swap's new value: never with Relaxed Ordering. -/
def busWrite (c : Core) (a : Nat) (bs : List Byte) : Core := busPost c false a bs

/-- R89: payload, with Relaxed Ordering while the host leaves it enabled. -/
def busPayload (c : Core) (a : Nat) (bs : List Byte) : Core := busPost c c.cfg.relaxed a bs

/-- What the device last wrote to a bus address, from its writes, the last first. -/
def postByte : List Post → Nat → Option Byte
  | [], _ => none
  | p :: ps, a =>
    let i := (a % 2 ^ 64 + 2 ^ 64 - p.addr % 2 ^ 64) % 2 ^ 64
    match p.data[i]? with
    | some b => some b
    | none => postByte ps a

/-- What the device last wrote to a bus address. -/
def busByte (c : Core) (a : Nat) : Option Byte := postByte c.bus a

/-! ## Messages (R95, R96, R98, R103) -/

/-- Sends a vector's message: a 4-byte write of its data at its address. -/
def sendMsix (c : Core) (v : Nat) : Core :=
  let c := busWrite c (regGet c (0x8000 + 16 * v)) (natLe 4 (regField c (0x8008 + 16 * v) 31 0))
  { c with rings := { c.rings with
      msixPending := mapDel c.rings.msixPending v
      msixSent := mapSet c.rings.msixSent v ((mapGet c.rings.msixSent v).getD 0 + 1) } }

/-- R96, R98, R103: a vector's message may be sent: MSI-X is enabled, nothing masks the vector, the link is up and the stream of its address is not barred. -/
def msixOpen (c : Core) (v : Nat) : Bool :=
  c.rings.msixEnable && !c.rings.functionMask && !vectorMasked c v && !linkHeld c && !barredAt c 0 (regGet c (0x8000 + 16 * v))

/-- R96: a message is due on a vector: sent, or held in the vector's pending bit. -/
def msixDue (c : Core) (v : Nat) : Core :=
  if msixOpen c v then sendMsix c v
  else { c with rings := { c.rings with msixPending := mapSet c.rings.msixPending v () } }

/-- R96: sends every pending message that nothing holds any more. -/
def msixRelease (c : Core) : Core :=
  c.rings.msixPending.foldl (fun c p => if msixOpen c p.1 then sendMsix c p.1 else c) c

/-- Bytes of 64-bit words. -/
def wordsBytes (ws : List Nat) : List Byte := ws.flatMap (natLe 8)

/-! ## Completions (R129, R130, R134) -/

/-- R130: words of a completion record without phase and sequence number. -/
def completionWords (d : Desc) (st : Status) (c0 c1 : Nat) (replayed : Bool) : List Nat :=
  [ d.tag, stCode st + fieldAt 8 8 d.opcode + fieldAt 16 2 d.generation + fieldAt 18 1 (b2n replayed) +
      fieldAt 24 24 d.session + fieldAt 48 12 d.ring,
    fieldAt 0 32 c0 + fieldAt 32 32 c1 ]

/-- The completion ring of a submission ring. -/
def cqOf (c : Core) (sq : Nat) : Option Nat := (mapGet c.rings.subs sq).map (·.cq)

/-- R114, R134, R143: a record takes a place in the queue; a ring that is gone, errored or being destroyed loses it. -/
def queueRec (c : Core) (r : Rec) : Core :=
  match recRing c r.kind r.ring with
  | some q => if takesRecords q then pushRec c r else c
  | none => c

/-- R129: a record is handed to the writer; with a completion, its descriptor is open no more. -/
def handOver (c : Core) (d : Option Desc) (r : Rec) : Core :=
  match d with
  | some d => closeDesc (queueRec c r) d
  | none => queueRec c r

/-- R134: records that wait take the places that have come free, in order. -/
def pullEngines : Nat → Core → Core
  | 0, c => c
  | n + 1, c =>
    match c.rings.engines with
    | [] => c
    | e :: es => if queueRoom c then pullEngines n (handOver { c with rings := { c.rings with engines := es } } e.desc e.out) else c

/-- R134: a record takes a place in the queue, or waits for one behind those that wait already. -/
def giveRec (c : Core) (d : Option Desc) (r : Rec) : Core :=
  if queueRoom c && c.rings.engines.isEmpty then handOver c d r
  else { c with rings := { c.rings with engines := c.rings.engines ++ [⟨d, r⟩] } }

/-- A descriptor completes: its record takes a place in the queue, or its engine waits for one. -/
def completeRec (c : Core) (d : Desc) (r : Rec) : Core := giveRec c (some d) r

/-- R134, R141: places of the queue have come free: engines that wait take them, and then OVERFLOW records. -/
def queueFreed (c : Core) : Core := overflowRecords (pullEngines recQueueMax c)

/-- A descriptor completes with a status and its counts, into the completion ring of its submission ring. -/
def complete (c : Core) (d : Desc) (st : Status) (c0 c1 : Nat) : Core :=
  match cqOf c d.ring with
  | some q => completeRec c d ⟨1, q, completionWords d st c0 c1 false, d.irq, [], 0⟩
  | none => completeRec c d ⟨1, 4096, completionWords d st c0 c1 false, d.irq, [], 0⟩

/-! ## Ring errors (R143) -/

/-- R143: what a RING_ERROR record and the log entry's `addr` name. -/
def ringErrorArg (kind id cause : Nat) : Nat := fieldAt 0 2 kind + fieldAt 2 12 id + fieldAt 16 8 cause

/-- R143: the ring of a kind and id exists and is errored. -/
def ringErrored (c : Core) (kind id : Nat) : Bool :=
  if kind = 0 then ((mapGet c.rings.subs id).map (·.errored)).getD false else ((recRing c kind id).map (·.errored)).getD false

/-- R143: a ring becomes errored; the records held for it are lost. -/
def markErrored (c : Core) (kind id : Nat) : Core :=
  if kind = 0 then { c with rings := { c.rings with subs := mapMod c.rings.subs id fun s => { s with errored := true } } }
  else match recRing c kind id with
    | some r => discardRecs (setRecRing c kind id { r with errored := true }) kind id
    | none => c

/-- R143, R484: a ring error is entered in the log and told by a RING_ERROR record, unless the event ring that would carry it is the errored one. -/
def tellRingError (c : Core) (kind id cause count : Nat) : Core :=
  let arg := ringErrorArg kind id cause
  let c := logErr c { kind := 0x11, severity := 1, addr := arg }
  if kind = 3 && bits (regGet c 0x10030) 23 20 = id then c else issueEvent c 5 false 0 0 arg count

/-- R143: an error of one ring: the ring becomes errored and stays so; every error is told. -/
def ringError1 (c : Core) (kind id cause count : Nat) : Core := tellRingError (markErrored c kind id) kind id cause count

/-- R143: a ring error. The completion ring that becomes errored errs the submission rings that name it with cause 5. The count that RING_ERROR carries is the value written for causes 1, 3 and 4, the records written for cause 6, and the fetched count for causes 2 and 5: the spec says no more than the count at which the error arose (DESIGN CHOICE, log 129). -/
def ringError (c : Core) (kind id cause count : Nat) : Core :=
  let was := ringErrored c kind id
  let c' := ringError1 c kind id cause count
  queueFreed (
    if kind = 1 && !was then
      c'.rings.subs.foldl (fun c p => if p.2.cq = id then ringError1 c 0 p.1 5 p.2.fetched else c) c'
    else c')

/-! ## Writing a record (R89, R131 to R135) -/

/-- R131: index and phase of the s-th record. -/
def recIndex (r : RecRing) (s : Nat) : Nat := s % 2 ^ r.log2
def recPhase (r : RecRing) (s : Nat) : Nat := b2n (s / 2 ^ r.log2 % 2 == 0)

/-- Bytes of a record as it lies in its ring. -/
def recBytes (r : RecRing) (x : Rec) : List Byte :=
  let ph := recPhase r r.written
  let w := nth x.words
  match x.kind with
  | 1 => wordsBytes [w 0 0, w 1 0 + fieldAt 63 1 ph, r.written, w 2 0]
  | 2 => wordsBytes [w 0 0, w 1 0 + fieldAt 63 1 ph]
  | _ => wordsBytes [w 0 0 + fieldAt 63 1 ph, r.written, w 1 0, w 2 0]

/-- R108: bytes of an entry. -/
def recSize (kind : Nat) : Nat := if kind = 2 then 16 else 32

/-- The first queued record of a ring, and the queue without it. -/
def takeRec (q : List Rec) (kind id : Nat) : Option (Rec × List Rec) :=
  match q with
  | [] => none
  | r :: rs =>
    if r.kind == kind && r.ring == id then some (r, rs)
    else (takeRec rs kind id).map fun p => (p.1, r :: p.2)

/-- R135: after a record is written, a message when COUNT is reached or, on a completion ring, for IRQ. -/
def coalesce (c : Core) (kind id : Nat) (irq : Bool) : Core :=
  match recRing c kind id with
  | none => c
  | some r =>
    if !r.irqEn then c
    else if r.count ≤ r.unsignalled + 1 || (kind == 1 && irq) then
      msixDue (setRecRing c kind id { r with unsignalled := 0 }) r.vector
    else setRecRing c kind id { r with unsignalled := r.unsignalled + 1 }

/-- R131: the address of the next record of a ring. -/
def recAddr (r : RecRing) (kind : Nat) : Nat := r.base + recIndex r r.written * recSize kind

/-- R111: a record cannot be sent, since its address needs a stream that is barred. -/
def recordFails (c : Core) (r : RecRing) (kind : Nat) : Bool := barredAt c 0 (recAddr r kind)

/-- R98, R599: the output bytes before a record cannot be sent, since their address needs a stream that is barred. -/
def bytesFail (c : Core) (x : Rec) : Bool := !x.payload.isEmpty && barredAt c 0 x.addr

/-- R89: sends a record and the output bytes before it. -/
def sendRecord (c : Core) (r : RecRing) (kind : Nat) (x : Rec) : Core :=
  let c := if x.payload.isEmpty then c else busPayload c x.addr x.payload
  busWrite c (recAddr r kind) (recBytes r x)

/-- R103, R132, R133, R138: the next record of a ring may be written: the device serves, the link carries records and the ring has room. -/
def canWrite (c : Core) (r : RecRing) : Bool := alive c && !linkHeld c && takesRecords r && decide (r.written - r.head < 2 ^ r.log2)

/-- R130 to R135: writes the first queued record of a ring when the device serves, the link is up and the ring has room; places come free for engines and OVERFLOW records. A record that cannot be sent is lost and errs its ring with cause 6 (R143); one whose output bytes cannot be sent is lost with them (R599). -/
def writeRecord (c : Core) (kind id : Nat) : Core :=
  match recRing c kind id, takeRec c.rings.queue kind id with
  | some r, some (x, q) =>
    if !canWrite c r then c
    else
      let c := { c with rings := { c.rings with queue := q } }
      if bytesFail c x then queueFreed c
      else if recordFails c r kind then ringError c kind id 6 r.written
      else
        let c := setRecRing (sendRecord c r kind x) kind id { r with written := r.written + 1 }
        queueFreed (coalesce c kind id x.irq)
  | _, _ => c

/-! ## Head writes (R133, R143) -/

/-- A head write on a record ring: taken when it does not pass the records written, else a ring error. -/
def headWrite (c : Core) (kind id value : Nat) : Core :=
  match recRing c kind id with
  | none => c
  | some r =>
    let adv := (value + 2 ^ 32 - r.head % 2 ^ 32) % 2 ^ 32
    if r.written - r.head < adv then ringError c kind id (if kind = 1 then 3 else 4) value
    else setRecRing c kind id { r with head := r.head + adv }

/-! ## Measurement (R537) -/

/-- R537: MR = SHA-256(MR ‖ d), with d = SHA-256 of the bytes measured. -/
def extendMr (r : Rot) (x : Nat × List Byte) : Rot :=
  { r with mrs := r.mrs.set x.1 (sha256 (nth r.mrs x.1 [] ++ sha256 x.2)) }

/-- Extensions in order. -/
def extendAll (r : Rot) (xs : List (Nat × List Byte)) : Rot := xs.foldl extendMr r

/-! ## Carrying out a descriptor against the outside's answers -/

/-- What carrying out works on: the state, the answers not yet used, a copy of the root of trust to read, the measurements made. -/
structure Run0 where
  core : Core
  env : Env
  rot : Rot
  ext : List (Nat × List Byte) := []
  /-- Session and opcode of the owning request, for log entries. -/
  sid : Nat := 0
  opc : Nat := 0
  /-- The descriptor had started before, and goes on. -/
  resumed : Bool := false
  /-- Answers at the head of `env` that were had before it went on. -/
  had : Nat := 0
  /-- R583, R598: the request that comes next was sent before it went on. -/
  sent : Bool := false
  /-- The state to keep should it wait: as it began, with what `once` has settled. -/
  base : Core := core
  /-- What earlier carrying out has settled and this one has not come to again; what is settled so far. -/
  past : List Nat := []
  memo : List Nat := []
  deriving DecidableEq, Repr

/-- What a wait leaves: where the request goes, the answers not used, its stream and size (R82, R97), what it keeps. -/
structure Wait where
  slot : Nat
  left : Nat
  stream : Nat := 0
  need : Nat := 0
  /-- R10: a swap is in flight that makes its session MOVING. -/
  moving : Bool := false
  /-- R435: the row of a bound table that is read or written. -/
  row : Option (Nat × Nat × Bool) := none
  kept : Core
  memo : List Nat
  deriving DecidableEq, Repr

/-- Why carrying out stops: a status with its counts and the state to keep, or a request that waits. -/
inductive Stop where
  | fail (st : Status) (c0 c1 : Nat) (core : Core)
  | wait (w : Wait)
  deriving DecidableEq, Repr

/-- How carrying out ends: completed, or left in progress (an APPEND whose lanes are queued, a turn, an epoch). -/
inductive Done where
  | done (st : Status) (c0 c1 : Nat)
  | running
  deriving DecidableEq, Repr

/-- A step of carrying out. -/
abbrev M := StateT Run0 (Except Stop)

/-- The state, inside a carrying out. -/
def getC : M Core := do return (← get).core

/-- Replaces the state. -/
def putC (c : Core) : M Unit := modify fun r => { r with core := c }

/-- Changes the state. -/
def modC (f : Core → Core) : M Unit := modify fun r => { r with core := f r.core }

/-- Settles a point for good: the state changes by `f` here and in what a wait keeps, and going on after the wait remembers the answer and changes nothing. -/
def once (f : Core → Nat × Core) : M Nat := do
  let r ← get
  match r.past with
  | x :: xs =>
    set { r with past := xs, memo := r.memo ++ [x] }
    return x
  | [] =>
    let x := (f r.core).1
    set { r with core := (f r.core).2, base := (f r.base).2, memo := r.memo ++ [x] }
    return x

/-- What has been settled stands: a check made before it is not made again. -/
def settled : M Bool := do return !(← get).past.isEmpty

/-- Ends with a status. -/
def failC {α : Type} (st : Status) (c0 c1 : Nat) : M α := do throw (.fail st c0 c1 (← get).core)

/-- Ends with a status and counts 0. -/
def refuse {α : Type} (st : Status) : M α := failC st 0 0

/-- A check of a refusal table. -/
def check (bad : Bool) (st : Status) : M Unit := if bad then refuse st else pure ()

/-- Ends with a status after an entry of a kind in the error log, with the physical address that failed (R476, R484). -/
def failLogged {α : Type} (kind : Nat) (st : Status) (c0 : Nat := 0) (addr : Nat := 0) : M α := do
  let r ← get
  modC fun c => logErr c { kind := kind, session := r.sid, status := stCode st, opcode := r.opc, addr := addr }
  failC st c0 0

/-- R476: data given by the host fails the check values it came with. -/
def checkHost (bad : Bool) : M Unit := if bad then failLogged 4 .checkMismatch else pure ()

/-- Records a measurement. -/
def measure (mr : Nat) (bs : List Byte) : M Unit := modify fun r => { r with ext := r.ext ++ [(mr, bs)] }

/-- The next random word. -/
def drawM : M Word := do
  let (w, c) := drawWord (← getC)
  putC c
  return w

/-- R402: code tables of model slots that a failed request has made stand. -/
def keepCodes (base now : Core) : Core :=
  { base with obj := { base.obj with models := base.obj.models.map fun p =>
    (p.1, { p.2 with codes := ((mapGet now.obj.models p.1).map (·.codes)).getD p.2.codes }) } }

/-- Runs a part whose failure is undone by `f`: what was taken for it is given back. -/
def orUndo {α : Type} (f : Core → Core) (m : M α) : M α := fun r =>
  match m r with
  | .error (.fail st c0 c1 c) => .error (.fail st c0 c1 (f c))
  | x => x

/-- A check that is made before anything is settled, and not again when the descriptor goes on. -/
def checkFresh (bad : Bool) (st : Status) : M Unit := do
  if !(← settled) then check bad st

/-! ## Requests to the outside (R91, R197, R201, R598) -/

/-- R197: the outcome of one request to a window. -/
def windowOutcome (c : Core) (w : Nat) (failed timeout : Bool) : Core :=
  match mapGet c.mem.windows w with
  | none => c
  | some x =>
    let x := if failed then
        let f := x.failures + 1
        { x with failures := f, timeouts := satAdd 16 x.timeouts (b2n timeout),
                 state := if 16 ≤ f && x.state = 1 then 2 else x.state }
      else { x with failures := 0 }
    { c with mem := { c.mem with windows := mapSet c.mem.windows w x } }

/-- R145: the outbound range. -/
def outboundBase : Nat := 2 ^ 44
def outboundEnd : Nat := 2 ^ 52

/-- R146: the outbound physical address that reaches a bus address; 0 when none does. -/
def outPa (c : Core) (a : Nat) : Nat :=
  let d := (a + 2 ^ 64 - regGet c 0x100000) % 2 ^ 64
  if d < outboundEnd - outboundBase then outboundBase + d else 0

/-- R91, R201, R484: the log entry of a request that failed, with the physical address of its bus address. -/
def logTier (c : Core) (session opcode : Nat) (st : Status) (a : Nat) : Core :=
  logErr c { kind := 0x0A, severity := 1, session := session, opcode := opcode, status := stCode st, addr := outPa c a }

/-- R91: the status of an answer on a slot (0 the host; a pool window otherwise); none when it is data. -/
def ansStatus (slot : Nat) (a : Ans) : Option Status :=
  match a with
  | .data _ => none
  | .late => some .tierTimeout
  | .refused => some .tierError
  | .poisoned => some (if slot = 0 then .dataError else .tierError)

/-- R91: the bit of the Uncorrectable Error Status register that an error sets: completion timeout, poisoned TLP, Unsupported Request. -/
def aerBit : Ans → Nat
  | .late => 14
  | .poisoned => 12
  | _ => 20

/-- R91: an error is logged under Advanced Error Reporting. -/
def logAer (c : Core) (a : Ans) : Core := { c with cfg := { c.cfg with aer := c.cfg.aer ||| 2 ^ aerBit a } }

/-- Waits on a slot, on a stream, with a size. -/
def waitFor {α : Type} (slot stream need : Nat) : M α := do
  let r ← get
  throw (.wait { slot := slot, left := r.env.length, stream := stream, need := need, kept := r.base, memo := r.memo ++ r.past })

/-- Waits on the inside. -/
def waitOn {α : Type} (slot : Nat) : M α := waitFor slot 0 0

/-- R201: TIER_TIMEOUT of a slot in aon cycles: POOL for a window, HOST for host buffers and the spill region; 0 is none. -/
def tierLimit (c : Core) (slot : Nat) : Nat := if slot = 0 then regField c 0x200110 63 32 else regField c 0x200110 31 0

/-- R91: what an answer logs under Advanced Error Reporting. The timeout of a request that waited is logged where it runs out, if it is PCIe's own. -/
def noteAns (c : Core) (resumed : Bool) (a : Ans) : Core :=
  match a with
  | .data _ => c
  | .late => if resumed then c else logAer c a
  | _ => logAer c a

/-- Takes the next answer. -/
def takeAns (a : Ans) (env : Env) : M Ans := do
  modify fun r => { r with env := env, core := noteAns r.core r.resumed a }
  return a

/-- R598: what a request that has not been sent makes of the next answer: its tier timeout ends it, or it waits. -/
def unsentAns (slot stream need : Nat) (a : Ans) (env : Env) : M Ans := do
  if a == .late && tierLimit (← get).core slot ≠ 0 then
    modify fun r => { r with env := env }
    return .late
  else waitFor slot stream need

/-- The next answer to `need` requests on a slot and stream. One had before stands, and so does that of a request already sent (R583); else a barred stream sends nothing (R98), where what waits on stream 0 is held (R99); a down link or the lack of a tag holds the request (R88, R598), and with no answer yet the request waits. -/
def nextAns (slot stream need : Nat) : M Ans := do
  let r ← get
  match r.env with
  | [] => if slotBarred r.core stream && !(r.resumed && stream = 0) && !r.sent then return .refused else waitFor slot stream need
  | a :: env =>
    if 0 < r.had then
      set { r with had := r.had - 1 }
      takeAns a env
    else if r.sent then
      set { r with sent := false }
      takeAns a env
    else if slotBarred r.core stream then
      if r.resumed && stream = 0 then unsentAns slot stream need a env else return .refused
    else if !r.core.link.up || tagsFree r.core = 0 then unsentAns slot stream need a env
    else takeAns a env

/-- R91, R197: non-posted requests for `n` bytes at an address, with their answer; failures are counted and logged. -/
def request (slot addr n : Nat) : M Ans := do
  let c ← getC
  let a ← nextAns slot (streamAt c slot addr) (readNeed c n)
  match ansStatus slot a with
  | none =>
    modC fun c => windowOutcome c slot false false
    return a
  | some st =>
    let r ← get
    modC fun c => logTier (windowOutcome c slot true (st == .tierTimeout)) r.sid r.opc st addr
    return a

/-- Reads `n` bytes at a bus address, ending the request under R91 when the read fails. -/
def readBus (slot addr n : Nat) : M (List Byte) := do
  match ← request slot addr n with
  | .data bs => return bytesAt bs 0 n
  | a => refuse ((ansStatus slot a).getD .tierError)

/-- R599: what holds a write back: it fails when its stream is barred, or when the link stays down past the tier timeout. -/
def postGate (slot addr : Nat) : M Unit := do
  let r ← get
  if barredAt r.core slot addr then refuse .tierError
  if r.core.link.up then pure ()
  else
    match r.env with
    | .late :: env =>
      if tierLimit r.core slot = 0 then waitFor slot (streamAt r.core slot addr) 0
      set { r with env := env }
      refuse .tierTimeout
    | _ => waitFor slot (streamAt r.core slot addr) 0

/-- R599: posts a write. -/
def postBus (slot addr : Nat) (bs : List Byte) : M Unit := do
  postGate slot addr
  modC fun c => busPayload c addr bs

/-- An effect with a write of its own, made once: a request that waits later does not undo it. -/
def oncePosted (slot addr : Nat) (f : Core → Nat × Core) : M Nat := do
  if !(← settled) then postGate slot addr
  once f

/-- How a compare-and-swap ended: the old value, no swap, or unknown (R93). -/
inductive Swap where
  | old (v : Nat)
  | notDone (st : Status)
  | unknown (st : Status)
  deriving DecidableEq, Repr

/-- R93: one CompareAndSwap of `n` bytes. -/
def casBus (slot addr n : Nat) : M Swap := do
  match ← request slot addr n with
  | .data bs => return .old (leAt bs 0 n)
  | .refused => return .notDone .tierError
  | .late => return .unknown .tierTimeout
  | .poisoned => return .unknown .tierError

/-! ## Frames (R157 to R159) -/

/-- A stack's state. -/
def stackOf (c : Core) (k : Nat) : Stack := (mapGet c.stackTab k).getD {}

/-- A pair's state; `p` is 512 * stack + pair. -/
def pairOf (c : Core) (p : Nat) : Pair := (mapGet (stackOf c (p / 512)).pairs (p % 512)).getD {}

/-- Changes a pair. -/
def modPair (c : Core) (p : Nat) (f : Pair → Pair) : Core :=
  let k := stackOf c (p / 512)
  { c with stackTab := mapSet c.stackTab (p / 512) { k with pairs := mapSet k.pairs (p % 512) (f (pairOf c p)) } }

/-- R234: the allocator takes frames from a pair. -/
def pairInService (c : Core) (p : Nat) : Bool := (stackOf c (p / 512)).state != 2 && (pairOf c p).state == 0

/-- R58: the die of a stack. -/
def stackDie (k : Nat) : Bool := decide (4 ≤ k)

/-- The first pair of a die. -/
def pairBase (die : Bool) : Nat := if die then 2048 else 0

/-- R211: frames of a pair that hold nothing: all 512 before the carve. -/
def pairRoom (c : Core) (p : Nat) : Nat := nth (c.mem.pairFree.get (stackDie (p / 512))) (p % 2048) 512

/-- R211: frames of a pair that objects and regions hold. -/
def pairBulk (c : Core) (p : Nat) : Nat := nth (c.mem.pairBulk.get (stackDie (p / 512))) (p % 2048) 0

/-- Changes the number of frames of a pair that hold nothing. -/
def modRoom (c : Core) (p : Nat) (f : Nat → Nat) : Core :=
  { c with mem := { c.mem with pairFree := c.mem.pairFree.mod (stackDie (p / 512)) fun l => l.set (p % 2048) (f (nth l (p % 2048) 0)) } }

/-- Changes the number of frames of a pair that objects and regions hold. -/
def modBulk (c : Core) (p : Nat) (f : Nat → Nat) : Core :=
  { c with mem := { c.mem with pairBulk := c.mem.pairBulk.mod (stackDie (p / 512)) fun l => l.set (p % 2048) (f (nth l (p % 2048) 0)) } }

/-- Frames of a die leave its free pool for holders to come: a turn's headroom (R43), a grant (R499), a frame about to be listed. -/
def reserveFree (c : Core) (die : Bool) (n : Nat) : Core :=
  { c with mem := { c.mem with free := c.mem.free.mod die fun f => f - n } }

/-- Frames of a die return to its free pool. -/
def returnFree (c : Core) (die : Bool) (n : Nat) : Core :=
  { c with mem := { c.mem with free := c.mem.free.mod die fun f => f + n } }

/-- Amounts that add up to `n`, each at most its bound, dealt in rounds of equal shares from the first on. -/
def dealShares : Nat → Nat → List Nat → List Nat
  | 0, _, bounds => bounds.map fun _ => 0
  | fuel + 1, n, bounds =>
    let k := (bounds.filter (0 < ·)).length
    if n = 0 || k = 0 then bounds.map fun _ => 0
    else
      let share := max 1 (n / k)
      let got := (bounds.foldl (fun (a : Nat × List Nat) b => let g := min (min b share) a.1; (a.1 - g, g :: a.2)) (n, [])).2.reverse
      List.zipWith (· + ·) got (dealShares fuel (n - got.foldl (· + ·) 0) (List.zipWith (· - ·) bounds got))

/-- As `dealShares`, from a place of the list that the device chooses (Config.bulkStart). -/
def dealFrom (start n : Nat) (bounds : List Nat) : List Nat :=
  let k := start % bounds.length
  let xs := dealShares (bounds.length + 512) n (bounds.drop k ++ bounds.take k)
  xs.drop (bounds.length - k) ++ xs.take (bounds.length - k)

/-- Of a list of amounts by pair of a die, those of the pairs in service; 0 elsewhere. -/
def inService (c : Core) (die : Bool) (l : List Nat) : List Nat :=
  (List.zip (List.range l.length) l).map fun p => if pairInService c (pairBase die + p.1) then p.2 else 0

/-- An object or a region takes `n` free frames of a die: of the pairs in service, dealt from a place that the device chooses (R211 places no other frames than KV pages, lists and rows; DESIGN CHOICE, log 134). -/
def takeFree (c : Core) (die : Bool) (n : Nat) : Core :=
  let c' := reserveFree c die n
  if n = 0 || (c.mem.pairFree.get die).isEmpty then c'
  else
    let xs := dealFrom (Config.bulkStart (c.mem.free.get die)) n (inService c die (c.mem.pairFree.get die))
    { c' with mem := { c'.mem with
      pairFree := c'.mem.pairFree.mod die fun l => List.zipWith (· - ·) l xs
      pairBulk := c'.mem.pairBulk.mod die fun l => List.zipWith (· + ·) l xs } }

/-- An object or a region gives back `n` frames of a die: those of pairs in service become free, others leave service (R234). -/
def giveFree (c : Core) (die : Bool) (n : Nat) : Core :=
  if n = 0 || (c.mem.pairFree.get die).isEmpty then returnFree c die n
  else
    let xs := dealFrom (Config.bulkStart (c.mem.free.get die)) n (c.mem.pairBulk.get die)
    let c' := returnFree c die ((inService c die xs).foldl (· + ·) 0)
    { c' with mem := { c'.mem with
      pairFree := c'.mem.pairFree.mod die fun l => List.zipWith (· + ·) l xs
      pairBulk := c'.mem.pairBulk.mod die fun l => List.zipWith (· - ·) l xs } }

/-- Lists a new frame of a pair of a die, reserved before, with one reference. -/
def newFrame (c : Core) (die : Bool) (pair : Nat) (bytes : Cells) : Nat × Core :=
  let id := c.mem.nextFrame
  let c := modRoom c pair (· - 1)
  (id, { c with mem := { c.mem with
    nextFrame := id + 1
    frames := mapSet c.mem.frames id { die := die, pair := pair, bytes := bytes } } })

/-- A pair of a die for a frame that no rule places: the first in service with a free frame, from one that the device chooses. -/
def placedPair (c : Core) (die : Bool) (n : Nat) : Nat :=
  let (st, p) := Config.placement n
  let first := 512 * (st % 4) + p % 512
  let base := pairBase die
  base + (((List.range 2048).map fun i => (first + i) % 2048).find? fun q =>
    pairInService c (base + q) && 0 < pairRoom c (base + q)).getD first

/-- The pair of a new frame that no rule places. -/
def anyPair (c : Core) (die : Bool) : Nat := placedPair c die c.mem.nextFrame

/-- R324, R414: among some pairs, the one with the most free frames; the first of equals. -/
def fullest (c : Core) (ps : List Nat) : Option Nat := bestBy (fun a b => decide (pairRoom c b < pairRoom c a)) ps

/-- R324, R414: the in-service pair of a die with the most free frames; ties go to the lowest stack, then the lowest pair. -/
def mostFree (c : Core) (die : Bool) : Nat :=
  let ps := ((List.range 2048).map (pairBase die + ·))
  if (c.mem.pairFree.get die).isEmpty then (ps.find? (pairInService c)).getD (pairBase die)
  else (fullest c (ps.filter (pairInService c))).getD (pairBase die)

/-- R324, R414: a pair still takes frames of a run. -/
def pairOpen (c : Core) (p : Nat) : Bool := pairInService c p && 0 < pairRoom c p

/-- Takes a free frame of a die and lists it. -/
def allocFrame (c : Core) (die : Bool) (bytes : Cells) : Nat × Core :=
  newFrame (reserveFree c die 1) die (anyPair c die) bytes

/-- A copy of a frame in a frame of its own, reserved before: check values travel with their blocks (R160). -/
def copyFrame (c : Core) (die : Bool) (pair f : Nat) : Nat × Core :=
  let old := mapGet c.mem.frames f
  let q := newFrame c die pair ((old.map (·.bytes)).getD [])
  (q.1, { q.2 with mem := { q.2.mem with frames := mapMod q.2.mem.frames q.1 fun x => { x with bad := (old.map (·.bad)).getD [] } } })

/-- R159: one more reference. -/
def addRef (c : Core) (id : Nat) : Core :=
  { c with mem := { c.mem with frames := mapMod c.mem.frames id fun f => { f with count := f.count + 1 } } }

/-- A frame of a pair holds nothing any more: it returns to its die's pool, or leaves service with its pair (R234). -/
def freeFrame (c : Core) (die : Bool) (pair : Nat) : Core :=
  let c := modRoom c pair (· + 1)
  if pairInService c pair then returnFree c die 1 else c

/-- R211: frames of an object in some pairs of a die hold nothing any more. -/
def freePlaces (c : Core) (die : Bool) (pairs : List Nat) : Core := pairs.foldl (fun c q => freeFrame c die q) c

/-- R211, R212: `n` free frames of a die for an object whose frames the model places: their pairs, dealt as `takeFree` deals (DESIGN CHOICE, log 134). -/
def takePlaces (c : Core) (die : Bool) (n : Nat) : List Nat × Core :=
  if n = 0 || (c.mem.pairFree.get die).isEmpty then ([], reserveFree c die n)
  else
    let xs := dealFrom (Config.bulkStart (c.mem.free.get die)) n (inService c die (c.mem.pairFree.get die))
    let c' := reserveFree c die n
    (xs.zipIdx.flatMap fun x => List.replicate x.1 (pairBase die + x.2),
      { c' with mem := { c'.mem with pairFree := c'.mem.pairFree.mod die fun l => List.zipWith (· - ·) l xs } })

/-- R157: drops a reference; a frame with none left is free. -/
def dropRef (c : Core) (id : Nat) : Core :=
  match mapGet c.mem.frames id with
  | none => c
  | some f =>
    if f.count ≤ 1 then freeFrame { c with mem := { c.mem with frames := mapDel c.mem.frames id } } f.die f.pair
    else { c with mem := { c.mem with frames := mapSet c.mem.frames id { f with count := f.count - 1 } } }

/-- The bytes of a frame. -/
def frameBytes (c : Core) (id : Nat) : Cells := ((mapGet c.mem.frames id).map (·.bytes)).getD []

/-- Free frames of a die. -/
def freeOf (c : Core) (die : Bool) : Nat := c.mem.free.get die

/-- A frame holds a check block that fails. -/
def frameBad (c : Core) (f : Nat) : Bool := ((mapGet c.mem.frames f).map fun x => !x.bad.isEmpty).getD false

/-- R234, R482: a pair in service enters draining: the allocator takes no frame from it, and its count of errors is cleared. -/
def startDrain (c : Core) (pair : Nat) : Core :=
  if (pairOf c pair).state != 0 then c
  else reserveFree (modPair c pair fun p => { p with state := 1, errors := 0 }) (stackDie (pair / 512)) (pairRoom c pair)

/-- Errors of pairs, and the draining that they started, which a failed request leaves. -/
def keepPairs (base now : Core) : Core :=
  now.stackTab.foldl (fun c k => k.2.pairs.foldl (fun c p =>
    let q := 512 * k.1 + p.1
    if p.2.state = 1 && (pairOf c q).state = 0 then startDrain c q
    else if p.2.errors = (pairOf c q).errors then c
    else modPair c q fun x => { x with errors := p.2.errors }) c) base

/-- What a failed request keeps of the state it had reached: windows, log, counters, records, code tables, the errors of bank pairs, and bytes already sent. -/
def keepOutside (base now : Core) : Core :=
  { keepPairs (keepCodes base now) now with
    draws := now.draws, bus := now.bus, cfg := now.cfg, regs := now.regs, rings := now.rings, errs := now.errs
    mem := { base.mem with windows := now.mem.windows, lastWindow := now.mem.lastWindow } }

/-- Runs a part whose failure leaves no effect but what has reached the outside. -/
def atomically {α : Type} (m : M α) : M α := fun r =>
  match m r with
  | .ok x => .ok x
  | .error (.fail st c0 c1 c) => .error (.fail st c0 c1 (keepOutside r.core c))
  | .error w => .error w

/-! ## Where a frame lies (R145, R210) -/

/-- R210: the frame number in a stack of a slot of a pair, and the pair of a frame number in a stack. -/
def frameAt (pair slot : Nat) : Nat := slot * 512 + pair ^^^ slot
def pairAt (f : Nat) : Nat := f % 512 ^^^ f / 512

/-- R145, R210: the pair of a stacked frame number. -/
def pairOfNo (f : Nat) : Nat := f / 262144 * 512 + pairAt (f % 262144)

/-- R149: 64 KiB frames of a page size. -/
def sizeFrames (size : Nat) : Nat := if size = 1 then 32 else if size = 2 then 16384 else 1

/-- R165: the frame number of a frame of a host-managed page, as its entry names it. -/
def XPage.frame (x : XPage) (i : Nat) : Nat := (mapGet x.moved i).getD (x.pa / 65536 + i)

/-- R145, R484: the physical address of a check block of a page. -/
def XPage.blockPa (x : XPage) (b : Nat) : Nat := 65536 * x.frame (b / 256) + 256 * (b % 256)

/-- R174: the loft frames of a page that begins at a physical address. -/
def pageRun (pa n : Nat) : LoftRun :=
  let s := pa / 65536 % 32768 / 1024
  { frames := n, slices := if n ≤ 1024 then [s] else (List.range 16).map (s + ·) }

/-- R165: the page with a frame at a new place: a page of one frame names it, a larger one keeps it beside the frames that have not moved (log 163). -/
def XPage.setFrame (x : XPage) (i f : Nat) : XPage :=
  if x.size = 0 then { x with pa := 65536 * f, run := if x.kind = 2 then pageRun (65536 * f) 1 else x.run }
  else { x with moved := mapSet x.moved i f }

/-- R210: what a physical address in a stack names. -/
structure Place where
  stack : Nat
  slot : Nat
  pair : Nat
  channel : Nat
  bank : Nat
  row : Nat
  column : Nat
  deriving DecidableEq, Repr

/-- R145, R210: a stacked physical address decoded: stack k begins at k * 0x4_0000_0000. -/
def placeOf (pa : Nat) : Place :=
  let f := pa / 65536 % 262144
  let slot := f / 512
  let pair := pairAt f
  { stack := pa / 0x400000000, slot := slot, pair := pair, channel := pair / 16
    bank := 2 * (pair % 16) + pa / 1024 % 2, row := slot * 32 + pa / 2048 % 32, column := pa % 1024 }

/-- R145, R210: the frame number that the model gives a frame of a pair: the slot is the allocator's (Config.frameSlot). -/
def placeNo (pair n : Nat) : Nat := pair / 512 * 262144 + frameAt (pair % 512) (Config.frameSlot n % 512)

/-- R145, R210: the frame number of a listed frame: its pair's, at the slot that the device's allocator chose (Config.frameSlot). -/
def frameNo (c : Core) (id : Nat) : Nat :=
  match mapGet c.mem.frames id with
  | none => 0
  | some f => placeNo f.pair id

/-- R145, R484: the physical address of the first failing check block of a frame. -/
def badPa (c : Core) (f : Nat) : Nat :=
  frameNo c f * 65536 + 256 * (((mapGet c.mem.frames f).bind (·.bad.head?)).getD 0)

/-- R484: where a pair lies. -/
def pairWhere (pair : Nat) : Where := { level := 5, stack := pair / 512 % 4, pair := pair % 512 }

/-- R234, R476, R482, R484: a check block of a pair fails as it is read: the log entry, the count of the pair, which drains. -/
def noteBlock (c : Core) (session opcode status : Nat) (pair pa : Nat) : Core :=
  let c := logErr c { kind := 3, die := stackDie (pair / 512), wh := pairWhere pair, session := session, status := status, opcode := opcode
                      addr := pa }
  startDrain (modPair c pair fun p => { p with errors := p.errors + 1 }) pair

/-- R476: a check block of a frame fails as it is read. -/
def noteBad (c : Core) (session opcode : Nat) (st : Status) (f : Nat) : Core :=
  match mapGet c.mem.frames f with
  | none => c
  | some x => noteBlock c session opcode (stCode st) x.pair (badPa c f)

/-- The first of some frames that holds a failing check block is noted. -/
def noteFirst (c : Core) (session opcode : Nat) (st : Status) (fs : List Nat) : Core :=
  ((fs.find? (frameBad c)).map (noteBad c session opcode st)).getD c

/-- R476: ends with a status, since a frame holds a check block that fails. -/
def failFrame {α : Type} (f : Nat) (st : Status) : M α := do
  modC (noteBad · (← get).sid (← get).opc st f)
  refuse st

/-- R476: ends with a status, since a check block of a pair fails. -/
def failBlock {α : Type} (pair pa : Nat) (st : Status) : M α := do
  modC (noteBlock · (← get).sid (← get).opc (stCode st) pair pa)
  refuse st

/-- R97, R192: reads at an outbound bus address: through the pool window whose range holds it, else from the host. -/
def readOutbound (a n : Nat) : M (List Byte) := do readBus (ideStream (← getC) a) a n

/-- R97, R192: posts a write to an outbound bus address. -/
def writeOutbound (a : Nat) (bs : List Byte) : M Unit := do postBus (ideStream (← getC) a) a bs

/-! ## The account of a session and its event records -/

/-- R68: the die of a session: the home die of a warm one, else the die of its directory entry. -/
def sessionDie (c : Core) (sid : Nat) : Bool :=
  let e := entryOf c sid
  if isWarm e.state then e.homeDie else dirDie sid

/-- R142: an event record about a session. -/
def sessionEvent (c : Core) (type sid arg0 arg1 : Nat) : Core :=
  issueEvent c type (sessionDie c sid) sid (entryOf c sid).account arg0 arg1

/-! ## The mirror queue (R500 to R502, R59) -/

/-- HNG_PAIR_STATUS.STATE is 3. -/
def paired (c : Core) : Bool := c.twin.state == 3

/-- A message joins the control class. -/
def sendMsg (c : Core) (m : TwinMsg) : Core := { c with twin := { c.twin with ctl := c.twin.ctl ++ [m] } }

/-- R504: a request goes to the twin. -/
def askTwin (c : Core) (q : TwinReq) : Core :=
  sendMsg { c with twin := { c.twin with requests := c.twin.requests ++ [q] } } (.request q)

/-- R501: type value of a record. -/
def mirrorType : MBody → Nat
  | .copy .. => 0 | .step .. => 1 | .chunk .. => 2 | .appendDone .. => 3 | .turnStart .. => 4 | .turnEnd .. => 5 | .cancel => 6
  | .opened .. => 7 | .closed .. => 8 | .parked .. => 9 | .revived .. => 10 | .done .. => 11

/-- Pages of an image's columns. -/
def imagePages (i : Option Image) : Nat := ((i.map fun i => i.cols.foldl (fun n col => n + col.pages.length) 0)).getD 0

/-- Bytes of every page of an image: its control frame, its map pages, its columns. -/
def imageBytes (i : Option Image) : Nat :=
  match i with
  | none => 0
  | some m => 65536 * (1 + m.mapCount + imagePages i)

/-- R501: bytes of a body that the table gives: key-value bytes, FP32 masses, the stop list, directory and index entries, pages. -/
def mirrorKnown : MBody → Nat
  | .step _ _ kv mass .. => (kv.foldl (fun n b => n + b.length) 0) + 4 * mass.length
  | .chunk _ kv => kv.foldl (fun n ps => ps.foldl (fun n b => n + b.length) n) 0
  | .turnStart .. => 576
  | .opened _ i => 64 + 65536 * imagePages i
  | .parked _ ix => if ix.isSome then 32 else 0
  | .revived _ i => imageBytes i
  | .copy _ i sheaf ix .. => 64 + imageBytes i + sheaf.length + if ix.isSome then 32 else 0
  | _ => 0

/-- What completion fields tell (R501). -/
def finFields (f : Fin0) : List Nat := [f.tag.toNat, f.sq, f.opcode, stCode f.status, f.count0, f.count1]

/-- What a control frame's step record tells (R313). -/
def ctlFields (x : Ctl) (e : Entry) : List Nat :=
  [x.pendingTok.getD (2 ^ 32), e.nextPosition, e.resident, e.step, x.gstate, x.gdigest] ++ x.stack ++ x.seen ++
    x.carryBytes.map (·.toNat) ++ x.piece.map (·.toNat)

/-- What the rest of a body tells. -/
def mirrorFields : MBody → List Nat
  | .step x e _ _ _ ends => ends.getD 0 :: ctlFields x e
  | .appendDone x e f => ctlFields x e ++ finFields f
  | .turnStart e t gone x =>
    ctlFields x e ++ gone ++ [t.desc.tag, t.desc.ring, t.maxTokens, t.outBuf, t.outLen, t.temperature.toNat, t.topP.toNat,
      t.repPenalty.toNat, t.topK, e.grammarId, b2n e.grammarBound]
  | .turnEnd _ reason cancelled f => reason :: b2n cancelled :: finFields f
  | .closed cause => [cause]
  | .parked e _ => [e.imagePlace]
  | .revived die _ => [b2n die]
  | .done f => finFields f
  | _ => []

/-- R501: the part of a body that the table does not measure. -/
def mirrorOpen (b : MBody) : List Byte :=
  match b with
  | .copy .. | .chunk .. | .cancel | .opened .. => []
  | b => Config.mirrorPart (mirrorType b) (mirrorFields b)

/-- R501: body bytes of a record. -/
def mirrorBodyLen (r : MirrorRec) : Nat := (mirrorOpen r.body).length + mirrorKnown r.body

/-- R501: the header of a mirror record. -/
def mirrorHeader (r : MirrorRec) : List Word :=
  [ BitVec.ofNat 64 (fieldAt 0 8 (mirrorType r.body) + fieldAt 8 1 (b2n r.die) + fieldAt 16 24 r.session + fieldAt 40 24 r.step),
    BitVec.ofNat 64 (fieldAt 0 32 (mirrorBodyLen r) + fieldAt 32 32 r.turn) ]

/-- R501: length of a record with its header. -/
def mirrorLen (r : MirrorRec) : Nat := 8 * (mirrorHeader r).length + mirrorBodyLen r

/-- R490: payload bytes of a mirror frame. -/
def framePayload : Nat := 480

/-- The kind and the content of a control message. -/
def msgKind : TwinMsg → Nat × List Nat
  | .hello h => (0, [h.deviceNo, h.stepping, h.interval, h.credits, h.leafT] ++ h.slots.flatMap (fun p => [p.1, p.2]) ++ h.ids ++ h.lost)
  | .complete => (1, [])
  | .unpair => (2, [])
  | .giveUp => (3, [])
  | .grant die g => (4, [b2n die, match g with | .asked => 0 | .returned => 1 | .received => 2 | .gaveBack => 3])
  | .request q => (5, match q with | .pages i => [0, i] | .sheaf i => [1, i] | .tiles i => [2, i])
  | .reservation bs => (6, [leNat bs])

/-- The payload of a control frame. -/
def msgPayload (m : TwinMsg) : List Byte := bytesAt (Config.twinMessage (msgKind m).1 (msgKind m).2) 0 framePayload

/-- R59: bytes of the mirror queue. -/
def mirrorCap : Nat := 256 * 2 ^ 20

/-- Bytes of the mirror queue in use. -/
def mirrorUsed (c : Core) : Nat :=
  (c.twin.mirror.foldl (fun n r => n + r.bytes) 0) - c.twin.mirrorSent

/-- Bytes of the mirror queue that are free. -/
def mirrorLeft (c : Core) : Nat := mirrorCap - mirrorUsed c

/-- R495, R498: commits of a session are mirrored: the devices are paired, or are syncing and the session's copy has been sent; a device that unpairs mirrors no more. -/
def mirrored (c : Core) (sid : Nat) : Bool :=
  !c.twin.unpairing && (paired c || (c.twin.state == 2 && c.twin.hello.isSome && !c.twin.toSend.contains sid))

/-- R502: bytes of a session's waiting record that have entered the queue. -/
def enteredOf (c : Core) (sid : Nat) : Nat := (mapGet c.twin.entered sid).getD 0

/-- R312, R502: a record can be entered: a session that is not mirrored enters none; of another, what has not entered in pieces finds room, behind every earlier record of the session. -/
def mirrorRoom (c : Core) (r : MirrorRec) : Bool :=
  !mirrored c r.session ||
    (!(c.twin.late.any fun x => x.out.session == r.session) && decide (mirrorLen r - enteredOf c r.session ≤ mirrorLeft c))

/-- R502: a record that finds no room for all of it goes in pieces: as much enters as finds room. -/
def enterPiece (c : Core) (r : MirrorRec) : Core :=
  let had := enteredOf c r.session
  let n := min (mirrorLeft c) (mirrorLen r - had)
  if n = 0 || (c.twin.late.any fun x => x.out.session == r.session) then c
  else { c with twin := { c.twin with mirror := c.twin.mirror ++ [⟨r, had, n⟩], entered := mapSet c.twin.entered r.session (had + n) } }

/-- R502: what is left of a record enters. -/
def enterRest (c : Core) (r : MirrorRec) : Core :=
  let had := enteredOf c r.session
  { c with twin := { c.twin with
    mirror := c.twin.mirror ++ [⟨r, had, mirrorLen r - had⟩], entered := mapDel c.twin.entered r.session } }

/-- A record about a session. -/
def mirrorRec (c : Core) (sid : Nat) (b : MBody) : MirrorRec :=
  let e := entryOf c sid
  { die := e.homeDie, session := sid, turn := e.turn, step := e.step, body := b }

/-- R501: enters a record of a session that is mirrored. -/
def mirror (c : Core) (sid : Nat) (b : MBody) : Core :=
  if mirrored c sid then enterRest c (mirrorRec c sid b) else c

/-- R312, R502: a record enters and what is told with it follows; without room both wait, the record's pieces entering as room comes. -/
def mirrorThen (c : Core) (sid : Nat) (b : MBody) (fin : Option (Desc × Status × Nat × Nat)) (replayed : Bool) (tell : Core → Core) : Core :=
  let r := mirrorRec c sid b
  if mirrorRoom c r then tell (mirror c sid b)
  else
    { c with twin := { c.twin with late := c.twin.late ++ [⟨r, fin, replayed⟩] } }

/-- R495: a session's copy is on its way in the bulk class. -/
def copying (c : Core) (p : Nat → Bool) : Bool := c.twin.bulk.any fun b => match b with | .copy r => p r.session | .answer .. => false

/-- R501: the completion fields of a descriptor. -/
def finOf (d : Desc) (st : Status) (c0 c1 : Nat) : Fin0 := ⟨BitVec.ofNat 64 d.tag, d.ring, d.opcode, st, c0, c1⟩

/-- R516, R517: an epoch runs whose cut is still to come on a die or on both. -/
def cutDue (c : Core) : Bool :=
  match c.ckpt.running with
  | none => false
  | some ep => !(ep.cut.d0 && ep.cut.d1)

/-- R524: the epoch has not yet copied a session's packed image that lies in a place (1 barn, 2 pool window, 3 spill region). -/
def uncopied (c : Core) (sid place : Nat) : Bool :=
  match c.ckpt.running with
  | none => false
  | some ep => ep.items.any fun i => i.session == sid && (i.ix.map (·.place)) == some place

/-- R505: a paired device whose twin link works sends GIVE_UP. -/
def sendGiveUp (c : Core) : Core :=
  if paired c && c.twin.linkUp && !c.twin.gaveUp then
    sendMsg { c with twin := { c.twin with gaveUp := true, giveUps := c.twin.giveUps + 1 } } .giveUp
  else c

/-! ## Order on one session and on one ring (R11, R12, R126) -/

/-- R501: a session's descriptor completes; where no other record carries its completion, DONE does. -/
def finishDesc (c : Core) (d : Desc) (st : Status) (c0 c1 : Nat) : Core :=
  if d.session = 0 || (d.opcode = 0x13 && st = .ok) then complete c d st c0 c1
  else mirrorThen c d.session (.done (finOf d st c0 c1)) (some (d, st, c0, c1)) false (complete · d st c0 c1)

/-- Waits for the inside: no answer is due and no timeout runs (slot 16). -/
def waitInside {α : Type} : M α := waitOn 16

/-- R162: waits for a staging frame (slot 17). -/
def waitStaging {α : Type} : M α := waitOn 17

/-- R312, R502: a record that is part of an effect waits until the mirror queue has room; meanwhile it enters in pieces. -/
def mirrorM (sid : Nat) (b : MBody) : M Unit := do
  let c ← getC
  let r := mirrorRec c sid b
  if mirrorRoom c r then modC fun c => mirror c sid b
  else
    modify fun x => { x with base := enterPiece x.base r }
    waitInside

/-- R10: while a swap of its hand-over is in flight, a session is MOVING. -/
def setMoving (c : Core) (d : Desc) : Core :=
  let e := entryOf c d.session
  setEntry c d.session { e with state := .moving, account := if e.state = .free then d.account else e.account }

/-- A request in flight that makes its session MOVING. -/
def movingWhile {α : Type} (m : M α) : M α := fun r =>
  match m r with
  | .error (.wait w) => .error (.wait { w with moving := true })
  | y => y

/-- R162: one more write that waited for a staging frame (CKP_STAT.HASP_WAITS). -/
def countHaspWait (c : Core) : Core := regCount c 0x710008 63 32 1

/-- R88, R98, R598: waiting requests that have not been sent are sent in order, as far as the link, their streams and the tags allow. -/
def sendWaiting (c : Core) : Core :=
  let f := fun (a : Nat × List Waiting) (w : Waiting) =>
    let n := min w.need a.1
    if w.tags = 0 && !w.lost && 0 < n && !slotBarred c w.stream then (a.1 - n, a.2 ++ [{ w with tags := n }]) else (a.1, a.2 ++ [w])
  if c.link.up then { c with sess := { c.sess with waiting := (c.sess.waiting.foldl f (tagsFree c, [])).2 } } else c

/-- What is carried out at a state with some answers. -/
def runOf (s : State) (c : Core) (env : Env) : Run0 := { core := c, env := env, rot := s.rot }

/-- The run of a descriptor; of one that goes on after a wait, with what it keeps. -/
def descRun (s : State) (d : Desc) (env : Env) (before : Option Waiting) : Run0 :=
  { runOf s s.core env with
    sid := d.session, opc := d.opcode, resumed := before.isSome
    had := (before.map (·.env.length)).getD 0, sent := (before.map fun w => w.lost || decide (0 < w.tags)).getD false
    past := (before.map (·.memo)).getD [] }

/-- A descriptor waits: what it keeps stands, and its request is sent when that can be. -/
def leaveWaiting (d : Desc) (env : Env) (before : Option Waiting) (w : Wait) : Core :=
  let x : Waiting := { desc := d, env := env.take (env.length - w.left), slot := w.slot, stream := w.stream, need := w.need, row := w.row, memo := w.memo }
  let c := { w.kept with sess := { w.kept.sess with waiting := w.kept.sess.waiting ++ [x] } }
  let c := if w.slot = 17 && before.isNone then countHaspWait c else c
  if w.moving then setMoving c d else c

/-- What carrying out one descriptor leaves: completion, progress, or a wait. -/
def settle (s : State) (d : Desc) (env : Env) (m : M Done) (before : Option Waiting := none) : State :=
  match m (descRun s d env before) with
  | .ok (.done st c0 c1, r) =>
    { s with core := finishDesc r.core d st c0 c1, rot := extendAll s.rot r.ext }
  | .ok (.running, r) => { s with core := r.core, rot := extendAll s.rot r.ext }
  | .error (.fail st c0 c1 c) => { s with core := finishDesc c d st c0 c1 }
  | .error (.wait w) => { s with core := sendWaiting (leaveWaiting d env before w) }

/-- R9: the account check, made while the entry is not FREE. -/
def accountCheck (d : Desc) : M Unit := do
  let e := entryOf (← getC) d.session
  check (e.state != .free && e.account != d.account) .invalidField

/-! ## Hasps (R522) -/

/-- Sets the hasp of a leaf entry; a frame that the prefix tree holds gets none (R367). -/
def haspLeaf (l : Leaf) : Leaf := if l.shared then l else { l with hold := true }

/-- R522: hasps on the control frame, the map pages and the KV pages; an APPEND's working columns carry the same entries. -/
def haspWarm (w : Warm) : Warm :=
  let mine := w.columns.flatMap fun p => p.2.leaves.map (·.frame)
  let cols := w.columns.map fun p => (p.1, { p.2 with leaves := p.2.leaves.map haspLeaf })
  { w with
    ctlLeaf := haspLeaf w.ctlLeaf
    mapPages := w.mapPages.map fun p => (p.1, haspLeaf p.2)
    columns := cols
    lane := w.lane.map fun ln => { ln with cols := ln.cols.map fun p =>
      (p.1, { p.2 with leaves := p.2.leaves.map fun l => if mine.contains l.frame then haspLeaf l else l }) } }

/-- R522: the hasps of a marked session are set and its mark is cleared. -/
def haspSession (c : Core) (sid : Nat) : Core :=
  match c.ckpt.running with
  | none => c
  | some ep =>
    if !mapHas ep.marked sid then c
    else { c with
      ckpt := { c.ckpt with running := some { ep with marked := mapDel ep.marked sid } }
      sess := { c.sess with warm := mapMod c.sess.warm sid haspWarm } }

/-- R11, R586: a session's descriptor begins: it is the one being carried out, a marked session gets its hasps, and a policy park ends. -/
def beginSession (c : Core) (d : Desc) : Core :=
  let c := haspSession c d.session
  clearAge { c with sess := { c.sess with
    inProg := mapSet c.sess.inProg d.session d
    parking := mapDel c.sess.parking d.session
    due := mapDel c.sess.due d.session } } d.session

/-- Starts a session's descriptor. -/
def startSession (s : State) (d : Desc) (env : Env) (m : M Done) : State :=
  settle { s with core := beginSession s.core d } d env (do accountCheck d; m)

/-- Descriptors that wait in a session's router store. -/
def heldOf (c : Core) (sid : Nat) : List Desc := (mapGet c.sess.held sid).getD []

/-- R12, R28: descriptors held behind the one being carried out; with none in progress the first in the store is that one. -/
def heldBehind (c : Core) (sid : Nat) : Nat := (heldOf c sid).length - if mapHas c.sess.inProg sid then 0 else 1

/-- Descriptors that wait in a ring's sequencer queue. -/
def seqHeldOf (c : Core) (ring : Nat) : List Desc := (mapGet c.sess.seqHeld ring).getD []

/-- R12, R27, R586: a descriptor joins its session's router store; the sixteenth behind the one being carried out completes ST_NO_SPACE. -/
def holdSession (c : Core) (d : Desc) : Core :=
  let h := heldOf c d.session
  if (if mapHas c.sess.inProg d.session then 15 else 16) ≤ h.length then finishDesc c d .noSpace 0 0
  else clearAge { c with sess := { c.sess with
    held := mapSet c.sess.held d.session (h ++ [d])
    parking := mapDel c.sess.parking d.session
    due := mapDel c.sess.due d.session } } d.session

/-- R126: a descriptor joins the sequencer's queue of its ring. -/
def holdSeq (c : Core) (d : Desc) : Core :=
  { c with sess := { c.sess with seqHeld := mapSet c.sess.seqHeld d.ring (seqHeldOf c d.ring ++ [d]) } }

/-- R11: the router accepts a session's descriptor: carried out at once, or held behind an earlier one. -/
def acceptSession (s : State) (d : Desc) (env : Env) (m : M Done) : State :=
  let c := s.core
  if !serving c then s
  else if mapHas c.sess.inProg d.session || !(heldOf c d.session).isEmpty then { s with core := holdSession c d }
  else startSession s d env m

/-- R126: a sequencer's descriptor begins. -/
def beginSeq (c : Core) (d : Desc) : Core :=
  { c with sess := { c.sess with seqProg := mapSet c.sess.seqProg d.ring d } }

/-- Starts a sequencer's descriptor. -/
def startSeq (s : State) (d : Desc) (env : Env) (m : M Done) : State :=
  settle { s with core := beginSeq s.core d } d env m

/-- R126: the sequencer accepts a session-less descriptor: carried out, or held behind an earlier one of its ring. -/
def acceptSeq (s : State) (d : Desc) (env : Env) (m : M Done) : State :=
  let c := s.core
  if !serving c then s
  else if mapHas c.sess.seqProg d.ring || !(seqHeldOf c d.ring).isEmpty then { s with core := holdSeq c d }
  else startSeq s d env m

/-! ## Counts of repaired errors (R479, R480) -/

/-- INT_RATE_THRESH of a class. -/
def rateThresh (c : Core) (cls : Nat) : Nat := regField c (0x600080 + 8 * (cls - 1)) 31 0

/-- Changes the error counts of a die. -/
def modRates (c : Core) (die : Bool) (f : Rates → Rates) : Core :=
  { c with errs := { c.errs with rates := c.errs.rates.mod die f } }

/-- R479, R480: one more repaired error of a class on a die; the first count above the threshold in a window issues an ERROR_RATE record. -/
def countError (c : Core) (die : Bool) (cls : Nat) : Core :=
  if cls = 0 || 8 < cls then c
  else
    let n := satAdd 32 ((mapGet (c.errs.rates.get die).now cls).getD 0) 1
    let c := modRates c die fun r => { r with now := mapSet r.now cls n }
    let t := rateThresh c cls
    if t = 0 || n ≤ t || mapHas (c.errs.rates.get die).told cls then c
    else issueEvent (modRates c die fun r => { r with told := mapSet r.told cls () }) 7 die 0 0 cls n

/-- A free count of page-table walks is added to XLT_CACHE_STAT. -/
def countWalks (c : Core) : Core :=
  let n := Config.xltCounts c.draws
  let c := { c with draws := c.draws + 1 }
  regCount (regCount c 0x100008 31 0 n.1) 0x100008 63 32 n.2

/-! ## Host accesses (R86, R563, R571) -/

/-- R571, R576: PWR_STAT.READY is set and the host port serves. A held device still takes set-up accesses, a reset command among them (R57). -/
def barReady (c : Core) : Bool := c.power.on && c.power.ready && !c.power.failed && !c.power.tripped

/-- R57: a held device keeps every ring as it stands until reset. -/
def ringsHeld (c : Core) : Bool := c.power.held

/-- A command that acts on the state alone. -/
def onCore (s : State) (f : Core → Core) : Host.Outcome State Fault Refusal := .next { s with core := f s.core }

/-- A command that the device takes only while it is ready (R571). -/
def whenReady (s : State) (f : Core → Core) : Host.Outcome State Fault Refusal :=
  .next (if ready s.core then { s with core := f s.core } else s)

end Sys2Proof.Machine
end

