-- ==== Sys2Proof/Machine/Operands.lean ====
section
/-! DEFINITION. Operand forms: the opcode values and their generations (R116, R119), the bits that each opcode's layout gives (R5, R120 and the layout tables of every chapter), the generic checks (R601), and the directory entry's words (R28). -/

namespace Sys2Proof.Machine

/-- R116: the opcodes that act on a session (R8). -/
def isSessionOp (op : Nat) : Bool := (0x10 ≤ op && op ≤ 0x15) || (0x20 ≤ op && op ≤ 0x23)

/-- R116: opcode values. -/
def opcodes : List Nat :=
  [0x00, 0x01, 0x02, 0x03, 0x04, 0x10, 0x11, 0x12, 0x13, 0x14, 0x15, 0x20, 0x21, 0x22, 0x23, 0x30, 0x31, 0x40, 0x41, 0x42,
    0x50, 0x51, 0x60, 0x61, 0x62, 0x63, 0x64, 0x68, 0x69, 0x6A, 0x6B, 0x70, 0x71, 0x72, 0x80, 0x81, 0x82]

/-- R119: an opcode is carried out on rings of a generation. -/
def opOnGen (op gen : Nat) : Bool :=
  if op ≤ 1 || (0x10 ≤ op && op ≤ 0x15) || op = 0x20 || op = 0x21 then 1 ≤ gen && gen ≤ 3
  else if op = 0x30 || op = 0x31 || (0x40 ≤ op && op ≤ 0x42) || (0x60 ≤ op && op ≤ 0x64) || (0x70 ≤ op && op ≤ 0x72) then
    gen = 2 || gen = 3
  else gen = 3

/-- A mask of bits [hi:lo]. -/
def maskOf (hi lo : Nat) : Nat := 2 ^ (hi + 1) - 2 ^ lo

/-- Every bit of a word. -/
def allBits : Nat := 2 ^ 64 - 1

/-- The opcode-specific flags [63:56] of word 0 that an opcode gives a meaning. -/
def flagMask (op : Nat) : Nat :=
  match op with
  | 0x13 => maskOf 57 56
  | 0x20 => maskOf 56 56
  | 0x42 => maskOf 56 56
  | 0x60 => maskOf 56 56
  | 0x68 => maskOf 58 56
  | 0x70 => maskOf 56 56
  | 0x71 => maskOf 57 56
  | 0x72 => maskOf 56 56
  | _ => 0

/-- The bits of words 2 to 7 that an opcode's layout gives a meaning; every other bit is reserved. XLT_UNMAP's `pa`, `write`, `alloc` and `alloc_tier`, which R168 has it ignore and asks to be 0, count as reserved bits (DESIGN CHOICE, log 158). -/
def fieldMask (op w : Nat) : Nat :=
  match op, w with
  | 0x02, 2 => allBits | 0x02, 3 => allBits | 0x02, 4 => maskOf 39 0
  | 0x03, 2 => allBits | 0x03, 4 => maskOf 33 0 + maskOf 39 38
  | 0x04, 2 => allBits | 0x04, 3 => allBits | 0x04, 4 => maskOf 32 0 | 0x04, 5 => allBits | 0x04, 6 => allBits
  | 0x10, 2 => maskOf 19 0 + maskOf 63 32 | 0x10, 3 => allBits
  | 0x12, 2 => allBits
  | 0x13, 2 => allBits | 0x13, 3 => maskOf 31 0
  | 0x14, 2 => allBits | 0x14, 3 => maskOf 23 0 + maskOf 63 32 | 0x14, 4 => allBits | 0x14, 5 => allBits
  | 0x14, 6 => maskOf 42 0 | 0x14, 7 => maskOf 13 0
  | 0x20, 2 => maskOf 3 0
  | 0x22, 2 => maskOf 31 0 | 0x22, 3 => allBits
  | 0x23, 2 => allBits
  | 0x30, 2 => allBits | 0x30, 3 => maskOf 20 0 + maskOf 41 32
  | 0x31, 2 => maskOf 31 0
  | 0x40, 2 => allBits | 0x40, 3 => allBits | 0x40, 4 => maskOf 11 0
  | 0x41, 4 => maskOf 11 0
  | 0x42, 2 => allBits | 0x42, 3 => allBits | 0x42, 4 => allBits
  | 0x50, 2 => allBits | 0x50, 3 => allBits | 0x50, 4 => maskOf 3 0
  | 0x51, 4 => maskOf 3 0
  | 0x60, 2 => allBits | 0x60, 3 => maskOf 44 0 | 0x60, 4 => maskOf 28 0
  | 0x61, 2 => allBits | 0x61, 3 => allBits | 0x61, 4 => allBits | 0x61, 5 => maskOf 24 0
  | 0x62, 2 => allBits | 0x62, 3 => maskOf 28 0
  | 0x63, 2 => maskOf 7 0
  | 0x64, 2 => allBits | 0x64, 3 => allBits | 0x64, 4 => maskOf 27 0 | 0x64, 5 => allBits
  | 0x68, 2 => allBits | 0x68, 3 => maskOf 32 0 | 0x68, 4 => maskOf 28 0
  | 0x69, 2 => allBits | 0x69, 3 => allBits | 0x69, 4 => maskOf 26 0
  | 0x6A, 2 => allBits | 0x6A, 3 => allBits | 0x6A, 4 => allBits | 0x6A, 5 => maskOf 20 0 + maskOf 52 32
  | 0x6B, 2 => allBits | 0x6B, 3 => allBits | 0x6B, 4 => maskOf 27 0 | 0x6B, 5 => allBits
  | 0x70, 2 => maskOf 47 0
  | 0x71, 2 => allBits | 0x71, 3 => maskOf 31 0
  | 0x72, 2 => allBits | 0x72, 3 => allBits
  | 0x80, 2 => maskOf 2 0
  | 0x81, 2 => maskOf 21 0 | 0x81, 3 => allBits | 0x81, 4 => allBits | 0x81, 5 => allBits
  | 0x82, 2 => maskOf 3 0 | 0x82, 3 => allBits
  | _, _ => 0

/-- R5: a reserved bit of the header or of the opcode's own flags and words is set. -/
def reservedSet (d : Desc) : Bool :=
  let op := d.opcode
  bits (d.word 0) 15 12 != 0 ||
  ((d.word 0 / 2 ^ 56 * 2 ^ 56) &&& (allBits - flagMask op)) / 2 ^ 56 != 0 ||
  (List.range d.words.length).any fun w => 2 ≤ w && d.word w &&& (allBits - fieldMask op w) != 0

/-- R601: the generic checks, in order; none when the descriptor passes. -/
def genericCheck (c : Core) (ringGen : Nat) (d : Desc) : Option Status :=
  let op := d.opcode
  if d.generation ≠ ringGen then some .invalidField
  else if !opcodes.contains op then some .invalidField
  else if !opOnGen op ringGen || ((op = 0x22 || op = 0x23) && deviceNo c = 0) then some .unsupported
  else if reservedSet d then some .invalidField
  else if isSessionOp op != (d.session != 0) then some .invalidField
  else none

/-- Bytes of an entry of a ring's generation (R108). -/
def entryBytes (gen : Nat) : Nat := if gen = 1 then 32 else if gen = 2 then 64 else 128

/-- R28: the eight words of a directory entry; `held` counts the descriptors held behind the one being carried out (R12). -/
def entryWords (c : Core) (e : Entry) (held : Nat) : List Nat :=
  if e.state = .free then List.replicate 8 0
  else
    [ fieldAt 0 4 (stateCode e.state) + fieldAt 4 4 e.endReason + fieldAt 8 4 e.modelSlot + fieldAt 12 12 e.grammarId +
        fieldAt 24 1 (b2n e.grammarBound) + fieldAt 25 1 (b2n e.homeDie) + fieldAt 26 1 (b2n e.startWaiting) +
        fieldAt 27 1 (b2n e.cancelPending) + fieldAt 28 1 (b2n e.markValid) + fieldAt 29 1 (b2n e.prefixAttached) +
        fieldAt 30 2 e.imagePlace + fieldAt 32 16 e.account + fieldAt 48 4 held + fieldAt 52 3 e.ckptClass,
      fieldAt 0 36 (if isWarm e.state then frameNo c e.rootFrame else 0),
      fieldAt 0 25 e.nextPosition + fieldAt 25 25 e.resident,
      fieldAt 0 32 e.turn + fieldAt 32 24 e.step,
      e.seed.toNat,
      fieldAt 0 25 e.markPosition + fieldAt 32 32 e.prefixHandle,
      fieldAt 0 32 e.privateFrames + fieldAt 32 32 e.reservedFrames,
      fieldAt 0 32 e.idleAge ]

/-- A directory entry read back from its eight words (a sheaf's or a shard's copy, R396). -/
def entryOfWords (w : List Nat) : Entry :=
  let g := fun i hi lo => bits (nth w i 0) hi lo
  { state := stateOf (g 0 3 0), endReason := g 0 7 4, modelSlot := g 0 11 8, grammarId := g 0 23 12
    grammarBound := g 0 24 24 == 1, homeDie := g 0 25 25 == 1, startWaiting := g 0 26 26 == 1
    cancelPending := g 0 27 27 == 1, markValid := g 0 28 28 == 1, prefixAttached := g 0 29 29 == 1
    imagePlace := g 0 31 30, account := g 0 47 32, ckptClass := g 0 54 52
    rootFrame := g 1 35 0, nextPosition := g 2 24 0, resident := g 2 49 25, turn := g 3 31 0, step := g 3 55 32
    seed := BitVec.ofNat 64 (nth w 4 0), markPosition := g 5 24 0, prefixHandle := g 5 63 32
    privateFrames := g 6 31 0, reservedFrames := g 6 63 32, idleAge := g 7 31 0 }

/-- R87, R121: the words that the doorbell catcher holds for page `n`: the submission tail and the completion head. -/
def doorbellWords (c : Core) (n : Nat) : Nat × Nat :=
  (((mapGet c.rings.subs n).map (·.tail)).getD 0, ((mapGet c.rings.cqs n).map fun r => r.head % 2 ^ 32).getD 0)

end Sys2Proof.Machine
end

