-- ==== Sys2Proof/Machine/Budgets.lean ====
section
/-! DEFINITION. Budgets, shaping and fairness (16_budgets): accounts, buckets, the intake meter, tags, the capacity factor and the committed scale. -/

namespace Sys2Proof.Machine

/-! ## Accounts on a die -/

/-- An account's state on a die. -/
def acctOf (c : Core) (die : Bool) (a : Nat) : Acct := (mapGet (c.sched.get die).accts a).getD {}

/-- Replaces an account's state on a die. -/
def setAcct (c : Core) (die : Bool) (a : Nat) (x : Acct) : Core :=
  { c with sched := c.sched.mod die fun s => { s with accts := mapSet s.accts a x } }

/-- Changes an account's state on a die. -/
def modAcct (c : Core) (die : Bool) (a : Nat) (f : Acct → Acct) : Core := setAcct c die a (f (acctOf c die a))

/-- An account is set (R441); account 0 is device-internal. -/
def accountKnown (c : Core) (a : Nat) : Bool := a == 0 || mapHas c.acctCfg a

/-- R441: the weight of an account; account 0 weighs 1. -/
def weightOf (c : Core) (a : Nat) : Nat := ((mapGet c.acctCfg a).map (·.weight)).getD 1

/-- R461: the admitted sum of committed rates. -/
def sumCir (c : Core) : Nat := c.acctCfg.foldl (fun n p => n + p.2.cir) 0

/-- SCHED_CAPACITY.CREDITS. -/
def credits (c : Core) : Nat := regField c 0x500208 31 0

/-- R449: an account whose rates are both 0. -/
def blocked (c : Core) (a : Nat) : Bool :=
  match mapGet c.acctCfg a with
  | some g => g.cir == 0 && g.eir == 0
  | none => false

/-! ## Capacity (R462 to R465) -/

/-- Stacks of a die in service. -/
def stacksIn (c : Core) (die : Bool) : Nat :=
  ((List.range 4).filter fun i =>
    ((mapGet c.stackTab ((if die then 4 else 0) + i)).map (·.state)).getD 0 != 2).length

/-- Clusters of a die in service. -/
def clustersIn (c : Core) (die : Bool) : Nat := 32 - (c.levels.get die).clusters.length

/-- R462: the component u, in units of 1/65,536. -/
def factorU (c : Core) (die : Bool) : Nat := min (clustersIn c die * 2048) (stacksIn c die * 16384)

/-- R462: the component g. -/
def factorG (c : Core) (die : Bool) : Nat := (8 - (c.gov.get die).holding) * 8192

/-- R462: the component t. -/
def factorT (c : Core) : Nat := if c.twin.taken then 32768 else 65536

/-- R462: f × 65,536. -/
def capFactor (c : Core) (die : Bool) : Nat := factorU c die * factorG c die / 65536 * factorT c / 65536

/-- R464: the committed scale. -/
def scaleFor (c : Core) (die : Bool) : Nat :=
  if sumCir c = 0 then 65536 else min 65536 (capFactor c die * credits c / sumCir c)

/-! ## Classes of placement (R447, R448) -/

/-- R448: the class of an account's rows on a die: 0 committed, 1 excess, 2 best-effort; none when no row is eligible. -/
def classOf (c : Core) (die : Bool) (a : Nat) : Option Nat :=
  let x := acctOf c die a
  let full := (c.sched.get die).scale == 65536
  if a = 0 then (if full then some 2 else none)
  else match mapGet c.acctCfg a with
    | none => none
    | some g =>
      if g.cir = 0 && g.eir = 0 then none
      else if 0 < g.cir then
        if (x.pendC : Int) < x.c then some 0
        else if (x.pendE : Int) < x.e && full then some 1
        else none
      else if (x.pendE : Int) < x.e && full then some 2
      else none

/-- R448: the bucket a class charges: 1 committed, 2 excess, 0 none. -/
def bucketOf (a cls : Nat) : Nat := if a = 0 then 0 else if cls = 0 then 1 else 2

/-- R444: the placement of a row makes its charge pending. -/
def chargePending (c : Core) (die : Bool) (a bucket n : Nat) : Core :=
  match bucket with
  | 1 => modAcct c die a fun x => { x with pendC := x.pendC + n }
  | 2 => modAcct c die a fun x => { x with pendE := x.pendE + n }
  | _ => c

/-- R444: a row's commit takes its charge from its bucket. -/
def chargeTake (c : Core) (die : Bool) (a bucket n : Nat) : Core :=
  match bucket with
  | 1 => modAcct c die a fun x => { x with pendC := x.pendC - n, c := x.c - n }
  | 2 => modAcct c die a fun x => { x with pendE := x.pendE - n, e := x.e - n }
  | _ => c

/-- R443: charging weights of a slot. -/
def decodeWeight (c : Core) (slot : Nat) : Nat := regField c (0x500300 + 8 * slot) 15 0
def prefillWeight (c : Core) (slot : Nat) : Nat := regField c (0x500300 + 8 * slot) 31 16

/-! ## Eligible rows, tags and waking (R300, R450, R451) -/

/-- R300: the stream ring of a session's turn holds a free entry. -/
def streamRoom (c : Core) (t : Turn) : Bool :=
  let id := if t.replayed then some (regField c 0x700020 21 12) else ((mapGet c.rings.subs t.desc.ring).bind (·.stream))
  match id with
  | none => false
  | some id => match mapGet c.rings.streams id with
    | none => false
    | some r => !r.errored && 0 < freeEntries c 2 id r

/-- R103, R300, R511: a session may be placed for a decode row, its account apart. -/
def decodable (c : Core) (sid : Nat) : Bool :=
  c.link.up && (entryOf c sid).state == .queued &&
  match mapGet c.sess.warm sid with
  | none => false
  | some w => match w.turn with
    | none => false
    | some t => streamRoom c t && !(t.replayed && c.twin.ringHold) && !copying c (· == sid)

/-- R304: a lane of an account waits for its next chunk to be placed; the chunks of one APPEND run in order, and none while its session is being sent (R495). -/
def laneWaits (c : Core) (die : Bool) (sid : Nat) : Bool :=
  !((c.sched.get die).placed.any fun r => r.session == sid) && !copying c (· == sid)

/-- R460: the account of a session is set on this device, and its lane or decode row fits a class. -/
def hasRow (c : Core) (die : Bool) (a : Nat) : Bool :=
  (classOf c die a).isSome && ((acctOf c die a).decodeQ.any (decodable c) || (acctOf c die a).laneQ.any (laneWaits c die))

/-- R451: a change after which accounts that gain an eligible row after having none wake with F = max(F, V). -/
def waking (c : Core) (die : Bool) (f : Core → Core) : Core :=
  let c' := f c
  let sch := c'.sched.get die
  { c' with sched := c'.sched.set die { sch with
    accts := sch.accts.map fun p =>
      if hasRow c' die p.1 && !hasRow c die p.1 then (p.1, { p.2 with tag := max p.2.tag sch.vtime }) else p } }

/-- R451: a change after which accounts of both dies may wake. -/
def wakingBoth (c : Core) (f : Core → Core) : Core := waking c true fun c => waking c false f

/-- R451, R464: both dies compute their scale anew; an account whose rows a scale of 65,536 makes eligible again wakes. -/
def rescale (c : Core) : Core :=
  wakingBoth c fun c =>
    { c with sched := ⟨{ c.sched.d0 with scale := scaleFor c false }, { c.sched.d1 with scale := scaleFor c true }⟩ }

/-- R463: a CAPACITY record for a die. -/
def capacityEvent (c : Core) (die : Bool) (cause factor arg1 : Nat) : Core :=
  rescale (issueEvent c 3 die 0 0 (fieldAt 0 17 factor + fieldAt 32 8 cause) arg1)

/-- R444, R451: a pending charge is dropped; an account whose bucket this makes available again wakes. -/
def chargeDrop (c : Core) (die : Bool) (a bucket n : Nat) : Core :=
  waking c die fun c => match bucket with
    | 1 => modAcct c die a fun x => { x with pendC := x.pendC - n }
    | 2 => modAcct c die a fun x => { x with pendE := x.pendE - n }
    | _ => c

/-- R444: planned batches let a session's rows go; their pending charges are dropped. -/
def unplan (c : Core) (die : Bool) (sid : Nat) : Core :=
  let mine := ((c.sched.get die).batches.flatMap (·.rows)).filter fun r => r.session == sid
  if mine.isEmpty then c
  else
    let c := { c with sched := c.sched.mod die fun s =>
      { s with batches := s.batches.map fun b => { b with rows := b.rows.filter fun r => r.session != sid } } }
    mine.foldl (fun c r => chargeDrop c die r.account r.bucket r.charge) c

/-- R452: when V passes 2^62, V is taken from every tag. -/
def rebase (s : Sched) : Sched :=
  if 2 ^ 62 < s.vtime then
    { s with vtime := 0, accts := s.accts.map fun p => (p.1, { p.2 with tag := p.2.tag - s.vtime }) }
  else s

/-- R450, R451: a row of an account is taken: V is its tag, and the tag grows by the weighted charge. -/
def takeTag (c : Core) (die : Bool) (a charge : Nat) : Core :=
  let sch := c.sched.get die
  let x := acctOf c die a
  let c := { c with sched := c.sched.set die { sch with vtime := x.tag } }
  let c := setAcct c die a { x with tag := x.tag + cdiv (charge * 65536) (weightOf c a) }
  { c with sched := c.sched.mod die rebase }

/-- R450: joins a queue at its tail. -/
def joinDecode (c : Core) (die : Bool) (a sid : Nat) : Core :=
  modAcct c die a fun x => { x with decodeQ := x.decodeQ ++ [sid] }
def joinLane (c : Core) (die : Bool) (a sid : Nat) : Core :=
  modAcct c die a fun x => { x with laneQ := x.laneQ ++ [sid] }

/-- R450: leaves the queues. -/
def leaveDecode (c : Core) (die : Bool) (a sid : Nat) : Core :=
  modAcct c die a fun x => { x with decodeQ := x.decodeQ.erase sid }
def leaveLane (c : Core) (die : Bool) (a sid : Nat) : Core :=
  modAcct c die a fun x => { x with laneQ := x.laneQ.erase sid }

/-! ## Refills (R446, R453, R564) -/

/-- R446: `n` refills of one account. -/
def refillAcct (g : AcctCfg) (scale n : Nat) (x : Acct) : Acct :=
  { x with
    c := min (x.c + n * (g.cir * scale / 65536 : Nat)) g.cbs
    e := if scale = 65536 then min (x.e + n * g.eir) g.ebs else x.e }

/-- R453: `n` refills of one meter. -/
def refillMeter (g : AcctCfg) (n : Nat) (x : Acct) : Acct :=
  { x with tc := min (x.tc + n * g.mCir) g.mCbs, tp := min (x.tp + n * g.mPir) g.mPbs }

/-- Applies a change to every account that is set, on one die. -/
def eachAcct (c : Core) (die : Bool) (f : AcctCfg → Acct → Acct) : Core :=
  c.acctCfg.foldl (fun c p => modAcct c die p.1 (f p.2)) c

/-- R446: bucket refills of a die; rows that they make eligible wake it (R451). -/
def refillBuckets (c : Core) (die : Bool) (n : Nat) : Core :=
  if n = 0 then c
  else waking c die fun c => eachAcct c die fun g x => refillAcct g (c.sched.get die).scale n x

/-- R453: meter refills of a die. -/
def refillMeters (c : Core) (die : Bool) (n : Nat) : Core := eachAcct c die fun g x => refillMeter g n x

/-! ## The intake meter (R453) -/

/-- Colours of an APPEND. -/
inductive Colour where
  | green | yellow | red
  deriving DecidableEq, Repr

/-- R453: colours `b` bytes of an account on a die and takes them from its levels. -/
def colourBytes (c : Core) (die : Bool) (a b : Nat) : Colour × Core :=
  match mapGet c.acctCfg a with
  | none => (.green, c)
  | some g =>
    if !g.mEnable || b = 0 then (.green, c)
    else
      let x := acctOf c die a
      if x.tp < b then (.red, regCount c 0x500228 63 32 1)
      else if x.tc < b then (.yellow, regCount (setAcct c die a { x with tp := x.tp - b }) 0x500228 31 0 1)
      else (.green, setAcct c die a { x with tp := x.tp - b, tc := x.tc - b })

/-! ## Descriptors (R455 to R458) -/

/-- R456 check 4, R459: sessions not FREE that name an account, and those that a SESS_OPEN or HANDOVER_IN past its account check is about to open under it. -/
def sessionsOfAccount (c : Core) (a : Nat) : Nat :=
  (c.sess.dir.filter fun p => p.2.account == a).length +
  (c.sess.waiting.filter fun w => (w.desc.opcode == 0x10 || w.desc.opcode == 0x23) && w.desc.account == a &&
    !mapHas c.sess.dir w.desc.session).length

/-- R457: an account created on both dies, buckets full, F at each die's V. -/
def newAcct (g : AcctCfg) (vtime : Nat) : Acct := { c := g.cbs, e := g.ebs, tag := vtime }

/-- R456, R457, R461: ACCOUNT_SET with `delete` 0. -/
def accountSetBody (d : Desc) : M Done := do
  let a := d.account
  check (d.session != 0 || a == 0) .invalidField
  let cir := d.field 2 31 0 0
  let weight := d.field 2 47 32 0
  check (weight == 0) .invalidField
  let c ← getC
  let old := ((mapGet c.acctCfg a).map (·.cir)).getD 0
  let sum := sumCir c - old + cir
  if credits c < sum && sumCir c ≤ sum then failC .refusedFit (sumCir c) (credits c)
  match mapGet c.acctCfg a with
  | some g => modC fun c => wakingBoth c fun c =>
      { c with acctCfg := mapSet c.acctCfg a { g with cir := cir, weight := weight } }
  | none =>
    let g : AcctCfg := { cir := cir, weight := weight, cbs := if cir = 0 then 1 else cir }
    modC fun c =>
      let c := { c with acctCfg := mapSet c.acctCfg a g }
      let x0 := acctOf c false a
      let x1 := acctOf c true a
      let c := setAcct c false a { newAcct g c.sched.d0.vtime with decodeQ := x0.decodeQ, laneQ := x0.laneQ }
      setAcct c true a { newAcct g c.sched.d1.vtime with decodeQ := x1.decodeQ, laneQ := x1.laneQ }
  modC rescale
  let c ← getC
  return .done .ok (sumCir c) (credits c)

/-- R456, R457: ACCOUNT_SET with `delete` 1. -/
def accountDeleteBody (d : Desc) : M Done := do
  let a := d.account
  check (d.session != 0 || a == 0) .invalidField
  let c ← getC
  check (!mapHas c.acctCfg a) .unknownHandle
  let n := sessionsOfAccount c a
  if 0 < n then failC .wrongState n 0
  modC fun c => rescale { c with
    acctCfg := mapDel c.acctCfg a
    sched := ⟨{ c.sched.d0 with accts := mapDel c.sched.d0.accts a }, { c.sched.d1 with accts := mapDel c.sched.d1.accts a }⟩ }
  let c ← getC
  return .done .ok (sumCir c) (credits c)

/-- R458: the level a BUCKET_SET leaves. -/
def fillLevel (fill : Nat) (old : Int) (depth : Nat) : Int :=
  match fill with
  | 1 => depth
  | 2 => 0
  | _ => old

/-- R456, R458: BUCKET_SET. -/
def bucketSetBody (d : Desc) : M Done := do
  let a := d.account
  check (d.session != 0 || a == 0) .invalidField
  let fill := bits (d.word 0) 57 56
  let cbs := d.field 2 31 0 0
  let ebs := d.field 2 63 32 0
  check (cbs == 0 || ebs == 0 || fill == 3) .invalidField
  match mapGet (← getC).acctCfg a with
  | none => refuse .unknownHandle
  | some g =>
    let upd := fun (c : Core) (die : Bool) => modAcct c die a fun x =>
      { x with c := fillLevel fill x.c cbs, e := fillLevel fill x.e ebs }
    modC fun c =>
      wakingBoth c fun c =>
        let c := { c with acctCfg := mapSet c.acctCfg a { g with cbs := cbs, ebs := ebs, eir := d.field 3 31 0 0 } }
        upd (upd c false) true
    return .done .ok 0 0

/-- R456, R458: METER_SET. -/
def meterSetBody (d : Desc) : M Done := do
  let a := d.account
  check (d.session != 0 || a == 0) .invalidField
  let en := bit (d.word 0) 56
  let mCir := d.field 2 31 0 0
  let mPir := d.field 2 63 32 0
  let mCbs := d.field 3 31 0 0
  let mPbs := d.field 3 63 32 0
  check (en && (mCbs == 0 || mPbs == 0 || mPir < mCir)) .invalidField
  match mapGet (← getC).acctCfg a with
  | none => refuse .unknownHandle
  | some g =>
    let upd := fun (c : Core) (die : Bool) => modAcct c die a fun x => { x with tc := mCbs, tp := mPbs }
    modC fun c =>
      let g := { g with mEnable := en, mCir := mCir, mPir := mPir, mCbs := mCbs, mPbs := mPbs }
      let c := { c with acctCfg := mapSet c.acctCfg a g }
      upd (upd c false) true
    return .done .ok 0 0

/-- R457. -/
def execAccountSet (d : Desc) (s : State) : Host.Outcome State Fault Refusal := .next (acceptSeq s d [] (accountSetBody d))

/-- R457. -/
def execAccountDelete (d : Desc) (s : State) : Host.Outcome State Fault Refusal := .next (acceptSeq s d [] (accountDeleteBody d))

/-- R458. -/
def execBucketSet (d : Desc) (s : State) : Host.Outcome State Fault Refusal := .next (acceptSeq s d [] (bucketSetBody d))

/-- R458. -/
def execMeterSet (d : Desc) (s : State) : Host.Outcome State Fault Refusal := .next (acceptSeq s d [] (meterSetBody d))

end Sys2Proof.Machine
end

