-- ==== Sys2Proof/Machine/Objects.lean ====
section
/-! DEFINITION. What loaded objects share (06_tiers): fit (R205 to R208), loft object space with its hot copies (R176), and loads whose reads are in flight. -/

namespace Sys2Proof.Machine

/-- Bytes of a frame. -/
def frameSize : Nat := 65536

/-- TIER_FLOOR.FLOOR. -/
def floorOf (c : Core) : Nat := regField c 0x200108 20 0

/-- R206, R207: `n` stacked frames of a die are free with the floor kept. -/
def fitsStack (c : Core) (die : Bool) (n : Nat) : Bool := n + floorOf c ≤ freeOf c die

/-- R207: `n` object-space frames of a die can be had. -/
def fitsLoft (c : Core) (die : Bool) (n : Nat) : Bool := n ≤ c.mem.loftFree.get die

/-- Frames of a die that hold hot copies. -/
def hotOn (c : Core) (die : Bool) : Nat :=
  (List.range 16).foldl (fun n k => n + (mapGet c.mem.hot (2 * k + b2n die)).getD 0) 0

/-- Sets the hot copies of a slot on a die; none are not listed. -/
def setHot (c : Core) (die : Bool) (slot n : Nat) : Core :=
  let k := 2 * slot + b2n die
  { c with mem := { c.mem with hot := if n = 0 then mapDel c.mem.hot k else mapSet c.mem.hot k n } }

/-- R176: hot copies are taken back, lowest in hot order first and highest slot first, until they fit in what object space has left. -/
def trimHot (c : Core) (die : Bool) : Core :=
  (List.range 16).reverse.foldl (fun c slot =>
    let have0 := (mapGet c.mem.hot (2 * slot + b2n die)).getD 0
    let excess := hotOn c die - c.mem.loftFree.get die
    if excess = 0 || have0 = 0 then c else setHot c die slot (have0 - min excess have0)) c

/-- A step has rows in flight on a die. -/
def stepRuns (c : Core) (die : Bool) : Bool := !(c.sched.get die).rows.isEmpty

/-- The cluster of a loft frame's slice: 8 * region + cluster. -/
def sliceOf (frame : Nat) : Nat := frame / 1024

/-- R174: the slices of a die that are in service. -/
def sliceList (c : Core) (die : Bool) : List Nat := (List.range 32).filter fun n => !mapHas (c.levels.get die).clusters n

/-- R174: the slice of frame `k` of a run. -/
def LoftRun.slice (r : LoftRun) (k : Nat) : Nat := nth r.slices ((r.first + k) % r.slices.length) 32

/-- R174: frames of a run that lie in a slice. -/
def LoftRun.onSlice (r : LoftRun) (n : Nat) : Nat :=
  let len := r.slices.length
  match r.slices.findIdx? (· == n) with
  | none => 0
  | some i => (r.frames + len - 1 - (i + len - r.first % len) % len) / len

/-- R174: the frames that the next `n` taken on a die are. -/
def runAt (c : Core) (die : Bool) (n : Nat) : LoftRun :=
  if n = 0 then {} else { first := c.mem.loftNext.get die, frames := n, slices := sliceList c die }

/-- R174: the same on both dies. -/
def runsAt (c : Core) (n : Nat) : PerDie LoftRun := ⟨runAt c false n, runAt c true n⟩

/-- R174: the rotation of a die moves on. -/
def turnRotation (c : Core) (die : Bool) (n : Nat) : Core :=
  { c with mem := { c.mem with loftNext := c.mem.loftNext.mod die fun k => k + n } }

/-- Takes object-space frames for a required object or a loft mapping; hot copies leave at once unless a step runs (R176). -/
def takeLoft (c : Core) (die : Bool) (n : Nat) : Core :=
  let c := turnRotation { c with mem := { c.mem with loftFree := c.mem.loftFree.mod die fun f => f - n } } die n
  if stepRuns c die then c else trimHot c die

/-- R176: frames taken that hot copies still hold are waited for until no step of the die runs, and then taken back. -/
def waitHot (die : Bool) : M Unit := do
  let c ← getC
  if hotOn c die ≤ c.mem.loftFree.get die then return ()
  if stepRuns c die then waitInside
  modC fun c => trimHot c die

/-- Returns object-space frames: first to the required objects that are short of them (R178). -/
def giveLoft (c : Core) (die : Bool) (n : Nat) : Core :=
  let back := min n (c.mem.loftShort.get die)
  { c with mem := { c.mem with
    loftShort := c.mem.loftShort.mod die fun f => f - back
    loftFree := c.mem.loftFree.mod die fun f => f + (n - back) } }

/-- Both dies take the frames of an object and its loft part. -/
def takeBoth (c : Core) (n loft : Nat) : Core :=
  takeLoft (takeLoft (takeFree (takeFree c false n) true n) false loft) true loft

/-- Both dies get the frames of an object back. -/
def giveBoth (c : Core) (n loft : Nat) : Core :=
  giveLoft (giveLoft (giveFree (giveFree c false n) true n) false loft) true loft

/-- R207: an object fits on both dies. -/
def fitsBoth (c : Core) (n loft : Nat) : Bool :=
  fitsStack c false n && fitsStack c true n && fitsLoft c false loft && fitsLoft c true loft

/-- R174, R208: the frames of an object and its loft part are taken for good at its fit check, and an end other than success gives them back; the loft part waits for hot copies to leave (R176). -/
def withBoth {α : Type} (n loft : Nat) (m : PerDie LoftRun → M α) : M α := do
  checkFresh (!fitsBoth (← getC) n loft) .noSpace
  let first0 ← once fun c => (c.mem.loftNext.d0, takeBoth c n loft)
  let first1 ← once fun c => (c.mem.loftNext.d1 - loft, c)
  orUndo (fun c => giveBoth c n loft) do
    waitHot false
    waitHot true
    let c ← getC
    let run := fun die first => if loft = 0 then ({} : LoftRun) else { first := first, frames := loft, slices := sliceList c die }
    m ⟨run false first0, run true first1⟩

/-- Frames that bytes fill. -/
def framesOf (bytes : Nat) : Nat := cdiv bytes frameSize

/-- Requests of an opcode, other than `d`, that wait for their reads: the loads in progress (R262, R270, R372). -/
def inFlight (c : Core) (d : Desc) (op : Nat) : List Waiting :=
  c.sess.waiting.filter fun w => w.desc.opcode == op && w.desc != d

/-- The bytes of a waiting request's first answer, once it has one. -/
def firstAnswer (w : Waiting) : Option (List Byte) :=
  match w.env with
  | .data bs :: _ => some bs
  | _ => none

/-- The check array of an image at an offset matches the blocks before it (R267, R368). -/
def checksMatch (img : List Byte) (at0 : Nat) : Bool :=
  checkArray (bytesAt img 0 at0) == bytesAt img at0 (4 * (at0 / 256))

/-- A model slot that is loaded (R262) and whose tiles are not lost (R58). -/
def loadedModel (c : Core) (slot : Nat) : Option Model :=
  (mapGet c.obj.models slot).bind fun m => if m.state = 2 && m.available then some m else none

/-- The vocabulary digest that a model image's header names (R257 word 5). -/
def modelVocab (img : List Byte) : Nat := wordAt img 40

/-- The vocabulary digest that a grammar image's header names (R368). -/
def grammarVocab (img : List Byte) : Nat := wordAt img 40

/-- The vocabulary image of a slot's model; empty when there is none. -/
def vocabOfSlot (c : Core) (slot : Nat) : List Byte :=
  (((mapGet c.obj.models slot).bind fun m => mapGet c.obj.vocabs (modelVocab m.image)).map (·.image)).getD []

end Sys2Proof.Machine
end

