-- ==== Sys2Proof/Machine/Vectors.lean ====
section
/-! DEFINITION. Vector arithmetic of chapter 15: record sizes (R413), normalization and conversion of inputs (R416), distance keys and their order (R415, R419), the scan of a list (R217). -/

namespace Sys2Proof.Machine

/-- R413: bytes of a vector record. -/
def recordBytes (dim fmt : Nat) : Nat := 32 * cdiv (32 + dim * elemBytes fmt) 32

/-- R413: records of a list frame. -/
def recordsPerFrame (dim fmt : Nat) : Nat := 65536 / recordBytes dim fmt

/-- `n` FP32 values from a byte string. -/
def f32s (bs : List Byte) (off n : Nat) : List W32 := (List.range n).map fun i => BitVec.ofNat 32 (leAt bs (off + 4 * i) 4)

/-- The values that element encodings stand for. -/
def elemVals (fmt : Nat) (xs : List Nat) : List FVal := xs.map (decodeF (fmtOfCode fmt))

/-- R416: the sum of squares that normalizes an input. -/
def squareSum (x : List W32) : W32 := freduce (x.map fun v => fmul v v)

/-- R416: an input normalized for its metric; none when it is refused. -/
def normalized (metric : Nat) (x : List W32) : Option (List W32) :=
  if x.any notFinite then none
  else if metric ≠ 1 then some x
  else
    let n := squareSum x
    if feq n 0 then none
    else
      let r := fdiv fOne (fsqrt n)
      some (x.map fun v => fmul v r)

/-- R416: an input as elements of a format; none when it is refused. -/
def converted (metric fmt : Nat) (x : List W32) : Option (List Nat) :=
  (normalized metric x).map fun y => y.map (convertTo (fmtOfCode fmt))

/-- R415: the distance key of a stored vector to a query. -/
def distKey (metric : Nat) (q v : List FVal) (norm2 : W32) : W32 :=
  let d := dotV q v
  if metric = 2 then fadd (fma 0xC0000000 d norm2) (dotV q q) else d

/-- R413: `norm2` of a stored vector. -/
def norm2Of (metric : Nat) (v : List FVal) : W32 := if metric = 2 then dotV v v else 0

/-- R415: a key is better than another. Keys that are NaN have an order the spec does not give. -/
def keyBetter (metric : Nat) (a b : W32) : Bool :=
  if isNaN a || isNaN b then Config.nanBefore a b else if metric = 2 then flt a b else flt b a

/-- Inserts behind everything that is not worse: equal entries keep their order. -/
def insertBy {α : Type} (better : α → α → Bool) (x : α) : List α → List α
  | [] => [x]
  | y :: ys => if better x y then x :: y :: ys else y :: insertBy better x ys

/-- Best first, ties in the order given. -/
def sortBy {α : Type} (better : α → α → Bool) (l : List α) : List α := l.foldl (fun s x => insertBy better x s) []

/-- R217: the entries of one DIST_SCAN: the best `kl` of its live records, ties to the lower slot. -/
def scanHits (o : ScanOp) : List Hit :=
  let q := elemVals 8 o.query
  let all := ((List.range o.recs.length).zip o.recs).filterMap fun p =>
    if p.2.live && !p.2.bad then
      some (⟨distKey o.metric q (elemVals o.format p.2.elems) p.2.norm2, o.rank, o.first + p.1, p.2⟩ : Hit)
    else none
  (sortBy (fun a b : Hit => keyBetter o.metric a.key b.key) all).take o.kl

/-- R217: records that a scan skips for their check block and the trailer counts. A tombstone in a bad block is skipped as a tombstone and not counted: R217 does not say which of the two reasons wins (DESIGN CHOICE, log 177). -/
def scanSkipped (o : ScanOp) : Nat := (o.recs.filter fun r => r.live && r.bad).length

/-- R419: one entry comes before another. -/
def hitBefore (metric : Nat) (a b : Hit) : Bool :=
  keyBetter metric a.key b.key ||
  (!keyBetter metric b.key a.key && (decide (a.rank < b.rank) || (a.rank == b.rank && decide (a.pos < b.pos))))

/-- R417: the `n` best centroids for a query, best first, ties to the lower index. -/
def bestCentroids (metric fmt : Nat) (cents : List (List Nat)) (q : List FVal) (n : Nat) : List Nat :=
  let keyed := ((List.range cents.length).zip cents).map fun p =>
    let v := elemVals fmt p.2
    (p.1, distKey metric q v (norm2Of metric v))
  ((sortBy (fun a b : Nat × W32 => keyBetter metric a.2 b.2) keyed).take n).map (·.1)

/-- R218: GATHER_MAX over the bytes of rows, in list order. -/
def maxRows (fmt width : Nat) (rows : List (List Byte)) : List Byte :=
  rowOfF32 fmt (gatherMax (width / elemBytes fmt) (rows.map (rowToF32 fmt)))

end Sys2Proof.Machine
end

