-- ==== Sys2Proof/Machine/BankUnits.lean ====
section
/-! DEFINITION. Bank-pair units (07_bank_units): queues and issue of commands, what a unit's report does, retries, draining, fencing and repair, refresh, the activity governor. -/

namespace Sys2Proof.Machine

/-! ## Queues and issue (R221, R222) -/

/-- R213: the code of a command. -/
def unitCode : UnitOp → Nat
  | .score .. => 1 | .scan .. => 2 | .gather .. => 3 | .fill .. => 4

/-- R59: commands that a stack's queue holds. -/
def queueMax : Nat := 1024

/-- Commands queued for the pairs of a stack. -/
def stackQueued (k : Stack) : Nat := k.pairs.foldl (fun n p => n + p.2.queue.length) 0

/-- A command joins the tail of its pair's queue. -/
def putCmd (c : Core) (pair : Nat) (x : BankCmd) : Core := modPair c pair fun p => { p with queue := p.queue ++ [x] }

/-- Changes the job of an owner. -/
def modJob (c : Core) (o : Owner) (f : Job → Job) : Core :=
  match o with
  | .job ring => { c with obj := { c.obj with jobs := mapMod c.obj.jobs ring f } }
  | _ => c

/-- R50, R59, R221: a command joins the tail of its pair's queue, or waits while its stack's queue is full. One for a fenced stack (R58) fails the job it serves. -/
def enqueue (c : Core) (pair : Nat) (x : BankCmd) : Core :=
  let k := stackOf c (pair / 512)
  if k.state = 2 then modJob c x.owner fun j => { j with failed := some .fenced }
  else if stackQueued k < queueMax && k.delayed.isEmpty then putCmd c pair x
  else { c with stackTab := mapSet c.stackTab (pair / 512) { k with delayed := k.delayed ++ [(pair, x)] } }

/-- R50: commands that wait for their stack's queue join it, in order, as places come free. -/
def refillStack : Nat → Core → Nat → Core
  | 0, c, _ => c
  | n + 1, c, k =>
    let s := stackOf c k
    match s.delayed with
    | [] => c
    | (p, x) :: ds =>
      if stackQueued s < queueMax then
        refillStack n (putCmd { c with stackTab := mapSet c.stackTab k { s with delayed := ds } } p x) k
      else c

/-! ### Where the frames of a command lie (R211, R234) -/

/-- R166: the entry of the forward table that names a frame of a host-managed page, the last of several. -/
def pageFwd (c : Core) (die : Bool) (page i : Nat) : Option Fwd :=
  (((c.mem.forward.get die).filter fun e => e.2.page == some (page, i)).getLast?).map (·.2)

/-- R165: the frame number at which a frame of a host-managed page lies now. -/
def pageNow (c : Core) (die : Bool) (page i : Nat) (x : XPage) : Nat :=
  ((pageFwd c die page i).map (·.now)).getD (x.frame i)

/-- R422: the pairs of the frames of a list that a ring's search scans. -/
def scanPairs (x : Index) (ring list : Nat) : List Nat :=
  match x.late.find? fun p => p.list == list && p.rings.contains ring with
  | some p => p.pairs
  | none => (mapGet x.pairs list).getD []

/-- R432: rows of a table's frame. -/
def rowsPerFrame (width : Nat) : Nat := 65536 / width

/-- R422: a ring's search still has commands that scan a list of an index. -/
def scansList (c : Core) (ring id list : Nat) : Bool :=
  let mine := fun (x : BankCmd) => x.owner == .job ring && match x.op with
    | .scan o => o.index == id && o.list == list
    | _ => false
  c.stackTab.any fun k => (k.2.pairs.any fun p => (p.2.queue ++ p.2.issued).any mine) || k.2.delayed.any fun x => mine x.2

/-- R422: frames of replaced lists that no search scans any more are free. -/
def freeLate (c : Core) (id : Nat) : Core :=
  match mapGet c.obj.indexes id with
  | none => c
  | some x =>
    let late := x.late.map fun p => { p with rings := p.rings.filter fun r => scansList c r id p.list }
    let c := (late.filter fun p => p.rings.isEmpty).foldl (fun c p => freePlaces c x.die p.pairs) c
    { c with obj := { c.obj with indexes := mapSet c.obj.indexes id { x with late := late.filter fun p => !p.rings.isEmpty } } }

/-- R145, R413: the physical address of the check block with the header of a record of a list whose frames lie in some pairs, and its pair. -/
def recordPlace (x : Index) (id list : Nat) (pairs : List Nat) (pos : Nat) : Nat × Nat :=
  let n := recordsPerFrame x.dim x.format
  let q := nth pairs (pos / n) (pairBase x.die)
  (q, placeNo q (2 ^ 40 + ((256 * list + id) * 2 ^ 16 + pos / n)) * 65536 + pos % n * recordBytes x.dim x.format / 256 * 256)

/-- R145, R432: the pair of a row of a loaded table, and the physical address of its first check block. -/
def Table.rowAt (t : Table) (id r : Nat) : Nat × Nat :=
  let n := r / rowsPerFrame t.width
  let q := nth t.place n (pairBase t.die)
  (q, placeNo q (1024 * n + id) * 65536 + r % rowsPerFrame t.width * t.width / 256 * 256)

/-- R211, R432: the pair that holds a row of a loaded table. -/
def Table.rowPair (t : Table) (r : Nat) : Option Nat := t.place[r / rowsPerFrame t.width]?

/-- Where a command's frames lie: they are gone, in staging frames or test patterns of whatever pair has them, or in one pair. -/
inductive CmdPlace where
  | gone
  | own
  | at (pair : Nat)
  deriving DecidableEq, Repr

/-- As an option: no pair, no frames. -/
def placeAt (q : Option Nat) : CmdPlace := match q with | some q => .at q | none => .gone

/-- R211: the one pair that holds all of a command's frames: none when a frame is gone or lies elsewhere. -/
def framesPair (c : Core) (fs : List Nat) : Option Nat :=
  match fs.map fun f => (mapGet c.mem.frames f).map (·.pair) with
  | some p :: ps => if ps.all (· == some p) then some p else none
  | _ => none

/-- R211, R234: where the frames of a command lie now. -/
def cmdPlace (c : Core) (x : BankCmd) : CmdPlace :=
  match x.op with
  | .score _ => if x.frames.isEmpty then .own else placeAt (framesPair c x.frames)
  | .scan o => match x.owner with
    | .job ring => placeAt ((mapGet c.obj.indexes o.index).bind fun i =>
        (scanPairs i ring o.list)[o.first / recordsPerFrame o.query.length o.format]?)
    | _ => .gone
  | .gather o => match mapGet c.obj.tables o.table with
    | none => .gone
    | some t => if t.bound then .own else placeAt ((o.rows.head?).bind t.rowPair)
  | .fill o => if o.test then .own else match mapGet (c.mem.xmap.get o.die) o.page with
    | some p => .at (pairOfNo (pageNow c o.die o.page o.first p))
    | none => .gone

/-- The work that a command belongs to goes on. -/
def ownerLives (c : Core) (x : BankCmd) : Bool :=
  match x.owner with
  | .nobody => true
  | .step die sid => (c.sched.get die).rows.any fun r => r.session == sid
  | .job ring => mapHas c.obj.jobs ring

/-- Commands of an owner that a pair holds. -/
def Pair.holds (p : Pair) (o : Owner) : Bool := (p.queue ++ p.issued).any fun x => x.owner == o

/-- Some pair still holds a command of an owner, or one waits for its stack's queue. -/
def unitsBusy (c : Core) (o : Owner) : Bool :=
  c.stackTab.any fun k => (k.2.pairs.any fun p => p.2.holds o) || k.2.delayed.any fun x => x.2.owner == o

/-- The session and opcode of the request that a command serves (R484). -/
def ownerOf (c : Core) (x : BankCmd) : Nat × Nat :=
  match x.owner with
  | .nobody => (0, 0)
  | .step _ sid => (sid % 2 ^ 24, 0x14)
  | .job ring => (0, ((mapGet c.obj.jobs ring).map fun j => j.desc.opcode).getD 0)

/-- HBC_CMD_STAT and HBC_STATUS offsets of a stack. -/
def hbcStat (k : Nat) : Nat := 0x300008 + 0x10000 * k

/-- The bytes that a command is charged with (R229). -/
def BankCmd.cost (x : BankCmd) : Nat := x.n * x.w

/-- R222: places of the partial queue (R59). -/
def partialMax : Nat := 4096

/-- R223: active cycles of a command, in controller clocks; `g` query heads for each KV head of a score. -/
def activeCycles (x : BankCmd) (g : Nat) : Nat :=
  match x.op with
  | .score _ => 64 + x.n * max 2048 (64 * g)
  | .gather _ => 64 + x.n * (40 + x.w / 32)
  | _ => 64 + x.n * 2048

/-- R223: query heads for each KV head of a command's model. -/
def headGroup (c : Core) (x : BankCmd) : Nat :=
  match x.op with
  | .score o =>
    let m := ((mapGet c.obj.models o.slot).map (·.image)).getD []
    miQHeads m / max 1 (miKvHeads m)
  | _ => 0

/-- R224: cycles of activity between two refresh slots of a command. -/
def slotSpan (x : BankCmd) : Nat := if x.doubled then 1024 else 2048

/-- R224: refresh slots of a command that have come `t` cycles after its command frame. -/
def slotsBy (c : Core) (x : BankCmd) (t : Nat) : Nat :=
  min (t / (slotSpan x + 240)) (activeCycles x (headGroup c x) / slotSpan x)

/-- R191: staging frames of a pair that hold something: pooled pages, rows of an issued command. -/
def stageUsed (p : Pair) : Nat :=
  p.staged.foldl (fun n x => n + x.2) 0 + p.issued.foldl (fun n x => n + if x.pages.isSome then 0 else x.stage) 0

/-- R191: staging frames of a pair that are free. -/
def stageRoom (c : Core) (pair : Nat) : Nat :=
  min (nth (c.mem.stagePairs.get (stackDie (pair / 512))) (pair % 2048) 0 - stageUsed (pairOf c pair))
    (c.mem.stagingFree.get (stackDie (pair / 512)))

/-- R330: the pooled pages that a command attends are staged in its pair already. -/
def isStaged (p : Pair) (x : BankCmd) : Bool :=
  match x.pages with
  | some k => p.staged.any fun s => s.1 == k
  | none => false

/-- R191, R330: staging frames that the issue of a command takes. -/
def stageNeed (p : Pair) (x : BankCmd) : Nat := if isStaged p x then 0 else x.stage

/-- R191, R328, R330: a pair with so many staging frames, whose unit serves: the one that holds some pooled pages already, else the first. -/
def stagePair (c : Core) (die : Bool) (pages : Option (Nat × Nat × Nat)) (n : Nat) : Option Nat :=
  let fits := fun q => n ≤ nth (c.mem.stagePairs.get die) (q % 2048) 0 && pairInService c q && !(pairOf c q).unitFenced
  let held := (c.stackTab.flatMap fun k => k.2.pairs.map fun p => (512 * k.1 + p.1, p.2)).find? fun p =>
    decide (stackDie (p.1 / 512) = die) && pages.any fun k => p.2.staged.any fun s => s.1 == k
  match held with
  | some p => if fits p.1 then some p.1 else none
  | none => ((List.range 2048).map (pairBase die + ·)).find? fits

/-- R191: staging frames are taken, or given back. -/
def takeStaging (c : Core) (die : Bool) (n : Nat) : Core :=
  { c with mem := { c.mem with stagingFree := c.mem.stagingFree.mod die (· - n) } }
def giveStaging (c : Core) (die : Bool) (n : Nat) : Core :=
  { c with mem := { c.mem with stagingFree := c.mem.stagingFree.mod die (· + n) } }

/-- R222: a command of a pair may start now: the partial queue has room for `parts` more results, the allowance is not negative, and no bank of the pair owes a refresh. -/
def mayStartCmd (c : Core) (pair parts : Nat) : Bool :=
  let k := stackOf c (pair / 512)
  let p := pairOf c pair
  k.state != 2 && !p.unitFenced && p.debt0 == 0 && p.debt1 == 0 && k.partials + parts ≤ partialMax &&
  decide (0 ≤ (c.gov.get (stackDie (pair / 512))).allow)

/-- R222, R191: the first command of a pair may issue now: it may start, the pair's last command has ended, and the staging frames it attends are free or hold its pages. -/
def mayIssue (c : Core) (pair : Nat) (x : BankCmd) : Bool :=
  mayStartCmd c pair x.parts && (pairOf c pair).issued.isEmpty && stageNeed (pairOf c pair) x ≤ stageRoom c pair

/-- R221, R229: a command that starts is charged to its die's allowance and counted. -/
def chargeCmd (c : Core) (pair : Nat) (x : BankCmd) : Core :=
  let c := { c with gov := c.gov.mod (stackDie (pair / 512)) fun g => { g with allow := g.allow - (x.cost : Int) } }
  regCount c (hbcStat (pair / 512)) 31 0 1

/-- Takes a command from the front of a pair's queue. -/
def dropFront (c : Core) (pair : Nat) : Core :=
  refillStack queueMax (modPair c pair fun p => { p with queue := p.queue.drop 1 }) (pair / 512)

/-- R330: the pages that a command brings into staging frames of its pair. -/
def stagePages (c : Core) (pair : Nat) (x : BankCmd) : Core :=
  let n := stageNeed (pairOf c pair) x
  let c := takeStaging c (stackDie (pair / 512)) n
  match x.pages with
  | some k => if n = 0 then c else modPair c pair fun p => { p with staged := p.staged ++ [(k, n)] }
  | none => c

/-- R221, R222, R229, R234: the command at the front of a pair's queue issues: it is charged and counted. One whose frames have moved goes to the tail of their pair's queue; one whose frames or work are gone is dropped; one in a pair whose unit is fenced waits until its frames have moved, and with staged rows goes to other staging frames. -/
def bankCommandIssue (c : Core) (pair : Nat) : Core :=
  let p := pairOf c pair
  match p.queue with
  | [] => c
  | x :: _ =>
    if !alive c then c
    else if !ownerLives c x then dropFront c pair
    else match cmdPlace c x with
      | .gone => dropFront c pair
      | .at q => if q = pair then go x else enqueue (dropFront c pair) q x
      | .own =>
        if !p.unitFenced && p.state != 2 then go x
        else if unitCode x.op = 1 then dropFront c pair
        else match stagePair c (stackDie (pair / 512)) none x.stage with
          | some q => if x.stage = 0 then c else enqueue (dropFront c pair) q x
          | none => c
where
  /-- The command issues when R222 lets it. -/
  go (x : BankCmd) : Core :=
    if !mayIssue c pair x then c
    else
      let c' := stagePages (dropFront c pair) pair x
      let c' := modPair c' pair fun p =>
        { p with issued := p.issued ++ [{ x with doubled := (stackOf c (pair / 512)).doubled }], clock := 0 }
      let c' := { c' with
        stackTab := mapMod c'.stackTab (pair / 512) fun k => { k with partials := k.partials + x.parts, selfRefresh := false } }
      chargeCmd c' pair x

/-- R222. -/
def execBankCommandIssue (stack pair : Nat) (s : State) : Host.Outcome State Fault Refusal :=
  onCore s fun c => if stack < 8 ∧ pair < 512 then bankCommandIssue c (512 * stack + pair) else c

/-! ## Draining (R234) -/

/-- Listed frames that lie in a pair. -/
def framesIn (c : Core) (pair : Nat) : List Nat := (c.mem.frames.filter fun p => p.2.pair == pair).map (·.1)

/-- Old frames of migrations that lie in a pair and are still named. -/
def forwardedIn (c : Core) (pair : Nat) : Nat :=
  ((c.mem.forward.d0 ++ c.mem.forward.d1).filter fun p => p.2.pair == pair).length

/-! ## The forward table (R165 to R167) -/

/-- R167: entries of a forward table. -/
def forwardMax : Nat := 4096

/-- R166: an entry of a forward table is retired, and its old frame leaves service. -/
def retireFwd (c : Core) (e : Fwd) : Core := if e.loft then c else modRoom c e.pair (· + 1)

/-- R166: a walk of a session's range meets a leaf entry that names a forwarded frame: the entry is rewritten. -/
def walkFwd (sid : Nat) (e : Fwd) : Fwd :=
  if e.entries.contains sid then { e with entries := e.entries.erase sid, count := e.count - 1 } else e

/-- R166: the walks of a session on both dies; entries at 0 are retired. -/
def walkSession (c : Core) (sid : Nat) : Core :=
  let t := c.mem.forward
  if (t.d0 ++ t.d1).all fun p => !p.2.entries.contains sid then c
  else
    let now := fun m : Map Fwd => m.map fun p => (p.1, walkFwd sid p.2)
    let gone := (now t.d0 ++ now t.d1).filter fun p => p.2.count == 0
    let left := fun m : Map Fwd => (now m).filter fun p => p.2.count != 0
    gone.foldl (fun c p => retireFwd c p.2) { c with mem := { c.mem with forward := ⟨left t.d0, left t.d1⟩ } }

/-- R330: pooled pages that no command of a pair attends any more are dropped, and their frames come free. -/
def dropStaged (c : Core) (pair : Nat) : Core :=
  let p := pairOf c pair
  let late := (stackOf c (pair / 512)).delayed.filter fun x => x.1 == pair
  let users := (p.queue ++ p.issued ++ late.map (·.2)).filterMap (·.pages)
  let gone := p.staged.filter fun s => !users.contains s.1
  if gone.isEmpty then c
  else
    let c := giveStaging c (stackDie (pair / 512)) (gone.foldl (fun n s => n + s.2) 0)
    modPair c pair fun p => { p with staged := p.staged.filter fun s => users.contains s.1 }

/-- Issued commands have left a pair: their places of the partial queue and the staging frames that they alone attended come free. -/
def freeIssued (c : Core) (pair : Nat) (xs : List BankCmd) : Core :=
  let c := giveStaging c (stackDie (pair / 512)) (xs.foldl (fun n x => n + if x.pages.isSome then 0 else x.stage) 0)
  dropStaged { c with stackTab := mapMod c.stackTab (pair / 512) fun k =>
    { k with partials := k.partials - xs.foldl (fun n x => n + x.parts) 0 } } pair

/-- R482: errors of a pair that send it to draining. -/
def pairThreshold (c : Core) : Nat := regField c 0x600108 31 16

/-- R482, R234: an error of a pair is counted; at its threshold it drains. -/
def pairError (c : Core) (pair : Nat) : Core :=
  let c := modPair c pair fun p => { p with errors := p.errors + 1 }
  if pairThreshold c ≤ (pairOf c pair).errors then startDrain c pair else c

/-- R232, R333: a pair's unit is fenced; the pair drains, and its attention blocks go to cores. -/
def fenceUnit (c : Core) (pair : Nat) : Core :=
  let score := fun x : BankCmd => unitCode x.op == 1
  let gone := (pairOf c pair).issued.filter score
  let c := modPair c pair fun p => { p with
    unitFenced := true, queue := p.queue.filter fun x => !score x, issued := p.issued.filter fun x => !score x }
  let c := refillStack queueMax (freeIssued c pair gone) (pair / 512)
  let c := logErr c { kind := 7, die := stackDie (pair / 512), severity := 2, wh := pairWhere pair }
  startDrain c pair

/-- R232, R222: the second try of a faulted command, an issue like the first: it waits for R222, is charged, counted, and in the refresh mode then in force; it keeps its places of the partial queue and its staging frames. It runs on, or the unit is fenced, the pair drains and the command waits for its frames to move. A success is a repaired error of class 6 (R479, R482). -/
def unitFaultRetry (c : Core) (pair : Nat) (again : Bool) : Core :=
  match (pairOf c pair).issued with
  | [] => c
  | x :: xs =>
    if !x.faulted || !alive c || !mayStartCmd c pair 0 then c
    else
      let x := { x with faulted := false, doubled := (stackOf c (pair / 512)).doubled }
      let c := chargeCmd c pair x
      if !again then
        countError (pairError (modPair c pair fun p => { p with issued := x :: xs, clock := 0 }) pair) (stackDie (pair / 512)) 6
      else
        let c := freeIssued (modPair c pair fun p => { p with issued := xs, queue := x :: p.queue }) pair [x]
        fenceUnit c pair

/-- R232. -/
def execUnitFaultRetry (stack pair : Nat) (again : Bool) (s : State) : Host.Outcome State Fault Refusal :=
  onCore s fun c => if stack < 8 ∧ pair < 512 then unitFaultRetry c (512 * stack + pair) again else c

/-- A REPAIR event record: arg1 is the stack or region, the cluster, the unit index. -/
def repairEvent (c : Core) (die : Bool) (action place cluster unit : Nat) : Core :=
  issueEvent c 6 die 0 0 action (fieldAt 0 3 place + fieldAt 3 3 cluster + fieldAt 6 10 unit)

/-! ## Refresh (R227, R228) -/

/-- R227: cycles between two rises of a bank's refresh debt. -/
def refreshPeriod (doubled : Bool) : Nat := if doubled then 1560 else 3120

/-- R224, R227: one rise of the debt of a pair's banks: idle banks are refreshed at once; in a pair that runs a command each refresh slot that has come since the last rise has repaid one of each bank, and the debt never exceeds 8. -/
def tickPair (c : Core) (doubled : Bool) (p : Pair) : Pair :=
  match p.issued with
  | [] => { p with debt0 := 0, debt1 := 0, clock := 0 }
  | x :: _ =>
    let now := p.clock + refreshPeriod doubled
    let slots := slotsBy c x now - slotsBy c x p.clock
    { p with clock := now, debt0 := min 8 (p.debt0 - slots + 1), debt1 := min 8 (p.debt1 - slots + 1) }

/-- R227: a refresh tick of a stack; HBC_CMD_STAT.MAX_DEBT keeps the highest debt. -/
def refreshTick (c : Core) (k : Nat) : Core :=
  if !alive c || 8 ≤ k || (stackOf c k).state = 2 then c
  else
    let c := { c with stackTab := mapMod c.stackTab k fun s => { s with pairs := s.pairs.map fun p => (p.1, tickPair c s.doubled p.2) } }
    let top := (stackOf c k).pairs.foldl (fun n p => max n (max p.2.debt0 p.2.debt1)) 1
    regPut c (hbcStat k) 35 32 (max top (regField c (hbcStat k) 35 32))

/-- R227. -/
def execRefreshTick (stack : Nat) (s : State) : Host.Outcome State Fault Refusal := onCore s fun c => refreshTick c stack

/-- R554: a temperature as reported: rounded down to a multiple of 2 °C, in 8 bits. -/
def coarseTemp (t : Int) : Nat := (t / 2 * 2).toNat % 256

/-- R228: a stack doubles its refresh from 85 °C on and returns to normal below 80 °C. -/
def refreshMode (c : Core) (k : Nat) (hottest : Int) : Core :=
  if !alive c || 8 ≤ k then c
  else
    let s := stackOf c k
    { c with stackTab := mapSet c.stackTab k { s with
      temp := coarseTemp hottest
      doubled := if 85 ≤ hottest then true else if hottest < 80 then false else s.doubled } }

/-- R228. -/
def execRefreshModeChange (stack : Nat) (hottest : Int) (s : State) : Host.Outcome State Fault Refusal :=
  onCore s fun c => refreshMode c stack hottest

/-! ## The activity governor (R229 to R231, R577) -/

/-- R229: level and calm periods after a period at a power and a temperature. -/
def govLevel (g : Gov) (power : Nat) (hottest : Int) : Nat × Nat :=
  if 1400 < power || 90 ≤ hottest then (min (g.level + 1) 7, 0)
  else if power < 1330 && hottest < 85 then
    if g.calm + 1 = 4 then (g.level - 1, 0) else (g.level, g.calm + 1)
  else (g.level, 0)

/-- R229: the share of a period at a level. -/
def govShare (c : Core) (level : Nat) : Nat := 225000000 * regField c 0x300200 6 0 / 100 * (8 - level) / 8

/-- R231, R463: a level held above 0 for a period, or the return to 0, changes the capacity factor. Where the level moves between two values above 0 at the end of the period, the record carries the new one: R231 names no other (DESIGN CHOICE, log 178). -/
def govHold (c : Core) (die : Bool) (before now : Nat) : Core :=
  let held := (c.gov.get die).holding
  if now = 0 then
    if held = 0 then c
    else capacityEvent { c with gov := c.gov.mod die fun g => { g with holding := 0 } } die 6 65536 0
  else if before = 0 || held = now then c
  else capacityEvent { c with gov := c.gov.mod die fun g => { g with holding := now } } die 5 (8192 * (8 - now)) 0

/-- R554: aon cycles of an average of the package power. -/
def wattSpan : Nat := 2 ^ 24

/-- R554: a reading joins the average under way, which is reported once its span has passed. -/
def readWatts (p : Power) (aon power : Nat) : Power :=
  let sum := p.wattSum + power
  let n := p.wattReads + 1
  if p.wattFrom + wattSpan ≤ aon then { p with watts := sum / n, wattSum := 0, wattReads := 0, wattFrom := aon }
  else { p with wattSum := sum, wattReads := n }

/-- R229: one governor period of a die. -/
def governorPeriod (c : Core) (die : Bool) (power : Nat) (hottest : Int) : Core :=
  if !alive c || (c.levels.get die).lost then c
  else
    let g := c.gov.get die
    let (level, calm) := govLevel g power hottest
    let spare := (max (g.allow - (g.loan : Int)) 0).toNat
    let sent := if regField c 0x300200 8 8 = 1 then spare else 0
    let g' := { g with
      level := level, calm := calm, allow := min g.allow 0 + (govShare c level : Int), loan := 0, lent := sent }
    let c := { c with gov := c.gov.set die g', power := { readWatts c.power c.aon power with temps := c.power.temps.set die (coarseTemp hottest) } }
    let c := if 0 < sent then regCount c 0x300208 47 16 1 else c
    let c := if level = g.level then c else issueEvent c 10 die 0 0 level (coarseTemp hottest)
    govHold c die g.level level

/-- R229. -/
def execGovernorPeriod (die : Bool) (power : Nat) (hottest : Int) (s : State) : Host.Outcome State Fault Refusal :=
  onCore s fun c => governorPeriod c die power hottest

/-- R229: the loan that the other die sent arrives and adds to the allowance. -/
def governorLoan (c : Core) (die : Bool) (bytes : Nat) : Core :=
  if !alive c || bytes = 0 || (c.gov.get (!die)).lent ≠ bytes then c
  else { c with gov := (c.gov.mod (!die) fun g => { g with lent := 0 }).mod die fun g =>
    { g with allow := g.allow + (bytes : Int), loan := g.loan + bytes } }

/-- R229. -/
def execGovernorLoan (die : Bool) (bytes : Nat) (s : State) : Host.Outcome State Fault Refusal :=
  onCore s fun c => governorLoan c die bytes

end Sys2Proof.Machine
end

