-- ==== Sys2Proof/Machine/Grammar.lean ====
section
/-! DEFINITION. Grammar images (R368 to R372), masks and their advance (R379, R381), binding (R378), GRAMMAR_LOAD and GRAMMAR_UNLOAD (R374 to R376). -/

namespace Sys2Proof.Machine

/-! ## Images -/

def grTokens (g : List Byte) : Nat := hdrField g 1 31 0
def grStates (g : List Byte) : Nat := hdrField g 2 31 0
def grRows (g : List Byte) : Nat := hdrField g 2 63 32
def grUncond (g : List Byte) : Nat := hdrField g 3 31 0
def grCond (g : List Byte) : Nat := hdrField g 3 63 32
def grSymbols (g : List Byte) : Nat := hdrField g 4 31 0
def grStart (g : List Byte) : Nat := hdrField g 4 47 32

/-- R370: bytes of a mask row. -/
def grRowBytes (g : List Byte) : Nat := cdiv (grTokens g) 512 * 64

/-- R368: offsets of the sections, of the check array, and the image size. -/
def grRowsAt (g : List Byte) : Nat := roundUp (64 + 16 * grStates g) 64
def grUncondAt (g : List Byte) : Nat := roundUp (grRowsAt g + grRows g * grRowBytes g) 64
def grCondAt (g : List Byte) : Nat := roundUp (grUncondAt g + 8 * grUncond g) 64
def grSymAt (g : List Byte) : Nat := roundUp (grCondAt g + 16 * grCond g) 64
def grCheckAt (g : List Byte) : Nat := roundUp (grSymAt g + 2 * grSymbols g) 256
def grSize (g : List Byte) : Nat := grCheckAt g + 4 * (grCheckAt g / 256)

/-- R374 check 3, on the header. -/
def grHeaderBad (h : List Byte) (bytes : Nat) : Bool :=
  hdrField h 0 31 0 != 0x4F564752 || hdrField h 0 39 32 != 1 || wordAt h 48 != bytes || grSize h != bytes ||
  hdrField h 0 63 40 != 0 || hdrField h 1 63 32 != 0 || hdrField h 4 63 48 != 0 || hdrField h 7 63 32 != 0 ||
  grTokens h < 256 || 262144 < grTokens h || grStates h == 0 || 65536 < grStates h || grRows h == 0 ||
  65536 < grRows h || grStates h ≤ grStart h

/-- R369: a state entry. -/
structure GState where
  row : Nat
  condCount : Nat
  uncondFirst : Nat
  uncondCount : Nat
  condFirst : Nat
  deriving DecidableEq, Repr

def grState (g : List Byte) (s : Nat) : GState :=
  let a := wordAt g (64 + 16 * s)
  let b := wordAt g (64 + 16 * s + 8)
  ⟨bits a 15 0, bits a 31 16, bits a 63 32, bits b 31 0, bits b 63 32⟩

/-- R370: bit `t` of a mask row. -/
def grRowBit (g : List Byte) (row t : Nat) : Bool :=
  bit (leAt g (grRowsAt g + row * grRowBytes g + t / 8) 1) (t % 8)

/-- R371: a conditional edge. -/
structure GEdge where
  token : Nat
  pops : Nat
  pushes : Nat
  next : Nat
  sym : Nat
  deriving DecidableEq, Repr

def grEdge (g : List Byte) (i : Nat) : GEdge :=
  let a := wordAt g (grCondAt g + 16 * i)
  ⟨bits a 17 0, bits a 21 18, bits a 25 22, bits a 41 26, bits (wordAt g (grCondAt g + 16 * i + 8)) 31 0⟩

/-- R371: token and next state of an unconditional edge. -/
def grPlain (g : List Byte) (i : Nat) : Nat × Nat :=
  let a := wordAt g (grUncondAt g + 8 * i)
  (bits a 17 0, bits a 33 18)

/-- A symbol of the pool. -/
def grSym (g : List Byte) (i : Nat) : Nat := leAt g (grSymAt g + 2 * i) 2

/-- Indices of a range. -/
def rangeFrom (first n : Nat) : List Nat := (List.range n).map (first + ·)

/-- A list of numbers is strictly rising. -/
def rising : List Nat → Bool
  | a :: b :: l => decide (a < b) && rising (b :: l)
  | _ => true

/-- R372, R374 check 8: one state. -/
def grStateBad (g : List Byte) (s : Nat) : Bool :=
  let st := grState g s
  let toks := (rangeFrom st.uncondFirst st.uncondCount).map fun i => (grPlain g i).1
  grRows g ≤ st.row || 4096 < st.condCount || grUncond g < st.uncondFirst + st.uncondCount ||
  grCond g < st.condFirst + st.condCount || !rising toks ||
  ((List.range (8 * grRowBytes g)).filter (grRowBit g st.row)) != toks ||
  (rangeFrom st.condFirst st.condCount).any fun i => grRowBit g st.row (grEdge g i).token

/-- R372, R374 check 8: one conditional edge. -/
def grEdgeBad (g : List Byte) (i : Nat) : Bool :=
  let e := grEdge g i
  bits (wordAt g (grCondAt g + 16 * i)) 63 42 != 0 || bits (wordAt g (grCondAt g + 16 * i + 8)) 63 32 != 0 ||
  grTokens g ≤ e.token || grStates g ≤ e.next || 8 < e.pops || 8 < e.pushes || e.pops + e.pushes == 0 ||
  grSymbols g < e.sym + e.pops + e.pushes

/-- R372, R374 check 8: one unconditional edge. -/
def grPlainBad (g : List Byte) (i : Nat) : Bool :=
  bits (wordAt g (grUncondAt g + 8 * i)) 63 34 != 0 || grTokens g ≤ (grPlain g i).1 || grStates g ≤ (grPlain g i).2

/-- R374 check 8. -/
def grBodyBad (g : List Byte) : Bool :=
  (List.range (grUncond g)).any (grPlainBad g) || (List.range (grCond g)).any (grEdgeBad g) ||
  (List.range (grStates g)).any (grStateBad g)

/-! ## Masks (R379, R381) -/

/-- R379: an edge fits a stack (bottom first). -/
def edgeFits (g : List Byte) (stack : List Nat) (e : GEdge) : Bool :=
  let n := stack.length
  e.pops ≤ n && n - e.pops + e.pushes ≤ 1024 &&
  (List.range e.pops).all fun i => nth stack (n - 1 - i) 0 == grSym g (e.sym + i)

/-- The conditional edges of a state, in order. -/
def condEdges (g : List Byte) (s : Nat) : List GEdge :=
  let st := grState g s
  (rangeFrom st.condFirst st.condCount).map (grEdge g)

/-- R379: the mask of a record admits a token. -/
def maskBit (g : List Byte) (c : Ctl) (t : Nat) : Bool :=
  grRowBit g (grState g c.gstate).row t || (condEdges g c.gstate).any fun e => e.token == t && edgeFits g c.stack e

/-- R302, R380: the mask admits no token. -/
def maskEmpty (g : List Byte) (c : Ctl) : Bool := !(List.range (grTokens g)).any (maskBit g c)

/-- R381: the record after token `t` commits. -/
def advance (g : List Byte) (c : Ctl) (t : Nat) : Ctl :=
  let st := grState g c.gstate
  if grRowBit g st.row t then
    match ((rangeFrom st.uncondFirst st.uncondCount).map (grPlain g)).find? fun e => e.1 == t with
    | some e => { c with gstate := e.2 }
    | none => c
  else
    match (condEdges g c.gstate).find? fun e => e.token == t && edgeFits g c.stack e with
    | some e =>
      { c with gstate := e.next
               stack := c.stack.take (c.stack.length - e.pops) ++
                 (List.range e.pushes).map fun i => grSym g (e.sym + e.pops + i) }
    | none => c

/-- R383: engine cycles of one session's mask. -/
def maskCycles (g : Option (List Byte)) (c : Ctl) : Nat :=
  match g with
  | none => 1
  | some g => 2 + cdiv (grState g c.gstate).condCount 16

/-! ## Binding (R378, R385, R386) -/

/-- R375: the digest of a loaded grammar. -/
def grDigest (g : List Byte) : Nat := digest8 g

/-- R376: sessions that name a grammar. -/
def grammarUsers (c : Core) (id : Nat) : Nat :=
  (c.sess.dir.filter fun p => p.2.grammarBound && p.2.grammarId == id).length

/-- R378: a bound entry and record. -/
def bindEntry (e : Entry) (id : Nat) : Entry := { e with grammarBound := true, grammarId := id }
def bindCtl (x : Ctl) (img : List Byte) : Ctl := { x with gstate := grStart img, stack := [], gdigest := grDigest img }
def unbindEntry (e : Entry) : Entry := { e with grammarBound := false, grammarId := 0 }
def unbindCtl (x : Ctl) : Ctl := { x with gstate := 0, stack := [], gdigest := 0 }

/-- The grammar image that a session's mask follows; none for an unbound session. -/
def sessionGrammar (c : Core) (e : Entry) : Option (List Byte) :=
  if e.grammarBound then (mapGet c.obj.grammars e.grammarId).map (·.image) else none

/-! ## GRAMMAR_LOAD, GRAMMAR_UNLOAD -/

/-- R374: `grammar_id` of a descriptor. -/
def grId (d : Desc) : Nat := d.field 4 11 0 0

/-- R374: an id is loading, by another GRAMMAR_LOAD. -/
def grLoading (c : Core) (d : Desc) (id : Nat) : Bool := (inFlight c d 0x40).any fun w => grId w.desc == id

/-- R374. -/
def grammarLoadBody (d : Desc) : M Done := do
  let image := d.field 2 63 0 0
  let bytes := d.field 3 63 0 0
  let id := grId d
  check (d.session != 0 || image % frameSize != 0 || bytes == 0) .invalidField
  let c ← getC
  check (mapHas c.obj.grammars id || grLoading c d id) .wrongState
  let h ← readBus 0 image 64
  check (grHeaderBad h bytes) .invalidField
  check (hdrCheckBad h) .checkMismatch
  let c ← getC
  match mapGet c.obj.vocabs (grammarVocab h) with
  | none => refuse .unknownHandle
  | some v => check (vocabTokens v.image != grTokens h) .unknownHandle
  let n := framesOf bytes
  let img ← withBoth n n fun runs => do
    let img ← readBus 0 image bytes
    checkHost (!checksMatch img (grCheckAt img))
    check (grHeaderBad img bytes || grBodyBad img) .invalidField
    modC fun c => { c with obj := { c.obj with grammars := mapSet c.obj.grammars id ⟨img, n, n, runs⟩ } }
    return img
  measure 7 (2 :: natLe 8 (grDigest img))
  return .done .ok (2 * n) (grDigest img % 2 ^ 32)

/-- R376. -/
def grammarUnloadBody (d : Desc) : M Done := do
  check (d.session != 0) .invalidField
  let id := grId d
  let c ← getC
  match mapGet c.obj.grammars id with
  | none => refuse (if grLoading c d id then .wrongState else .unknownHandle)
  | some g =>
    if 0 < grammarUsers c id then failC .wrongState (grammarUsers c id) 0
    modC fun c =>
      let c := giveBoth c g.frames g.loft
      { c with obj := { c.obj with grammars := mapDel c.obj.grammars id } }
    measure 7 (2 :: natLe 8 (grDigest g.image))
    return .done .ok (g.frames + g.loft) (g.frames + g.loft)

/-- R374. -/
def execGrammarLoad (d : Desc) (env : Env) (s : State) : Host.Outcome State Fault Refusal :=
  .next (acceptSeq s d env (grammarLoadBody d))

/-- R376. -/
def execGrammarUnload (d : Desc) (s : State) : Host.Outcome State Fault Refusal :=
  .next (acceptSeq s d [] (grammarUnloadBody d))

end Sys2Proof.Machine
end

