-- ==== Sys2Proof/Machine/Kv.lean ====
section
/-! DEFINITION. Session ranges (05_translation R152 to R164) and their columns (11_attention R319 to R326): table frames, column opening, copy-on-write and hasps, the writing of one position, eviction and unmapping. -/

namespace Sys2Proof.Machine

/-- The image in a model slot; empty when there is none. -/
def imgOf (c : Core) (slot : Nat) : List Byte := ((mapGet c.obj.models slot).map (·.image)).getD []

/-- The model image of a session. -/
def sessImg (c : Core) (sid : Nat) : List Byte := imgOf c (entryOf c sid).modelSlot

/-- R73: the die that holds a layer's pages. -/
def layerDie (img : List Byte) (home : Bool) (l : Nat) : Bool :=
  if miSpanned img then decide (cdiv (miLayers img) 2 ≤ l) else home

/-- Layers of a model whose pages lie on a die. -/
def layersOn (img : List Byte) (home die : Bool) : Nat :=
  ((List.range (miLayers img)).filter fun l => layerDie img home l == die).length

/-- Replaces what a warm session's range holds. -/
def setWarm (c : Core) (sid : Nat) (w : Warm) : Core :=
  { c with sess := { c.sess with warm := mapSet c.sess.warm sid w } }

/-- Why a write cannot go on now: it waits for a staging frame (R162), no frame is free (R160), or the page to be copied fails its check (R471). -/
inductive Block where
  | wait
  | noSpace
  | bad (frame : Nat)
  deriving DecidableEq, Repr

/-- A session range being changed: the state and the range. -/
structure Range where
  core : Core
  warm : Warm
  deriving DecidableEq, Repr

/-! ## Frames of a session (R42, R43) -/

/-- Headroom left on a die. -/
def roomOf (w : Warm) (die : Bool) : Nat := if die then w.room1 else w.room0

/-- Sets the headroom left on a die. -/
def setRoom (w : Warm) (die : Bool) (n : Nat) : Warm := if die then { w with room1 := n } else { w with room0 := n }

/-- Leaves of a mark that the session's own entries no longer name. -/
def markOnly (w : Warm) : List Leaf :=
  match w.mark with
  | some m => match m.openColumn with
    | some (j, ls) =>
      let now := ((mapGet w.columns j).map (·.leaves)).getD []
      ls.filter fun l => !(now.any fun k => k.frame == l.frame)
    | none => []
  | none => []

/-- The die of a frame. -/
def frameDie (c : Core) (frame : Nat) : Bool := ((mapGet c.mem.frames frame).map (·.die)).getD false

/-- R495, R500: frames of a die that a warm session's shadow takes: its range's own, every column in full, pooled and shared pages among them, and its turn's headroom. -/
def shadowFrames (c : Core) (img : List Byte) (home : Bool) (w : Warm) (die : Bool) : Nat :=
  (if die = home then 1 + w.tables.length + w.mapPages.length else 0) + roomOf w die +
  ((markOnly w).filter fun l => frameDie c l.frame == die).length +
  w.columns.foldl (fun n p => n + if p.2.pooled then layersOn img home die
    else (p.2.leaves.filter fun l => frameDie c l.frame == die).length) 0

/-- R500: granted frames of a die that no own session's shadow takes. -/
def grantLeft (c : Core) (die : Bool) : Nat :=
  c.twin.granted.get die - c.sess.warm.foldl (fun n p => n + shadowFrames c (sessImg c p.1) (entryOf c p.1).homeDie p.2 die) 0

/-- R500: frames that an admission on a die may take. -/
def freeFor (c : Core) (die : Bool) : Nat :=
  if paired c then min (freeOf c die) (grantLeft c die) else freeOf c die

/-- R43, R152: one frame, from the turn's headroom or from the die's free frames; on a paired device the shadow needs a granted frame too (R500). -/
def takeFrame (x : Range) (turn die : Bool) (pair : Nat) (bytes : Cells) : Except Block (Nat × Range) :=
  if turn then
    if roomOf x.warm die = 0 then .error .noSpace
    else
      let r := newFrame x.core die pair bytes
      .ok (r.1, ⟨r.2, setRoom x.warm die (roomOf x.warm die - 1)⟩)
  else if freeFor x.core die = 0 then .error .noSpace
  else
    let r := newFrame (reserveFree x.core die 1) die pair bytes
    .ok (r.1, ⟨r.2, x.warm⟩)

/-- R42: frames that a session holds privately: control frame, table frames, map pages, pages that are not shared, and old open pages that only its mark holds. -/
def privateCount (w : Warm) : Nat :=
  1 + w.tables.length + w.mapPages.length +
  (w.columns.foldl (fun n p => n + (p.2.leaves.filter fun l => !l.shared).length) 0) +
  ((markOnly w).filter fun l => !l.shared).length

/-- Stores a range with the frame counts of its entry (R28). -/
def storeRange (x : Range) (sid : Nat) : Core :=
  let c := setWarm x.core sid x.warm
  modEntry c sid fun e => { e with privateFrames := privateCount x.warm, reservedFrames := x.warm.room0 + x.warm.room1 }

/-! ## Tables (R152) -/

/-- Page number in the session range of layer `l` of slot `s` (R321), and of map page `m` (R322). -/
def kvPageNo (L s l : Nat) : Nat := 1 + s * L + l
def mapPageNo (m : Nat) : Nat := 0x7FFF00 + m

/-- R152: table frames that a set of leaf tables needs: the root frame holds the upper table and fifteen middle tables, others hold sixteen tables each. -/
def tableFrames (tabs : List Nat) : Nat :=
  1 + cdiv (((tabs.map (· / 512)).eraseDups.length - 15) + tabs.length) 16

/-- The leaf tables in use once pages are mapped. -/
def withPages (tabs pages : List Nat) : List Nat := (tabs ++ pages.map (· / 512)).eraseDups

/-- Takes table frames until the range's leaf tables have their places. -/
def growTables (home turn : Bool) : Nat → Range → Except Block Range
  | 0, x => .ok x
  | n + 1, x =>
    if tableFrames x.warm.leafTabs ≤ x.warm.tables.length then .ok x
    else match takeFrame x turn home (anyPair x.core home) [] with
      | .error b => .error b
      | .ok (f, y) => growTables home turn n ⟨y.core, { y.warm with tables := y.warm.tables ++ [f] }⟩

/-- R152: the tables of pages about to be mapped. -/
def mapPagesIn (home turn : Bool) (pages : List Nat) (x : Range) : Except Block Range :=
  let x : Range := ⟨x.core, { x.warm with leafTabs := withPages x.warm.leafTabs pages }⟩
  growTables home turn (tableFrames x.warm.leafTabs) x

/-! ## Columns (R321 to R324) -/

/-- R321: slots of a session range. -/
def slotLimit (L : Nat) : Nat := 8388351 / L

/-- Slots in use. -/
def usedSlots (cols : Map Column) : List Nat := (cols.filter fun p => !p.2.pooled).map (·.2.slot)

/-- R323: the lowest free slot. -/
def lowestSlot (cols : Map Column) : Nat :=
  let used := usedSlots cols
  ((List.range (used.length + 1)).find? fun s => !used.contains s).getD 0

/-- R324: the pair for a frame of column `j` in layer `l`: that of the block's latest column while it is in service and has one free, else the in-service pair of the die with the most free frames. -/
def columnPair (c : Core) (cols : Map Column) (die : Bool) (j l : Nat) : Nat :=
  let last := (cols.filter fun p => p.1 / 8 == j / 8 && p.1 < j && !p.2.pooled).getLast?
  match last.bind fun p => (p.2.leaves[l]?).bind fun f => mapGet c.mem.frames f.frame with
  | some f => if pairOpen c f.pair && f.die == die then f.pair else mostFree c die
  | none => mostFree c die

/-- R322: the map page of a column; none for an entry in the control frame. -/
def mapPageOf (j : Nat) : Option Nat := if j < 1024 then none else some (j / 4096)

/-- Takes the frames of a column's layers. -/
def takeLayers (img : List Byte) (home turn : Bool) (cols : Map Column) (j : Nat) :
    List Nat → Range → Except Block (List Leaf × Range)
  | [], x => .ok ([], x)
  | l :: ls, x =>
    let die := layerDie img home l
    match takeFrame x turn die (columnPair x.core cols die j l) [] with
    | .error b => .error b
    | .ok (f, y) => match takeLayers img home turn cols j ls y with
      | .error b => .error b
      | .ok (r, z) => .ok (({ frame := f, kv := true } : Leaf) :: r, z)

/-- R322: the map page that a column's entry needs. -/
def takeMapPage (home turn : Bool) (j : Nat) (x : Range) : Except Block Range :=
  match mapPageOf j with
  | none => .ok x
  | some m =>
    if mapHas x.warm.mapPages m then .ok x
    else match takeFrame x turn home (anyPair x.core home) [] with
      | .error b => .error b
      | .ok (f, y) => .ok ⟨y.core, { y.warm with mapPages := mapSet y.warm.mapPages m { frame := f } }⟩

/-- R323: opens column `j` among the columns given: its slot, its frames, its entry. -/
def openColumn (img : List Byte) (home turn : Bool) (j : Nat) (cols : Map Column) (x : Range) :
    Except Block (Map Column × Range) :=
  let L := miLayers img
  let s := lowestSlot cols
  if slotLimit L ≤ s then .error .noSpace
  else
    let pages := (List.range L).map (kvPageNo L s) ++ (mapPageOf j).toList.map mapPageNo
    match mapPagesIn home turn pages x with
    | .error b => .error b
    | .ok x => match takeMapPage home turn j x with
      | .error b => .error b
      | .ok x => match takeLayers img home turn cols j (List.range L) x with
        | .error b => .error b
        | .ok (ls, x) => .ok (mapSet cols j { slot := s, leaves := ls }, ⟨x.core, { x.warm with cleared := mapDel x.warm.cleared j }⟩)

/-! ## Writes (R160 to R163) -/

/-- R163: the reference that a leaf entry held on a frame passes to the checkpoint; with no epoch running it is dropped. -/
def passRef (c : Core) (frame : Nat) : Core :=
  match c.ckpt.running with
  | none => dropRef c frame
  | some ep =>
    let ep := { ep with frames := mapSet ep.frames frame ((mapGet ep.frames frame).getD 0 + 1) }
    { c with ckpt := { c.ckpt with running := some ep } }

/-- R162: one staging frame of a page's die holds the page's old contents for the checkpoint. -/
def ckptStage (c : Core) (die : Bool) (frame : Nat) : Core :=
  match c.ckpt.running with
  | none => c
  | some ep =>
    let ep := { ep with staged := mapSet ep.staged frame die }
    { c with
      ckpt := { c.ckpt with running := some ep }
      mem := { c.mem with stagingFree := c.mem.stagingFree.mod die fun f => f - 1 } }

/-- R500: a range that an admission has built takes more granted frames than a die has. -/
def grantShort (c : Core) (img : List Byte) (home : Bool) (w : Warm) : Bool :=
  paired c && [false, true].any fun die => grantLeft c die < shadowFrames c img home w die

/-- References of a frame. -/
def frameCount (c : Core) (frame : Nat) : Nat := ((mapGet c.mem.frames frame).map (·.count)).getD 0

/-- R160, R211: the pair for a copy of a frame: the frame's own while it takes frames, so that its run stays whole, else the one with the most free frames. -/
def copyPair (c : Core) (die : Bool) (f : Nat) : Nat :=
  match mapGet c.mem.frames f with
  | some x => if x.die == die && pairOpen c x.pair then x.pair else mostFree c die
  | none => mostFree c die

/-- R73, R160: takes a frame for a copy of another on the die that holds the layer: during a turn from the headroom, otherwise from the free frames. Check values travel with their blocks and are verified on the way. -/
def takeCopy (turn : Bool) (f : Nat) (x : Range) : Except Block (Nat × Range) :=
  let die := frameDie x.core f
  if frameBad x.core f then .error (.bad f)
  else match takeFrame x turn die (copyPair x.core die f) [] with
  | .error b => .error b
  | .ok (g, y) =>
    let old := mapGet x.core.mem.frames f
    .ok (g, ⟨{ y.core with mem := { y.core.mem with frames := mapMod y.core.mem.frames g fun q =>
      { q with bytes := (old.map (·.bytes)).getD [] } } }, y.warm⟩)

/-- R160, R162, R163: makes a leaf's page writable. `keep` leaves the old frame's reference to whoever still lists the old leaf (R274). -/
def resolveWrite (turn keep : Bool) (l : Leaf) (x : Range) : Except Block (Leaf × Range) :=
  let die := frameDie x.core l.frame
  if l.cow && (l.hold || 1 < frameCount x.core l.frame) then
    match takeCopy turn l.frame x with
    | .error b => .error b
    | .ok (f, y) =>
      let c := if keep then y.core else if l.hold then passRef y.core l.frame else dropRef y.core l.frame
      .ok ({ frame := f, kv := l.kv }, ⟨c, y.warm⟩)
  else if l.hold && !l.cow then
    if x.core.mem.stagingFree.get die = 0 then .error .wait
    else .ok ({ l with hold := false }, ⟨ckptStage x.core die l.frame, x.warm⟩)
  else .ok ({ l with cow := false, shared := if l.cow then false else l.shared }, x)

/-- Writes bytes into a frame. -/
def writeFrame (c : Core) (frame off : Nat) (bs : List Byte) : Core :=
  { c with mem := { c.mem with frames := mapMod c.mem.frames frame fun f => { f with bytes := cellsWrite f.bytes off bs } } }

/-- R320: writes one position's bytes in each layer of a column. -/
def writeLayers (turn keep : Bool) (off : Nat) : List Leaf → List (List Byte) → Range → Except Block (List Leaf × Range)
  | l :: ls, bs :: bss, x =>
    match resolveWrite turn keep l x with
    | .error b => .error b
    | .ok (l, x) => match writeLayers turn keep off ls bss ⟨writeFrame x.core l.frame off bs, x.warm⟩ with
      | .error b => .error b
      | .ok (r, x) => .ok (l :: r, x)
  | ls, _, x => .ok (ls, x)

/-- R188, R323: writes position `p`, opening its column when it begins one. -/
def writePosition (img : List Byte) (home turn keep : Bool) (p : Nat) (kv : List (List Byte)) (cols : Map Column)
    (x : Range) : Except Block (Map Column × Range) :=
  let P := pageP img
  let j := p / P
  match (if mapHas cols j then .ok (cols, x) else openColumn img home turn j cols x) with
  | .error b => .error b
  | .ok (cols, x) => match mapGet cols j with
    | none => .ok (cols, x)
    | some col => match writeLayers turn keep (p % P * kvBytes img) col.leaves kv x with
      | .error b => .error b
      | .ok (ls, x) => .ok (mapSet cols j { col with leaves := ls }, x)

/-- A write to the control frame. -/
def writeCtl (turn : Bool) (x : Range) : Except Block Range :=
  match resolveWrite turn false x.warm.ctlLeaf x with
  | .error b => .error b
  | .ok (l, x) => .ok ⟨x.core, { x.warm with ctlLeaf := l }⟩

/-! ## Letting go (R154, R157, R341) -/

/-- A leaf entry goes: its reference is dropped, or passes to the checkpoint. -/
def dropLeaf (c : Core) (l : Leaf) : Core := if l.hold then passRef c l.frame else dropRef c l.frame

/-- Drops leaf entries. -/
def dropLeaves (c : Core) (ls : List Leaf) : Core := ls.foldl dropLeaf c

/-- Returns the headroom left to the dies' pools. -/
def giveRoom (x : Range) : Range :=
  ⟨returnFree (returnFree x.core false x.warm.room0) true x.warm.room1, { x.warm with room0 := 0, room1 := 0 }⟩

/-- R39: the mark's references go. -/
def dropMark (x : Range) : Range :=
  match x.warm.mark with
  | none => x
  | some m =>
    ⟨dropLeaves x.core ((m.openColumn.map (·.2)).getD []), { x.warm with mark := none }⟩

/-- R274: the frames that an APPEND's working columns have and the session's have not go. -/
def dropLane (x : Range) : Range :=
  match x.warm.lane with
  | none => x
  | some ln =>
    let mine := x.warm.columns.flatMap fun p => p.2.leaves.map (·.frame)
    ⟨dropLeaves x.core ((ln.cols.flatMap fun p => p.2.leaves).filter fun l => !mine.contains l.frame),
      { x.warm with lane := none }⟩

/-- R154: everything a warm range holds goes. -/
def unmapRange (x : Range) : Core :=
  let x := giveRoom (dropMark (dropLane x))
  let c := dropLeaves x.core (x.warm.ctlLeaf :: x.warm.mapPages.map (·.2) ++ x.warm.columns.flatMap fun p => p.2.leaves)
  x.warm.tables.foldl dropRef c

/-- R154: a session leaves the warm states: its range and what it holds go. -/
def leaveWarm (c : Core) (sid : Nat) : Core :=
  match mapGet c.sess.warm sid with
  | none => c
  | some w =>
    let c := unmapRange ⟨c, w⟩
    { c with sess := { c.sess with warm := mapDel c.sess.warm sid } }

/-- R341: one column is evicted; its map entry loses `valid` and keeps the rest. -/
def evictColumn (x : Range) (j : Nat) : Range :=
  match mapGet x.warm.columns j with
  | none => x
  | some col => ⟨dropLeaves x.core col.leaves, { x.warm with
      columns := mapDel x.warm.columns j, cleared := mapSet x.warm.cleared j { col with leaves := [] } }⟩

/-! ## A fresh range (R152) -/

/-- R33 check 9, R46: frames that a new range needs on its home die besides its pages: control frame and table frames. -/
def freshNeed (pages : List Nat) : Nat := 1 + tableFrames (withPages [0] pages)

/-- R152: a new range on a die: the control frame, the root frame and the table frame of its first leaf table. -/
def freshRange (c : Core) (home : Bool) : Range :=
  let r := allocFrame c home []
  let q := allocFrame r.2 home []
  let t := allocFrame q.2 home []
  ⟨t.2, { ctlLeaf := { frame := r.1 }, tables := [q.1, t.1], leafTabs := [0] }⟩

/-- R70: the die with more free frames; the directory die when the counts are equal. -/
def placeDie (c : Core) (sid : Nat) : Bool :=
  if freeOf c false < freeOf c true then true
  else if freeOf c true < freeOf c false then false
  else dirDie sid

/-! ## Reading pages -/

/-- The contents of a page of a column in a layer: a mapped frame's, or a pooled prefix's. -/
def pageCells (c : Core) (e : Entry) (j l : Nat) (col : Column) : Cells :=
  if col.pooled then
    ((((mapGet c.obj.prefixes e.prefixHandle).bind fun p => p.pooled[j]?).bind fun pg => pg[l]?).getD [])
  else ((col.leaves[l]?).map fun f => frameBytes c f.frame).getD []

/-- The bytes of position `i` of a page. -/
def positionBytes (img : List Byte) (pg : Cells) (i : Nat) : List Byte := cellsRead pg (i * kvBytes img) (kvBytes img)

/-- R472: the frames that a step of a session reads or writes: control frame, map pages, pages of the columns given. -/
def rangeFrames (w : Warm) (cols : Map Column) : List Nat :=
  w.ctlLeaf.frame :: w.mapPages.map (·.2.frame) ++ cols.flatMap fun p => p.2.leaves.map (·.frame)

end Sys2Proof.Machine
end

