-- ==== Sys2Proof/Machine/Sheaves.lean ====
section
/-! DEFINITION. Where packed images lie (R403, R199, R200) and how a session becomes LOST (R25, R26): the sheaf index and its frames, barn and spill space, release lists. -/

namespace Sys2Proof.Machine

/-! ## The sheaf index (R403) -/

/-- Index leaves of a die, for a set of sessions. -/
def indexLeaves (ix : Map SheafIx) (die : Bool) : List Nat :=
  ((ix.filter fun p => dirDie p.1 == die).map fun p => p.1 / 2048).eraseDups

/-- R403: index frames of a die: its leaves, and a top frame while it has any. -/
def indexFrames (ix : Map SheafIx) (die : Bool) : Nat :=
  let n := (indexLeaves ix die).length
  if n = 0 then 0 else n + 1

/-- Frames that entering a session in the index takes. -/
def indexNeed (c : Core) (sid : Nat) : Nat :=
  indexFrames (mapSet c.mem.index sid ⟨0, false, 0, 0, 0, 0, 0⟩) (dirDie sid) - indexFrames c.mem.index (dirDie sid)

/-- The index frames of a die that a new index takes or returns. A take that finds no frame free goes on with none: no check of HANDOVER_IN names it (R47, R392; DESIGN CHOICE, log 144). -/
def indexFramesTo (ix : Map SheafIx) (c : Core) (die : Bool) : Core :=
  let was := indexFrames c.mem.index die
  let now := indexFrames ix die
  giveFree (takeFree c die (min (now - was) (freeOf c die))) die (was - now)

/-- R403: replaces the sheaf index, taking or returning its frames. -/
def putIndex (c : Core) (ix : Map SheafIx) : Core :=
  let c := [false, true].foldl (indexFramesTo ix) c
  { c with mem := { c.mem with index := ix } }

/-- Enters a session in the sheaf index. -/
def setIndex (c : Core) (sid : Nat) (x : SheafIx) : Core := putIndex c (mapSet c.mem.index sid x)

/-- Clears a session's index entry. -/
def clearIndex (c : Core) (sid : Nat) : Core := putIndex c (mapDel c.mem.index sid)

/-- TIER_POOL_STATUS.POOLED of a window. -/
def pooledIn (c : Core) (w : Nat) : Nat := (c.mem.index.filter fun p => p.2.place == 2 && p.2.window == w).length

/-! ## Barn and spill region -/

/-- TIER_BARN. -/
def barnFrames (c : Core) : Nat := regField c 0x200100 20 0

/-- R403: frames that a barn's link table takes, the barn's first. -/
def linkFrames (c : Core) : Nat := cdiv (4 * barnFrames c) 65536

/-- R403: barn frames that the link table leaves. -/
def barnUsable (c : Core) : Nat := barnFrames c - linkFrames c

/-- The first `n` numbers from `lo` below `hi` that an ascending list does not hold. -/
def freeNumbers : Nat → List Nat → Nat → Nat → List Nat
  | lo, [], hi, n => (List.range (min n (hi - lo))).map (lo + ·)
  | lo, u :: us, hi, n =>
    let k := min n (u - lo)
    (List.range k).map (lo + ·) ++ freeNumbers (u + 1) us hi (n - k)

/-- R403: each frame of a list links to the next, the last to 0xFFFF_FFFF. -/
def linkChain : List Nat → List (Nat × Nat)
  | [] => []
  | [f] => [(f, 0xFFFFFFFF)]
  | f :: g :: fs => (f, g) :: linkChain (g :: fs)

/-- R403: the frames of a sheaf, along the links from its first frame. -/
def linkedFrom (t : Map Nat) : Nat → Nat → List Nat
  | 0, _ => []
  | n + 1, f =>
    match mapGet t f with
    | some g => f :: linkedFrom t n g
    | none => []

/-- The key of a barn sheaf: 2 * first frame + die. -/
def barnKey (die : Bool) (first : Nat) : Nat := 2 * first + b2n die

/-- The barn sheaf that an index entry names. -/
def barnSheaf (c : Core) (x : SheafIx) : Option Sheaf := mapGet c.mem.barn (barnKey x.die x.locator)

/-- Its bytes. -/
def barnBytes (c : Core) (x : SheafIx) : List Byte := ((barnSheaf c x).map (·.bytes)).getD []

/-- R403: stores a sheaf in free frames of a die's barn, and gives its first frame. Any free frames serve; the model takes the lowest (DESIGN CHOICE, log 143). -/
def storeBarn (c : Core) (die : Bool) (bytes : List Byte) : Nat × Core :=
  let n := cdiv bytes.length 65536
  let t := c.mem.links.get die
  let fs := freeNumbers (linkFrames c) (t.map (·.1)) (barnFrames c) n
  let first := nth fs 0 0
  (first, { c with mem := { c.mem with
    links := c.mem.links.set die ((linkChain fs).foldl (fun m e => mapSet m e.1 e.2) t)
    barn := mapSet c.mem.barn (barnKey die first) { die := die, frames := n, bytes := bytes }
    barnFree := c.mem.barnFree.mod die (· - n) } })

/-- Frees a barn sheaf; frames that a checkpoint holds return when it lets go (R157, R521). -/
def freeBarn (c : Core) (die : Bool) (first : Nat) : Core :=
  match mapGet c.mem.barn (barnKey die first) with
  | none => c
  | some s =>
    if 0 < s.refs then c
    else
      let t := c.mem.links.get die
      { c with mem := { c.mem with
        links := c.mem.links.set die ((linkedFrom t s.frames first).foldl mapDel t)
        barn := mapDel c.mem.barn (barnKey die first), barnFree := c.mem.barnFree.mod die (· + s.frames) } }

/-- R26, R200: frees a run of the spill region. -/
def freeSpill (c : Core) (first : Nat) : Core := { c with mem := { c.mem with spill := mapDel c.mem.spill first } }

/-- Frees the barn or spill space that a session's sheaf takes, and clears its index entry; a pool entry stays. Space that the epoch has still to copy is freed then (R524). -/
def freeStored (c : Core) (sid : Nat) : Core :=
  match mapGet c.mem.index sid with
  | none => c
  | some x =>
    if x.place = 1 then freeBarn (clearIndex c sid) x.die x.locator
    else if x.place = 3 then
      if uncopied c sid 3 then clearIndex c sid else freeSpill (clearIndex c sid) x.locator
    else c

/-! ## Release lists (R199) -/

/-- R199: an item joins a window's release list; one that finds the list full is entered in the error log. -/
def addRelease (c : Core) (w : Nat) (i : ReleaseItem) : Core :=
  match mapGet c.mem.windows w with
  | none => c
  | some x =>
    if 256 ≤ x.releases.length then logErr c { kind := 0x0E, severity := 1 }
    else
      let x := { x with releases := x.releases ++ [i] }
      { c with mem := { c.mem with windows := mapSet c.mem.windows w x } }

/-! ## LOST (R25, R26) -/

/-- Rows of a session leave the step in flight and the batches that wait; their pending charges are dropped (R444). -/
def dropRows (c : Core) (die : Bool) (sid : Nat) : Core :=
  let c := unplan c die sid
  let rows := (c.sched.get die).rows.filter fun r => r.session == sid
  let c := rows.foldl (fun c r => chargeDrop c die r.account r.bucket r.charge) c
  { c with sched := c.sched.mod die fun s =>
      { s with rows := s.rows.filter fun r => r.session != sid, waitMirror := s.waitMirror.filter (· != sid) } }

/-- A session leaves every queue of its home die. -/
def leaveQueues (c : Core) (sid : Nat) : Core :=
  let e := entryOf c sid
  leaveLane (leaveDecode (dropRows c e.homeDie sid) e.homeDie e.account sid) e.homeDie e.account sid

/-- R26: the entry of a LOST session. -/
def lostEntry (e : Entry) (keep : Bool) : Entry :=
  { e with state := .lost, rootFrame := 0, privateFrames := 0, reservedFrames := 0, markValid := false
           cancelPending := false, imagePlace := if keep then e.imagePlace else 0 }

/-- R25, R26, R486: a session becomes LOST: the log entry, the event record and what it lets go. With `keep`, its lease is still this device's and its pool entry stays. -/
def loseSession (c : Core) (sid cause : Nat) (st : Status) (opcode : Nat) (keep : Bool) : Core :=
  let e := entryOf c sid
  let seq := c.errs.next
  let c := haspSession c sid
  let c := logErr c { kind := 0x0F, severity := 1, die := if isWarm e.state then e.homeDie else dirDie sid
                      session := sid, status := stCode st, opcode := opcode }
  let c := sessionEvent c 2 sid (fieldAt 0 8 cause + fieldAt 8 8 (stCode st)) seq
  let c := leaveWarm (if isWarm e.state then leaveQueues c sid else c) sid
  let pool := ((mapGet c.mem.index sid).map (·.place)) == some 2
  let c := freeStored c sid
  let c := if pool && !keep then clearIndex c sid else c
  let c := mirrorThen c sid (.closed cause) none false id
  setEntry c sid (lostEntry e (pool && keep))

end Sys2Proof.Machine
end

