-- ==== Sys2Proof/Machine/Pool.lean ====
section
/-! DEFINITION. Pool windows (06_tiers R192 to R199): requests within a window, the allocation map, claims and releases. -/

namespace Sys2Proof.Machine

/-- The bus address of an offset in a window. -/
def winAddr (c : Core) (w off : Nat) : Nat := regField c (0x200200 + 0x20 * w) 63 20 * 2 ^ 20 + off

/-- A window as it stands; an untouched one is off. -/
def winOf (c : Core) (w : Nat) : Window := (mapGet c.mem.windows w).getD {}

/-- Replaces a window. -/
def setWin (c : Core) (w : Nat) (x : Window) : Core :=
  { c with mem := { c.mem with windows := mapSet c.mem.windows w x } }

/-- Bytes of a unit of a window. -/
def unitBytes (x : Window) : Nat := 2 ^ x.unitLog2

/-- R192: the window offset of a unit. -/
def unitOff (x : Window) (i : Nat) : Nat := x.dataOffset + i * unitBytes x

/-- R192: the window offset of a map word. -/
def mapWordOff (m : Nat) : Nat := 4096 + 8 * m

/-- A non-posted request of a window whose outcome the caller handles. -/
def winTry (w off : Nat) (n : Nat := 8) : M Ans := do request w (winAddr (← getC) w off) n

/-- Reads bytes of a window, ending the request under R91 when the read fails. -/
def winRead (w off n : Nat) : M (List Byte) := do readBus w (winAddr (← getC) w off) n

/-- Posts a write into a window. -/
def winWrite (w off : Nat) (bs : List Byte) : M Unit := do postBus w (winAddr (← getC) w off) bs

/-- Bits of a run that fall in map word `m`. -/
def runBits (r : Run) (m : Nat) : Nat :=
  ((List.range 64).filter fun i => r.first ≤ 64 * m + i && 64 * m + i < r.first + r.units).foldl (fun v i => v + 2 ^ i) 0

/-- Map words that cover a run, ascending. -/
def runWords (r : Run) : List Nat :=
  if r.units = 0 then [] else (List.range ((r.first + r.units - 1) / 64 - r.first / 64 + 1)).map (r.first / 64 + ·)

/-- R195: clears a run's bits in one map word with a CompareAndSwap loop; the status when a request fails. -/
def clearWord (w : Nat) (r : Run) (m : Nat) : Nat → M (Option Status)
  | 0 => do return some .tierTimeout
  | fuel + 1 => do
    let a ← winTry w (mapWordOff m)
    match a with
    | .data bs =>
      let old := leAt bs 0 8
      let b ← winTry w (mapWordOff m)
      match b with
      | .data got =>
        if leAt got 0 8 = old then
          modC fun c => busWrite c (winAddr c w (mapWordOff m)) (natLe 8 (old - (old &&& runBits r m)))
          return none
        else clearWord w r m fuel
      | b => return ansStatus w b
    | a => return ansStatus w a

/-- The part of a run before map word `m`, and the part from it on. -/
def Run.before (r : Run) (m : Nat) : Run := ⟨r.first, min r.units (64 * m - r.first)⟩
def Run.from (r : Run) (m : Nat) : Run := ⟨max r.first (64 * m), r.first + r.units - max r.first (64 * m)⟩

/-- R195: releases the words of a run; the status of the first request that fails, and its word. -/
def clearWords (w : Nat) (r : Run) : List Nat → M (Option (Status × Nat))
  | [] => do return none
  | m :: ms => do
    let n := (← get).env.length
    match ← clearWord w r m (n + 1) with
    | none => clearWords w r ms
    | some st => return some (st, m)

/-- R199: a run joins a window's release list; an empty one does not. -/
def keepRun (w : Nat) (r : Run) : M Unit := do
  if r.units ≠ 0 then modC fun c => addRelease c w (.run r)

/-- R195, R199: releases a run; what is left of one that the window does not answer for joins its release list (log 156). -/
def releaseRun (w : Nat) (r : Run) : M Unit := do
  if r.units = 0 then return ()
  match ← clearWords w r (runWords r) with
  | none => return ()
  | some (_, m) => keepRun w (r.from m)

/-- R199: a claim or a release is interrupted: what the device holds of its run joins the release list, and the request ends. -/
def abandonRun {α : Type} (w : Nat) (r : Run) (st : Status) : M α := do
  keepRun w r
  refuse st

/-- R93: a swap that was refused did not happen; one that got no answer, or a poisoned one, may have happened. -/
def mayHaveLanded (a : Ans) : Bool := a == .late || a == .poisoned

/-- R194: takes the words of a run; `some` when a word was lost to another device, with the words taken before it. A request that fails leaves what was taken, with the word of a swap that may have happened, on the release list (R93, R199). -/
def takeWords (w : Nat) (r : Run) : List Nat → List Nat → M (Option (List Nat))
  | [], _ => do return none
  | m :: ms, taken => do
    let a ← winTry w (mapWordOff m)
    match a with
    | .data bs =>
      let old := leAt bs 0 8
      if old &&& runBits r m != 0 then return some taken
      let b ← winTry w (mapWordOff m)
      match b with
      | .data got =>
        if leAt got 0 8 != old then return some taken
        modC fun c => busWrite c (winAddr c w (mapWordOff m)) (natLe 8 (old + runBits r m))
        takeWords w r ms (m :: taken)
      | b => abandonRun w (r.before (if mayHaveLanded b then m + 1 else m)) ((ansStatus w b).getD .tierError)
    | a => abandonRun w (r.before m) ((ansStatus w a).getD .tierError)

/-- R194: the first units of runs of `n` clear bits seen in a map, from the cursor, wrapping once. -/
def clearRuns (mp : List Byte) (units cursor n : Nat) : List Nat :=
  let free := fun i => !bit (leAt mp (i / 8) 1) (i % 8)
  let ok := fun s => s + n ≤ units && (List.range n).all fun i => free (s + i)
  ((List.range units).map fun i => (cursor + i) % units).filter ok

/-- R194, R201: tries runs in order. A roll-back, from the last word taken to the first, that the window does not answer for ends the request, and what is left joins the release list. -/
def tryRuns (w n : Nat) : List Nat → M (Option Run)
  | [] => do return none
  | s :: ss => do
    let r : Run := ⟨s, n⟩
    match ← takeWords w r (runWords r) [] with
    | none =>
      modC fun c => setWin c w { winOf c w with cursor := s + n }
      return some r
    | some taken =>
      match ← clearWords w r taken with
      | some (st, m) => abandonRun w (r.before (m + 1)) st
      | none => tryRuns w n ss

/-- R194: claims a run of `n` units: none when the window is full. The map is seen in one read. -/
def claimRun (w n : Nat) : M (Option Run) := do
  let x := winOf (← getC) w
  let mp ← winRead w 4096 (8 * cdiv x.units 64)
  tryRuns w n (clearRuns mp x.units (if x.units ≤ x.cursor then 0 else x.cursor) n)

/-- R196: confirms what was written by an 8-byte read of a unit; the run joins the release list when the read fails. -/
def confirmRun (w unit : Nat) (r : Run) : M Unit := do
  let x := winOf (← getC) w
  match ← winTry w (unitOff x unit) with
  | .data _ => return ()
  | a => abandonRun w r ((ansStatus w a).getD .tierError)

/-- R199, R204: a part whose failure puts a claimed run on its window's release list. -/
def holdingRun {α : Type} (w : Nat) (r : Run) (m : M α) : M α := orUndo (fun c => addRelease c w (.run r)) m

/-- Writes what a run holds; when the write cannot be sent, the run joins the release list and the request ends. -/
def writeRun (w off : Nat) (bs : List Byte) (r : Run) : M Unit := holdingRun w r (winWrite w off bs)

/-- R203, R204: keeps the first `k` units of a run and returns the rest. -/
def trimRun (w : Nat) (r : Run) (k : Nat) : M Run := do
  let rest : Run := ⟨r.first + k, r.units - k⟩
  if rest.units = 0 then return r
  match ← clearWords w rest (runWords rest) with
  | some (st, m) =>
    keepRun w ⟨r.first, k⟩
    abandonRun w (rest.from m) st
  | none => return ⟨r.first, k⟩

end Sys2Proof.Machine
end

