-- ==== Sys2Proof/Machine/Lease.lean ====
section
/-! DEFINITION. Leases (14_parking R404 to R409, R21, R507): the lease word, its swaps, the re-read that an uncertain hand-over leaves due. -/

namespace Sys2Proof.Machine

/-- R404: a lease word as one 128-bit number. -/
def leaseWord (owner st gen frm : Nat) : Nat :=
  owner % 2 ^ 32 + st * 2 ^ 32 + (gen % 2 ^ 32 + frm % 2 ^ 32 * 2 ^ 32) * 2 ^ 64

/-- Fields of a lease word. -/
def leaseOwner (v : Nat) : Nat := bits v 31 0
def leaseState (v : Nat) : Nat := bits v 33 32
def leaseGen (v : Nat) : Nat := bits v 95 64
def leaseFrom (v : Nat) : Nat := bits v 127 96

/-- R404: the two words that count as this device's own for a generation held. -/
def heldWord (c : Core) (g : Nat) : Nat := leaseWord (deviceNo c) 1 g 0
def releasedWord (c : Core) (g : Nat) : Nat := leaseWord (deviceNo c) 0 (g + 1) 0
def ownWord (c : Core) (g v : Nat) : Bool := v == heldWord c g || v == releasedWord c g

/-- The window offset of a pooled sheaf. -/
def sheafOff (c : Core) (ix : SheafIx) : Nat := unitOff (winOf c ix.window) ix.locator

/-- The units of a pooled sheaf. -/
def sheafRun (c : Core) (ix : SheafIx) : Run := ⟨ix.locator, cdiv (256 * ix.size) (unitBytes (winOf c ix.window))⟩

/-- R93: one CompareAndSwap of a 16-byte word; the new word stands in the window when the old one was the expected. -/
def swapWord (w off exp new : Nat) : M Swap := do
  let a := winAddr (← getC) w off
  match ← casBus w a 16 with
  | .old v =>
    if v = exp then modC fun c => busWrite c a (natLe 16 new)
    return .old v
  | x => return x

/-- Ends with ST_LEASE_LOST: the session is LOST, its lease another's (R25, R26). -/
def leaseLost {α : Type} : M α := do
  let r ← get
  modC fun c => loseSession c r.sid 3 .leaseLost r.opc false
  refuse .leaseLost

/-- Replaces a session's index entry. -/
def modIndex (c : Core) (sid : Nat) (f : SheafIx → SheafIx) : Core :=
  match mapGet c.mem.index sid with
  | none => c
  | some x => { c with mem := { c.mem with index := mapSet c.mem.index sid (f x) } }

/-- The lease of a pooled session is this device's in its own right. -/
def leaseTaken (c : Core) (sid : Nat) : Core := { c with twin := { c.twin with leases := mapDel c.twin.leases sid } }

/-- R405, R507: before a taken-over pooled session's lease is read, it is swapped to this device. -/
def takeoverLease (sid : Nat) : M Unit := do
  let c ← getC
  match mapGet c.twin.leases sid, mapGet c.mem.index sid with
  | none, _ => return ()
  | some _, none => modC fun c => leaseTaken c sid
  | some owner, some ix =>
    let dead := leaseWord owner 1 ix.generation 0
    let mine := heldWord c (ix.generation + 1)
    match ← swapWord ix.window (sheafOff c ix) dead mine with
    | .old v =>
      if v = dead || v = mine then
        modC fun c => modIndex (leaseTaken c sid) sid fun x => { x with generation := (x.generation + 1) % 2 ^ 32 }
      else
        modC fun c => leaseTaken c sid
        leaseLost
    | .notDone st => refuse st
    | .unknown st => refuse st

/-- The lease word of a pooled sheaf. -/
def readLease (ix : SheafIx) : M Nat := do
  let bs ← winRead ix.window (sheafOff (← getC) ix) 16
  return leNat bs

/-- The re-read is due no more. -/
def rereadDone (c : Core) (sid : Nat) : Core := { c with sess := { c.sess with reread := mapDel c.sess.reread sid } }

/-- R21: a re-read that is due comes before the next descriptor of the session; whether it has found a release of this device's own that landed (R405). -/
def leaseRead : M Bool := do
  let r ← get
  if !mapHas r.core.sess.reread r.sid then return false
  match mapGet r.core.mem.index r.sid with
  | none =>
    modC fun c => rereadDone c r.sid
    return false
  | some ix =>
    let v ← readLease ix
    modC fun c => rereadDone c r.sid
    if ownWord (← getC) ix.generation v then return v == releasedWord (← getC) ix.generation else leaseLost

/-- R21: the re-read of a descriptor to which a landed release makes no difference. -/
def leaseFirst : M Unit := do
  let _ ← leaseRead

/-- R405: REVIVE and SESS_CLOSE release a lease; one found released is not swapped again. -/
def releaseLease (ix : SheafIx) : M Unit := do
  let c ← getC
  match ← swapWord ix.window (sheafOff c ix) (heldWord c ix.generation) (releasedWord c ix.generation) with
  | .old v => if ownWord c ix.generation v then return () else leaseLost
  | .notDone st => refuse st
  | .unknown st => refuse st

end Sys2Proof.Machine
end

