-- ==== Sys2Proof/Machine/Sheaf.lean ====
section
/-! DEFINITION. The packed session image (14_parking R395 to R402): control frame and map pages, the codec of the thresher, the layout of a sheaf and its reading. -/

namespace Sys2Proof.Machine

/-! ## The control frame and map pages (R281, R322, R377) -/

/-- R310: the seen set as a map of one bit for each token id. -/
def seenBytes (seen : List Nat) : List Byte := natLe 0x8000 (seen.foldl (fun v t => v ||| 2 ^ t) 0)

/-- The ids of such a map, ascending. -/
def seenOf (bs : List Byte) : List Nat :=
  bs.zipIdx.flatMap fun b => if b.1 = 0 then [] else ((List.range 8).filter fun i => b.1.getLsbD i).map (8 * b.2 + ·)

/-- What a control frame holds below its grammar record, in the model's arrangement: flags and lengths, the pending token, the carry, the pending piece, the seen set. -/
def ctlPlain (x : Ctl) : List Byte :=
  natLe 8 (fieldAt 0 1 (b2n x.pendingTok.isSome) + fieldAt 8 8 x.pieceClass + fieldAt 16 16 x.pieceDigits +
    fieldAt 32 8 x.carryBytes.length + fieldAt 40 16 x.piece.length) ++
  natLe 8 (x.pendingTok.getD 0) ++ bytesAt x.carryBytes 0 256 ++ bytesAt x.piece 0 (0x1000 - 272) ++
  seenBytes x.seen ++ List.replicate 0x2000 0

/-- What such bytes hold. -/
def ctlOfPlain (bs : List Byte) : Ctl :=
  let w := leAt bs 0 8
  { pendingTok := if bit w 0 then some (leAt bs 8 8) else none
    pieceClass := bits w 15 8, pieceDigits := bits w 31 16
    carryBytes := bytesAt bs 16 (bits w 39 32), piece := bytesAt bs 272 (bits w 55 40)
    seen := seenOf (bytesAt bs 0x1000 0x8000) }

/-- R281, R290, R310: the first 0xB000 bytes of a control frame, from the model's arrangement to the device's and back (Config.ctlMask; log 12). -/
def maskCtl (bs : List Byte) : List Byte := bs.zipIdx.map fun b => b.1 ^^^ Config.ctlMask b.2

/-- R377: the grammar record, 2,064 bytes from offset 0xB000. -/
def grammarRecord (x : Ctl) : List Byte :=
  natLe 8 (fieldAt 0 16 x.gstate + fieldAt 16 11 x.stack.length) ++ natLe 8 x.gdigest ++
  bytesAt (x.stack.flatMap (natLe 2)) 0 2048

/-- R322: a position map entry of a column. -/
def mapEntryBytes (col : Column) (valid : Bool) : List Byte :=
  natLe 8 (fieldAt 0 24 col.slot + fieldAt 24 1 (b2n valid) + fieldAt 25 1 (b2n col.pooled)) ++
    natLe 8 (col.score.toNat + 2 ^ 32 * col.mass.toNat)

/-- R322, R341: a position map entry; an evicted column's stands with `valid` cleared, and a hole is zero. -/
def mapEntry (cols cleared : Map Column) (j : Nat) : List Byte :=
  match mapGet cols j, mapGet cleared j with
  | some col, _ => mapEntryBytes col true
  | none, some col => mapEntryBytes col false
  | none, none => List.replicate 16 0

/-- The 65,536 bytes of a control frame. -/
def ctlPage (x : Ctl) (cols cleared : Map Column) : List Byte :=
  maskCtl (ctlPlain x) ++ bytesAt (grammarRecord x) 0 0x1000 ++ (List.range 1024).flatMap (mapEntry cols cleared)

/-- R322: the 65,536 bytes of map page `m`; the entries of columns 0 to 1,023 lie in the control frame. -/
def mapPage (cols cleared : Map Column) (m : Nat) : List Byte :=
  (List.range 4096).flatMap fun i =>
    let j := 4096 * m + i
    if j < 1024 then List.replicate 16 0 else mapEntry cols cleared j

/-- The contents of a control frame. -/
def readCtl (page : List Byte) : Ctl :=
  let rec0 := bytesAt page 0xB000 0x1000
  let n := min (bits (leAt rec0 0 8) 26 16) 1024
  { ctlOfPlain (maskCtl (bytesAt page 0 0xB000)) with
    gstate := leAt rec0 0 2, gdigest := leAt rec0 8 8
    stack := (List.range n).map fun i => leAt rec0 (16 + 2 * i) 2 }

/-- The map entry at a byte offset of a page: slot, pooled, score, mass; none when it is all zero or its `valid` is not the one asked for. -/
def readEntry (valid : Bool) (page : List Byte) (off : Nat) : Option Column :=
  let w0 := leAt page off 8
  let w1 := leAt page (off + 8) 8
  if bit w0 24 = valid && (w0 != 0 || w1 != 0) then
    some { slot := bits w0 23 0, pooled := bit w0 25, score := BitVec.ofNat 32 (bits w1 31 0), mass := BitVec.ofNat 32 (bits w1 63 32) }
  else none

/-- R397: the entries that a control frame and map pages hold, valid or cleared (R341), ascending. -/
def readMap (valid : Bool) (ctl : List Byte) (maps : List (List Byte)) : List (Nat × Column) :=
  ((List.range 1024).filterMap fun j => (readEntry valid ctl (0xC000 + 16 * j)).map fun e => (j, e)) ++
  (maps.zipIdx.flatMap fun (pg, m) => (List.range 4096).filterMap fun i =>
    if m = 0 && i < 1024 then none else (readEntry valid pg (16 * i)).map fun e => (4096 * m + i, e))

/-! ## Prefix codes (R399, R400) -/

/-- R399: how many symbols have a length. -/
def lenCount (lens : List Nat) (n : Nat) : Nat := (lens.filter (· == n)).length

/-- R399: `code` before length `n`. -/
def codeBefore (lens : List Nat) : Nat → Nat
  | 0 => 0
  | 1 => 0
  | n + 1 => (codeBefore lens n + lenCount lens n) * 2

/-- R399: the table is valid: 64 lengths below 16 that give a canonical code. -/
def tableValid (lens : List Nat) : Bool :=
  lens.length == 64 && lens.all (· < 16) &&
  (List.range 15).all fun i => codeBefore lens (i + 1) + lenCount lens (i + 1) ≤ 2 ^ (i + 1)

/-- R399: symbols in the alphabet of a format have a length only there. -/
def tableFits (kvFmt : Nat) (lens : List Nat) : Bool := kvFmt != 6 || (lens.drop 32).all (· == 0)

/-- R399: the code of a symbol. -/
def codeOf (lens : List Nat) (s : Nat) : Nat :=
  let n := nth lens s 0
  codeBefore lens n + ((lens.take s).filter (· == n)).length

/-- Bits of a symbol's code, in stream order. -/
def codeBits (lens : List Nat) (s : Nat) : List Bool :=
  let n := nth lens s 0
  (List.range n).map fun i => bit (codeOf lens s) (n - 1 - i)

/-- R399: the symbol with a code of a length. -/
def symbolOf (lens : List Nat) (n code : Nat) : Option Nat :=
  (List.range 64).find? fun s => nth lens s 0 == n && n != 0 && codeOf lens s == code

/-- Bits of a byte string, bit k being bit k mod 8 of byte k / 8. -/
def bitsOf (bs : List Byte) : List Bool := bs.flatMap fun b => (List.range 8).map fun i => b.getLsbD i

/-- Bytes of bits, zero-padded to a whole byte. -/
def bytesOfBits (l : List Bool) : List Byte :=
  (List.range (cdiv l.length 8)).map fun i =>
    BitVec.ofNat 8 (((List.range 8).foldl fun v k => v + if l.getD (8 * i + k) false then 2 ^ k else 0) 0)

/-- R399, R400: symbols off a bit stream, of which only zero bits may be left: how many are left, the bits and value of the code read so far. -/
def decodeSyms (lens : List Nat) : List Bool → Nat → Nat → Nat → List Nat → Option (List Nat)
  | l, 0, _, _, acc => if l.all (!·) then some acc.reverse else none
  | [], _ + 1, _, _, _ => none
  | b :: l, left + 1, n, code, acc =>
    match symbolOf lens (n + 1) (2 * code + b2n b) with
    | some s => decodeSyms lens l left 0 0 (s :: acc)
    | none => if 15 ≤ n + 1 then none else decodeSyms lens l (left + 1) (n + 1) (2 * code + b2n b) acc

/-- R400: mantissa bits of a format. -/
def mantBits (kvFmt : Nat) : Nat := if kvFmt = 6 then 3 else 2

/-- Symbols of a format's alphabet (R399). -/
def alphabet (kvFmt : Nat) : Nat := if kvFmt = 6 then 32 else 64

/-- R400: a page in the plane kind: sign-exponent stream and mantissa plane. -/
def packPlane (kvFmt : Nat) (lens : List Nat) (page : List Byte) : List Byte × List Byte :=
  let mb := mantBits kvFmt
  (bytesOfBits (page.flatMap fun b => codeBits lens (b.toNat / 2 ^ mb)),
    bytesOfBits (page.flatMap fun b => (List.range mb).map fun i => b.getLsbD i))

/-- R400: the page of a plane record body. -/
def decodePlane (kvFmt : Nat) (lens : List Nat) (seLen : Nat) (body : List Byte) : Option (List Byte) :=
  let mb := mantBits kvFmt
  if body.length ≠ seLen + 8192 * mb then none
  else
    (decodeSyms lens (bitsOf (body.take seLen)) 65536 0 0 []).map fun se =>
      let ms := bitsOf (body.drop seLen)
      se.zipIdx.map fun (x, i) =>
        BitVec.ofNat 8 (x * 2 ^ mb + (List.range mb).foldl (fun v k => v + if ms.getD (i * mb + k) false then 2 ^ k else 0) 0)

/-! ## General mode (R401) -/

/-- A run length that goes on while its bytes are 255. -/
def runLength : List Byte → Nat → Option (Nat × List Byte)
  | [], _ => none
  | b :: bs, n => if b = 255 then runLength bs (n + 255) else some (n + b.toNat, bs)

/-- A length whose first part is a nibble. -/
def nibbleLength (n : Nat) (bs : List Byte) : Option (Nat × List Byte) := if n = 15 then runLength bs 15 else some (n, bs)

/-- R401: `n` bytes copied from `off` back; the output is held last byte first. -/
def copyBack (off : Nat) : Nat → List Byte → List Byte
  | 0, out => out
  | n + 1, out => copyBack off n (nth out (off - 1) 0 :: out)

/-- R401: the output, last byte first, of a general-mode stream that is consumed exactly. -/
def decodeGeneralGo : Nat → List Byte → List Byte → Option (List Byte)
  | 0, _, _ => none
  | _, [], _ => none
  | fuel + 1, t :: bs, out =>
    match nibbleLength (t.toNat / 16) bs with
    | none => none
    | some (lit, bs) =>
      if bs.length < lit || 65536 < out.length + lit then none
      else
        let out := (bs.take lit).reverse ++ out
        let bs := bs.drop lit
        if out.length = 65536 then (if bs.isEmpty then some out else none)
        else match bs with
          | b0 :: b1 :: bs =>
            let off := b0.toNat + 256 * b1.toNat
            if off = 0 || out.length < off then none
            else match nibbleLength (t.toNat % 16) bs with
              | none => none
              | some (n, bs) =>
                let out := copyBack off (n + 4) out
                if 65536 < out.length then none
                else if out.length = 65536 then (if bs.isEmpty then some out else none)
                else decodeGeneralGo fuel bs out
          | _ => none

/-- R401: the page of a general record body. -/
def decodeGeneral (body : List Byte) : Option (List Byte) :=
  (decodeGeneralGo (body.length + 1) body []).map List.reverse

/-! ## Records (R398) -/

/-- A record: header and body. -/
def recordOf (kind seLen : Nat) (body : List Byte) : List Byte := natLe 4 (kind + 256 * seLen) ++ body

/-- R398, R400: the record of a KV page. -/
def packKv (kvFmt : Nat) (lens : List Nat) (page : List Byte) : List Byte :=
  let p := packPlane kvFmt lens page
  if (page.all fun b => nth lens (b.toNat / 2 ^ mantBits kvFmt) 0 != 0) && p.1.length + p.2.length < 65536 then
    recordOf 1 p.1.length (p.1 ++ p.2)
  else recordOf 0 0 page

/-- R398, R402: the record of a control frame or a map page. -/
def packOther (page : List Byte) : List Byte :=
  let g := Config.packGeneral page
  if decodeGeneral g == some page && g.length < 65536 then recordOf 2 0 g else recordOf 0 0 page

/-- R398: the page of a record. -/
def decodeRecord (kvFmt : Nat) (lens : List Nat) (r : List Byte) : Option (List Byte) :=
  if r.length < 4 then none
  else
    let h := leAt r 0 4
    let body := r.drop 4
    match h % 256 with
    | 0 => if body.length = 65536 then some body else none
    | 1 => decodePlane kvFmt lens (h / 256) body
    | 2 => if h / 256 = 0 then decodeGeneral body else none
    | _ => none

/-! ## The code table of a slot (R402) -/

/-- Counts of the sign-exponent values of pages, one added to each symbol of the alphabet. -/
def seCounts (kvFmt : Nat) (pages : List (List Byte)) : List Nat :=
  let n := alphabet kvFmt
  pages.foldl (fun c pg => pg.foldl (fun c b =>
    let s := b.toNat / 2 ^ mantBits kvFmt
    c.set s (nth c s 0 + 1)) c) (List.replicate n 1)

/-- A table with one length for every symbol of the alphabet. -/
def flatCodes (kvFmt : Nat) : List Nat :=
  if kvFmt = 6 then List.replicate 32 5 ++ List.replicate 32 0 else List.replicate 64 6

/-- R402: the code lengths derived for a slot's first sheaf. -/
def deriveCodes (kvFmt : Nat) (pages : List (List Byte)) : List Nat :=
  let t := Config.codeTable (seCounts kvFmt pages)
  if tableValid t && tableFits kvFmt t && (t.take (alphabet kvFmt)).all (· != 0) then t else flatCodes kvFmt

/-! ## Layout (R395, R396) -/

/-- What a sheaf header says. -/
structure SheafHead where
  kvFmt : Nat
  spanned : Bool
  layers : Nat
  columns : Nat
  mapPages : Nat
  digest : Nat
  stamp : Nat
  prefixHandle : Nat
  prefixCols : Nat
  prefixStamp : Nat
  lens : List Nat
  entry : Entry
  deriving DecidableEq, Repr

/-- R396: `pages`. -/
def SheafHead.pages (h : SheafHead) : Nat := 1 + h.mapPages + h.columns * h.layers

/-- R396: `records`. -/
def recordsAt (pages : Nat) : Nat := 512 + 256 * cdiv (8 * pages) 256

/-- R396: the entry copy of a header. -/
def sheafEntry (e : Entry) : Entry :=
  { e with rootFrame := 0, homeDie := false, imagePlace := 0, idleAge := 0, cancelPending := false, markValid := false }

/-- R396: a header's 32 words. -/
def headWords (h : SheafHead) (bytes check : Nat) : List Nat :=
  let lens := h.lens.zipIdx.foldl (fun v (n, s) => v + n * 16 ^ s) 0
  [ 0x4F565348 + fieldAt 32 8 1 + fieldAt 40 4 h.kvFmt + fieldAt 44 1 (b2n h.spanned) + fieldAt 48 8 h.layers,
    fieldAt 0 32 h.columns + fieldAt 32 32 h.mapPages, h.pages, h.digest, h.stamp,
    fieldAt 0 32 h.prefixHandle + fieldAt 32 24 h.prefixCols, h.prefixStamp, bytes, recordsAt h.pages, check ] ++
  (List.range 4).map (fun i => lens / 2 ^ (64 * i) % 2 ^ 64) ++ [0, 0] ++
  ((entryWords {} (sheafEntry h.entry) 0).set 1 0) ++ List.replicate 8 0

/-- Bytes padded with zeros to a multiple of 256. -/
def pad256 (bs : List Byte) : List Byte := bytesAt bs 0 (roundUp bs.length 256)

/-- R395: the bytes of a sheaf of records and the pages they decode to, behind a 16-byte lease word. -/
def sheafBytes (h : SheafHead) (recs pages : List (List Byte)) (lease : Nat) : List Byte :=
  let dir := (recs.zip pages).flatMap fun (r, p) => natLe 4 r.length ++ natLe 4 (crc32c p).toNat
  let body := pad256 dir ++ pad256 recs.flatten
  let check := 512 + body.length
  let bytes := check + roundUp (4 * ((check - 256) / 256)) 256
  let covered := wordsBytes (headWords h bytes check) ++ body
  bytesAt (natLe 16 lease) 0 256 ++ covered ++ pad256 (checkArray covered)

/-- A sheaf as read: its header, control frame, and valid columns with their pages. -/
structure SheafRead where
  head : SheafHead
  ctlBytes : List Byte
  /-- R341: entries with `valid` cleared. -/
  cleared : Map Column := []
  cols : List (Nat × Column × List (List Byte))
  deriving DecidableEq, Repr

/-- R396: the header at offset 256. -/
def readHead (bs : List Byte) : SheafHead :=
  let w := fun i => leAt bs (256 + 8 * i) 8
  { kvFmt := bits (w 0) 43 40, spanned := bit (w 0) 44, layers := bits (w 0) 55 48
    columns := bits (w 1) 31 0, mapPages := bits (w 1) 63 32, digest := w 3, stamp := w 4
    prefixHandle := bits (w 5) 31 0, prefixCols := bits (w 5) 55 32, prefixStamp := w 6
    lens := (List.range 64).map fun s => leAt bs (256 + 80 + s / 2) 1 / 16 ^ (s % 2) % 16
    entry := entryOfWords ((List.range 8).map fun i => w (16 + i)) }

/-- R395, R396: the header of a sheaf is malformed. -/
def headShape (bs : List Byte) : Bool :=
  let w := fun i => leAt bs (256 + 8 * i) 8
  let h := readHead bs
  let check := w 9
  bits (w 0) 31 0 != 0x4F565348 || bits (w 0) 39 32 != 1 || bits (w 0) 47 45 != 0 || bits (w 0) 63 56 != 0 ||
  (h.kvFmt != 6 && h.kvFmt != 7) || bits (w 5) 63 56 != 0 || w 14 != 0 || w 15 != 0 ||
  (List.range 8).any (fun i => w (24 + i) != 0) ||
  w 2 != h.pages || w 8 != recordsAt h.pages || w 7 != bs.length || check % 256 != 0 || check < w 8 ||
  w 7 != check + roundUp (4 * ((check - 256) / 256)) 256 || !tableValid h.lens || !tableFits h.kvFmt h.lens

/-- R392 REVIVE check 4: the header of a session's sheaf is bad. -/
def headBad (bs : List Byte) : Bool :=
  headShape bs || ((readHead bs).entry.state != .idle && (readHead bs).entry.state != .waiting)

/-- R392 REVIVE check 4: the check array matches blocks 1 on. -/
def sheafChecked (bs : List Byte) : Bool :=
  let check := leAt bs (256 + 72) 8
  checkArray (bytesAt bs 256 (check - 256)) == bytesAt bs check (4 * ((check - 256) / 256))

/-- R398: the pages of a sheaf, from page `i` and record offset `off` on. -/
def readPages (bs : List Byte) (h : SheafHead) (check : Nat) : Nat → Nat → Nat → Option (List (List Byte))
  | 0, _, _ => some []
  | n + 1, i, off =>
    let len := leAt bs (512 + 8 * i) 4
    if check < off + len then none
    else match decodeRecord h.kvFmt h.lens (bytesAt bs off len) with
      | none => none
      | some p =>
        if (crc32c p).toNat ≠ leAt bs (512 + 8 * i + 4) 4 then none
        else (readPages bs h check n (i + 1) (off + len)).map fun ps => p :: ps

/-- R397: a sheaf read in full; none when check 4 of REVIVE fails. -/
def readSheaf (bs : List Byte) : Option SheafRead :=
  if headBad bs || !sheafChecked bs then none
  else
    let h := readHead bs
    match readPages bs h (leAt bs (256 + 72) 8) h.pages 0 (recordsAt h.pages) with
    | none => none
    | some ps =>
      let ctl := nth ps 0 []
      let maps := (ps.drop 1).take h.mapPages
      let cols := readMap true ctl maps
      let kv := ps.drop (1 + h.mapPages)
      if cols.length ≠ h.columns then none
      else some
        { head := h, ctlBytes := ctl, cleared := readMap false ctl maps
          cols := cols.zipIdx.map fun ((j, col), i) => (j, col, (kv.drop (i * h.layers)).take h.layers) }

end Sys2Proof.Machine
end

