-- ==== Sys2Proof/Machine/Forward.lean ====
section
/-! DEFINITION. The forward pass of one token at one position (08_numerics_models R241 to R256, 10_steps phases 2 to 4, 11_attention R328 to R336), as a function of a model image and of the key-value bytes of earlier positions. -/

namespace Sys2Proof.Machine

/-- A matrix applied to an FP32 vector: activations quantized to the image's format, one accumulation for each row (R241 to R244). -/
def matVec (m : List Byte) (s : Section) (x : List W32) : List W32 :=
  let a := quantize (miAFmt m) s.aScale x
  (List.range s.rows).map fun r => dotScaled s.format s.wScale s.aScale (rowOperand m s r) a

/-- A row of a section as FP32. The tensor scale of an FP8 section, which R242 applies to a product, is not applied to a row read as such (DESIGN CHOICE, log 140). -/
def rowF32 (m : List Byte) (s : Section) (r : Nat) : List W32 := (List.range s.cols).map (elemF32 m s r)

/-- An FP32 value rounded to BF16 and back (R252). -/
def toBF16 (x : W32) : W32 := convertFrom fmtBF16 (convertTo fmtBF16 x)

/-- The embedding of a token, held in BF16. -/
def embed (m : List Byte) (tok : Nat) : List W32 := (rowF32 m (findSection m 1 0xFF 0x1FF) tok).map toBF16

/-- R251: rotates the heads of a projection at position `p`. -/
def ropeHeads (m : List Byte) (p : Nat) (x : List W32) : List (List W32) :=
  let d := miHeadDim m
  let Fs := (List.range (d / 2)).map (ropeF m)
  (groupsOf d x).map (rope (miRopeStyle m) p Fs)

/-- R250: elements stored in the KV format after division by their scale. -/
def kvStore (m : List Byte) (scale : W32) (x : List W32) : List Byte :=
  x.map fun v => BitVec.ofNat 8 (convertTo (fmtOfCode (miKvFmt m)) (fdiv v scale))

/-- R320: the bytes of one position in one layer. -/
def kvRow (m : List Byte) (l p : Nat) (h : List W32) : List Byte :=
  let ks := ropeHeads m p (matVec m (findSection m 5 l 0x1FF) h)
  let vs := groupsOf (miHeadDim m) (matVec m (findSection m 6 l 0x1FF) h)
  (ks.zipIdx.flatMap fun k => kvStore m (kvConst m l k.2 0) k.1) ++
  (vs.zipIdx.flatMap fun v => kvStore m (kvConst m l v.2 1) v.1)

/-- R320: key (`j` 0) or value (`j` 1) elements of a KV head in a position's bytes. -/
def kvHead (m : List Byte) (bs : List Byte) (head j : Nat) : List FVal :=
  let d := miHeadDim m
  (bytesAt bs ((j * miKvHeads m + head) * d) d).map fun b => decodeF (fmtOfCode (miKvFmt m)) b.toNat

/-- The bytes of a position of a layer. -/
abbrev KvOf := Nat → Nat → List Byte

/-- R329: admitted positions of a column at row position `p`. -/
def admitted (P p j : Nat) : List Nat := (rangeFrom0 (j * P) P).filter (· ≤ p)
where
  /-- `n` numbers from `a`. -/
  rangeFrom0 (a n : Nat) : List Nat := (List.range n).map (a + ·)

/-- R250: the scaled score of a query head against a position. -/
def attnScore (m : List Byte) (l kvh : Nat) (q : List W32) (bs : List Byte) : W32 :=
  fmul (dotV (q.map f32) (kvHead m bs kvh 0)) (kvConst m l kvh 2)

/-- R250, R332: the partial of a head over the columns of a block. -/
def blockPartial (m : List Byte) (kv : KvOf) (l p kvh : Nat) (q : List W32) (cols : List Nat) : Partial :=
  (cols.flatMap (admitted (pageP m) p)).foldl (fun t i =>
    let bs := kv l i
    partialStep t (attnScore m l kvh q bs) ((kvHead m bs kvh 1).map toF32)) (emptyPartial (miHeadDim m))

/-- R336: the scores of a query head against the admitted positions of a column. -/
def columnScores (m : List Byte) (kv : KvOf) (l p kvh : Nat) (q : List W32) (j : Nat) : List W32 :=
  (admitted (pageP m) p j).map fun i => attnScore m l kvh q (kv l i)

/-- What one layer's attention gives: the outputs of the query heads in order, and each valid column's mass in the layer (R336). -/
structure AttnOut where
  a : List W32
  fm : List (Nat × W32)
  deriving DecidableEq, Repr

/-- R334 to R336: attention of one row in one layer over the valid columns given. -/
def attend (m : List Byte) (kv : KvOf) (l p : Nat) (qs : List (List W32)) (cols : List Nat) : AttnOut :=
  let P := pageP m
  let g := miQHeads m / miKvHeads m
  let B := p / P / 8 + 1
  let blocks := (List.range B).map fun n => cols.filter fun j => j / 8 == n
  let parts := qs.zipIdx.map fun q => blocks.map fun b => blockPartial m kv l p (q.2 / g) q.1 b
  let roots := parts.map (headResult (miHeadDim m))
  let a := roots.zipIdx.flatMap fun r =>
    r.1.o.map fun o => fmul (fdiv o r.1.l) (kvConst m l (r.2 / g) 1)
  let H := fOfNat qs.length
  let fm := blocks.zipIdx.flatMap fun b =>
    let ps := parts.map fun t => nth t b.2 (emptyPartial 0)
    if (ps.all fun t => t.counted == 0) then []
    else
      let den := freduce (ps.map (·.l))
      let x := (ps.zip roots).map fun t => fdiv (fmul t.1.l (fexp (fsub t.1.m t.2.m))) t.2.l
      let w := fdiv (freduce x) H
      b.1.map fun j =>
        let scores := qs.zipIdx.map fun q => columnScores m kv l p (q.2 / g) q.1 j
        (j, fmul w (fdiv (blockMass scores (ps.map (·.m))) den))
  ⟨a, fm⟩

/-- R252: a gated feed-forward. -/
def gated (m : List Byte) (l e : Nat) (h : List W32) : List W32 :=
  let g := matVec m (findSection m 8 l e) h
  let u := matVec m (findSection m 9 l e) h
  matVec m (findSection m 10 l e) (g.zipWith (fun a b => fmul (silu a) b) u)

/-- R253 to R255: the feed-forward of a layer; none when a router logit is NaN or infinite (R253, R476). -/
def feedForward (m : List Byte) (l : Nat) (h : List W32) : Option (List W32) :=
  if miExperts m = 0 then some (gated m l 0x1FF h)
  else
    let z := matVec m (findSection m 11 l 0x1FF) h
    if z.any notFinite then none
    else
      let sel := topK (miTopK m) z
      let w := routeWeights (miRouteMode m) z sel
      let y0 : List W32 := List.replicate (miHidden m) 0
      let y := (List.range (miShared m)).foldl (fun y e => y.zipWith fadd (gated m l (256 + e) h)) y0
      some ((sel.zip w).foldl (fun y ew => (gated m l ew.1 h).zipWith (fun v o => fma ew.2 v o) y) y)

/-- A token on its way through the layers: the hidden state, its own key-value bytes, the masses and the query heads by layer. -/
structure Pass where
  x : List W32
  kv : List (List Byte) := []
  fm : List (List (Nat × W32)) := []
  bad : Bool := false
  qs : List (List (List W32)) := []
  deriving DecidableEq, Repr

/-- Phase 3 of a step: one layer for one token. -/
def layerPass (m : List Byte) (kv : KvOf) (p : Nat) (cols : List Nat) (s : Pass) (l : Nat) : Pass :=
  if s.bad then s
  else
    let norms := findSection m 3 l 0x1FF
    let h := rmsNorm (miEpsilon m) s.x (rowF32 m norms 0)
    let own := kvRow m l p h
    let qs := (ropeHeads m p (matVec m (findSection m 4 l 0x1FF) h)).map fun q => q.map toBF16
    let o := attend m (fun l i => if i = p then own else kv l i) l p qs cols
    let x := residual s.x (matVec m (findSection m 7 l 0x1FF) o.a)
    let h := rmsNorm (miEpsilon m) x (rowF32 m norms 1)
    match feedForward m l h with
    | none => { s with bad := true }
    | some y => ⟨residual x y, s.kv ++ [own], s.fm ++ [o.fm], false, s.qs ++ [qs]⟩

/-- One token at position `p` through every layer; `cols` are the valid columns, that of `p` among them. -/
def forwardToken (m : List Byte) (kv : KvOf) (tok p : Nat) (cols : List Nat) : Pass :=
  (List.range (miLayers m)).foldl (layerPass m kv p cols) ⟨embed m tok, [], [], false, []⟩

/-- Phase 4: the logits of a hidden state. -/
def logitsOf (m : List Byte) (x : List W32) : List W32 :=
  matVec m (findSection m 2 0xFF 0x1FF) (rmsNorm (miEpsilon m) x (rowF32 m (findSection m 3 0xFF 0x1FF) 0))

/-- R336: the mass of a column from the layers' values; a missing value is +0. -/
def columnMass (fm : List (List (Nat × W32))) (j : Nat) : W32 :=
  fdiv (freduce (fm.map fun l => ((l.find? fun x => x.1 == j).map (·.2)).getD 0)) (fOfNat fm.length)

end Sys2Proof.Machine
end

