-- ==== Sys2Proof/Machine/Turns.lean ====
section
/-! DEFINITION. Turns (01_sessions R17 to R45, 10_steps R294 to R298, 11_attention R338 to R343): TURN_RUN, TURN_CANCEL, the gleaner, the turn mark, and the end of a turn. -/

namespace Sys2Proof.Machine

/-! ## Stream records (R136, R137) -/

/-- The stream ring of a turn: its submission ring's, or that of HNG_TAKE_CFG for a turn taken over (R509). -/
def streamOf (c : Core) (t : Turn) : Option Nat :=
  if t.replayed then some (regField c 0x700020 21 12) else (mapGet c.rings.subs t.desc.ring).bind (·.stream)

/-- R136: a stream record over `tokens` steps with its output bytes. -/
def streamRec (sid ring : Nat) (e : Entry) (t : Turn) (tokens stepNo byteEnd : Nat) (last : Bool) : Rec :=
  { kind := 2, ring := ring
    words := [ fieldAt 0 24 sid + fieldAt 24 32 e.turn + fieldAt 56 8 tokens,
      fieldAt 0 24 stepNo + fieldAt 24 32 byteEnd + fieldAt 56 1 (b2n last) + fieldAt 57 1 (b2n t.replayed) ]
    payload := (t.stream.take byteEnd).drop t.byteEnd
    addr := t.outBuf + t.byteEnd }

/-- The stream ring of a turn, while records can be queued for it. -/
def streamOpen (c : Core) (t : Turn) : Option Nat :=
  (streamOf c t).bind fun ring => (mapGet c.rings.streams ring).bind fun r => if takesRecords r then some ring else none

/-- Queues a stream record of a turn; on a ring that is gone or errored there is none. -/
def pushStream (c : Core) (sid : Nat) (e : Entry) (t : Turn) (tokens stepNo byteEnd : Nat) (last : Bool) : Core :=
  match streamOpen c t with
  | none => c
  | some ring => giveRec c none (streamRec sid ring e t tokens stepNo byteEnd last)

/-- R136: `step` of a record after `n` committed steps of the turn. -/
def lastStep (n : Nat) : Nat := if n = 0 then 0xFFFFFF else n - 1

/-- R137, R285, R296: the final record of a turn that ends without a commit: every held byte within the buffer is released. Bytes that a barred stream keeps back have no record (R599). -/
def finalRecord (c : Core) (sid : Nat) (e : Entry) (t : Turn) : Core × Turn :=
  let be := max t.byteEnd (min t.outLen t.stream.length)
  if t.byteEnd < be && barredAt c 0 (t.outBuf + t.byteEnd) then (c, t)
  else (pushStream c sid e t t.uncovered (lastStep e.step) be true,
    { t with byteEnd := be, uncovered := 0, lastRecord := if (streamOpen c t).isSome then some be else t.lastRecord })

/-! ## The end of a turn -/

/-- R511: the rings of HNG_TAKE_CFG work. -/
def takeRingsWork (c : Core) : Bool :=
  let ok := fun (r : Option RecRing) => (r.map takesRecords).getD false
  ok (mapGet c.rings.cqs (regField c 0x700020 11 0)) && ok (mapGet c.rings.streams (regField c 0x700020 21 12))

/-- R142: a TWIN event record. The link leaves the package from die 1. -/
def twinEvent (c : Core) (kind arg1 : Nat) : Core := issueEvent c 9 true 0 0 kind arg1

/-- R511: sessions held: taken-over turns and kept completions. -/
def heldCount (c : Core) : Nat :=
  (c.sess.warm.filter fun p => (p.2.turn.map (·.replayed)).getD false).length + c.twin.kept.length

/-- R511: a hold begins while the rings of HNG_TAKE_CFG do not work and something needs them. -/
def ringHold (c : Core) : Core :=
  if c.twin.ringHold || takeRingsWork c || heldCount c = 0 then c
  else twinEvent ({ c with twin := { c.twin with ringHold := true } }) 7 (heldCount c)

/-- R509, R511: the completion of a turn taken over goes to the ring of HNG_TAKE_CFG, or is kept while the rings named there do not work. The saved fields (R501) hold neither the descriptor's generation nor its irq: the record has generation 0 and no irq (DESIGN CHOICE, log 133). -/
def replayCompletion (c : Core) (sid : Nat) (f : Fin0) : Core :=
  if !takeRingsWork c || c.twin.ringHold then { c with twin := { c.twin with kept := mapSet c.twin.kept sid f } }
  else
    let d : Desc := ⟨f.sq, 0, [BitVec.ofNat 64 (f.opcode + 65536 * sid), f.tag]⟩
    giveRec c none ⟨1, regField c 0x700020 11 0, completionWords d f.status f.count0 f.count1 true, false, [], 0⟩

/-- R509: the completion of a turn that was taken over; one that would carry ST_OK carries ST_REPLAYED. -/
def replayedFin (d : Desc) (st : Status) (c0 c1 : Nat) : Fin0 := finOf d (if st = .ok then .replayed else st) c0 c1

/-- R297, R509, R511: TURN_RUN completes; of a turn that was taken over, into the ring of HNG_TAKE_CFG, and a hold begins where that cannot take it. -/
def tellTurn (c : Core) (sid : Nat) (d : Desc) (replayed : Bool) (st : Status) (c0 c1 : Nat) : Core :=
  if replayed then
    let c := replayCompletion c sid (replayedFin d st c0 c1)
    ringHold { c with sess := { c.sess with inProg := mapDel c.sess.inProg sid } }
  else complete c d st c0 c1

/-- R297, R312, R501: a turn has ended: its TURN_END record, and with it the completion of TURN_RUN. -/
def completeTurn (c : Core) (sid : Nat) (t : Turn) (st : Status) (steps reason : Nat) (cancelled : Bool) : Core :=
  let be := t.lastRecord.getD 0
  let fin := if t.replayed then replayedFin t.desc st steps be else finOf t.desc st steps be
  mirrorThen c sid (.turnEnd (entryOf c sid) reason cancelled fin) (some (t.desc, st, steps, be)) t.replayed
    (tellTurn · sid t.desc t.replayed st steps be)

/-- The turn of a session was taken over (R509). -/
def turnReplayed (c : Core) (sid : Nat) : Bool :=
  (((mapGet c.sess.warm sid).bind (·.turn)).map (·.replayed)).getD false

/-- R338: a column's score at the end of a turn. -/
def decayScore (k : Nat) (col : Column) : Column :=
  { col with score := fadd (fsub col.score (fmul col.score (ldexp fOne (-(k : Int))))) col.mass }

/-- The entry after a turn: no mark, no cancel pending. -/
def endEntry (e : Entry) (st : SState) (reason : Nat) : Entry :=
  { e with state := st, endReason := reason, cancelPending := false, markValid := false }

/-- R39, R338: a turn ends and is not cancelled. -/
def endTurn (c : Core) (sid reason : Nat) (st : Status) (w : Warm) (t : Turn) : Core :=
  let e := entryOf c sid
  let w := if 0 < e.step then { w with columns := w.columns.map fun p => (p.1, decayScore t.decay p.2) } else w
  let x := giveRoom (dropMark ⟨c, { w with turn := none }⟩)
  let c := storeRange x sid
  let c := modEntry c sid fun e => endEntry e (if reason = 5 || reason = 6 then .waiting else .idle) reason
  let c := unplan (leaveDecode c e.homeDie e.account sid) e.homeDie sid
  completeTurn c sid t st e.step reason false

/-- R40: the columns and tables of the mark. -/
def rollRange (w : Warm) (m : Mark) (P : Nat) (c : Core) : Range :=
  let opened := w.columns.filter fun p => m.nextPosition ≤ p.1 * P
  let c := dropLeaves c (opened.flatMap fun p => p.2.leaves)
  let cols := w.columns.filter fun p => p.1 * P < m.nextPosition
  let gone := w.mapPages.filter fun p => !m.mapPages.contains p.1
  let c := dropLeaves c (gone.map (·.2))
  let c := (w.tables.drop m.tables).foldl dropRef c
  -- the open column's current leaves go and the mark's come back
  match m.openColumn with
  | none =>
    ⟨c, { w with columns := cols, mapPages := w.mapPages.filter fun p => m.mapPages.contains p.1
                 tables := w.tables.take m.tables, leafTabs := m.leafTabs, mark := none }⟩
  | some (j, ls) =>
    let c := dropLeaves c (((mapGet cols j).map (·.leaves)).getD [])
    ⟨c, { w with columns := mapMod cols j fun col => { col with leaves := ls }
                 mapPages := w.mapPages.filter fun p => m.mapPages.contains p.1
                 tables := w.tables.take m.tables, leafTabs := m.leafTabs, mark := none }⟩

/-- R24, R29, R40: a turn with a cancel pending ends: the session is rolled back to its mark. -/
def cancelTurn (c : Core) (sid : Nat) (w : Warm) (t : Turn) : Core :=
  let e := entryOf c sid
  let back := match w.mark with
    | some m =>
      let x := rollRange w m (pageP (sessImg c sid)) c
      ((m.nextPosition, m.resident), (⟨x.core, { x.warm with ctl := m.ctl, turn := none }⟩ : Range))
    | none => ((e.nextPosition, e.resident), (⟨c, { w with turn := none }⟩ : Range))
  let c := storeRange (giveRoom back.2) sid
  let c := modEntry c sid fun e =>
    { endEntry e (if e.startWaiting then .waiting else .idle) 7 with
      nextPosition := back.1.1, resident := back.1.2, step := 0 }
  let c := unplan (leaveDecode c e.homeDie e.account sid) e.homeDie sid
  completeTurn c sid t .cancelled e.step 7 true

/-- R22, R24, R302, R317: a turn ends without a commit, for a stall or a failed step. -/
def stopTurn (c : Core) (sid reason : Nat) (st : Status) : Core :=
  match mapGet c.sess.warm sid with
  | none => c
  | some w => match w.turn with
    | none => c
    | some t =>
      let e := entryOf c sid
      if e.cancelPending then cancelTurn c sid w t
      else
        let r := finalRecord c sid e t
        endTurn r.1 sid reason st w r.2

/-! ## The gleaner (R339 to R342) -/

/-- f of R42: positions in the open column. -/
def openCount (w : Warm) (P next : Nat) : Nat := if mapHas w.columns (next / P) then next % P else 0

/-- R339: new columns of a turn. -/
def turnColumns (w : Warm) (P next m : Nat) : Nat :=
  let f := openCount w P next
  cdiv (f + m) P - b2n (0 < f)

/-- The slots that `n` more columns take, lowest first, with the columns they would open. -/
def planSlots : Nat → Nat → Map Column → List Nat
  | 0, _, _ => []
  | n + 1, j, cols =>
    let s := lowestSlot cols
    s :: planSlots n (j + 1) (mapSet cols j { slot := s })

/-- R43, R45: frames on the home die, beside pages, that `n` new columns from column `j` on need for tables and map pages. -/
def mapNeed (w : Warm) (L n j : Nat) : Nat :=
  let slots := planSlots n j w.columns
  let maps := ((List.range n).filterMap fun i => mapPageOf (j + i)).eraseDups.filter fun m => !mapHas w.mapPages m
  let pages := slots.flatMap (fun s => (List.range L).map (kvPageNo L s)) ++ maps.map mapPageNo
  (tableFrames (withPages w.leafTabs pages) - w.tables.length) + maps.length

/-- R43, R75: the reservation of a turn on a die. -/
def turnNeed (img : List Byte) (w : Warm) (home die : Bool) (next m : Nat) : Nat :=
  let P := pageP img
  layersOn img home die * cdiv (openCount w P next + m) P +
  (if die = home then mapNeed w (miLayers img) (turnColumns w P next m) (cdiv next P) else 0)

/-- R339: slots short. -/
def slotsShort (img : List Byte) (w : Warm) (next m : Nat) : Bool :=
  slotLimit (miLayers img) < (usedSlots w.columns).length + turnColumns w (pageP img) next m

/-- R339: frames or slots short. -/
def turnShort (img : List Byte) (home : Bool) (next m : Nat) (x : Range) : Bool :=
  [false, true].any (fun die => freeFor x.core die < turnNeed img x.warm home die next m) || slotsShort img x.warm next m

/-- R340: a candidate column. -/
def candidate (c : Core) (w : Warm) (P next j : Nat) (col : Column) : Bool :=
  let sink := regField c 0x500140 31 16
  let recent := regField c 0x500140 55 32
  !col.pooled && sink ≤ j * P && (j + 1) * P ≤ next - recent &&
  !(0 < openCount w P next && j == next / P) &&
  col.leaves.all fun l => !l.shared && frameCount c l.frame == 1

/-- R341: ascending score, ties to the lower column. -/
def worst (cols : List (Nat × Column)) : Option (Nat × Column) := bestBy (fun a b => flt a.2.score b.2.score) cols

/-- R341: a frame of the column is MIGRATING, so that its eviction waits until it has moved. -/
def migratingCol (c : Core) (col : Column) : Bool :=
  col.leaves.any fun l => ((mapGet c.mem.frames l.frame).map (·.migrating)).getD false

/-- R339, R341: evicts until nothing is short or no candidate is left; how many columns went, and whether the next one waits for a migration. -/
def glean (img : List Byte) (home : Bool) (next m : Nat) : Nat → Range → Range × Nat × Bool
  | 0, x => (x, 0, false)
  | n + 1, x =>
    if turnShort img home next m x then
      match worst (x.warm.columns.filter fun p => candidate x.core x.warm (pageP img) next p.1 p.2) with
      | none => (x, 0, false)
      | some (j, col) =>
        if migratingCol x.core col then (x, 0, true)
        else
          let r := glean img home next m n (evictColumn x j)
          (r.1, r.2.1 + 1, r.2.2)
    else (x, 0, false)

/-! ## TURN_RUN (R294, R295) -/

/-- FP32 word of a descriptor field. -/
def f32Of (n : Nat) : W32 := BitVec.ofNat 32 n

/-- R294: the turn that a TURN_RUN asks for, before its stop list is read. -/
def turnOf (d : Desc) : Turn :=
  { desc := d, maxTokens := d.field 3 23 0 0, outBuf := d.field 2 63 0 0, outLen := d.field 3 63 32 0, stops := []
    temperature := f32Of (d.field 5 31 0 0), topP := f32Of (d.field 5 63 32 0x3F800000)
    repPenalty := f32Of (d.field 6 31 0 0x3F800000), topK := d.field 6 42 32 1 }

/-- R295 check 1. -/
def turnFieldsBad (d : Desc) : Bool :=
  let t := turnOf d
  t.maxTokens == 0 || t.outLen == 0 || t.outBuf == 0 || notFinite t.temperature || flt t.temperature 0 ||
  notFinite t.topP || !flt 0 t.topP || !fle t.topP fOne || notFinite t.repPenalty || !flt 0 t.repPenalty ||
  t.topK == 0 || 1024 < t.topK || d.field 4 63 0 0 % 64 != 0 || d.field 7 13 12 0 == 3

/-- R14: a session that takes an APPEND or a TURN_RUN. -/
def checkIdle (e : Entry) : M Unit := do
  check (e.state == .lost) .lost
  check (e.state != .idle && e.state != .waiting) .wrongState

/-- R38, R159: the leaf entries of the open column, as the mark holds them and as the session keeps them: one more reference on each frame and COW set. Where the count is full, the entry's reference passes to the mark and the session takes a copy from the headroom. -/
def markLeaves : List Leaf → Range → Except Block (List (Leaf × Leaf) × Range)
  | [], x => .ok ([], x)
  | l :: ls, x =>
    let one : Except Block ((Leaf × Leaf) × Range) :=
      if frameCount x.core l.frame < 65535 then
        .ok (({ l with cow := true, hold := false }, { l with cow := true }), ⟨addRef x.core l.frame, x.warm⟩)
      else match takeCopy true l.frame x with
        | .error b => .error b
        | .ok (f, y) => .ok (({ l with cow := true, hold := false }, { frame := f, hold := l.hold, kv := l.kv }), y)
    match one with
    | .error b => .error b
    | .ok (k, x) => match markLeaves ls x with
      | .error b => .error b
      | .ok (ks, x) => .ok (k :: ks, x)

/-- R159, R471: the first page of the open column that a turn mark would copy and that fails its check. -/
def markFails (c : Core) (e : Entry) (P : Nat) (w : Warm) : Option Nat :=
  if openCount w P e.nextPosition = 0 then none
  else ((((mapGet w.columns (e.nextPosition / P)).map (·.leaves)).getD []).map (·.frame)).find? fun f =>
    65535 ≤ frameCount c f && frameBad c f

/-- R38: takes the turn mark. -/
def takeMark (e : Entry) (P : Nat) (x : Range) : Range :=
  let w := x.warm
  let j := e.nextPosition / P
  let f := openCount w P e.nextPosition
  let base : Mark :=
    { nextPosition := e.nextPosition, resident := e.resident, ctl := w.ctl, startWaiting := e.startWaiting
      openColumn := none, privateFrames := e.privateFrames, tables := w.tables.length, leafTabs := w.leafTabs
      mapPages := w.mapPages.map (·.1) }
  match (if 0 < f then mapGet w.columns j else none) with
  | none => ⟨x.core, { w with mark := some base }⟩
  | some col => match markLeaves col.leaves x with
    | .error _ => ⟨x.core, { w with mark := some base }⟩
    | .ok (ls, y) =>
      let cols := mapMod y.warm.columns j fun col => { col with leaves := ls.map (·.2) }
      ⟨y.core, { y.warm with columns := cols, mark := some { base with openColumn := some (j, ls.map (·.1)) } }⟩

/-- R386 check 9. -/
def checkGrammarOp (d : Desc) (slot : Nat) : M Unit := do
  if d.field 7 13 12 0 = 1 then
    match mapGet (← getC).obj.grammars (d.field 7 11 0 0) with
    | none => refuse .unknownHandle
    | some g => check (grammarVocab g.image != modelVocab (imgOf (← getC) slot)) .invalidField

/-- R508: a grammar bound on the dead twin that this device does not hold under its digest. -/
def grammarMissing (c : Core) (e : Entry) (x : Ctl) : Bool :=
  e.grammarBound && ((mapGet c.obj.grammars e.grammarId).map fun g => grDigest g.image) != some x.gdigest

/-- R386: the entry and control frame after a grammar operation. -/
def applyGrammarOp (c : Core) (d : Desc) (e : Entry) (x : Ctl) : Entry × Ctl :=
  match d.field 7 13 12 0 with
  | 1 => match mapGet c.obj.grammars (d.field 7 11 0 0) with
    | some g => (bindEntry e (d.field 7 11 0 0), bindCtl x g.image)
    | none => (e, x)
  | 2 => (unbindEntry e, unbindCtl x)
  | _ => (e, x)

/-- R44, R339, R342: eviction and reservation of a turn start. -/
def reserveTurn (d : Desc) (t : Turn) : M (List Nat) := do
  let c ← getC
  let sid := d.session
  let e := entryOf c sid
  let img := sessImg c sid
  match mapGet c.sess.warm sid with
  | none => refuse .wrongState
  | some w =>
    let next := e.nextPosition
    let r := if regField c 0x500140 0 0 = 1 then glean img e.homeDie next t.maxTokens w.columns.length ⟨c, w⟩ else (⟨c, w⟩, 0, false)
    if r.2.2 then waitInside
    let gone := (w.columns.filter fun p => !mapHas r.1.warm.columns p.1).map (·.1)
    let c := storeRange r.1 sid
    let c := modEntry c sid fun e => { e with resident := e.resident - r.2.1 * pageP img }
    let c := if r.2.1 = 0 then c else regCount (regCount c 0x500148 31 0 r.2.1) 0x500148 63 32 1
    putC c
    check (turnShort img e.homeDie next t.maxTokens ⟨c, r.1.warm⟩) .noSpace
    let n := fun die => turnNeed img r.1.warm e.homeDie die next t.maxTokens
    let w := { r.1.warm with room0 := n false, room1 := n true }
    putC (storeRange ⟨reserveFree (reserveFree c false (n false)) true (n true), w⟩ sid)
    return gone

/-- R295, R386, R387, and the order of a turn start. -/
def turnRunBody (d : Desc) : M Done := do
  leaseFirst
  let sid := d.session
  check (turnFieldsBad d) .invalidField
  let c ← getC
  let t := { turnOf d with decay := regField c 0x500140 12 8 }
  check (streamOf c t).isNone .invalidField
  let e := entryOf c sid
  checkIdle e
  match mapGet c.sess.warm sid with
  | none => refuse .wrongState
  | some w =>
    check w.ctl.pendingTok.isNone .wrongState
    check (e.turn == 0xFFFFFFFF) .noSpace
    check (blocked c e.account) .budget
    let addr := d.field 4 63 0 0
    let stops ← if addr = 0 then pure [] else do
      let bs ← readBus 0 addr 576
      match stopList bs with
      | some l => pure l
      | none => refuse .invalidField
    checkGrammarOp d e.modelSlot
    check (d.field 7 13 12 0 == 0 && grammarMissing c e w.ctl) .unknownHandle
    if let some f := markFails c e (pageP (sessImg c sid)) w then failFrame f .dataError
    let gone ← reserveTurn d t
    let c ← getC
    let w := (mapGet c.sess.warm sid).getD w
    let (e', ctl) := applyGrammarOp c d (entryOf c sid) w.ctl
    let ctl := { ctl with seen := [] }
    let e' : Entry := { e' with turn := e.turn + 1, step := 0, startWaiting := e.state == .waiting }
    let x := takeMark e' (pageP (sessImg c sid)) ⟨c, { w with ctl := ctl, turn := some { t with stops := stops } }⟩
    let c := setEntry x.core sid { e' with state := .queued, markValid := true, markPosition := e'.nextPosition }
    let c := storeRange ⟨c, x.warm⟩ sid
    putC (waking c e.homeDie fun c => joinDecode c e.homeDie e.account sid)
    mirrorM sid (.turnStart (entryOf (← getC) sid) { t with stops := stops } gone ctl)
    return .running

/-- R295. -/
def execTurnRun (d : Desc) (env : Env) (s : State) : Host.Outcome State Fault Refusal :=
  .next (acceptSession s d env (turnRunBody d))

/-! ## TURN_CANCEL (R17, R18) -/

/-- R9, R14, R17, R139, R501: TURN_CANCEL acts as soon as it is accepted; no further stream record of the turn is written. -/
def turnCancel (c : Core) (d : Desc) : Core :=
  let e := entryOf c d.session
  if e.state != .free && e.account != d.account then finishDesc c d .invalidField 0 0
  else match e.state with
    | .queued | .running =>
      let c := wakingBoth c fun c => queueFreed (discardTurn (haspSession c d.session) d.session e.turn)
      let c := if e.cancelPending then c else modEntry c d.session fun e => { e with cancelPending := true }
      mirrorThen c d.session .cancel (some (d, .ok, 0, 0)) false (complete · d .ok 0 0)
    | .lost => finishDesc c d .lost 0 0
    | _ => finishDesc c d .wrongState 0 0

/-- R312, R502: records that waited for mirror space enter as room comes, in order, and what waits with each is told. -/
def releaseLate (c : Core) : Core :=
  c.twin.late.foldl (fun c x =>
    if mirrorRoom c x.out then
      let c := if mirrored c x.out.session then enterRest c x.out else c
      match x.fin with
      | some (d, st, c0, c1) => tellTurn c x.out.session d x.replayed st c0 c1
      | none => c
    else
      let c := enterPiece c x.out
      { c with twin := { c.twin with late := c.twin.late ++ [x] } }) { c with twin := { c.twin with late := [] } }

/-- R17. -/
def execTurnCancel (d : Desc) (s : State) : Host.Outcome State Fault Refusal :=
  onCore s fun c => if serving c then turnCancel c d else c

end Sys2Proof.Machine
end

