-- ==== Sys2Proof/Machine/Prefix.lean ====
section
/-! DEFINITION. Shared prefixes (12_prefixes): the prefix tree (R348 to R352), PREFIX_REGISTER (R354 to R357), attaching (R358 to R360), PREFIX_RELEASE (R364, R365). -/

namespace Sys2Proof.Machine

/-! ## Prefixes -/

/-- R347: directory entries that name a handle. -/
def prefixUsers (c : Core) (h : Nat) : Nat := (c.sess.dir.filter fun p => p.2.prefixHandle == h).length

/-- Columns of a prefix. -/
def prefixCols (p : Prefix) (P : Nat) : Nat := cdiv p.toks.length P

/-- Frames of token lists and of the node table on die 0 (R349: a frame for each 2,048 nodes in use). -/
def tokenFrames (n : Nat) : Nat := cdiv (4 * n) 65536
def nodeFrames (n : Nat) : Nat := cdiv n 2048

/-- R344: the frames of a prefix's pages, by column then layer, for a session of a home die. -/
def prefixPages (c : Core) (p : Prefix) (home : Bool) : List (List Nat) :=
  if miSpanned (imgOf c p.slot) then p.pages.d0 else p.pages.get home

/-- Every page frame of a prefix. -/
def prefixFrames (p : Prefix) : List Nat := (p.pages.d0 ++ p.pages.d1).flatMap id

/-! ## The tree (R348 to R352) -/

/-- R348: h(0). -/
def chain0 (slot : Nat) : Word := BitVec.ofNat 64 (0x5046580000000000 + slot)

/-- Ids of block `n`. -/
def blockIds (toks : List Nat) (n : Nat) : List Nat := (toks.drop (64 * n)).take 64

/-- R348: h(n + 1) from h(n). -/
def chainNext (h : Word) (toks : List Nat) (n : Nat) : Word :=
  let c := (crc32c ((blockIds toks n).flatMap (natLe 4))).toNat
  mix (h ^^^ BitVec.ofNat 64 (c * 2 ^ 32 + n))

/-- R349: slots of the node table (DESIGN CHOICE, log 136: as many as the most nodes it holds). -/
def nodeMax : Nat := 1048576

/-- R269, R349: the slot where the probing for a key begins. -/
def nodeStart (key : Word) : Nat := (crc32c (natLe 8 key.toNat)).toNat % nodeMax

/-- R269, R349: the slot that a new node takes: the first free one from its key's start on. -/
def nodeSlot (ns : Map Node) (key : Word) : Nat :=
  let i := nodeStart key
  (((List.range (ns.length + 1)).map fun k => (i + k) % nodeMax).find? fun k => !mapHas ns k).getD i

/-- R349: the node under a key, which is the one that probing finds: the table holds no key twice, and a removal keeps every other key within reach. -/
def findNode (ns : Map Node) (key : Word) : Option (Nat × Node) := ns.find? fun p => p.2.key == key

/-- R350: a hit stands for block `n` of a token list behind a parent node. -/
def nodeFits (ps : Map Prefix) (nd : Node) (toks : List Nat) (n parent : Nat) : Bool :=
  nd.block == n && nd.parent == parent && ((mapGet ps nd.owner).map fun p => blockIds p.toks n) == some (blockIds toks n)

/-- R350: a node counts for a new prefix: its owner has the slot and lies on every die named. -/
def nodeCounts (ps : Map Prefix) (nd : Node) (slot dies : Nat) : Bool :=
  match mapGet ps nd.owner with
  | some p => p.slot == slot && (p.dies &&& dies) == dies
  | none => false

/-- R350: the walk of a match: the nodes matched, and whether a comparison failed. -/
def matchTree (o : Objects) (slot dies : Nat) (toks : List Nat) : Nat → Nat → Word → Nat → List Nat × Bool
  | 0, _, _, _ => ([], false)
  | fuel + 1, n, h, parent =>
    if toks.length < 64 * (n + 1) then ([], false)
    else
      let key := chainNext h toks n
      match findNode o.nodes key with
      | none => ([], false)
      | some (i, nd) =>
        if !nodeFits o.prefixes nd toks n parent then ([], true)
        else if !nodeCounts o.prefixes nd slot dies then ([], false)
        else
          let r := matchTree o slot dies toks fuel (n + 1) key i
          (i :: r.1, r.2)

/-- R352: the walk of a registration that completes: existing nodes gain a prefix, missing ones are inserted, and a failed comparison ends it. -/
def insertNodes (slot handle : Nat) (toks : List Nat) : Nat → Nat → Word → Nat → Objects → Objects × List Nat
  | 0, _, _, _, o => (o, [])
  | fuel + 1, n, h, parent, o =>
    if toks.length < 64 * (n + 1) then (o, [])
    else
      let key := chainNext h toks n
      match findNode o.nodes key with
      | some (i, nd) =>
        if !nodeFits o.prefixes nd toks n parent then (o, [])
        else
          let o := { o with nodes := mapSet o.nodes i { nd with through := nd.through + 1 } }
          let r := insertNodes slot handle toks fuel (n + 1) key i o
          (r.1, i :: r.2)
      | none =>
        let i := nodeSlot o.nodes key
        let nd : Node := ⟨key, handle, n, 1, parent⟩
        let o := { o with nodes := mapSet o.nodes i nd }
        let r := insertNodes slot handle toks fuel (n + 1) key i o
        (r.1, i :: r.2)

/-- R365 steps 3 and 4: a prefix leaves its nodes; nodes at 0 go, and the others take as owner the lowest other handle that passes through. -/
def leaveNodes (o : Objects) (handle : Nat) (nodes : List Nat) : Objects :=
  nodes.foldl (fun o i =>
    match mapGet o.nodes i with
    | none => o
    | some nd =>
      if nd.through ≤ 1 then { o with nodes := mapDel o.nodes i }
      else
        let other := (o.prefixes.find? fun p => p.1 != handle && p.2.nodes.contains i).map (·.1)
        let nd := { nd with through := nd.through - 1, owner := if nd.owner = handle then other.getD nd.owner else nd.owner }
        { o with nodes := mapSet o.nodes i nd }) o

/-- Takes or returns the die 0 frames of the node table after a change of its nodes. -/
def withNodes (c : Core) (o : Objects) : Core :=
  let a := nodeFrames c.obj.nodes.length
  let b := nodeFrames o.nodes.length
  let c := { c with obj := o }
  if a ≤ b then takeFree c false (b - a) else giveFree c false (a - b)

/-- R365, all but a pooled prefix's units: a prefix goes. -/
def dropPrefix (c : Core) (handle : Nat) : Core :=
  match mapGet c.obj.prefixes handle with
  | none => c
  | some p =>
    let c := (prefixFrames p).foldl dropRef c
    let c := withNodes c (leaveNodes c.obj handle p.nodes)
    let c := giveFree c false (tokenFrames p.toks.length)
    { c with obj := { c.obj with prefixes := mapDel c.obj.prefixes handle } }

/-! ## PREFIX_REGISTER (R353 to R357) -/

/-- Fields of PREFIX_REGISTER. -/
def regSlot (d : Desc) : Nat := d.field 3 35 32 0
def regDies (d : Desc) : Nat := d.field 3 37 36 0
def regWindow (d : Desc) : Nat := d.field 3 41 38 0

/-- The lane number of a ring's registration, above every session id. -/
def regLane (ring : Nat) : Nat := 2 ^ 24 + ring

/-- The columns of a registration as a column map. -/
def regColumns (r : Registration) : Map Column :=
  let mine := if r.die then r.reused.d1 else r.reused.d0
  (mine ++ r.cols).zipIdx.map fun p => (p.2, ({ slot := p.2, leaves := p.1.map fun f => { frame := f } } : Column))

/-- R73, R356: the die of a layer's pages in a registration: a pooled prefix is computed on one die. -/
def regLayerDie (img : List Byte) (r : Registration) (l : Nat) : Bool :=
  if regWindow r.desc = 0 then layerDie img r.die l else r.die

/-- R355: frames of one more column of a registration. -/
def regColumn (img : List Byte) (r : Registration) (c : Core) : Option (List Nat × Core) :=
  (List.range (miLayers img)).foldl (fun acc l =>
    acc.bind fun a =>
      let die := regLayerDie img r l
      if freeOf a.2 die = 0 then none
      else
        let q := newFrame (reserveFree a.2 die 1) die
          (columnPair a.2 (regColumns r) die (regColumns r).length l) []
        some (a.1 ++ [q.1], q.2)) (some ([], c))

/-- R306, R355: one position of a registration: its column when it begins one, then its KV in each layer; or the status that ends it: frames run short, or a page that fails its check or a router logit that is not a number (R354 check 10, R253). -/
def regPosition (img : List Byte) (ring : Nat) (c : Core) : Except Status Core :=
  match mapGet c.obj.registering ring with
  | none => .ok c
  | some r =>
    let P := pageP img
    let p := r.done
    let opened : Option (Registration × Core) :=
      if mapHas (regColumns r) (p / P) then some (r, c)
      else (regColumn img r c).map fun q => ({ r with cols := r.cols ++ [q.1] }, q.2)
    match opened with
    | none => .error .noSpace
    | some (r, c) =>
      let cols := regColumns r
      let fs := ((mapGet cols (p / P)).map fun col => col.leaves.map (·.frame)).getD []
      let kv : KvOf := fun l i =>
        positionBytes img (((mapGet cols (i / P)).bind fun col => col.leaves[l]?).map (fun f => frameBytes c f.frame) |>.getD []) (i % P)
      let pass := forwardToken img kv (nth r.toks p 0) p (cols.map (·.1))
      let c := (fs.zip pass.kv).foldl (fun c x => writeFrame c x.1 (p % P * kvBytes img) x.2) c
      let c := { c with obj := { c.obj with registering := mapSet c.obj.registering ring { r with done := p + 1 } } }
      if pass.bad || (cols.any fun col => col.2.leaves.any fun l => frameBad c l.frame) then .error .partFailed else .ok c

/-- `n` positions of a registration. -/
def regPositions (img : List Byte) (ring : Nat) : Nat → Core → Except Status Core
  | 0, c => .ok c
  | n + 1, c =>
    match regPosition img ring c with
    | .ok c => regPositions img ring n c
    | .error st => .error st

/-- The frames that a registration holds a reference on, each once: a spanned model's reused columns serve both dies. -/
def regHeld (r : Registration) : List Nat :=
  ((if r.reused.d0 = r.reused.d1 then r.reused.d0 else r.reused.d0 ++ r.reused.d1) ++ r.cols).flatMap id

/-- A registration and every frame and reference it took go. -/
def regAbort (c : Core) (ring : Nat) : Core :=
  match mapGet c.obj.registering ring with
  | none => c
  | some r =>
    let c := giveFree ((regHeld r).foldl dropRef c) false r.listFrames
    { c with obj := { c.obj with registering := mapDel c.obj.registering ring } }

/-- R345: the next handle: a random non-zero value that has not been issued since reset. -/
def newHandle (c : Core) : Nat × Core :=
  let r := drawWord c
  let h := r.1.toNat % 2 ^ 32
  let bad := fun x => x == 0 || c.obj.issued.contains x
  let h := if bad h then ((List.range (c.obj.issued.length + 2)).find? fun x => !bad x).getD 1 else h
  (h, { r.2 with obj := { r.2.obj with issued := h :: r.2.obj.issued } })

/-- R355: copies of pages on the other die, each column in pairs under R324, with their check values; none when a page fails its check. `first` is the number of the first column, `before` the columns of that die before it. -/
def copyPages (c : Core) (die : Bool) (first : Nat) (before : Map Column) (pages : List (List Nat)) : Option (List (List Nat) × Core) :=
  if pages.any fun col => col.any (frameBad c) then none
  else
    let r := pages.foldl (fun (a : Map Column × Core) col =>
      let j := first + (a.1.length - before.length)
      let r := col.zipIdx.foldl (fun (b : List Nat × Core) f =>
        let q := copyFrame (reserveFree b.2 die 1) die (columnPair b.2 a.1 die j f.2) f.1
        (b.1 ++ [q.1], q.2)) ([], a.2)
      (a.1 ++ [(j, ({ slot := j, leaves := r.1.map fun f => { frame := f } } : Column))], r.2)) (before, c)
    some ((r.1.drop before.length).map fun p => p.2.leaves.map (·.frame), r.2)

/-- R352: blocks whose nodes a registration passes through or inserts: none below the point where its match's comparison failed. -/
def regBlocks (r : Registration) : Nat := if r.collided then r.matched.length else r.toks.length / 64

/-- R352: the nodes of the table after a token list's first blocks have been inserted, by number alone: a block whose node is there already adds none, and none comes below a failed comparison. -/
def nodesWith (o : Objects) (slot : Nat) (toks : List Nat) (blocks : Nat) : Nat :=
  (insertNodes slot 0 toks blocks 0 (chain0 slot) 0xFFFFFFFF o).1.nodes.length

/-- R352: the nodes after a registration's insertion. -/
def nodesAfter (c : Core) (r : Registration) : Nat := nodesWith c.obj r.slot r.toks (regBlocks r)

/-- R355: the copies that a registration's other die gets, when it names both dies of a replicated model. -/
def regCopies (c : Core) (r : Registration) (both : Bool) : Option (List (List Nat) × Core) :=
  if both then
    let have0 := (r.reused.get (!r.die)).zipIdx.map fun p => (p.2, ({ slot := p.2, leaves := p.1.map fun f => { frame := f } } : Column))
    copyPages c (!r.die) have0.length have0 r.cols
  else some ([], c)

/-- R352, R357: a stacked registration completes. -/
def regFinish (c : Core) (ring : Nat) (dies : Nat) : Core :=
  match mapGet c.obj.registering ring with
  | none => c
  | some r =>
    let img := imgOf c r.slot
    let both := dies == 3 && !miSpanned img
    let need := fun die => (if both && die != r.die then (r.cols.map List.length).sum else 0) +
      (if die then 0 else nodeFrames (nodesAfter c r) - nodeFrames c.obj.nodes.length)
    if freeOf c false < need false || freeOf c true < need true || nodeMax < nodesAfter c r then
      complete (regAbort c ring) r.desc .noSpace 0 0
    else
      match regCopies c r both with
      | none => complete (regAbort (noteFirst c 0 r.desc.opcode .partFailed (r.cols.flatMap id)) ring) r.desc .partFailed 0 0
      | some cp =>
        let c := cp.2
        let pages : PerDie (List (List Nat)) :=
          if miSpanned img then ⟨r.reused.d0 ++ r.cols, []⟩
          else
            let here := fun die => r.reused.get die ++ (if die = r.die then r.cols else if both then cp.1 else [])
            ⟨here false, here true⟩
        let hd := newHandle c
        let st := drawWord hd.2
        let c := st.2
        let p : Prefix := { slot := r.slot, stamp := st.1, toks := r.toks, dies := dies, pages := pages }
        let o := { c.obj with prefixes := mapSet c.obj.prefixes hd.1 p, registering := mapDel c.obj.registering ring }
        let ins := insertNodes r.slot hd.1 r.toks (regBlocks r) 0 (chain0 r.slot) 0xFFFFFFFF o
        let p := { p with nodes := ins.2 }
        let c := withNodes c { ins.1 with prefixes := mapSet ins.1.prefixes hd.1 p }
        complete c r.desc .ok hd.1 ((r.reused.get r.die).length * pageP img)

/-- The die with more free frames; die 0 when the counts are equal. -/
def freerDie (c : Core) : Bool := decide (freeOf c false < freeOf c true)

/-- R355, R356: the die that computes a prefix. -/
def regDie (c : Core) (d : Desc) : Bool :=
  if regWindow d != 0 || regDies d == 3 then freerDie c else regDies d == 2

/-- R354 check 8: frames short for new pages, token list or nodes, `nodes` of which the table then holds (R352). -/
def regShort (c : Core) (img : List Byte) (d : Desc) (n newCols nodes : Nat) : Bool :=
  let w := regWindow d
  let die := regDie c d
  let on := fun x => w == 0 && bit (regDies d) (b2n x)
  let need := fun x =>
    (if w != 0 then (if x == die then miLayers img * newCols else 0)
     else if miSpanned img then layersOn img false x * newCols
     else if on x then miLayers img * newCols else 0) +
    (if x then 0 else if w != 0 then tokenFrames n else
      tokenFrames n + (nodeFrames nodes - nodeFrames c.obj.nodes.length))
  freeOf c false < need false || freeOf c true < need true || (w == 0 && nodeMax < nodes)

/-- R157, R159: a tree reference on each frame of reused columns; one whose count is full is copied. -/
def treeRefs (c : Core) (cols : List (List Nat)) : List (List Nat) × Core :=
  cols.foldl (fun a col =>
    let r := col.foldl (fun (b : List Nat × Core) f =>
      if frameCount b.2 f < 65535 then (b.1 ++ [f], addRef b.2 f)
      else
        let q := copyFrame (reserveFree b.2 (frameDie b.2 f) 1) (frameDie b.2 f) (anyPair b.2 (frameDie b.2 f)) f
        (b.1 ++ [q.1], q.2)) ([], a.2)
    (a.1 ++ [r.1], r.2)) ([], c)

/-- R356: the 64 KiB pages that the runs of the pooled prefixes are mapped at: first page and number. -/
def mappedRuns (ps : Map Prefix) : List (Nat × Nat) :=
  (ps.filter fun p => p.2.dies == 0).map fun p => (p.2.base / 65536, p.2.pooled.flatten.length)

/-- R356: the address A at which the run of a pooled prefix of some pages is mapped: it lies whole in the device-managed half (R144) and meets no other run. Where it lies there is the device's choice (Config.prefixBase). -/
def poolBase (c : Core) (handle pages : Nat) : Nat :=
  let held := mappedRuns c.obj.prefixes
  let fits := fun b => b + pages ≤ 2 ^ 31 && held.all fun r => b + pages ≤ r.1 || r.1 + r.2 ≤ b
  65536 * (((Config.prefixBase handle :: 0 :: held.map fun r => r.1 + r.2).find? fits).getD 0)

/-- R356: the mapping of a 64 KiB page of the device-managed half: page (j × L + l) of a pooled prefix's run lies at its base, and reaches the window through the outbound range (R146). -/
def poolPage (c : Core) (page : Nat) : Option XPage :=
  (c.obj.prefixes.find? fun p => p.2.dies == 0 && p.2.base / 65536 ≤ page && page < p.2.base / 65536 + p.2.pooled.flatten.length).map fun p =>
    let at0 := unitOff (winOf c p.2.window) p.2.run.first + 65536 * (page - p.2.base / 65536)
    { size := 0, write := false, kind := 0, pa := outPa c (winAddr c p.2.window at0) }

/-- R356: the pages of a registration, by column then layer. -/
def regContents (c : Core) (r : Registration) : List (List Cells) := r.cols.map fun col => col.map (frameBytes c)

/-- A page's 65,536 bytes. -/
def pageBytes (pg : Cells) : List Byte := cellsRead pg 0 65536

/-- R356: a pooled registration whose positions are all computed: claim, write, confirm, and the frames go. -/
def regPooled (d : Desc) (r : Registration) : M Done := do
  let w := regWindow d
  let c ← getC
  let x := winOf c w
  let pages := (regContents c r).flatMap id
  if let some f := (r.cols.flatMap id).find? (frameBad c) then
    modC fun c => regAbort (noteBad c 0 d.opcode .partFailed f) d.ring
    refuse .partFailed
  let bytes := pages.length * (65536 + 1024)
  let res ← (fun s => match (claimRun w (cdiv bytes (unitBytes x))) s with
    | .ok y => .ok y
    | .error (.fail st _ _ c) => .error (.fail st 0 0 (regAbort c d.ring))
    | .error e => .error e : M (Option Run))
  match res with
  | none =>
    modC fun c => regAbort c d.ring
    refuse .noSpace
  | some run =>
    let at0 := unitOff x run.first
    let data := pages.flatMap pageBytes ++ pages.flatMap fun pg => checkArray (pageBytes pg)
    let put : M Unit := do
      writeRun w at0 data run
      confirmRun w (run.first + run.units - 1) run
    (fun s => match put s with
      | .error (.fail st _ _ c) => .error (.fail st 0 0 (regAbort c d.ring))
      | y => y : M Unit)
    let c ← getC
    let body := regContents c r
    let hd := newHandle (regAbort c d.ring)
    let st := drawWord hd.2
    let c := takeFree st.2 false r.listFrames
    let p : Prefix := { slot := r.slot, stamp := st.1, toks := r.toks, dies := 0, window := w, run := run
                        base := poolBase c hd.1 pages.length, pooled := body }
    putC { c with obj := { c.obj with prefixes := mapSet c.obj.prefixes hd.1 p } }
    return .done .ok hd.1 0

/-- R354 to R356: PREFIX_REGISTER; its chunks run as lanes, and a pooled prefix is written when they are done. -/
def prefixRegisterBody (d : Desc) : M Done := do
  let c ← getC
  match mapGet c.obj.registering d.ring with
  | some r =>
    if r.done < r.toks.length then return .running
    regPooled d r
  | none =>
    let src := d.field 2 63 0 0
    let n := d.field 3 20 0 0
    let slot := regSlot d
    let w := regWindow d
    check (d.session != 0 || src % 4 != 0 || 1048576 < n || (w == 0 && regDies d == 0)) .invalidField
    match loadedModel c slot with
    | none => refuse .unknownHandle
    | some m =>
      let img := m.image
      let P := pageP img
      if n = 0 then return .done .ok 0 0
      check ((miSpanned img && w == 0 && regDies d != 3) || (w != 0 && n % (8 * P) != 0)) .invalidField
      check (w != 0 && (winOf c w).state != 1) .wrongState
      check (4096 ≤ c.obj.prefixes.length + c.obj.registering.length) .noSpace
      let bs ← readBus 0 src (4 * n)
      let toks := (List.range n).map fun i => leAt bs (4 * i) 4
      check (toks.any fun t => miVocab img ≤ t) .invalidField
      let c ← getC
      let mt := if w = 0 then matchTree c.obj slot (regDies d) toks (n / 64) 0 (chain0 slot) 0xFFFFFFFF else ([], false)
      let k := 64 * mt.1.length / P
      let owner := (mt.1.getLast?.bind fun i => mapGet c.obj.nodes i).bind fun nd => mapGet c.obj.prefixes nd.owner
      let reuse := fun die => match owner with
        | some p => if bit (regDies d) (b2n die) then (if miSpanned img then (if die then [] else p.pages.d0.take k)
            else (p.pages.get die).take k) else []
        | none => []
      let die := regDie c d
      let c := if mt.2 then regCount c 0x500180 63 48 1 else c
      putC c
      let onto := fun x => ((reuse false ++ reuse true).flatMap id).filter (fun f => 65535 ≤ frameCount c f && frameDie c f == x)
      check (freeOf c false < (onto false).length || freeOf c true < (onto true).length ||
        regShort (reserveFree (reserveFree c false (onto false).length) true (onto true).length) img d n (cdiv n P - k)
          (nodesWith c.obj slot toks (if mt.2 then mt.1.length else n / 64))) .noSpace
      if let some f := (onto false ++ onto true).find? (frameBad c) then failFrame f .partFailed
      let r0 := treeRefs c (reuse false)
      let r1 := treeRefs r0.2 (reuse true)
      let reused : PerDie (List (List Nat)) := ⟨r0.1, r1.1⟩
      let c := r1.2
      let sp : PerDie (List (List Nat)) := if miSpanned img then ⟨reused.d0, reused.d0⟩ else reused
      let r : Registration :=
        { desc := d, slot := slot, die := die, toks := toks, matched := mt.1, reused := sp
          collided := mt.2, done := min n (k * P), listFrames := tokenFrames n }
      let c := takeFree c false (tokenFrames n)
      let c := { c with obj := { c.obj with registering := mapSet c.obj.registering d.ring r } }
      if w = 0 && r.done = n then putC (regFinish c d.ring (regDies d))
      else putC (waking c die fun c => joinLane c die d.account (regLane d.ring))
      return .running

/-- R354. -/
def execPrefixRegister (d : Desc) (env : Env) (s : State) : Host.Outcome State Fault Refusal :=
  .next (acceptSeq s d env (prefixRegisterBody d))

/-! ## Attaching (R358 to R360) -/

/-- R358: the leaf entry of a prefix's frame; where its count is full, a private copy in a free frame of the die that holds the page (R73, R159), its check values verified on the way (R471). -/
def attachLeaf (f : Nat) (x : Range) : Except Block (Leaf × Range) :=
  let die := frameDie x.core f
  if frameCount x.core f < 65535 then .ok ({ frame := f, cow := true, shared := true, kv := true }, ⟨addRef x.core f, x.warm⟩)
  else if frameBad x.core f then .error (.bad f)
  else if freeOf x.core die = 0 then .error .noSpace
  else
    let q := copyFrame (reserveFree x.core die 1) die (anyPair x.core die) f
    .ok ({ frame := q.1, kv := true }, ⟨q.2, x.warm⟩)

/-- R358: the leaf entries of a column. -/
def attachLeaves : List Nat → Range → Except Block (List Leaf × Range)
  | [], x => .ok ([], x)
  | f :: fs, x =>
    match attachLeaf f x with
    | .error b => .error b
    | .ok (l, x) => match attachLeaves fs x with
      | .error b => .error b
      | .ok (ls, x) => .ok (l :: ls, x)

/-- R358: the columns of an attached prefix, in a fresh range. -/
def attachPages : List (List Nat) → Nat → Range → Except Block (Map Column × Range)
  | [], _, x => .ok ([], x)
  | col :: cols, j, x =>
    match attachLeaves col x with
    | .error b => .error b
    | .ok (ls, x) => match attachPages cols (j + 1) x with
      | .error b => .error b
      | .ok (m, x) => .ok ((j, { slot := j, leaves := ls }) :: m, x)

/-- R322: takes the map pages of some columns that lack one. -/
def takeMapPages (home : Bool) : List Nat → Range → Except Block Range
  | [], x => .ok x
  | m :: ms, x =>
    match takeMapPage home false (max 1024 (m * 4096)) x with
    | .error b => .error b
    | .ok x => takeMapPages home ms x

/-- R358, R359: attaches a prefix to a fresh range on a home die; a pooled one maps no page of its own, and takes the map pages that its entries need. -/
def attachPrefix (c : Core) (p : Prefix) (home : Bool) (x : Range) : Except Block (Map Column × Range) :=
  let img := imgOf c p.slot
  let L := miLayers img
  let n := prefixCols p (pageP img)
  let maps := ((List.range n).filterMap mapPageOf).eraseDups
  let own := if p.dies = 0 then [] else (List.range n).flatMap fun s => (List.range L).map (kvPageNo L s)
  match mapPagesIn home false (own ++ maps.map mapPageNo) x with
  | .error b => .error b
  | .ok x => match takeMapPages home maps x with
    | .error b => .error b
    | .ok x =>
      if p.dies = 0 then .ok ((List.range n).map fun j => (j, { slot := j, pooled := true }), x)
      else attachPages (prefixPages c p home) 0 x

/-! ## PREFIX_RELEASE (R364, R365) -/

/-- R365: frees a prefix, its pooled units last; what it freed on each die. -/
def releasePrefix (h : Nat) : M (Nat × Nat) := do
  let c ← getC
  match mapGet c.obj.prefixes h with
  | none => return (0, 0)
  | some p =>
    let c' := dropPrefix c h
    putC c'
    let freed := (freeOf c' false - freeOf c false, freeOf c' true - freeOf c true)
    if p.dies = 0 then releaseRun p.window p.run
    return freed

/-- R364, R365. -/
def prefixReleaseBody (d : Desc) : M Done := do
  check (d.session != 0) .invalidField
  let h := d.field 2 31 0 0
  let c ← getC
  check (h == 0 || !mapHas c.obj.prefixes h) .unknownHandle
  if 0 < prefixUsers c h then failC .wrongState (prefixUsers c h) 0
  let f ← releasePrefix h
  return .done .ok f.1 f.2

/-- R365. -/
def execPrefixRelease (d : Desc) (env : Env) (s : State) : Host.Outcome State Fault Refusal :=
  .next (acceptSeq s d env (prefixReleaseBody d))

end Sys2Proof.Machine
end

