-- ==== Sys2Proof/Machine/Steps.lean ====
section
/-! DEFINITION. Steps (10_steps, 09_text R272 to R277): APPEND, batches, the commit of decode rows and prefill chunks, failed steps. -/

namespace Sys2Proof.Machine

/-- Positions of a session (R48). -/
def positionLimit : Nat := 16777216

/-! ## APPEND (R272 to R277, R291) -/

/-- R45, R75: frames that the prefill of `n` positions opens on a die. -/
def appendNeed (img : List Byte) (w : Warm) (home die : Bool) (next n : Nat) : Nat :=
  let k := turnColumns w (pageP img) next n
  layersOn img home die * k + (if die = home then mapNeed w (miLayers img) k (cdiv next (pageP img)) else 0)

/-- R273 check 6. -/
def appendShort (c : Core) (img : List Byte) (w : Warm) (home : Bool) (next n : Nat) : Bool :=
  positionLimit < next + n || slotsShort img w next n ||
  [false, true].any fun die => freeFor c die < appendNeed img w home die next n

/-- R274: leaf entries of a session's columns that the working columns replaced. -/
def replacedLeaves (old new : Map Column) : List Leaf :=
  old.flatMap fun p =>
    let now := (((mapGet new p.1).map (·.leaves)).getD []).map (·.frame)
    p.2.leaves.filter fun l => !now.contains l.frame

/-- R274, R276, R291: an APPEND takes effect: columns, carry and pending token become the session's own, and it completes. -/
def appendDone (x : Range) (sid : Nat) (ln : Lane) : Core :=
  let old := replacedLeaves x.warm.columns ln.cols
  let c := dropLeaves x.core old
  let w := { x.warm with columns := ln.cols, ctl := ln.ctl, lane := none }
  let n := ln.toks.length
  let c := modEntry c sid fun e => { e with nextPosition := e.nextPosition + n, resident := e.resident + n }
  let c := storeRange ⟨c, w⟩ sid
  let e := entryOf c sid
  let c := leaveLane c e.homeDie e.account sid
  mirrorThen c sid (.appendDone ln.ctl e (finOf ln.desc .ok n ln.invalid)) (some (ln.desc, .ok, n, ln.invalid)) false
    (complete · ln.desc .ok n ln.invalid)

/-- R281: the tokens, invalid bytes and new carry of a segment. -/
def segmentToks (v : List Byte) (x : Ctl) (d : Desc) (bs : List Byte) : List Nat × Nat × Ctl :=
  if bit d.flags 1 then
    let r := tokenizeText v x [] true
    (r.1 ++ (List.range (bs.length / 4)).map (fun i => leAt bs (4 * i) 4), r.2)
  else tokenizeText v x bs (bit d.flags 0)

/-- R289: TOK_STAT counts of a text segment. -/
def countText (c : Core) (bytes invalid : Nat) : Core :=
  let t := c.tokRest + bytes
  let c := { c with tokRest := t % 4096 }
  regCount (regCount c 0x400000 31 0 (t / 4096)) 0x400000 47 32 invalid

/-- R59: APPEND segments that a die's intake queue holds, and token ids that its token queue holds. -/
def intakeMax : Nat := 256
def tokenMax : Nat := 65536

/-- R59: the tokens of a lane that the full token queue still keeps in the tokenizer. -/
def Lane.behind (ln : Lane) : Nat := ln.toks.length - ln.ready

/-- Sessions of a home die with an APPEND's lane, and the lane. -/
def lanesOn (c : Core) (die : Bool) : List (Nat × Lane) :=
  c.sess.warm.filterMap fun p => p.2.lane.bind fun ln => if (entryOf c p.1).homeDie == die then some (p.1, ln) else none

/-- R59: APPENDs of a die whose segments hold a place of the intake queue: those that wait, and the one that the tokenizer has in part. -/
def intakeUsed (c : Core) (die : Bool) : Nat :=
  (c.sess.waiting.filter fun w => w.desc.opcode == 0x13 && (entryOf c w.desc.session).homeDie == die && !w.memo.isEmpty).length +
  ((lanesOn c die).filter fun p => 0 < p.2.behind).length

/-- R59: token ids that wait in a die's token queue for its prefill lanes. -/
def tokensQueued (c : Core) (die : Bool) : Nat := (lanesOn c die).foldl (fun n p => n + (p.2.ready - p.2.done)) 0

/-- R59: the tokenizer of a die stalls: its token queue is full, or a segment before still has tokens for it. -/
def tokenizerStalls (c : Core) (die : Bool) : Bool :=
  tokenMax ≤ tokensQueued c die || (lanesOn c die).any fun p => 0 < p.2.behind

/-- R59: the tokenizer of a die goes on with the segment it stalled in, as far as its token queue has room. -/
def feedTokens (c : Core) (die : Bool) : Core :=
  (lanesOn c die).foldl (fun c p =>
    let n := min p.2.behind (tokenMax - tokensQueued c die)
    { c with sess := { c.sess with warm := mapMod c.sess.warm p.1 fun w =>
      { w with lane := w.lane.map fun ln => { ln with ready := ln.ready + n } } } }) c

/-- R453: the colour of an APPEND as a number. -/
def colourCode : Colour → Nat
  | .green => 0 | .yellow => 1 | .red => 2

/-- R273 to R277: APPEND. Its segment takes a place of the intake queue, and is coloured, once; its tokens enter the token queue as that has room (R59). The text of an APPEND that check 6 refuses counts in TOK_STAT all the same, since it was tokenized (DESIGN CHOICE, log 141). -/
def appendBody (d : Desc) : M Done := do
  leaseFirst
  let sid := d.session
  let src := d.field 2 63 0 0
  let n := d.field 3 31 0 0
  let ids := bit d.flags 1
  let eot := bit d.flags 0
  check ((if ids then 4194304 else 16777216) < n || (ids && src % 4 != 0)) .invalidField
  let c ← getC
  let e := entryOf c sid
  checkIdle e
  if n = 0 && (ids || !eot) then return .done .ok 0 0
  match mapGet c.sess.warm sid with
  | none => refuse .wrongState
  | some w =>
    let bytes := if ids then 4 * n else n
    if !(← settled) && intakeMax ≤ intakeUsed c e.homeDie then waitInside
    let col ← once fun c => let r := colourBytes c e.homeDie e.account bytes; (colourCode r.1, r.2)
    check (col == 2) .policed
    let bs ← if n = 0 then pure [] else readBus 0 src bytes
    let img := sessImg c sid
    let v := vocabOfSlot c e.modelSlot
    check (ids && (List.range n).any fun i => miVocab img ≤ leAt bs (4 * i) 4) .invalidField
    let (toks, invalid, ctl) := segmentToks v w.ctl d bs
    let all := w.ctl.pendingTok.toList ++ toks
    let put := if toks.isEmpty then [] else all.dropLast
    let ctl := if toks.isEmpty then ctl else { ctl with pendingTok := all.getLast? }
    if !put.isEmpty && tokenizerStalls (← getC) e.homeDie then waitInside
    modC fun c => countText c (if ids then 0 else n) invalid
    let c ← getC
    check (appendShort c img w e.homeDie e.nextPosition put.length) .noSpace
    let ln : Lane :=
      { desc := d, green := col == 0, toks := put, done := 0, ready := min put.length (tokenMax - tokensQueued c e.homeDie), ctl := ctl, cols := w.columns, invalid := invalid, taken := 0 }
    if put.isEmpty then
      match writeCtl false ⟨c, w⟩ with
      | .error .noSpace => refuse .noSpace
      | .error .wait => waitStaging
      | .error (.bad f) => failFrame f .partFailed
      | .ok x =>
        putC (appendDone x sid ln)
        return .running
    else
      let c := storeRange ⟨c, { w with lane := some ln }⟩ sid
      putC (waking c e.homeDie fun c => joinLane c e.homeDie e.account sid)
      return .running

/-- R273. -/
def execAppend (d : Desc) (env : Env) (s : State) : Host.Outcome State Fault Refusal :=
  .next (acceptSession s d env (appendBody d))

/-- R274, R307: an APPEND whose chunk fails ends with a status; what its chunks wrote goes. -/
def appendFail (c : Core) (sid : Nat) (st : Status) : Core :=
  match mapGet c.sess.warm sid with
  | none => c
  | some w => match w.lane with
    | none => c
    | some ln =>
      let x := dropLane ⟨c, w⟩
      let c := storeRange x sid
      let e := entryOf c sid
      let c := leaveLane c e.homeDie e.account sid
      finishDesc c ln.desc st 0 0

/-! ## Batches (R299 to R305, R450) -/

/-- Rows in flight on a die: those whose commit does not wait for mirror space (R315). -/
def inStep (s : Sched) : List Row := s.rows.filter fun r => !s.waitMirror.contains r.session

/-- R22: RUNNING sessions of a die with no row go back to QUEUED. -/
def requeue (c : Core) (die : Bool) : Core :=
  (c.sess.dir.filter fun p => p.2.state == .running && p.2.homeDie == die &&
    !((c.sched.get die).placed.any fun r => r.session == p.1)).foldl (fun c p => setEntry c p.1 { p.2 with state := .queued }) c

/-- A batch as it fills. -/
structure Batch where
  core : Core
  slot : Option Nat := none
  rows : List Row := []
  /-- Sessions or lanes taken or passed over for good. -/
  skip : List Nat := []
  cycles : Nat := 0
  deriving DecidableEq, Repr

/-- Rows of a batch: decode rows and lane positions. -/
def Batch.size (b : Batch) : Nat := b.rows.foldl (fun n r => n + max r.chunk 1) 0

/-- R301: a slot fits a batch. -/
def slotFits (b : Batch) (slot : Nat) : Bool :=
  match b.slot with
  | none => true
  | some s => s == slot

/-- R303: the half that a row joins. -/
def halfFor (b : Batch) (chunk : Nat) : Bool :=
  if chunk = 0 then b.rows.length % 2 == 1
  else
    let n := fun h => (b.rows.filter fun r => r.half == h).foldl (fun n r => n + max r.chunk 1) 0
    decide (n true < n false)

/-- R301, R450: the session at the head of an account's decode queue that a batch can take. -/
def decodeHead (b : Batch) (die : Bool) (a : Nat) : Option Nat :=
  (acctOf b.core die a).decodeQ.find? fun sid =>
    decodable b.core sid && !b.skip.contains sid && slotFits b (entryOf b.core sid).modelSlot &&
    (loadedModel b.core (entryOf b.core sid).modelSlot).isSome

/-- The slot, positions left and colour of a lane. -/
def laneOf (c : Core) (sid : Nat) : Option (Nat × Nat × Bool) :=
  if 2 ^ 24 ≤ sid then
    (mapGet c.obj.registering (sid - 2 ^ 24)).map fun r => (r.slot, r.toks.length - r.done, true)
  else ((mapGet c.sess.warm sid).bind (·.lane)).map fun ln => ((entryOf c sid).modelSlot, ln.toks.length - ln.done, ln.green)

/-- R59: the tokens of a lane's next chunk stand in the token queue; a registration's come from its list. -/
def chunkFed (c : Core) (sid left : Nat) : Bool :=
  match (mapGet c.sess.warm sid).bind (·.lane) with
  | some ln => 2 ^ 24 ≤ sid || min (regField c 0x500100 28 16) left ≤ ln.ready - ln.done
  | none => true

/-- R304, R305: the lane of a colour at the head of an account's lane queue that a batch can take; one whose chunk is placed and has still to commit is not placed again (R304, R315). -/
def laneHead (b : Batch) (die : Bool) (green : Bool) (a : Nat) : Option Nat :=
  (acctOf b.core die a).laneQ.find? fun sid =>
    !b.skip.contains sid && laneWaits b.core die sid &&
    match laneOf b.core sid with
    | some (slot, left, g) => g == green && 0 < left && chunkFed b.core sid left && slotFits b slot && (loadedModel b.core slot).isSome
    | none => false

/-- R448, R450: the account whose row comes next: the first class with one, then the smallest tag, then the lowest id. -/
def pickAcct (b : Batch) (die : Bool) (head : Nat → Option Nat) : Option (Nat × Nat) :=
  let accts := (b.core.sched.get die).accts
  let inClass := fun k => (accts.filter fun p => classOf b.core die p.1 == some k && (head p.1).isSome).map fun p => (p.1, p.2.tag)
  let pick := fun k => (bestBy (fun x y => decide (x.2 < y.2)) (inClass k)).map fun x => (x.1, k)
  (pick 0).or ((pick 1).or (pick 2))

/-- R444, R450: a row is taken: its charge is pending, the tag grows. -/
def takeRow (b : Batch) (die : Bool) (a cls sid chunk charge slot : Nat) : Batch :=
  let bk := bucketOf a cls
  let c := takeTag (chargePending (haspSession b.core sid) die a bk charge) die a charge
  let row : Row := { session := sid, chunk := chunk, account := a, bucket := bk, charge := charge, half := halfFor b chunk }
  { b with core := c, slot := some slot, rows := b.rows ++ [row], skip := sid :: b.skip }

/-- R302, R379: the mask of a session about to be placed is empty. -/
def stalls (c : Core) (sid : Nat) : Bool :=
  match sessionGrammar c (entryOf c sid), mapGet c.sess.warm sid with
  | some g, some w => maskEmpty g w.ctl
  | _, _ => false

/-- R383: engine cycles of a session's mask. -/
def cyclesOf (c : Core) (sid : Nat) : Nat :=
  match mapGet c.sess.warm sid with
  | some w => maskCycles (sessionGrammar c (entryOf c sid)) w.ctl
  | none => 0

/-- R302: a placement that stalls ends the turn. -/
def stallTurn (c : Core) (sid : Nat) : Core :=
  let c := if (entryOf c sid).cancelPending then c else regCount c 0x410000 47 16 1
  stopTurn c sid 6 .grammarStall

/-- R301: decode rows fill in the fair order. -/
def fillDecode (die : Bool) : Nat → Batch → Batch
  | 0, b => b
  | fuel + 1, b =>
    if regField b.core 0x500100 12 0 ≤ b.rows.length || regField b.core 0x500100 46 32 ≤ b.size then b
    else match pickAcct b die (decodeHead b die) with
      | none => b
      | some (a, cls) => match decodeHead b die a with
        | none => b
        | some sid =>
          let b := { b with cycles := b.cycles + cyclesOf b.core sid }
          if stalls b.core sid then
            fillDecode die fuel { b with core := stallTurn b.core sid, skip := sid :: b.skip }
          else
            let slot := (entryOf b.core sid).modelSlot
            let b := takeRow b die a cls sid 0 (decodeWeight b.core slot) slot
            let c := modEntry b.core sid fun e => { e with state := .running }
            let c := joinDecode (leaveDecode c die a sid) die a sid
            fillDecode die fuel { b with core := c }

/-- R305: positions that lanes may still take. -/
def laneRoom (b : Batch) (decodeRows : Nat) : Nat :=
  let rowsMax := regField b.core 0x500100 46 32
  let lanes := b.size - decodeRows
  let share := if decodeRows = 0 then rowsMax else rowsMax * regField b.core 0x500100 54 48 / 100
  if lanes = 0 then rowsMax - b.size else min (rowsMax - b.size) (share - lanes)

/-- R305: prefill lanes of a colour fill the rows left. -/
def fillLanes (die green : Bool) (decodeRows : Nat) : Nat → Batch → Batch
  | 0, b => b
  | fuel + 1, b =>
    match pickAcct b die (laneHead b die green) with
    | none => b
    | some (a, cls) => match laneHead b die green a with
      | none => b
      | some sid => match laneOf b.core sid with
        | none => b
        | some (slot, left, _) =>
          let n := min (regField b.core 0x500100 28 16) left
          if laneRoom b decodeRows < n then fillLanes die green decodeRows fuel { b with skip := sid :: b.skip }
          else fillLanes die green decodeRows fuel (takeRow b die a cls sid n (prefillWeight b.core slot * n) slot)

/-- R316: a request on a die waits for the step in flight there. -/
def waitStep (die : Bool) : M Unit := do
  if !(inStep ((← getC).sched.get die)).isEmpty then waitInside

/-- Work queued on a die: a bound on the rows of a batch. -/
def queuedWork (c : Core) (die : Bool) : Nat :=
  (c.sched.get die).accts.foldl (fun n p => n + p.2.decodeQ.length + p.2.laneQ.length) 0

/-- R511: the hold ends at the first batch formed once the rings work; kept completions are written. -/
def endHold (c : Core) : Core :=
  if c.twin.ringHold && takeRingsWork c then
    let c := { c with twin := { c.twin with ringHold := false } }
    c.twin.kept.foldl (fun c p => replayCompletion { c with twin := { c.twin with kept := mapDel c.twin.kept p.1 } } p.1 p.2) c
  else c

/-- R186: the most pages of a tail window. -/
def tailCap (c : Core) (die : Bool) (P rows : Nat) : Nat := min (c.mem.tailFrames.get die / (4 * max rows 1)) (4096 / P)

/-- The key-value bytes of a session's columns. -/
def kvOfColumns (c : Core) (e : Entry) (img : List Byte) (cols : Map Column) : KvOf := fun l p =>
  match mapGet cols (p / pageP img) with
  | some col => positionBytes img (pageCells c e (p / pageP img) l col) (p % pageP img)
  | none => List.replicate (kvBytes img) 0

/-- Valid columns that a row at position `p` attends, its own among them. -/
def attended (cols : Map Column) (P p : Nat) : List Nat :=
  let js := (cols.map (·.1)).filter fun j => j ≤ p / P
  if js.contains (p / P) then js else js ++ [p / P]

/-- Blocks that hold a column, with their numbers and columns, ascending. -/
def blocksOf (js : List Nat) : List (Nat × List Nat) :=
  ((js.map (· / 8)).eraseDups).map fun n => (n, js.filter fun j => j / 8 == n)

/-- R327: the blocks before the tail: the tail is as many of the last blocks as the cap lets in. -/
def bodyBlocks (cap : Nat) : List (Nat × List Nat) → Nat → List (Nat × List Nat)
  | [], _ => []
  | b :: bs, taken => if taken + b.2.length ≤ cap then bodyBlocks cap bs (taken + b.2.length) else b :: bs

/-- R328, R329: what a bank-pair unit attends of a block in a layer: its pair, the frames there; of a pooled block the staging frames, what names the pages in them, and the pages. -/
structure UnitBlock where
  pair : Nat
  frames : List Nat := []
  stage : Nat := 0
  pages : Option (Nat × Nat × Nat) := none
  staged : List Cells := []
  deriving DecidableEq, Repr

/-- A block holds a pooled column: then all of its columns are (R330). -/
def pooledBlock (cols : Map Column) (js : List Nat) : Bool := js.any fun j => ((mapGet cols j).map (·.pooled)).getD false

/-- R328: where a bank-pair unit attends a block in a layer; none when cores attend it. A column that the step itself opens lies where R324 puts it. -/
def unitBlock (c : Core) (e : Entry) (cols : Map Column) (die : Bool) (b : Nat × List Nat) (l : Nat) : Option UnitBlock :=
  let js := b.2
  let have0 := js.filterMap fun j => (mapGet cols j).map fun col => (j, col)
  if pooledBlock cols js then
    let key := (e.prefixHandle, l, b.1)
    (stagePair c die (some key) js.length).map fun q =>
      { pair := q, stage := js.length, pages := some key, staged := have0.map fun x => pageCells c e x.1 l x.2 }
  else
    let fs := have0.filterMap fun x => (x.2.leaves[l]?).map (·.frame)
    let fresh := js.find? fun j => !mapHas cols j
    let pair := match fs, fresh with
      | [], some j => some (columnPair c cols die j l)
      | fs, some j => (framesPair c fs).bind fun q => if columnPair c cols die j l = q then some q else none
      | fs, none => framesPair c fs
    pair.bind fun q => if (pairOf c q).unitFenced then none else some { pair := q, frames := fs }

/-- R329: the position mask of a frame for a row at position `p`. -/
def frameMask (P p j : Nat) : Nat := 2 ^ min P (p + 1 - j * P) - 1

/-- R329: the SCORE_PARTIAL command of a block in a layer of a decode row. -/
def scoreCmd (img : List Byte) (die : Bool) (sid slot p l : Nat) (pass : Pass) (b : Nat × List Nat) (u : UnitBlock) : BankCmd :=
  { op := .score {
      layer := l, block := b.1, masks := b.2.map (frameMask (pageP img) p), mass := true, slot := slot, pos := p, cols := b.2
      queries := (nth pass.qs l []).map fun q => q.map (convertTo fmtBF16)
      own := if b.2.contains (p / pageP img) then pass.kv[l]? else none
      staged := u.staged }
    frames := u.frames, n := b.2.length, owner := .step die sid, parts := miQHeads img, stage := u.stage, pages := u.pages }

/-- R327, R328: the blocks of a decode row that cores do not attend as its tail: those before the tail, and pooled ones wherever they lie. -/
def unitBlocks (c : Core) (die : Bool) (cols : Map Column) (P rows : Nat) (js : List Nat) : List (Nat × List Nat) :=
  let all := blocksOf js
  let body := bodyBlocks (tailCap c die P rows) all.reverse 0
  all.filter fun b => body.contains b || pooledBlock cols b.2

/-- R327 to R329: the SCORE_PARTIAL commands of a decode row: one for each block of each layer that a unit attends. -/
def enqueueBodies (die : Bool) (rows : Nat) (c : Core) (sid : Nat) : Core :=
  match mapGet c.sess.warm sid with
  | none => c
  | some w =>
    let e := entryOf c sid
    let img := sessImg c sid
    let p := e.nextPosition
    let js := attended w.columns (pageP img) p
    let bs := unitBlocks c die w.columns (pageP img) rows js
    if bs.isEmpty then c
    else
      let pass := forwardToken img (kvOfColumns c e img w.columns) (w.ctl.pendingTok.getD 0) p js
      (List.range (miLayers img)).foldl (fun c l => bs.foldl (fun c b =>
        match unitBlock c e w.columns (layerDie img e.homeDie l) b l with
        | none => c
        | some u => enqueue c u.pair (scoreCmd img die sid e.modelSlot p l pass b u)) c) c

/-- R59: batches that the batch queue of a die holds. -/
def batchMax : Nat := 2

/-- R301 to R305: forms the next batch of a die into the batch queue, when that has room. -/
def planBatch (c : Core) (die : Bool) : Core :=
  if batchMax ≤ (c.sched.get die).batches.length then c
  else
    let c := waking c die fun c => endHold (requeue (feedTokens c die) die)
    let fuel := queuedWork c die + 1
    let b := fillDecode die fuel { core := c }
    let n := b.rows.length
    let b := fillLanes die false n fuel (fillLanes die true n fuel b)
    let c := regPut b.core 0x410008 (if die then 63 else 31) (if die then 32 else 0) (min b.cycles (2 ^ 32 - 1))
    if b.rows.isEmpty then c
    else { c with sched := c.sched.mod die fun s => { s with batches := s.batches ++ [⟨b.slot.getD s.slot, b.rows⟩] } }

/-- The first batch of a queue that still holds a row, and those behind it. -/
def firstBatch : List Planned → Option (Planned × List Planned)
  | [] => none
  | b :: bs => if b.rows.isEmpty then firstBatch bs else some (b, bs)

/-- R299, R521: the next batch of a die becomes its step, once the last step has committed; its sessions that a cut has marked get their hasps. -/
def startStep (c : Core) (die : Bool) : Core :=
  if !(inStep (c.sched.get die)).isEmpty then c
  else match firstBatch (c.sched.get die).batches with
    | none => c
    | some (b, bs) =>
      let decodes := b.rows.filter fun r => r.chunk == 0
      let c := { c with sched := c.sched.mod die fun s =>
        { s with rows := s.rows ++ b.rows, slot := b.slot, lastRows := decodes.length, batches := bs } }
      let c := b.rows.foldl (fun c r => haspSession c r.session) c
      decodes.foldl (fun c r => enqueueBodies die decodes.length c r.session) c

/-- R59, R299, R301, R521: forms the next batch of a die, while fewer than two wait, and starts it when no step is in flight; neither while a checkpoint cut is due. -/
def batchForm (c : Core) (die : Bool) : Core :=
  if !serving c || cutDue c || (c.levels.get die).lost || c.twin.gaveUp then c
  else startStep (planBatch c die) die

/-- R301. -/
def execBatchForm (die : Bool) (s : State) : Host.Outcome State Fault Refusal := onCore s fun c => batchForm c die

/-! ## The commit point (R312 to R315) -/

/-- How a commit goes: it waits (a checkpoint's staging frame, one for pooled pages, mirror space), the row is discarded and the session requeued (R315), the step fails, one of its frames fails its check (R314, R472), or it commits. -/
inductive Commit where
  | wait
  | stageWait
  | mirrorWait (r : MirrorRec) (keep : Option Nat)
  | requeue
  | fail (st : Status)
  | bad (frame : Nat)
  | done (c : Core)
  deriving DecidableEq, Repr

/-- What a write that cannot go on makes of its step. -/
def Block.commit : Block → Commit
  | .wait => .wait
  | .noSpace => .fail .noSpace
  | .bad f => .bad f

/-- Inserts an id into an ascending set. -/
def insertAsc (x : Nat) (l : List Nat) : List Nat :=
  if l.contains x then l else l.takeWhile (· < x) ++ x :: l.dropWhile (· < x)

/-- How a step's output ends the turn (R288, R296): the end reason if any, the offset up to which bytes are delivered, whether a record is due. -/
structure OutEnd where
  reason : Option Nat
  byteEnd : Nat
  record : Bool
  deriving DecidableEq, Repr

/-- R285 to R288, R296: the output of a committed step whose token `tok` is the turn's `n`-th, at position `p`. -/
def outEnd (v : List Byte) (t : Turn) (stream : List Byte) (tok n p : Nat) : OutEnd :=
  let old := t.stream.length
  let hit := stopMatch stream t.stops old
  let tokEnd := if isStopTok v tok then some 1 else if isToolTok v tok then some 5 else none
  let plain := tokEnd.or ((hit.map fun _ => 2).or ((if n = t.maxTokens then some 3 else none).or
    (if p = positionLimit - 1 then some 4 else none)))
  let whole := (hit.getD stream.length)
  let due := if plain.isSome then whole else stream.length - heldLen stream t.stops
  let pass := t.outLen < due
  let reason := if pass then (tokEnd.or ((hit.map fun _ => 2).or (some 3))) else plain
  let stop := min (min t.outLen (hit.getD stream.length)) (if pass then old else stream.length)
  let be := max t.byteEnd (if reason.isSome then stop else due)
  ⟨reason, be, reason.isSome || t.byteEnd < be || t.uncovered + 1 = 255⟩

/-- R138: a record of the turn finds a stream entry and a place in the record queue. -/
def recordRoom (c : Core) (t : Turn) : Bool := streamRoom c t && queueRoom c

/-- R191, R330: a step of a session with pooled columns has no staging frame for their pages on a die that attends them. -/
def noStaging (c : Core) (img : List Byte) (e : Entry) (cols : Map Column) : Bool :=
  (cols.any fun p => p.2.pooled) &&
  ((List.range (miLayers img)).any fun l => c.mem.stagingFree.get (layerDie img e.homeDie l) == 0)

/-- R290, R308 to R313: the decode step of a session, committed or not. R473: where the output text fails its check value twice, no record is written and the turn ends in error after the step. -/
def decodeCommit (c : Core) (sid : Nat) (text : Bool) : Commit :=
  let e := entryOf c sid
  match mapGet c.sess.warm sid with
  | none => .fail .lost
  | some w => match w.turn, w.ctl.pendingTok with
    | some t, some tok =>
      let img := sessImg c sid
      let v := vocabOfSlot c e.modelSlot
      let p := e.nextPosition
      let P := pageP img
      if positionLimit ≤ p then .fail .noSpace
      else if let some f := (rangeFrames w w.columns).find? (frameBad c) then .bad f
      else
        let pass := forwardToken img (kvOfColumns c e img w.columns) tok p (attended w.columns P p)
        let g := sessionGrammar c e
        let mask := fun i => match g with | none => true | some g => maskBit g w.ctl i
        let seen := fun i => w.ctl.seen.contains i
        let z := logitsOf img pass.x
        if pass.bad || badLogits z mask seen t.repPenalty t.temperature then .fail .dataError
        else if noStaging c img e w.columns then .stageWait
        else
          let id := sample z mask seen t.temperature t.topK t.topP t.repPenalty (draw e.seed e.turn e.step)
          let stream := t.stream ++ outBytes v id
          let o := outEnd v t stream id (e.step + 1) p
          let quiet := e.cancelPending
          let masses := (attended w.columns P p).map fun j => (j, columnMass pass.fm j)
          let ctl := match g with | none => w.ctl | some g => advance g w.ctl id
          let ctl := { ctl with
            seen := insertAsc id ctl.seen
            pendingTok := if p = positionLimit - 1 then none else some id }
          let e' := { e with nextPosition := p + 1, resident := e.resident + 1, step := e.step + 1 }
          let mute := o.record && !quiet && !text
          let rec' := o.record && !quiet && text
          let t' := { t with
            stream := stream
            byteEnd := if rec' then o.byteEnd else t.byteEnd
            uncovered := if rec' then 0 else t.uncovered + 1
            lastRecord := if rec' && (streamOpen c t).isSome then some o.byteEnd else t.lastRecord }
          let m := MBody.step ctl e' pass.kv masses (some t') (if mute then some 8 else o.reason)
          let r := { mirrorRec c sid m with step := e'.step }
          if rec' && !recordRoom (dropKeep c sid) t then .requeue
          else if !mirrorRoom c r then .mirrorWait r (if rec' then streamOpen c t else none)
          else match writePosition img e.homeDie true false p pass.kv w.columns ⟨c, w⟩ with
            | .error b => b.commit
            | .ok (cols, x) => match writeCtl true x with
              | .error b => b.commit
              | .ok x =>
                let cols := cols.map fun q => (q.1, { q.2 with mass := columnMass pass.fm q.1 })
                let w' := { x.warm with columns := cols, ctl := ctl, turn := some t' }
                let c := setEntry (dropKeep x.core sid) sid e'
                let c := storeRange ⟨c, w'⟩ sid
                let c := mirror c sid m
                let c := if rec' then
                    pushStream c sid e' { t with stream := stream } (t.uncovered + 1) e.step o.byteEnd o.reason.isSome
                  else c
                if mute then .done (endTurn c sid 8 .dataError w' t')
                else match o.reason with
                | none => .done c
                | some r =>
                  .done (if quiet then cancelTurn c sid w' t' else endTurn c sid r .ok w' t')
    | _, _ => .fail .dataError

/-- R306, R307: `n` positions of an APPEND's lane; a router logit that is not a number ends it (R253). -/
def lanePositions (img : List Byte) (e : Entry) : Nat → Range → Lane → Except Commit (Range × Lane)
  | 0, x, ln => .ok (x, ln)
  | n + 1, x, ln =>
    let p := e.nextPosition + ln.done
    let pass := forwardToken img (kvOfColumns x.core e img ln.cols) (nth ln.toks ln.done 0) p (attended ln.cols (pageP img) p)
    if pass.bad then .error (.fail .dataError)
    else match writePosition img e.homeDie false true p pass.kv ln.cols x with
      | .error b => .error b.commit
      | .ok (cols, x) => lanePositions img e n x { ln with cols := cols, done := ln.done + 1 }

/-- R162: hasps that a lane's writes resolved are gone from the session's own entries too. -/
def clearResolved (old new : Map Column) : Map Column :=
  old.map fun p =>
    let now := ((mapGet new p.1).map (·.leaves)).getD []
    (p.1, { p.2 with leaves := p.2.leaves.map fun l =>
      if (now.any fun k => k.frame == l.frame && !k.hold) then { l with hold := false } else l })

/-- The bytes that a chunk wrote, by position, for its mirror record. -/
def chunkKv (c : Core) (e : Entry) (img : List Byte) (cols : Map Column) (first n : Nat) : List (List (List Byte)) :=
  (List.range n).map fun i => (List.range (miLayers img)).map fun l => kvOfColumns c e img cols l (first + i)

/-- R304, R307, R274: the chunk of a session's APPEND, committed or not. -/
def chunkCommit (c : Core) (sid n : Nat) : Commit :=
  let e := entryOf c sid
  match mapGet c.sess.warm sid with
  | none => .fail .lost
  | some w => match w.lane with
    | none => .fail .dataError
    | some ln =>
      let img := sessImg c sid
      if let some f := (rangeFrames w ln.cols).find? (frameBad c) then .bad f
      else if noStaging c img e ln.cols then .stageWait
      else match lanePositions img e n ⟨c, w⟩ ln with
        | .error r => r
        | .ok (x, ln') =>
          let kv := chunkKv x.core e img ln'.cols (e.nextPosition + ln.done) n
          let r := mirrorRec c sid (.chunk (e.nextPosition + ln.done) kv)
          if !mirrorRoom c r then .mirrorWait r none
          else
            let w' := { x.warm with lane := some ln', columns := clearResolved x.warm.columns ln'.cols }
            let c := mirror (storeRange ⟨x.core, w'⟩ sid) sid (.chunk (e.nextPosition + ln.done) kv)
            if ln'.done < ln'.toks.length then .done c
            else match writeCtl false ⟨c, w'⟩ with
              | .error b => b.commit
              | .ok x => .done (appendDone x sid ln')

/-- R355: the chunk of a registration. -/
def regCommit (c : Core) (ring n : Nat) : Commit :=
  match mapGet c.obj.registering ring with
  | none => .fail .dataError
  | some r =>
    let img := imgOf c r.slot
    match regPositions img ring n c with
    | .error st => match ((regHeld r).find? (frameBad c)) with
      | some f => .bad f
      | none => .fail st
    | .ok c =>
      if r.done + n < r.toks.length then .done c
      else
        let c := leaveLane c r.die r.desc.account (regLane ring)
        .done (if regWindow r.desc = 0 then regFinish c ring (regDies r.desc) else c)

/-- A row leaves the step in flight; the last one ends the step (SCHED_STEP_STAT, SCHED_STEP_TIME). -/
def removeRow (c : Core) (die : Bool) (sid : Nat) (committed : Bool) : Core :=
  let c := dropKeep { c with ckpt := { c.ckpt with stalled := mapDel c.ckpt.stalled sid } } sid
  let c := { c with sched := c.sched.mod die fun s =>
    { s with rows := s.rows.filter fun r => r.session != sid, waitMirror := s.waitMirror.filter (· != sid) } }
  let c := if mapHas c.twin.entered sid then { c with twin := { c.twin with entered := mapDel c.twin.entered sid } } else c
  if (inStep (c.sched.get die)).isEmpty && committed then
    let t := Config.stepCycles c.draws % 2 ^ 32
    let c := regCount { c with draws := c.draws + 1 } 0x500108 31 0 1
    regPut c 0x500110 (if die then 63 else 31) (if die then 32 else 0) t
  else c

/-- R516: a session's committed decode step counts for every class whose scope holds its class. -/
def countSince (c : Core) (sid : Nat) : Core :=
  let k := (entryOf c sid).ckptClass
  { c with ckpt := { c.ckpt with classes := c.ckpt.classes.map fun p =>
      (p.1, if bit p.2.scope k then { p.2 with since := p.2.since + 1 } else p.2) } }

/-- R162: a commit that waits for a staging frame is counted once. -/
def stallCommit (c : Core) (sid : Nat) : Core :=
  if mapHas c.ckpt.stalled sid then c
  else countHaspWait { c with ckpt := { c.ckpt with stalled := mapSet c.ckpt.stalled sid () } }

/-- R23, R307, R354: a row's part of the step fails. -/
def failRow (c : Core) (die : Bool) (r : Row) (st : Status) : Core :=
  let c := chargeDrop c die r.account r.bucket r.charge
  let c := removeRow c die r.session false
  if 2 ^ 24 ≤ r.session then
    let ring := r.session - 2 ^ 24
    match mapGet c.obj.registering ring with
    | none => c
    | some g =>
      let c := leaveLane c g.die g.desc.account r.session
      complete (regAbort c ring) g.desc (if st = .noSpace then .noSpace else .partFailed) 0 0
  else if r.chunk = 0 then stopTurn c r.session 8 st
  else appendFail c r.session st

/-- The opcode that a row serves (R484). -/
def rowOpcode (r : Row) : Nat := if 2 ^ 24 ≤ r.session then 0x30 else if r.chunk = 0 then 0x14 else 0x13

/-- R477: the status of a step that several faults met. -/
def faultOrder : List Status := [.lost, .fenced, .tierTimeout, .tierError, .partFailed, .dataError]

/-- R477. -/
def worstFault (fs : List Status) : Option Status := faultOrder.find? fun s => fs.contains s

/-- R312 to R315, R444, R477: one session's part of a step commits, or ends with the worst of the faults that met it. -/
def stepCommit (c : Core) (die : Bool) (sid : Nat) (text : Bool) : Core :=
  match (c.sched.get die).rows.find? fun r => r.session == sid with
  | none => c
  | some r =>
    if !serving c || c.twin.gaveUp || unitsBusy c (.step die sid) then c
    else
      let out := if 2 ^ 24 ≤ sid then regCommit c (sid - 2 ^ 24) r.chunk
        else if r.chunk = 0 then decodeCommit c sid text else chunkCommit c sid r.chunk
      match worstFault r.faults, out with
      | some st, .fail st' => failRow c die r ((worstFault (st' :: r.faults)).getD st)
      | some st, .bad f => failRow (noteBad c (sid % 2 ^ 24) (rowOpcode r) .partFailed f) die r ((worstFault (.partFailed :: r.faults)).getD st)
      | some st, _ => failRow c die r st
      | none, .wait => stallCommit c sid
      | none, .stageWait => c
      | none, .mirrorWait m ring =>
        let c := enterPiece c m
        let c := match ring with
          | some q => { c with rings := { c.rings with keep := mapSet c.rings.keep sid q } }
          | none => c
        if (c.sched.get die).waitMirror.contains sid then c
        else { c with sched := c.sched.mod die fun s => { s with waitMirror := sid :: s.waitMirror } }
      | none, .requeue =>
        let c := chargeDrop c die r.account r.bucket r.charge
        removeRow (modEntry c sid fun e => { e with state := .queued }) die sid false
      | none, .fail st => failRow c die r st
      | none, .bad f => failRow (noteBad c (sid % 2 ^ 24) (rowOpcode r) .partFailed f) die r .partFailed
      | none, .done c' =>
        let c' := chargeTake c' die r.account r.bucket r.charge
        let c' := countWalks (removeRow c' die sid true)
        let c' := if sid < 2 ^ 24 then walkSession c' sid else c'
        if r.chunk = 0 then countSince c' sid else c'

/-- R312. -/
def execStepCommit (die : Bool) (session : Nat) (text : Bool) (s : State) : Host.Outcome State Fault Refusal :=
  onCore s fun c => waking c die fun c => stepCommit c die session text

/-! ## Failed steps (R23, R314, R477) -/

/-- The error log entry of a fault that ended a request (R476, R484); the other faults have entries of their own events. -/
def logFault (c : Core) (die : Bool) (sid opcode : Nat) (st : Status) : Core :=
  match st with
  | .partFailed | .dataError => logErr c { kind := 3, die := die, session := sid, status := stCode st, opcode := opcode }
  | .tierTimeout | .tierError => logErr c { kind := 0x0A, die := die, session := sid, status := stCode st, opcode := opcode }
  | _ => c

/-- R23, R25, R314: a session's part of a step ends with the faults that met it. -/
def stepFailed (c : Core) (die : Bool) (sid : Nat) (faults : List Status) : Core :=
  match (c.sched.get die).rows.find? fun r => r.session == sid, worstFault faults with
  | some r, some st0 =>
    let st := (worstFault (faults ++ r.faults)).getD st0
    let op := rowOpcode r
    if st = .lost && sid < 2 ^ 24 then
      let c := chargeDrop c die r.account r.bucket r.charge
      match mapGet c.sess.inProg sid with
      | some d =>
        let t := ((mapGet c.sess.warm sid).bind (·.turn)).map (·.lastRecord.getD 0)
        let n := (entryOf c sid).step
        let rep := turnReplayed c sid
        let c := loseSession (removeRow c die sid false) sid 1 .lost op false
        if r.chunk = 0 then tellTurn c sid d rep .lost n (t.getD 0) else complete c d .lost 0 0
      | none => loseSession (removeRow c die sid false) sid 1 .lost op false
    else failRow (logFault c die (sid % 2 ^ 24) op st) die r st
  | _, _ => c

/-- R23. -/
def execStepFailed (die : Bool) (session : Nat) (faults : List Status) (s : State) : Host.Outcome State Fault Refusal :=
  whenReady s fun c => stepFailed c die session faults

end Sys2Proof.Machine
end

