-- ==== Sys2Proof/Machine/Wake.lean ====
section
/-! DEFINITION. How switched domains, PLLs and the package wake (21_power R558, R562 to R564), and host accesses to BAR0, each of which may wake it (R86, R571). -/

namespace Sys2Proof.Machine

/-! ## Domains and PLLs (R51, R558, R560, R562) -/

/-- Changes the power state. -/
def modPower (c : Core) (f : Power → Power) : Core := { c with power := f c.power }

/-- A domain is powered. -/
def domainOn (c : Core) (n : Nat) : Bool := bit c.power.domains n

/-- R560: the die of a domain. -/
def domainDie (n : Nat) : Bool :=
  if n < 64 then decide (32 ≤ n) else if n < 72 then decide (68 ≤ n) else if n < 80 then decide (76 ≤ n)
  else if n < 88 then decide (84 ≤ n) else if n < 104 then decide (96 ≤ n) else decide (108 ≤ n)

/-- R51: the domains that must serve before a domain. -/
def parentsOf (n : Nat) : Nat :=
  if n < 64 then 2 ^ (64 + n / 8)
  else if 80 ≤ n && n < 88 then 2 ^ (n - 8)
  else 0

/-- R558: the PLL of its die that clocks a domain: arithmetic for clusters, stack PHY for stack controllers and bank-unit groups, fabric and loft for the others (R558 names the PLLs by what they serve; DEDUCED, log 166). -/
def pllOf (n : Nat) : Nat := 2 ^ ((if n < 64 then 0 else if 72 ≤ n && n < 88 then 2 else 1) + if domainDie n then 4 else 0)

/-- The PLLs that a set of domains needs. -/
def pllsOf (domains : Nat) : Nat := (List.range 112).foldl (fun v n => if bit domains n then v ||| pllOf n else v) 0

/-- The stack whose controller or bank-unit group a domain is. -/
def stackOfDomain (n : Nat) : Option Nat := if 72 ≤ n && n < 88 then some (n % 8) else none

/-- R560, R563, R576: a stack enters or leaves self-refresh. -/
def refreshSelf (on : Bool) (k : Stack) : Stack := { k with selfRefresh := on }

/-- The step scheduler of a die (R560). -/
def schedDomain (die : Bool) : Nat := if die then 100 else 92

/-- R564: refills that fell due while a die's step scheduler was off are applied, as many at once. -/
def applyDue (c : Core) (die : Bool) : Core :=
  let x := c.sched.get die
  if x.dueBuckets = 0 && x.dueMeters = 0 then c
  else
    let c := refillBuckets (refillMeters c die x.dueMeters) die x.dueBuckets
    { c with sched := c.sched.mod die fun s => { s with dueBuckets := 0, dueMeters := 0 } }

/-- R558, R562: domains power on; the PLLs that clock them lock (before READY they lock by themselves, R570), stacks of theirs leave self-refresh, and a step scheduler applies what fell due (R564). -/
def startDomains (c : Core) (domains : Nat) : Core :=
  let woken := ((List.range 16).filter fun i => bit domains (72 + i)).map (· % 8)
  let c := woken.foldl (fun c k => { c with stackTab := mapMod c.stackTab k (refreshSelf false) }) c
  let c := modPower c fun p =>
    { p with domains := p.domains ||| domains, locks := if p.ready then p.locks ||| pllsOf domains else p.locks }
  let c := if bit domains (schedDomain false) then applyDue c false else c
  if bit domains (schedDomain true) then applyDue c true else c

/-- R51, R562: a domain powers on, its parents with it. -/
def domainStart (c : Core) (n : Nat) : Core := startDomains c (2 ^ n ||| parentsOf n)

/-! ## Clusters, region by region (R561) -/

/-- R561: the aon cycles of 1 µs. -/
def regionGap : Nat := 25

/-- R561: a region's clusters may start: no other region of the die started in the last 1 µs. -/
def mayStart (c : Core) (die : Bool) (region : Nat) : Bool :=
  match c.power.started.get die with
  | none => true
  | some (r, at_) => r == region || at_ + regionGap ≤ c.aon

/-- R561: the waiting clusters of one region start together. -/
def startRegion (c : Core) (die : Bool) (region : Nat) : Core :=
  let mine := fun (k : Nat) => k / 8 == region
  let go := (c.power.waking.get die).filter mine
  go.foldl (fun c k => domainStart c (k + if die then 32 else 0)) (modPower c fun p => { p with
    waking := p.waking.mod die (·.filter fun k => !mine k)
    started := p.started.set die (some (region, c.aon)) })

/-- R561: of the regions of a die that wait, the lowest starts as soon as one may. -/
def startWaiting (c : Core) (die : Bool) : Core :=
  match (c.power.waking.get die).map (· / 8) with
  | [] => c
  | r :: rs =>
    let low := rs.foldl Nat.min r
    if mayStart c die low then startRegion c die low else c

/-- Every switched domain that is no cluster (R560). -/
def otherDomains : Nat := 2 ^ 112 - 2 ^ 64

/-- R561, R570: every switched domain leaves reset: the clusters by region, the others at once. -/
def startAll (c : Core) : Core :=
  let c := modPower c fun p => { p with domains := otherDomains, waking := ⟨List.range 32, List.range 32⟩, started := ⟨none, none⟩ }
  startWaiting (startWaiting c false) true

/-! ## Wake sources (R563) -/

/-- R563: the sources that end deep idle: a doorbell write, a BAR0 access, a local timer of a die's step scheduler or of the checkpoint writers, a twin-link frame with the die of the shadow that its mirror record is for, heartbeat silence. -/
inductive WakeSource where
  | doorbell
  | bar0
  | scheduler (die : Bool)
  | writers
  | frame (shadow : Option Bool)
  | silence
  deriving DecidableEq, Repr

/-- R563, R49: the domains that a source wakes: for a doorbell the external port with its ring fetcher, the step scheduler with its session router, and the translation walker; for a mirror record die 1's port and the step scheduler of the shadow's die; for a takeover both step schedulers. The fabric and the checkpoint writer have no domain of their own (DESIGN CHOICE, log 166). -/
def wakeDomains : WakeSource → Nat
  | .doorbell => 2 ^ 92 ||| 2 ^ 93 ||| 2 ^ 95
  | .scheduler die => 2 ^ schedDomain die
  | .frame none => 2 ^ 103
  | .frame (some die) => 2 ^ 103 ||| 2 ^ schedDomain die
  | .silence => 2 ^ 92 ||| 2 ^ 100
  | .bar0 | .writers => 0

/-- R563: the PLLs that a source locks beside those of its domains: every fast PLL of die 0 for a doorbell, both dies' for a takeover, the fabric's for a BAR0 access and for the checkpoint writers (DESIGN CHOICE, log 166). -/
def wakePlls : WakeSource → Nat
  | .doorbell => 0x07
  | .bar0 => 0x02
  | .writers => 0x22
  | .silence => 0x77
  | .scheduler _ | .frame _ => 0

/-- R563: deep idle ends, and the exit is counted. -/
def leaveDeep (c : Core) (plls : Nat) : Core :=
  regCount (modPower c fun p => { p with deep := false, locks := p.locks ||| plls }) 0x900020 63 32 1

/-- R563: a source ends deep idle: what it wakes powers on. -/
def wakeBy (c : Core) (x : WakeSource) : Core :=
  if c.power.deep then startDomains (leaveDeep c (wakePlls x)) (wakeDomains x) else c

/-- R563, R564: a local timer wakes a die's step scheduler. -/
def wakeScheduler (c : Core) (die : Bool) : Core :=
  let c := wakeBy c (.scheduler die)
  if domainOn c (schedDomain die) then c else domainStart c (schedDomain die)

/-! ## Refills (R446, R453, R564) -/

/-- R446, R564: bucket refills of a die: held while its step scheduler is off. -/
def execBucketRefill (die : Bool) (n : Nat) (s : State) : Host.Outcome State Fault Refusal :=
  whenReady s fun c =>
    if domainOn c (schedDomain die) then refillBuckets c die n
    else { c with sched := c.sched.mod die fun x => { x with dueBuckets := x.dueBuckets + n } }

/-- R453, R564: meter refills of a die: held while its step scheduler is off. -/
def execMeterRefill (die : Bool) (n : Nat) (s : State) : Host.Outcome State Fault Refusal :=
  whenReady s fun c =>
    if domainOn c (schedDomain die) then refillMeters c die n
    else { c with sched := c.sched.mod die fun x => { x with dueMeters := x.dueMeters + n } }

/-! ## BAR0 writes (R86, R571) -/

/-- R578, R581: the switched domains of the block that holds the registers at an offset: walker, stack controller and bank-unit group, tokenizer, tumbler, thresher, retrieval unit, step scheduler, and die 1's port for the twin link. Every other block is always on, or lies in the port or the loft periphery, which R560 keeps on. A block of both dies is reached on die 0 (DESIGN CHOICE, log 181). -/
def blockDomains (off : Nat) : Nat :=
  if off < 0x100000 then 0
  else if off < 0x200000 then 2 ^ 93
  else if 0x300000 ≤ off && off < 0x380000 then
    let k := (off - 0x300000) / 0x10000
    2 ^ (72 + k) ||| if 0x100 ≤ off % 0x10000 && off % 0x10000 < 0x180 then 2 ^ (80 + k) else 0
  else if 0x400000 ≤ off && off < 0x410000 then 2 ^ 88
  else if 0x410000 ≤ off && off < 0x420000 then 2 ^ 89
  else if 0x420000 ≤ off && off < 0x430000 then 2 ^ 90
  else if 0x430000 ≤ off && off < 0x500000 then 2 ^ 91
  else if 0x500000 ≤ off && off < 0x600000 then 2 ^ 92
  else if 0x700000 ≤ off && off < 0x710000 then 2 ^ 103
  else 0

/-- R581: the block of a register serves: its domains power on where they are off. -/
def wakeBlock (c : Core) (off : Nat) : Core :=
  if c.power.domains &&& blockDomains off = blockDomains off then c else startDomains c (blockDomains off)

/-- R563, R581: an access to BAR0 ends deep idle and wakes the block that it reaches. -/
def hostAccess (c : Core) (off : Nat) : Core := wakeBlock (wakeBy c .bar0) off

/-- R86, R571: a BAR0 write of `size` bytes at `off`: ignored and logged before READY or when misaligned, else taken. -/
def bar0Write (c : Core) (off size : Nat) (f : Core → Core) : Core :=
  if !c.power.on then c
  else if !barReady c then logHost c 0x0C off
  else if !alignedAccess off size then logHost c 0x0B off
  else f (hostAccess c off)

end Sys2Proof.Machine
end

