-- ==== Sys2Proof/Machine/Sessions.lean ====
section
/-! DEFINITION. Sessions (01_sessions): SESS_OPEN, SESS_CLOSE, SESS_QUERY, the loss of a session by event, idle ages (22_registers R586). -/

namespace Sys2Proof.Machine

/-! ## Session contents as sent or recorded (R495, R501, R524) -/

/-- The valid columns of a warm session in full. -/
def imageCols (c : Core) (e : Entry) (w : Warm) : List ImageCol :=
  let L := miLayers (imgOf c e.modelSlot)
  w.columns.map fun p =>
    { col := p.1, slot := p.2.slot, pooled := p.2.pooled, score := p.2.score, mass := p.2.mass
      pages := (List.range L).map fun l => pageCells c e p.1 l p.2 }

/-- The contents of a warm session. -/
def imageOf (c : Core) (sid : Nat) : Option Image :=
  (mapGet c.sess.warm sid).map fun w =>
    let e := entryOf c sid
    { entry := e, ctl := w.ctl, mapCount := w.mapPages.length, cols := imageCols c e w, cleared := w.cleared }

/-! ## The twin's side of admission (R494, R497) -/

/-- R494: the id is not FREE on the twin. -/
def idOnTwin (c : Core) (sid : Nat) : Bool :=
  paired c && (mapHas c.twin.shadows sid || (c.twin.hello.map fun h => h.ids.contains sid).getD false)

/-- R497: the slot's model is not loaded on the twin with the same digest. -/
def slotNotOnTwin (c : Core) (slot : Nat) : Bool :=
  paired c && (c.twin.hello.bind fun h => mapGet h.slots slot) != some (modelDigest (imgOf c slot))

/-! ## SESS_OPEN (R32 to R34) -/

/-- R32: fields of SESS_OPEN. -/
def openSlot (d : Desc) : Nat := d.field 2 3 0 0
def openGrammar (d : Desc) : Nat := d.field 2 15 4 0
def openBind (d : Desc) : Bool := d.field 2 16 16 0 == 1
def openClass (d : Desc) : Nat := d.field 2 19 17 0
def openPrefix (d : Desc) : Nat := d.field 2 63 32 0

/-- R70, R71: the home die of an open with a prefix. -/
def openDie (c : Core) (sid : Nat) (p : Option Prefix) : Bool :=
  match p.map (·.dies) with
  | some 1 => false
  | some 2 => true
  | _ => placeDie c sid

/-- Checks 5 and 6 of R33. -/
def checkOpenGrammar (d : Desc) : M Unit := do
  if openBind d then
    let c ← getC
    match mapGet c.obj.grammars (openGrammar d) with
    | none => refuse .unknownHandle
    | some g => check (grammarVocab g.image != modelVocab (imgOf c (openSlot d))) .invalidField

/-- Checks 7 and 8 of R33: the prefix to attach. -/
def checkOpenPrefix (d : Desc) : M (Option Prefix) := do
  if openPrefix d = 0 then return none
  match mapGet (← getC).obj.prefixes (openPrefix d) with
  | none => refuse .unknownHandle
  | some p =>
    check (p.slot != openSlot d) .invalidField
    return some p

/-- R152, R358, R359: the range of an open: frames may be short, or a page of the prefix that is copied fails its check. -/
def openRange (c : Core) (home : Bool) (p : Option Prefix) : Except Block Range :=
  if freeFor c home < 3 then .error .noSpace
  else
    let x := freshRange c home
    match p with
    | none => .ok x
    | some p => match attachPrefix x.core p home x with
      | .error b => .error b
      | .ok (cols, x) =>
        if grantShort x.core (imgOf c p.slot) home { x.warm with columns := cols } then .error .noSpace
        else .ok ⟨x.core, { x.warm with columns := cols }⟩

/-- R28, R34: the entry of an open. -/
def openEntry (d : Desc) (home : Bool) (root len : Nat) : Entry :=
  { state := .idle, modelSlot := openSlot d, grammarId := if openBind d then openGrammar d else 0
    grammarBound := openBind d, homeDie := home, prefixAttached := openPrefix d != 0, account := d.account
    ckptClass := openClass d, rootFrame := root, nextPosition := len, resident := len
    seed := BitVec.ofNat 64 (d.field 3 63 0 0), prefixHandle := openPrefix d }

/-- R33, R34: SESS_OPEN. -/
def sessOpenBody (d : Desc) : M Done := do
  leaseFirst
  let sid := d.session
  check (sid == 0 || d.account == 0) .invalidField
  let e := entryOf (← getC) sid
  check (e.state == .lost) .lost
  check (e.state != .free || idOnTwin (← getC) sid) .wrongState
  check (!mapHas (← getC).acctCfg d.account) .unknownHandle
  check (loadedModel (← getC) (openSlot d)).isNone .unknownHandle
  check (slotNotOnTwin (← getC) (openSlot d)) .wrongState
  checkOpenGrammar d
  let p ← checkOpenPrefix d
  let c ← getC
  let home := openDie c sid p
  match openRange c home p with
  | .error (.bad f) => failFrame f .dataError
  | .error _ => refuse .noSpace
  | .ok x =>
    let len := (p.map fun p => p.toks.length).getD 0
    let ctl := match (if openBind d then mapGet c.obj.grammars (openGrammar d) else none) with
      | some g => bindCtl {} g.image
      | none => {}
    let c := setEntry x.core sid (openEntry d home (nth x.warm.tables 0 0) len)
    putC (storeRange ⟨c, { x.warm with ctl := ctl }⟩ sid)
    let c ← getC
    mirrorM sid (.opened (entryOf c sid) (if p.isSome then imageOf c sid else none))
    return .done .ok len 0

/-- R33. -/
def execSessOpen (d : Desc) (env : Env) (s : State) : Host.Outcome State Fault Refusal :=
  .next (acceptSession s d env (sessOpenBody d))

/-! ## SESS_CLOSE (R19, R20) -/

/-- The session's entry and what it holds go; the entry is FREE. -/
def freeSession (c : Core) (sid : Nat) : Core :=
  let c := leaveWarm c sid
  let c := leaseTaken (rereadDone c sid) sid
  setEntry (clearIndex (freeStored c sid) sid) sid {}

/-- R20: the lease of a LOST session whose index entry was kept. -/
def closeLost (ix : SheafIx) : M Unit := do
  let v ← readLease ix
  let c ← getC
  if v = heldWord c ix.generation then
    match ← swapWord ix.window (sheafOff c ix) v (releasedWord c ix.generation) with
    | .old o => if ownWord c ix.generation o then releaseRun ix.window (sheafRun c ix)
    | .notDone st => refuse st
    | .unknown st => refuse st
  else if v = releasedWord c ix.generation then releaseRun ix.window (sheafRun c ix)

/-- R19, R20: SESS_CLOSE. -/
def sessCloseBody (d : Desc) : M Done := do
  let landed ← leaseRead
  let sid := d.session
  let e := entryOf (← getC) sid
  match e.state with
  | .free => refuse .wrongState
  | .pooled =>
    takeoverLease sid
    match mapGet (← getC).mem.index sid with
    | none => pure ()
    | some ix =>
      if uncopied (← getC) sid 2 then waitInside
      if !landed then releaseLease ix
      releaseRun ix.window (sheafRun (← getC) ix)
  | .lost =>
    match mapGet (← getC).mem.index sid with
    | some ix =>
      if uncopied (← getC) sid 2 then waitInside
      if ix.place = 2 then closeLost ix
    | none => pure ()
  | _ => pure ()
  mirrorM sid (.closed 0)
  modC fun c => freeSession c sid
  return .done .ok 0 0

/-- R19. -/
def execSessClose (d : Desc) (env : Env) (s : State) : Host.Outcome State Fault Refusal :=
  .next (acceptSession s d env (sessCloseBody d))

/-! ## SESS_QUERY (R35) -/

/-- R35: SESS_QUERY. -/
def sessQueryBody (d : Desc) : M Done := do
  accountCheck d
  let c ← getC
  let sid := d.session
  let e := entryOf c sid
  let a := d.field 2 63 0 0
  check (a % 64 != 0) .invalidField
  if a ≠ 0 then postBus 0 a (wordsBytes (entryWords c e (heldBehind c sid)))
  return .done .ok (fieldAt 0 4 (stateCode e.state) + fieldAt 4 4 e.endReason) e.nextPosition

/-- R11, R15, R35: SESS_QUERY acts as soon as it is accepted, in every state. -/
def execSessQuery (d : Desc) (s : State) : Host.Outcome State Fault Refusal :=
  .next (if serving s.core then settle s d [] (sessQueryBody d) else s)

/-! ## LOST by event (R25, R26) -/

/-- A session's requests to the outside are abandoned, but for a SESS_QUERY, which every state answers (R15). -/
def dropWaiting (c : Core) (sid : Nat) : Core :=
  { c with sess := { c.sess with waiting := c.sess.waiting.filter fun w => w.desc.session != sid || w.desc.opcode == 0x12 } }

/-- R22, R25: the owning request of a session that is lost completes; a turn reports its steps and bytes (R297). -/
def completeLost (c : Core) (sid : Nat) (replayed : Bool) (st : Status) (steps be : Nat) : Core :=
  match mapGet c.sess.inProg sid with
  | none => c
  | some d => if d.opcode = 0x14 then tellTurn c sid d replayed st steps be else complete c d st 0 0

/-- R22, R25, R26: a session becomes LOST by event, its owning request with it. -/
def loseByEvent (c : Core) (sid cause : Nat) : Core :=
  let st : Status := if cause = 3 then .leaseLost else .lost
  let e := entryOf c sid
  let be := (((mapGet c.sess.warm sid).bind (·.turn)).bind (·.lastRecord)).getD 0
  let op := ((mapGet c.sess.inProg sid).map (·.opcode)).getD 0
  let rep := turnReplayed c sid
  let c := loseSession c sid cause st op (cause == 2)
  completeLost (dropWaiting c sid) sid rep st e.step be

/-- R22: the states from which a cause of R142 makes a session LOST. -/
def canBeLost (e : Entry) (cause : Nat) : Bool :=
  match cause with
  | 1 => isWarm e.state || e.state == .parked
  | 2 => e.state == .parked || e.state == .pooled
  | 3 => e.state == .pooled || e.state == .moving
  | _ => false

/-- R26. -/
def execSessionLost (session cause : Nat) (s : State) : Host.Outcome State Fault Refusal :=
  whenReady s fun c => if canBeLost (entryOf c session) cause then loseByEvent c session cause else c

/-! ## Idle ages (R586) -/

/-- R586: a session's age rises: IDLE or WAITING with no descriptor carried out or held. -/
def ages (c : Core) (sid : Nat) (e : Entry) : Bool :=
  (e.state == .idle || e.state == .waiting) && !mapHas c.sess.inProg sid && (heldOf c sid).isEmpty

/-- R586: the threshold of a state's register; 0 disables. -/
def parkAge (c : Core) (st : SState) : Nat :=
  match st with
  | .idle => regField c 0x500000 31 0
  | .waiting => regField c 0x500008 31 0
  | _ => 0

/-- R586: a session's age is at or above its non-zero threshold. -/
def overAge (c : Core) (sid : Nat) : Bool :=
  let e := entryOf c sid
  ages c sid e && 0 < parkAge c e.state && parkAge c e.state ≤ e.idleAge

/-- R586: the comparison of a die: its sessions at their threshold are due, beside those whose park is running. -/
def compareAges (c : Core) (die : Bool) : Core :=
  let other := c.sess.due.filter fun p => (entryOf c p.1).homeDie != die || mapHas c.sess.parking p.1
  let found := c.sess.dir.filter fun p => p.2.homeDie == die && overAge c p.1
  { c with sess := { c.sess with due := found.foldl (fun m p => mapSet m p.1 ()) other } }

/-- R586, R564: every 2^20 aon cycles, the ages of a die's sessions rise by 1 and are compared; a threshold that falls due wakes the die's step scheduler. -/
def ageSessions (c : Core) (die : Bool) : Core :=
  let c := compareAges ((c.sess.dir.filter fun p => p.2.homeDie == die && ages c p.1 p.2).foldl
    (fun c p => setEntry c p.1 { p.2 with idleAge := satAdd 32 p.2.idleAge 1 }) c) die
  if c.sess.due.any fun p => (entryOf c p.1).homeDie == die then wakeScheduler c die else c

/-- R586. -/
def execIdleAgeTick (die : Bool) (s : State) : Host.Outcome State Fault Refusal :=
  onCore s fun c => if serving c then ageSessions c die else c

end Sys2Proof.Machine
end

