-- ==== Sys2Proof/Machine/Parking.lean ====
section
/-! DEFINITION. PARK and the policy park, REVIVE (14_parking R392 to R394, 06_tiers R203, R204). -/

namespace Sys2Proof.Machine

/-! ## Packing (R393, R396 to R398) -/

/-- R396: leading columns that map prefix frames or are pooled. -/
def prefixColumns (w : Warm) : Nat :=
  ((List.range (w.columns.length + 1)).takeWhile fun j =>
    match mapGet w.columns j with
    | some col => col.pooled || (!col.leaves.isEmpty && col.leaves.all (·.shared))
    | none => false).length

/-- R397: KV pages of a warm session, columns ascending, layers within. -/
def kvPages (c : Core) (e : Entry) (w : Warm) : List (List Byte) :=
  (imageCols c e w).flatMap fun col => col.pages.map pageBytes

/-- R402: the code table of a slot, derived for its first sheaf. -/
def codesFor (c : Core) (slot kvFmt : Nat) (pages : List (List Byte)) : List Nat × Core :=
  match mapGet c.obj.models slot with
  | none => (flatCodes kvFmt, c)
  | some m =>
    if m.codes.isEmpty then
      let t := deriveCodes kvFmt pages
      (t, { c with obj := { c.obj with models := mapSet c.obj.models slot { m with codes := t } } })
    else (m.codes, c)

/-- R396: the header of a session about to be packed, under a stamp and a code table. -/
def headOf (c : Core) (e : Entry) (w : Warm) (stamp : Nat) (lens : List Nat) : SheafHead :=
  let img := imgOf c e.modelSlot
  { kvFmt := miKvFmt img, spanned := miSpanned img, layers := miLayers img, columns := w.columns.length
    mapPages := w.mapPages.length, digest := modelDigest img, stamp := stamp, prefixHandle := e.prefixHandle
    prefixCols := prefixColumns w
    prefixStamp := ((mapGet c.obj.prefixes e.prefixHandle).map fun p => p.stamp.toNat).getD 0
    lens := lens, entry := e }

/-- R395: the sheaf of a warm session. -/
def packSession (c : Core) (e : Entry) (w : Warm) (stamp : Nat) (lens : List Nat) (lease : Nat) : List Byte :=
  let h := headOf c e w stamp lens
  let other := ctlPage w.ctl w.columns w.cleared :: (List.range w.mapPages.length).map (mapPage w.columns w.cleared)
  let kv := kvPages c e w
  sheafBytes h (other.map packOther ++ kv.map (packKv h.kvFmt lens)) (other ++ kv) lease

/-- R203: u of a warm session. -/
def unpackedSize (c : Core) (e : Entry) (w : Warm) : Nat :=
  65536 * (1 + w.mapPages.length + w.columns.length * miLayers (imgOf c e.modelSlot))

/-- R361: the pages of pooled columns are read from their window as the session is packed. -/
def readPooled (e : Entry) (w : Warm) : M Unit := do
  if !(w.columns.any fun p => p.2.pooled) then return ()
  match mapGet (← getC).obj.prefixes e.prefixHandle with
  | none => return ()
  | some p =>
    let want := p.pooled.flatten.flatMap pageBytes
    let got ← winRead p.window (unitOff (winOf (← getC) p.window) p.run.first) want.length
    if got != want then failLogged 3 .dataError

/-! ## Places (R203) -/

/-- A reserved place of a sheaf. -/
inductive SheafPlace where
  | barn (die : Bool)
  | pool (w : Nat) (r : Run)
  | spill (first units : Nat)
  deriving DecidableEq, Repr

/-- R203 place 3: a window the chain may use. -/
def sheafWindow (c : Core) (w : Nat) : Bool :=
  deviceNo c != 0 && regField c (0x200210 + 0x20 * w) 1 1 == 1 && (winOf c w).state == 1

/-- R203: windows in rotation from the one after the last used. -/
def windowOrder (c : Core) : List Nat := (List.range 15).map fun i => (c.mem.lastWindow + i) % 15 + 1

/-- R200, R203 place 4: the first run of free spill units. -/
def spillRun (c : Core) (n : Nat) : Option Nat :=
  let units := regField c 0x200120 23 0
  let free := fun i => !c.mem.spill.any fun p => p.1 ≤ i && i < p.1 + p.2
  (List.range units).find? fun s => s + n ≤ units && (List.range n).all fun i => free (s + i)

/-- R203 place 3: the first window that gives a run for `bytes`. -/
def tryWindows (bytes : Nat) : List Nat → M (Option SheafPlace)
  | [] => return none
  | w :: ws => do
    if !sheafWindow (← getC) w then tryWindows bytes ws
    else match ← claimRun w (cdiv bytes (unitBytes (winOf (← getC) w))) with
      | some r =>
        modC fun c => { c with mem := { c.mem with lastWindow := w } }
        return some (.pool w r)
      | none => tryWindows bytes ws

/-- R203: the place of a sheaf that may take `bytes`. -/
def findPlace (home poolOnly : Bool) (window bytes : Nat) : M (Option SheafPlace) := do
  let c ← getC
  let fits := fun (die : Bool) => framesOf bytes ≤ c.mem.barnFree.get die
  if !poolOnly && fits home then return some (.barn home)
  if !poolOnly && fits (!home) then return some (.barn (!home))
  match ← tryWindows bytes (if window = 0 then windowOrder c else [window]) with
  | some p => return some p
  | none =>
    if poolOnly then return none
    return (spillRun c (cdiv bytes 2097152)).map fun f => .spill f (cdiv bytes 2097152)

/-- The bus address of a spill unit. -/
def spillAddr (c : Core) (unit : Nat) : Nat := regField c 0x200118 63 21 * 2097152 + unit * 2097152

/-- R199, R204: a part of packing whose failure puts the units claimed on their window's release list. -/
def holdingPlace {α : Type} (p : SheafPlace) (m : M α) : M α :=
  match p with
  | .pool w r => holdingRun w r m
  | _ => m

/-- Gives back a reserved place whose sheaf is not written. -/
def leavePlace (p : SheafPlace) : M Unit :=
  match p with
  | .pool w r => releaseRun w r
  | _ => return ()

/-- R196: a written spill run counts once an 8-byte read of its last unit completes. -/
def confirmSpill (unit : Nat) : M Unit := do
  let _ ← readBus 0 (spillAddr (← getC) unit) 8
  return ()

/-- R393 steps 2 and 3: the sheaf goes to its place; the index entry that names it. -/
def storeSheaf (p : SheafPlace) (bytes : List Byte) (stamp : Nat) : M SheafIx := do
  let size := bytes.length / 256
  let base : SheafIx := { place := 1, stamp := BitVec.ofNat 64 stamp, size := size }
  match p with
  | .barn die =>
    let (first, c) := storeBarn (← getC) die bytes
    putC c
    return { base with die := die, locator := first }
  | .pool w r =>
    let x := winOf (← getC) w
    let k := cdiv bytes.length (unitBytes x)
    writeRun w (unitOff x r.first) bytes r
    let r ← trimRun w r k
    confirmRun w (r.first + k - 1) r
    return { base with place := 2, window := w, locator := r.first, generation := 1 }
  | .spill f _ =>
    let k := cdiv bytes.length 2097152
    postBus 0 (spillAddr (← getC) f) bytes
    confirmSpill (f + k - 1)
    modC fun c => { c with mem := { c.mem with spill := mapSet c.mem.spill f k } }
    return { base with place := 3, locator := f }

/-! ## PARK (R390, R392, R393) -/

/-- The session's packed image is committed: index entry, then directory entry; its frames and tables go. -/
def commitPark (c : Core) (sid : Nat) (ix : SheafIx) : Core :=
  let e := entryOf c sid
  let c := leaveWarm (setIndex c sid ix) sid
  let c := setEntry c sid { e with
    state := if ix.place = 2 then .pooled else .parked
    imagePlace := ix.place, rootFrame := 0, privateFrames := 0, reservedFrames := 0 }
  regCount c 0x420008 31 0 1

/-- R392 checks 3 to 7 and R393, for a session in IDLE or WAITING: its index entry and sheaf size. -/
def parkWarm (sid : Nat) (w : Warm) (poolOnly : Bool) (window : Nat) : M (SheafIx × Nat) := atomically do
  let c ← getC
  let e := entryOf c sid
  check (freeOf c (dirDie sid) < indexNeed c sid) .noSpace
  let u := unpackedSize c e w
  match ← findPlace e.homeDie poolOnly window (u + 65536) with
  | none => refuse .noSpace
  | some place =>
    if let some f := (rangeFrames w w.columns).find? (frameBad (← getC)) then
      leavePlace place
      failFrame f .dataError
    holdingPlace place (readPooled e w)
    let stamp ← drawM
    let c ← getC
    let (lens, c) := codesFor c e.modelSlot (miKvFmt (sessImg c sid)) (kvPages c e w)
    putC c
    let lease := match place with
      | .pool _ _ => heldWord c 1
      | _ => 0
    let bytes := packSession c e w stamp.toNat lens lease
    if u + 65536 < bytes.length then
      leavePlace place
      refuse .noSpace
    let ix ← storeSheaf place bytes stamp.toNat
    modC fun c => commitPark c sid ix
    return (ix, bytes.length)

/-- R14: what PARK and REVIVE share of the transition table. -/
def parkState (e : Entry) : Option Status :=
  match e.state with
  | .free => some .wrongState
  | .lost => some .lost
  | _ => none

/-- R390, R393: PARK. -/
def parkBody (d : Desc) : M Done := do
  leaseFirst
  let sid := d.session
  let poolOnly := bit d.flags 0
  let window := d.field 2 3 0 0
  check (0 < window && !poolOnly) .invalidField
  let e := entryOf (← getC) sid
  match parkState e with
  | some st => refuse st
  | none => pure ()
  if e.state = .parked || e.state = .pooled then return .done .ok 0 0
  match mapGet (← getC).sess.warm sid with
  | none => refuse .wrongState
  | some w =>
    waitStep e.homeDie
    let (ix, n) ← parkWarm sid w poolOnly window
    let c ← getC
    mirrorM sid (.parked (entryOf c sid) (if ix.place = 2 then some ix else none))
    return .done .ok (n / 256) (ix.place + (if ix.place = 2 then 4 * ix.window else 0))

/-- R393. -/
def execPark (d : Desc) (env : Env) (s : State) : Host.Outcome State Fault Refusal :=
  .next (acceptSession s d env (parkBody d))

/-! ## The policy park (R22, R27, R204, R586) -/

/-- R586: the policy parks a session: it was due at the last comparison, no descriptor of it has come since, and no lower session of its die is due before it. -/
def policyDue (c : Core) (sid : Nat) : Bool :=
  let die := (entryOf c sid).homeDie
  mapHas c.sess.due sid && ages c sid (entryOf c sid) &&
    !c.sess.due.any fun p => p.1 < sid && (entryOf c p.1).homeDie == die && ages c p.1 (entryOf c p.1) && !mapHas c.sess.parking p.1

/-- R22: the park, its record and its mirror record. -/
def policyBody (sid : Nat) (w : Warm) : M Unit := do
  let home := (entryOf (← getC) sid).homeDie
  let (ix, n) ← parkWarm sid w false 0
  let c ← getC
  mirrorM sid (.parked (entryOf c sid) (if ix.place = 2 then some ix else none))
  modC fun c => issueEvent c 1 home sid (entryOf c sid).account (stateCode (entryOf c sid).state + 16 * ix.place) n

/-- R22, R27, R204: a policy park against its answers; without enough of them it goes on, and a descriptor that is accepted meanwhile ends it. -/
def policyPark (s : State) (sid : Nat) (env : Env) : State :=
  let c := s.core
  match mapGet c.sess.warm sid with
  | none => s
  | some w =>
    if !serving c || !policyDue c sid || !(inStep (c.sched.get (entryOf c sid).homeDie)).isEmpty then s
    else
      let c := haspSession (wakeScheduler c (entryOf c sid).homeDie) sid
      let w := (mapGet c.sess.warm sid).getD w
      let away := { c with sess := { c.sess with parking := mapDel c.sess.parking sid, due := mapDel c.sess.due sid } }
      match policyBody sid w { runOf s away env with sid := sid } with
      | .ok (_, r) => { s with core := r.core }
      | .error (.fail _ _ _ k) => { s with core := modEntry (keepOutside away k) sid fun e => { e with idleAge := 0 } }
      | .error (.wait ..) => { s with core := { c with sess := { c.sess with parking := mapSet c.sess.parking sid () } } }

/-- R27. -/
def execPolicyPark (session : Nat) (env : Env) (s : State) : Host.Outcome State Fault Refusal :=
  .next (policyPark s session env)

/-! ## REVIVE (R394, R362, R46) -/

/-- R362: the recorded prefix, when it may be attached again. -/
def liveAgain (c : Core) (h : SheafHead) : Option Prefix :=
  if h.prefixHandle = 0 then none
  else (mapGet c.obj.prefixes h.prefixHandle).filter fun p =>
    p.stamp.toNat == h.prefixStamp && p.slot == h.entry.modelSlot

/-- A column of a sheaf is marked and comes back from the prefix. -/
def fromPrefix (p : Option Prefix) (h : SheafHead) (j : Nat) : Bool := p.isSome && j < h.prefixCols

/-- R358, R359, R362: a column that comes back from the prefix has score and mass +0. -/
def revivedColumn (p : Option Prefix) (h : SheafHead) (j : Nat) (col : Column) : Column :=
  if fromPrefix p h j then { col with score := 0, mass := 0, leaves := [] } else { col with leaves := [] }

/-- R394 step 4: the slots of the columns of a sheaf: those recorded, and the lowest free ones for columns that were pooled and come back privately. -/
def reviveSlots (p : Option Prefix) (h : SheafHead) (cols : List (Nat × Column × List (List Byte))) : Map Column :=
  let keep := fun (j : Nat) (col : Column) => !col.pooled || fromPrefix p h j
  let fixed : Map Column := cols.foldl (fun m x => if keep x.1 x.2.1 then mapSet m x.1 (revivedColumn p h x.1 x.2.1) else m) []
  cols.foldl (fun m x =>
    if keep x.1 x.2.1 then m
    else mapSet m x.1 { x.2.1 with slot := lowestSlot m, pooled := false, leaves := [] }) fixed

/-- Frames with the bytes of a column's pages. -/
def reviveLayers (img : List Byte) (home : Bool) (cols : Map Column) (j : Nat) :
    List (Nat × List Byte) → Range → Except Block (List Leaf × Range)
  | [], x => .ok ([], x)
  | (l, pg) :: ps, x =>
    let die := layerDie img home l
    match takeFrame x false die (columnPair x.core cols die j l) (cellsWrite [] 0 pg) with
    | .error b => .error b
    | .ok (f, y) => match reviveLayers img home cols j ps y with
      | .error b => .error b
      | .ok (r, z) => .ok (({ frame := f, kv := true } : Leaf) :: r, z)

/-- R394 step 4: unpacks the columns. -/
def reviveCols (img : List Byte) (home : Bool) (p : Option Prefix) (h : SheafHead) :
    List (Nat × Column × List (List Byte)) → Map Column → Range → Except Block (Map Column × Range)
  | [], m, x => .ok (m, x)
  | (j, _, pgs) :: cs, m, x =>
    match p with
    | some q =>
      if j < h.prefixCols then
        if q.dies = 0 then reviveCols img home p h cs m x
        else match attachPages [nth (prefixPages x.core q home) j []] j x with
          | .error b => .error b
          | .ok (a, x) =>
            let ls := ((mapGet a j).map (·.leaves)).getD []
            reviveCols img home p h cs (mapMod m j fun col => { col with leaves := ls }) x
      else match reviveLayers img home m j ((List.range pgs.length).zip pgs) x with
        | .error b => .error b
        | .ok (ls, x) => reviveCols img home p h cs (mapMod m j fun col => { col with leaves := ls }) x
    | none => match reviveLayers img home m j ((List.range pgs.length).zip pgs) x with
      | .error b => .error b
      | .ok (ls, x) => reviveCols img home p h cs (mapMod m j fun col => { col with leaves := ls }) x

/-- Takes the map pages that a sheaf holds. -/
def reviveMaps (home : Bool) : List Nat → Range → Except Block Range
  | [], x => .ok x
  | m :: ms, x => match takeFrame x false home (anyPair x.core home) [] with
    | .error b => .error b
    | .ok (f, y) => reviveMaps home ms ⟨y.core, { y.warm with mapPages := mapSet y.warm.mapPages m { frame := f } }⟩

/-- R46, R394 steps 3 and 4: the range of a sheaf on a home die, with its prefix or privately; none when it does not fit. -/
def reviveRange (c : Core) (home : Bool) (p : Option Prefix) (sh : SheafRead) : Option Range :=
  let img := imgOf c sh.head.entry.modelSlot
  let L := miLayers img
  if freeFor c home < 3 then none
  else
    let x := freshRange c home
    let m := reviveSlots p sh.head sh.cols
    let pages := (usedSlots m).flatMap (fun s => (List.range L).map (kvPageNo L s)) ++
      (List.range sh.head.mapPages).map mapPageNo
    let built : Except Block (Map Column × Range) := match mapPagesIn home false pages x with
      | .error b => .error b
      | .ok x => match reviveMaps home (List.range sh.head.mapPages) x with
        | .error b => .error b
        | .ok x => reviveCols img home p sh.head sh.cols m x
    match built with
    | .error _ => none
    | .ok (cols, x) =>
      let w := { x.warm with columns := cols, cleared := sh.cleared, ctl := readCtl sh.ctlBytes }
      if grantShort x.core img home w then none else some ⟨x.core, w⟩

/-- R70, R71, R362: the die, the prefix if it is attached again, and the range of a revival. -/
def placeRevival (c : Core) (sid : Nat) (sh : SheafRead) : Option (Bool × Option Prefix × Range) :=
  let p := liveAgain c sh.head
  let go := fun (home : Bool) (p : Option Prefix) => (reviveRange c home p sh).map fun x => (home, p, x)
  match p.map (·.dies) with
  | some 1 => (go false p).or (go true none)
  | some 2 => (go true p).or (go false none)
  | _ => go (placeDie c sid) p

/-- R388: the grammar of a bound sheaf is loaded here under its id and digest. -/
def grammarHere (c : Core) (e : Entry) (x : Ctl) : Bool :=
  !e.grammarBound || ((mapGet c.obj.grammars e.grammarId).map fun g => grDigest g.image) == some x.gdigest

/-- R394 step 6: the entry of a revived session. -/
def reviveEntry (old : Entry) (h : Entry) (home : Bool) (root : Nat) (again : Bool) : Entry :=
  { h with
    account := old.account, homeDie := home, rootFrame := root, imagePlace := 0, idleAge := 0
    cancelPending := false, markValid := false
    prefixHandle := if again then h.prefixHandle else 0, prefixAttached := again }

/-- R394 count0: frames of a warm session on a die. -/
def framesOn (c : Core) (w : Warm) (home die : Bool) : Nat :=
  (if die = home then 1 + w.tables.length + w.mapPages.length else 0) +
  w.columns.foldl (fun n p => n + (p.2.leaves.filter fun l => !l.shared && frameDie c l.frame == die).length) 0

/-- R26, R392: REVIVE check 4 with no valid copy: the session is LOST. -/
def imageLost {α : Type} (pool : Bool) : M α := do
  let r ← get
  modC fun c => loseSession (logErr c { kind := 4, session := r.sid, status := stCode .checkMismatch, opcode := r.opc })
    r.sid 2 .checkMismatch r.opc pool
  refuse .checkMismatch

/-- R504: a paired device asks its twin for its copy of a sheaf; a pooled sheaf has none there. -/
def twinSheaf (pool : Bool) : M SheafRead := do
  let c ← getC
  if pool || !paired c then imageLost pool
  else
    let sid := (← get).sid
    let _ ← once fun c => (0, askTwin c (.sheaf sid))
    let r ← get
    match r.env with
    | .data bs :: env =>
      set { r with env := env, had := r.had - 1 }
      match readSheaf bs with
      | some sh => return sh
      | none => imageLost pool
    | _ :: env =>
      set { r with env := env, had := r.had - 1 }
      imageLost pool
    | [] => waitInside

/-- R392 REVIVE checks 2 to 4: the bytes of a session's sheaf, its lease judged. -/
def readStored (ix : SheafIx) : M (List Byte) := do
  let c ← getC
  if ix.place = 1 then return barnBytes c ix
  else if ix.place = 3 then readBus 0 (spillAddr c ix.locator) (256 * ix.size)
  else
    let bs ← winRead ix.window (sheafOff c ix) (256 * ix.size)
    if ownWord (← getC) ix.generation (leAt bs 0 16) then return bs else leaseLost

/-- The sheaf of a session, from its place or from the twin, and whether its lease word is a release of this device's own that has landed (R405). -/
def storedSheaf (ix : SheafIx) : M (SheafRead × Bool) := do
  let bs ← readStored ix
  let landed := ix.place == 2 && leAt bs 0 16 == releasedWord (← getC) ix.generation
  match readSheaf bs with
  | some sh => if sh.head.stamp = ix.stamp.toNat then return (sh, landed) else return (← twinSheaf (ix.place == 2), landed)
  | none => return (← twinSheaf (ix.place == 2), landed)

/-- R394 step 6, R42: stores a revived range; `private_frames` is the header's. -/
def storeRevived (x : Range) (sid : Nat) (e : Entry) : Core :=
  modEntry (storeRange x sid) sid fun n => { n with privateFrames := e.privateFrames, reservedFrames := e.reservedFrames }

/-- R394 steps 5 to 7, with what checks 1 to 6 found. A lease found released is not swapped again (R405). -/
def reviveCommit (d : Desc) (ix : SheafIx) (sh : SheafRead) (landed : Bool) : M Done := do
  let sid := d.session
  if ix.place = 2 && uncopied (← getC) sid 2 then waitInside
  if ix.place = 2 && !landed then releaseLease ix
  let c ← getC
  match placeRevival c sid sh with
  | none => refuse .noSpace
  | some (home, p, x) =>
    let e := reviveEntry (entryOf c sid) sh.head.entry home (nth x.warm.tables 0 0) p.isSome
    let run := sheafRun c ix
    let c := leaseTaken (setEntry x.core sid e) sid
    let c := storeRevived ⟨clearIndex (freeStored c sid) sid, x.warm⟩ sid e
    putC (regCount c 0x420008 63 32 1)
    let c ← getC
    mirrorM sid (.revived home (if ix.place = 2 then imageOf c sid else none))
    if ix.place = 2 then releaseRun ix.window run
    let w := (mapGet (← getC).sess.warm sid).getD x.warm
    return .done .ok (framesOn (← getC) w home home) (b2n home + 2 * b2n p.isSome + 4 * b2n e.grammarBound)

/-- R392, R394: REVIVE. -/
def reviveBody (d : Desc) : M Done := do
  leaseFirst
  let sid := d.session
  let e := entryOf (← getC) sid
  match parkState e with
  | some st => refuse st
  | none => pure ()
  if isWarm e.state then return .done .ok 0 0
  takeoverLease sid
  let c ← getC
  match mapGet c.mem.index sid with
  | none => refuse .wrongState
  | some ix =>
    let (sh, landed) ← storedSheaf ix
    let c ← getC
    let slot := sh.head.entry.modelSlot
    check ((loadedModel c slot).isNone || modelDigest (imgOf c slot) != sh.head.digest ||
      !grammarHere c sh.head.entry (readCtl sh.ctlBytes)) .unknownHandle
    check (slotNotOnTwin c slot) .wrongState
    match placeRevival c sid sh with
    | none => refuse .noSpace
    | some r => waitStep r.1
    reviveCommit d ix sh landed

/-- R394. -/
def execRevive (d : Desc) (env : Env) (s : State) : Host.Outcome State Fault Refusal :=
  .next (acceptSession s d env (reviveBody d))

end Sys2Proof.Machine
end

