-- ==== Sys2Proof/Machine/Access.lean ====
section
/-! DEFINITION. Host writes to registers under their field access codes (R5, R6, R579), and events that issue requests of their own. -/

namespace Sys2Proof.Machine

/-- R5, R6, R579, R588: a write of `size` bytes at a BAR0 offset to the stored fields of its register: the fields it may change take the written bits; a locked field that would change is left and the write logged; a value out of range leaves the whole register and is logged. -/
def plainWrite (c : Core) (off size value : Nat) : Core :=
  let base := off / 8 * 8
  let fs := regFields base
  let old := regGet c base
  let new := writtenValue (rwsLocked c) old fs (off % 8) size value
  if !inRange base new then logHost c 0x0C off
  else
    let c := if rwsLocked c && locksChange old fs (off % 8) size value then logHost c 0x0C off else c
    regSet c base new

/-- Answers that stand for requests which nothing answers. -/
def noAnswers : Env := List.replicate 1024 .late

/-- Carries out the requests of an event that no descriptor owns: answers that are missing are late; while its link is down the event does not happen. -/
def eventRun (s : State) (env : Env) (m : M Unit) : State :=
  match m (runOf s s.core (env ++ noAnswers)) with
  | .ok (_, r) => { s with core := r.core, rot := extendAll s.rot r.ext }
  | .error (.fail _ _ _ c) => { s with core := c }
  | .error (.wait ..) => s

end Sys2Proof.Machine
end

