-- ==== Sys2Proof/Machine/Handover.lean ====
section
/-! DEFINITION. HANDOVER_OUT and HANDOVER_IN (14_parking R391, R392, R405 to R409). -/

namespace Sys2Proof.Machine

/-- R391: the bytes of a ticket. -/
def ticketBytes (sheaf stamp gen frm size source : Nat) : List Byte :=
  wordsBytes [sheaf % 2 ^ 64, stamp, fieldAt 0 32 gen + fieldAt 32 32 frm, fieldAt 0 32 size + fieldAt 32 24 source]

/-- R391, R407: writes the ticket of an offer under a generation. -/
def writeTicket (d : Desc) (ix : SheafIx) (gen : Nat) : M Unit := do
  let c ← getC
  postBus 0 (d.field 3 63 0 0)
    (ticketBytes (winAddr c ix.window (sheafOff c ix)) ix.stamp.toNat gen (deviceNo c) ix.size d.session)

/-- R407: the session is FREE; its units pass with the lease. -/
def passLease (c : Core) (sid : Nat) : Core :=
  setEntry (clearIndex (leaseTaken (rereadDone c sid) sid) sid) sid {}

/-- R21, R407: the outcome of a swap of HANDOVER_OUT from an expected word; true when it landed, false when the word is a landed release of this device's own. -/
def offer (d : Desc) (ix : SheafIx) (exp gen : Nat) : M Bool := do
  let c ← getC
  let new := leaseWord (d.field 2 31 0 0) 2 gen (deviceNo c)
  match ← movingWhile (swapWord ix.window (sheafOff c ix) exp new) with
  | .old v =>
    if v = exp then return true
    if exp = heldWord c ix.generation && v = releasedWord c ix.generation then return false
    leaseLost
  | .notDone st => refuse st
  | .unknown st =>
    modC fun c => { c with sess := { c.sess with reread := mapSet c.sess.reread d.session () } }
    refuse st

/-- R10: a session found MOVING is the one whose swap this request has in flight. -/
def backFrom (sid : Nat) (st : SState) : M Unit := do
  if (entryOf (← getC) sid).state = .moving then modC fun c => modEntry c sid fun e => { e with state := st }

/-- R407: HANDOVER_OUT. -/
def handoverOutBody (d : Desc) : M Done := do
  let sid := d.session
  backFrom sid .pooled
  leaseFirst
  check (d.field 3 63 0 0 % 32 != 0) .invalidField
  let e := entryOf (← getC) sid
  check (e.state == .lost) .lost
  check (e.state != .pooled) .wrongState
  takeoverLease sid
  let c ← getC
  match mapGet c.mem.index sid with
  | none => refuse .wrongState
  | some ix =>
    if uncopied c sid 2 then waitInside
    writeTicket d ix (ix.generation + 1)
    let landed ← offer d ix (heldWord c ix.generation) (ix.generation + 1)
    if !landed then
      writeTicket d ix (ix.generation + 2)
      let _ ← offer d ix (releasedWord c ix.generation) (ix.generation + 2)
    mirrorM sid (.closed 0)
    modC fun c => passLease c sid
    return .done .ok 0 0

/-- R407. -/
def execHandoverOut (d : Desc) (env : Env) (s : State) : Host.Outcome State Fault Refusal :=
  .next (acceptSession s d env (handoverOutBody d))

/-! ## HANDOVER_IN (R406, R408, R409) -/

/-- R392 HANDOVER_IN check 5: the window and unit of a ticket's sheaf. -/
def ticketPlace (c : Core) (sheaf size : Nat) : Option (Nat × Nat) :=
  ((List.range 15).map (· + 1)).findSome? fun w =>
    let x := winOf c w
    let base := winAddr c w 0
    let bytes := regField c (0x200208 + 0x20 * w) 63 20 * 2 ^ 20
    if x.state = 1 && base + x.dataOffset ≤ sheaf && sheaf + 256 * size ≤ base + bytes &&
        (sheaf - base - x.dataOffset) % unitBytes x = 0 then
      some (w, (sheaf - base - x.dataOffset) / unitBytes x)
    else none

/-- R406: an offer that this device may take. -/
def mayTake (c : Core) (v : Nat) : Bool :=
  leaseState v == 2 && (leaseOwner v == deviceNo c || leaseOwner v == 0 || leaseFrom v == deviceNo c)

/-- R408: the index entry and directory entry of a take. With no frame free for a new index leaf the entry is made all the same: no check of R392 names the case (R47; DESIGN CHOICE, log 144). -/
def commitTake (c : Core) (d : Desc) (ix : SheafIx) : Core :=
  let e : Entry := { state := .pooled, imagePlace := 2, account := d.account }
  setEntry (setIndex c d.session ix) d.session e

/-- R409: what the re-read after an unknown swap says: the take landed, or how the request ends. A word found as it was gives ST_TIER_TIMEOUT also where the swap's completion came poisoned: R93 says ST_TIER_ERROR of a poisoned swap that has not happened, R409 ST_TIER_TIMEOUT of a HANDOVER_IN whose word is unchanged (DESIGN CHOICE, log 175). -/
def settleTake (w off old new : Nat) (item : ReleaseItem) : M Unit := do
  match ← winTry w off with
  | .data bs =>
    let v := leAt bs 0 16
    if v = new then return ()
    refuse (if v = old then .tierTimeout else .leaseLost)
  | _ =>
    modC fun c => addRelease c w item
    refuse .tierTimeout

/-- R406, R408, R409: HANDOVER_IN. -/
def handoverInBody (d : Desc) : M Done := do
  let sid := d.session
  backFrom sid .free
  leaseFirst
  let ticket := d.field 2 63 0 0
  check (ticket % 32 != 0) .invalidField
  let e := entryOf (← getC) sid
  check (e.state == .lost) .lost
  check (e.state != .free || idOnTwin (← getC) sid) .wrongState
  check (!mapHas (← getC).acctCfg d.account) .unknownHandle
  let t ← readBus 0 ticket 32
  let sheaf := leAt t 0 8
  let size := leAt t 24 4
  match ticketPlace (← getC) sheaf size with
  | none => refuse .invalidField
  | some (w, unit) =>
    let off := unitOff (winOf (← getC) w) unit
    let bs ← winRead w off 512
    let v := leAt bs 0 16
    let c ← getC
    check (leAt bs 256 4 != 0x4F565348 || leAt bs (256 + 32) 8 != leAt t 8 8 || !mayTake c v) .leaseLost
    let h := readHead bs
    let slot := h.entry.modelSlot
    check (paired c && (c.twin.hello.bind fun x => mapGet x.slots slot) != some h.digest) .wrongState
    let g := leaseGen v
    let new := heldWord c (g + 1)
    let item := ReleaseItem.take unit ((g + 1) % 2 ^ 32) [v % 2 ^ 64, v / 2 ^ 64]
    match ← movingWhile (swapWord w off v new) with
    | .old o => check (o != v) .leaseLost
    | .notDone st => refuse st
    | .unknown _ => movingWhile (settleTake w off v new item)
    let ix : SheafIx := { place := 2, window := w, locator := unit, generation := (g + 1) % 2 ^ 32,
                          stamp := BitVec.ofNat 64 (leAt t 8 8), size := size }
    modC fun c => commitTake c d ix
    mirrorM sid (.opened (entryOf (← getC) sid) none)
    return .done .ok 0 0

/-- R408. -/
def execHandoverIn (d : Desc) (env : Env) (s : State) : Host.Outcome State Fault Refusal :=
  .next (acceptSession s d env (handoverInBody d))

end Sys2Proof.Machine
end

