-- ==== Sys2Proof/Machine/Reports.lean ====
section
/-! DEFINITION. What a bank-pair unit's report does (07_bank_units R213 to R220, R233), the holders of a frame that cannot be read (R25), migration and the forward table (R165 to R167, R234). -/

namespace Sys2Proof.Machine

/-! ## Results (R213 to R218) -/

/-- The frames of a command hold a check block that fails. -/
def cmdBad (c : Core) (x : BankCmd) : Bool :=
  (x.frames.any (frameBad c)) ||
  match x.op with
  | .gather o => ((mapGet c.obj.tables o.table).map fun t => o.rows.any fun r => mapHas t.bad r).getD false
  | _ => false

/-- A command leaves its unit, and its result leaves the partial queue. -/
def finishCmd (c : Core) (pair : Nat) (x : BankCmd) : Core :=
  freeIssued (modPair c pair fun p => { p with issued := p.issued.drop 1, clock := 0 }) pair [x]

/-- R218, R432: the bytes of a row: staged, or the table's own. -/
def gatherRow (t : Table) (o : GatherOp) (i : Nat) : List Byte :=
  if t.bound then nth o.staged i [] else cellsRead t.bytes (nth o.rows i 0 * t.width) t.width

/-- R218: the row that a GATHER_MAX gives. -/
def gatherOut (t : Table) (o : GatherOp) : List Byte := maxRows t.format t.width ((List.range o.rows.length).map (gatherRow t o))

/-- R219: a FILL writes its pattern over the frames and seals their check values. -/
def fillPage (c : Core) (o : FillOp) (n : Nat) : Core :=
  let pat := natLe 8 o.pattern.toNat
  { c with mem := { c.mem with xmap := c.mem.xmap.mod o.die fun m => mapMod m o.page fun x =>
    let lo := 65536 * o.first
    let hi := lo + 65536 * n
    let keep := x.bytes.filter fun b => !(lo ≤ b.1 && b.1 < hi)
    { x with
      bytes := if o.pattern = 0 then keep
        else (List.range (hi - lo)).foldl (fun m i => cellSet m (lo + i) (nth pat (i % 8) 0)) keep
      bad := x.bad.filter fun b => !(256 * o.first ≤ b && b < 256 * (o.first + n)) } } }

/-- R213: a result with its trailer (outcome, vectors skipped), padded to a multiple of 32 bytes. -/
def resultBytes (body : List Byte) (outcome skipped : Nat) : List Byte :=
  let r := body ++ natLe 8 (fieldAt 0 8 outcome + fieldAt 32 32 skipped)
  bytesAt r 0 (roundUp r.length 32)

/-- R215: one partial record. -/
def partialRecord (block head : Nat) (t : Partial) : List Byte :=
  natLe 8 (t.m.toNat + 2 ^ 32 * t.l.toNat) ++ natLe 8 (fieldAt 0 32 block + fieldAt 32 16 head + fieldAt 48 16 t.counted) ++
  t.o.flatMap fun v => natLe 4 v.toNat

/-- R214, R220, R330: the bytes of a position that a command reads: the row's own where the step writes it, else the page's, in place or staged. -/
def scoreKv (c : Core) (m : List Byte) (x : BankCmd) (o : ScoreOp) : KvOf := fun _ i =>
  let k := (o.cols.findIdx? (· == i / pageP m)).getD 0
  match (if i = o.pos then o.own else none) with
  | some bs => bs
  | none =>
    let page := if o.staged.isEmpty then (x.frames[k]?).map (frameBytes c) |>.getD [] else nth o.staged k []
    positionBytes m page (i % pageP m)

/-- R215, R216: the partial records of a SCORE_PARTIAL in ascending head order, and with MASS its BLOCK_MASS entries in operand order. -/
def scoreOut (c : Core) (x : BankCmd) (o : ScoreOp) : List Byte :=
  let m := imgOf c o.slot
  let kv := scoreKv c m x o
  let g := miQHeads m / max 1 (miKvHeads m)
  let qs := o.queries.map fun q => q.map (convertFrom fmtBF16)
  let parts := qs.zipIdx.map fun q => blockPartial m kv o.layer o.pos (q.2 / g) q.1 o.cols
  let mass := o.cols.flatMap fun j =>
    let scores := qs.zipIdx.map fun q => columnScores m kv o.layer o.pos (q.2 / g) q.1 j
    natLe 8 ((blockMass scores (parts.map (·.m))).toNat + 2 ^ 32 * (admitted (pageP m) o.pos j).length)
  (parts.zipIdx.flatMap fun t => partialRecord o.block t.2 t.1) ++ if o.mass then mass else []

/-- R217, R413: the entries of a DIST_SCAN: key, and the vector's slot: record i of the k-th frame of the operand list is k * 1,024 + i. -/
def scanOut (o : ScanOp) : List Byte :=
  let n := recordsPerFrame o.query.length o.format
  (scanHits o).flatMap fun h =>
    let i := h.pos - o.first
    natLe 8 (h.key.toNat + 2 ^ 32 * (1024 * (i / n) + i % n))

/-- R213 to R219: the bytes that a command which is done leaves in the result buffer. -/
def cmdBytes (c : Core) (x : BankCmd) : List Byte :=
  match x.op with
  | .score o => resultBytes (scoreOut c x o) 0 0
  | .scan o => resultBytes (scanOut o) 0 (scanSkipped o)
  | .gather o => resultBytes (((mapGet c.obj.tables o.table).map fun t => gatherOut t o).getD []) 0 0
  | .fill _ => resultBytes [] 0 0

/-- What a command that is done does beyond its result: attention's partials are merged at the commit (R334), the others serve their job. -/
def unitResult (c : Core) (x : BankCmd) : Core :=
  match x.op with
  | .score _ => c
  | .scan o =>
    let c := regCount c 0x430000 63 32 (scanSkipped o)
    freeLate (modJob c x.owner fun j => { j with hits := j.hits ++ scanHits o, skipped := j.skipped + scanSkipped o }) o.index
  | .gather o => match mapGet c.obj.tables o.table with
    | none => modJob c x.owner fun j => { j with failed := some .partFailed }
    | some t => modJob c x.owner fun j => { j with rows := j.rows ++ [(o.bag, gatherOut t o)] }
  | .fill o => if o.test then c else fillPage c o x.n

/-- R213: the result of a pair's last command. -/
def setResult (c : Core) (pair : Nat) (bs : List Byte) : Core := modPair c pair fun p => { p with result := bs }

/-! ## Holders of a frame that cannot be read (R25, R58, R167, R233) -/

/-- Frames that a warm session's range names. -/
def warmFrames (w : Warm) : List Nat :=
  w.ctlLeaf.frame :: w.tables ++ w.mapPages.map (·.2.frame) ++ (w.columns.flatMap fun p => p.2.leaves.map (·.frame)) ++
    match w.mark with
    | some m => match m.openColumn with
      | some p => p.2.map (·.frame)
      | none => []
    | none => []

/-- Warm sessions whose range names a frame. -/
def frameHolders (c : Core) (f : Nat) : List Nat := (c.sess.warm.filter fun p => (warmFrames p.2).contains f).map (·.1)

/-- The twin holds a complete shadow of an own session. -/
def shadowed (c : Core) (sid : Nat) : Bool := paired c && !c.twin.toSend.contains sid

/-- R58, R504: a frame rebuilt from a copy in a free frame of its die. -/
def rebuildFrame (c : Core) (f : Nat) : Core :=
  match mapGet c.mem.frames f with
  | none => c
  | some x =>
    let q := copyPair c x.die f
    let c := modRoom (modRoom (reserveFree c x.die 1) q (· - 1)) x.pair (· + 1)
    let c := if pairInService c x.pair then returnFree c x.die 1 else c
    { c with mem := { c.mem with frames := mapSet c.mem.frames f { x with pair := q, bad := [] } } }

/-- R344: the page of a prefix on the other die that holds the same bits as a frame. -/
def otherPage (c : Core) (f : Nat) : Option Nat :=
  c.obj.prefixes.findSome? fun p =>
    let a := p.2.pages.d0.flatMap id
    let b := p.2.pages.d1.flatMap id
    ((a.zip b).find? fun x => x.1 == f || x.2 == f).bind fun x =>
      let g := if x.1 = f then x.2 else x.1
      if frameBad c g || !mapHas c.mem.frames g then none else some g

/-- R25: a session whose range names a frame that cannot be read: rebuilt from the twin's mirror, or LOST. -/
def frameLost (f : Nat) (c : Core) (sid : Nat) : Core :=
  if shadowed c sid && 0 < freeOf c (frameDie c f) then askTwin (rebuildFrame c f) (.pages sid) else loseByEvent c sid 1

/-- R25, R167, R233: the holders of a frame that cannot be read: its bits come from the other die's copy of a prefix page, or each session rebuilds or is LOST. -/
def loseFrame (c : Core) (f : Nat) : Core :=
  match otherPage c f with
  | some g =>
    if freeOf c (frameDie c f) = 0 then c
    else
      let c := rebuildFrame c f
      { c with mem := { c.mem with frames := mapMod c.mem.frames f fun x => { x with bytes := frameBytes c g } } }
  | none => (frameHolders c f).foldl (frameLost f) c

/-! ## Reports (R213, R220, R232, R233) -/

/-- R233: the row of a table that a command's failure is laid to, when no block that it reads was known bad: the report names none (DESIGN CHOICE, log 139). -/
def markRow (c : Core) (o : GatherOp) : Core :=
  match o.rows.head? with
  | some r => { c with obj := { c.obj with tables := mapMod c.obj.tables o.table fun t => { t with bad := mapSet t.bad r () } } }
  | none => c

/-- R233: what a command reads first is known bad when its unit reports a failure and nothing that it reads was known bad: the report names no block (DESIGN CHOICE, log 139: block 0 of its head frame, its first row). -/
def markBad (c : Core) (x : BankCmd) : Core :=
  if cmdBad c x then c
  else match x.op, x.frames.head? with
    | .gather o, _ => markRow c o
    | _, some f => { c with mem := { c.mem with frames := mapMod c.mem.frames f fun f => { f with bad := [0] } } }
    | _, none => c

/-- R484: the physical address of the first failing check block that a command reads. -/
def cmdBadPa (c : Core) (x : BankCmd) : Nat :=
  match x.op with
  | .gather o => match mapGet c.obj.tables o.table with
    | none => 0
    | some t =>
      (t.rowAt o.table ((o.rows.find? fun r => mapHas t.bad r).getD 0)).2
  | _ => ((x.frames.find? (frameBad c)).map (badPa c)).getD 0

/-- R23, R233, R477: the work that a failed command served ends with a status: the row of a step when the step ends, or a job. -/
def failOwner (st : Status) (c : Core) (o : Owner) : Core :=
  match o with
  | .step die sid => { c with sched := c.sched.mod die fun s =>
      { s with rows := s.rows.map fun r => if r.session = sid then { r with faults := r.faults ++ [st] } else r } }
  | _ => modJob c o fun j => { j with failed := some st }

/-- R233, R234, R476, R484: the check failure of a command: its work fails, the pair drains, and the holders of its bad frames are handled under R25. -/
def checkFailure (c : Core) (pair : Nat) (x : BankCmd) : Core :=
  let c := failOwner .partFailed (markBad c x) x.owner
  let (sid, op) := ownerOf c x
  let c := noteBlock c sid op (stCode .partFailed) pair (cmdBadPa c x)
  (x.frames.filter (frameBad c)).foldl loseFrame c

/-- R217, R424: a record whose check value fails a DIST_SCAN is skipped: the report names none, so it is the first live one scanned that was not known bad (DESIGN CHOICE, log 139). -/
def markRecord (c : Core) (o : ScanOp) : Core :=
  match o.recs.find? fun r => r.live && !r.bad with
  | none => c
  | some r => { c with obj := { c.obj with indexes := mapMod c.obj.indexes o.index fun x => { x with
      lists := x.lists.map fun p => (p.1, p.2.map fun y => if y.vid = r.vid then { y with bad := true } else y) } } }

/-- The scan of a list with its first live record failing its check value. -/
def scanWithBad (o : ScanOp) : ScanOp :=
  match o.recs.find? fun r => r.live && !r.bad with
  | none => o
  | some r => { o with recs := o.recs.map fun y => if y.vid = r.vid then { y with bad := true } else y }

/-- R217: the position in its list of the record that a failing scan skips. -/
def badPos (o : ScanOp) : Nat := o.first + (o.recs.findIdx? fun r => r.live && !r.bad).getD 0

/-- R217, R476, R482, R484: the check failure of a vector in a scan: it is skipped, counted and logged, and the pair drains; the search goes on, so the entry names no status. -/
def scanFailure (c : Core) (pair : Nat) (x : BankCmd) (o : ScanOp) : Core :=
  let y := { x with op := .scan (scanWithBad o) }
  let (sid, op) := ownerOf c x
  let pa := ((mapGet c.obj.indexes o.index).map fun i => (recordPlace i o.index o.list (match x.owner with
    | .job ring => scanPairs i ring o.list
    | _ => []) (badPos o)).2).getD 0
  let c := markRecord (finishCmd (setResult c pair (cmdBytes c y)) pair x) o
  unitResult (noteBlock c sid op 0 pair pa) y

/-- R213, R220, R232, R233: the unit of a pair reports the outcome of the command it runs, of a code. A check failure ends SCORE_PARTIAL and GATHER_MAX; DIST_SCAN skips the vector; a fault leaves the command for its second try. -/
def unitReport (c : Core) (code pair : Nat) (o : UnitOutcome) : Core :=
  match (pairOf c pair).issued with
  | [] => c
  | x :: _ =>
    if unitCode x.op ≠ code || x.faulted || !alive c then c
    else match o with
      | .unitFault => modPair (setResult c pair (resultBytes [] 2 0)) pair fun p =>
          { p with issued := { x with faulted := true } :: p.issued.drop 1 }
      | _ =>
        if (o = .checkFailure || cmdBad c x) && (code = 1 || code = 3) then
          checkFailure (finishCmd (setResult c pair (resultBytes [] 1 0)) pair x) pair x
        else match x.op, o with
          | .scan y, .checkFailure => scanFailure c pair x y
          | _, _ => unitResult (finishCmd (setResult c pair (cmdBytes c x)) pair x) x

/-- A report of a pair's unit. -/
def reportOn (s : State) (code stack pair : Nat) (o : UnitOutcome) : Host.Outcome State Fault Refusal :=
  onCore s fun c => if stack < 8 ∧ pair < 512 then unitReport c code (512 * stack + pair) o else c

/-- R215, R216. -/
def execScorePartial (stack pair : Nat) (outcome : UnitOutcome) (s : State) : Host.Outcome State Fault Refusal :=
  reportOn s 1 stack pair outcome

/-- R217. -/
def execDistScan (stack pair : Nat) (outcome : UnitOutcome) (s : State) : Host.Outcome State Fault Refusal :=
  reportOn s 2 stack pair outcome

/-- R218. -/
def execGatherMax (stack pair : Nat) (outcome : UnitOutcome) (s : State) : Host.Outcome State Fault Refusal :=
  reportOn s 3 stack pair outcome

/-- R219. -/
def execFill (stack pair : Nat) (outcome : UnitOutcome) (s : State) : Host.Outcome State Fault Refusal :=
  reportOn s 4 stack pair outcome

/-! ## Migration of a pair's frames (R165 to R167, R234) -/

/-- R211: the run of a frame: session, layer and block of the column that it is a page of. -/
def runOf0 (c : Core) (f : Nat) : Option (Nat × Nat × Nat) :=
  c.sess.warm.findSome? fun p => p.2.columns.findSome? fun k =>
    (k.2.leaves.findIdx? fun l => l.frame == f).map fun l => (p.1, l, k.1 / 8)

/-- The frames of a frame's run, itself among them. -/
def runMates (c : Core) (f : Nat) : List Nat :=
  match runOf0 c f with
  | none => [f]
  | some (sid, l, n) => match mapGet c.sess.warm sid with
    | none => [f]
    | some w => (w.columns.filter fun k => k.1 / 8 == n).filterMap fun k => (k.2.leaves[l]?).map (·.frame)

/-- R234: in-service pairs, of a stack, of a die, with so many free frames. -/
def pairsWith (c : Core) (ps : List Nat) (n : Nat) : List Nat := ps.filter fun q => pairInService c q && n ≤ pairRoom c q

/-- R234: where `n` frames that leave a pair go together: of the pairs that take them all, those of its own stack first, the one with the most free frames; none where no pair of the die takes them. -/
def nearPair (c : Core) (pair n : Nat) : Option Nat :=
  (fullest c (pairsWith c ((List.range 512).map (pair / 512 * 512 + ·)) n)).or
    (fullest c (pairsWith c ((List.range 2048).map (pairBase (stackDie (pair / 512)) + ·)) n))

/-- R234: where a frame that leaves a pair goes: to the pair that its run has moved to, else to one that takes the whole run, else to one that takes it. -/
def migrateTo (c : Core) (x : Frame) (f : Nat) : Nat :=
  let mates := runMates c f
  let moved := (mates.filterMap fun g => (mapGet c.mem.frames g).map (·.pair)).find? fun q => q != x.pair && pairOpen c q
  let n := (mates.filter fun g => ((mapGet c.mem.frames g).map (·.pair)) == some x.pair).length
  moved.getD (((nearPair c x.pair n).or (nearPair c x.pair 1)).getD (mostFree c x.die))

/-- R167: a die's forward table has room for `n` entries, and its pool for `n` frames. -/
def mayMigrate (c : Core) (die : Bool) (n : Nat) : Bool := (c.mem.forward.get die).length + n ≤ forwardMax && n ≤ freeOf c die

/-- R165: enters a forward table. -/
def forward (c : Core) (die : Bool) (e : Fwd) : Core :=
  { c with mem := { c.mem with forward := c.mem.forward.mod die fun t => mapSet t c.mem.nextFwd e, nextFwd := c.mem.nextFwd + 1 } }

/-- R165: a frame moves to a free frame of its die: its contents and check values with it, its old place in the forward table with the sessions whose entries name it. While the table is full it waits at step 1, MIGRATING, and serves from where it is, writes among them (R167; DESIGN CHOICE, log 173: step 1 alone would let writes wait). Without a free frame it does not begin. -/
def migrateFrame (c : Core) (f : Nat) : Core :=
  match mapGet c.mem.frames f with
  | none => c
  | some x =>
    let now := fun (c : Core) (x : Frame) => ({ c with mem := { c.mem with frames := mapSet c.mem.frames f x } } : Core)
    if forwardMax ≤ (c.mem.forward.get x.die).length then now c { x with migrating := true }
    else if freeOf c x.die = 0 then now c { x with migrating := false }
    else
      let e : Fwd := { frame := f, pair := x.pair, count := x.count, entries := frameHolders c f }
      let q := migrateTo c x f
      let c := modRoom (reserveFree c x.die 1) q (· - 1)
      forward (now c { x with pair := q, migrating := false }) x.die e

/-- R165, R167: one frame migrates; a copy that finds a check value it cannot correct ends the migration, and its holders are handled under R25. -/
def migrateOrLose (c : Core) (f : Nat) (good : Bool) : Core :=
  match mapGet c.mem.frames f with
  | none => c
  | some x =>
    if good && x.bad.isEmpty then migrateFrame c f
    else
      let c := { c with mem := { c.mem with frames := mapSet c.mem.frames f { x with bad := if x.bad.isEmpty then [0] else x.bad, migrating := false } } }
      loseFrame (logErr c { kind := 3, die := x.die, wh := pairWhere x.pair, addr := badPa c f }) f

/-- R165, R234: frames of objects in one pair move together: `n` of them to one pair where one takes them, their old places in the forward table. What the table and the die's free frames do not let move stays. -/
def moveTogether (c : Core) (pair n : Nat) (put : Nat → Core → Core) : Core :=
  let d := stackDie (pair / 512)
  match nearPair c pair n with
  | none => c
  | some q =>
    if n = 0 || !mayMigrate c d n then c
    else
      let c := (List.range n).foldl (fun c _ => forward c d { frame := 0, pair := pair, count := 1 }) (modRoom (reserveFree c d n) q (· - n))
      put q c

/-- Replaces one pair by another at some places of a list. -/
def movePlaces (ps : List Nat) (is : List Nat) (q : Nat) : List Nat := is.foldl (fun l i => l.set i q) ps

/-- Places of a list that name a pair. -/
def placesIn (ps : List Nat) (pair : Nat) : List Nat := (List.range ps.length).filter fun i => ps[i]? == some pair

/-- A log entry for a migration that finds a check value it cannot correct (R167). -/
def noMigration (c : Core) (pair pa : Nat) : Core :=
  logErr c { kind := 3, die := stackDie (pair / 512), wh := pairWhere pair, addr := pa }

/-- R165, R234: a table's frames in a pair move; frames whose rows fail their check stay (R167). -/
def migrateTable (pair : Nat) (c : Core) (id : Nat) : Core :=
  match mapGet c.obj.tables id with
  | none => c
  | some t =>
    let all := placesIn t.place pair
    let bad := all.filter fun i => t.bad.any fun r => r.1 / rowsPerFrame t.width == i
    let c := if bad.isEmpty then c else noMigration c pair (placeNo pair (1024 * bad.headD 0 + id) * 65536)
    let move := fun (is : List Nat) (c : Core) => moveTogether c pair is.length fun q c =>
      { c with obj := { c.obj with tables := mapMod c.obj.tables id fun t => { t with place := movePlaces t.place is q } } }
    let good := all.filter fun i => !bad.contains i
    if (nearPair c pair good.length).isSome then move good c else good.foldl (fun c i => move [i] c) c

/-- R165, R414, R234: the frames of one run of a list in a pair move together; a run with a failing record stays (R167). -/
def migrateRun (pair id : Nat) (pairsOf : Index → List Nat) (put : Index → List Nat → Index) (recs : Index → List VecRec) (c : Core) (r : Nat) : Core :=
  match mapGet c.obj.indexes id with
  | none => c
  | some x =>
    let is := (placesIn (pairsOf x) pair).filter fun i => i / 8 == r
    let n := recordsPerFrame x.dim x.format
    if (recs x).zipIdx.any fun v => v.1.bad && is.contains (v.2 / n) then noMigration c pair 0
    else moveTogether c pair is.length fun q c =>
      { c with obj := { c.obj with indexes := mapSet c.obj.indexes id (put x (movePlaces (pairsOf x) is q)) } }

/-- R165, R414, R422: the lists of an index in a pair move, those that compactions have replaced too. -/
def migrateIndex (pair : Nat) (c : Core) (id : Nat) : Core :=
  match mapGet c.obj.indexes id with
  | none => c
  | some x =>
    let runs := fun (ps : List Nat) => ((placesIn ps pair).map (· / 8)).eraseDups
    let c := x.pairs.foldl (fun c l => (runs l.2).foldl
      (migrateRun pair id (fun x => (mapGet x.pairs l.1).getD []) (fun x ps => { x with pairs := mapSet x.pairs l.1 ps })
        (fun x => (mapGet x.lists l.1).getD [])) c) c
    (List.range x.late.length).foldl (fun c k => (runs ((x.late[k]?).map (·.pairs) |>.getD [])).foldl
      (migrateRun pair id (fun x => ((x.late[k]?).map (·.pairs)).getD [])
        (fun x ps => { x with late := x.late.modify k fun l => { l with pairs := ps } }) fun _ => []) c) c

/-- R165, R166: a frame of a host-managed page moves: its entry, which names it once, stands in the forward table until a walk or the sweep rewrites it. -/
def migratePage (pair : Nat) (die : Bool) (page : Nat) (c : Core) (i : Nat) : Core :=
  match mapGet (c.mem.xmap.get die) page with
  | none => c
  | some x =>
    if x.bad.any fun b => b / 256 == i then noMigration c pair (65536 * pageNow c die page i x)
    else match nearPair c pair 1 with
      | none => c
      | some q =>
        if !mayMigrate c die 1 then c
        else
          let c := { modRoom (reserveFree c die 1) q (· - 1) with draws := c.draws + 1 }
          forward c die { frame := 0, pair := pair, count := 1, page := some (page, i), now := placeNo q c.draws }

/-- R165: the frames of host-managed pages that lie in a pair move. -/
def migratePages (c : Core) (pair : Nat) : Core :=
  let d := stackDie (pair / 512)
  ((c.mem.xmap.get d).filter fun p => p.2.kind == 1).foldl (fun c p =>
    ((List.range (sizeFrames p.2.size)).filter fun i => pairOfNo (pageNow c d p.1 i p.2) == pair).foldl (migratePage pair d p.1) c) c

/-- R234: frames of objects and regions whose places matter to no command move, to pairs of their own stack first. -/
def migrateRest (c : Core) (pair : Nat) : Core :=
  let d := stackDie (pair / 512)
  let n := min (pairBulk c pair) (min (freeOf c d) (forwardMax - (c.mem.forward.get d).length))
  if n = 0 then c
  else
    let room := inService c d (c.mem.pairFree.get d)
    let own := room.zipIdx.map fun x => if (pairBase d + x.2) / 512 = pair / 512 then x.1 else 0
    let a := dealFrom (Config.bulkStart (freeOf c d)) n own
    let b := dealFrom (Config.bulkStart (freeOf c d)) (n - a.foldl (· + ·) 0) (List.zipWith (· - ·) room own)
    let xs := List.zipWith (· + ·) a b
    let c := reserveFree c d n
    let c := { c with mem := { c.mem with
      pairFree := c.mem.pairFree.mod d fun l => List.zipWith (· - ·) l xs
      pairBulk := c.mem.pairBulk.mod d fun l => List.zipWith (· + ·) l xs } }
    (List.range n).foldl (fun c _ => forward c d { frame := 0, pair := pair, count := 1 }) (modBulk c pair (· - n))

/-- R165, R234: what objects, host-managed pages and regions hold of a draining pair moves, as far as the forward table and the die's free frames go. -/
def migrateBulk (c : Core) (pair : Nat) : Core :=
  let c := (c.obj.indexes.map (·.1)).foldl (migrateIndex pair) c
  let c := (c.obj.tables.map (·.1)).foldl (migrateTable pair) c
  migrateRest (migratePages c pair) pair

/-- R234: the staging frames of a draining pair move to the pair with the most free frames once no command attends them. No entry names a staging frame, so none is forwarded. -/
def migrateStage (c : Core) (pair : Nat) : Core :=
  let d := stackDie (pair / 512)
  let q := mostFree c d
  let n := min (nth (c.mem.stagePairs.get d) (pair % 2048) 0) (min (pairRoom c q) (freeOf c d))
  if n = 0 || 0 < stageUsed (pairOf c pair) then c
  else
    let c := modRoom (modRoom (reserveFree c d n) q (· - n)) pair (· + n)
    { c with mem := { c.mem with stagePairs := c.mem.stagePairs.mod d fun l =>
      (l.set (pair % 2048) (nth l (pair % 2048) 0 - n)).set (q % 2048) (nth l (q % 2048) 0 + n) } }

/-- R234: every frame of a draining pair moves away, as far as it can. -/
def migratePair (c : Core) (pair : Nat) : Core := migrateStage (migrateBulk ((framesIn c pair).foldl (fun c f => migrateOrLose c f true) c) pair) pair

/-- R234: a pair whose corrected errors reach the threshold, or whose unit is fenced, drains, and the frames of a draining pair move away. -/
def pairDrain (c : Core) (pair : Nat) : Core :=
  if !alive c then c
  else
    let p := pairOf c pair
    let c := if p.state = 0 && (p.unitFenced || pairThreshold c ≤ p.errors) then startDrain c pair else c
    if (pairOf c pair).state = 1 then migratePair c pair else c

/-- R234. -/
def execPairDrain (stack pair : Nat) (s : State) : Host.Outcome State Fault Refusal :=
  onCore s fun c => if stack < 8 ∧ pair < 512 then pairDrain c (512 * stack + pair) else c

/-- R165: one frame of a draining pair migrates. -/
def frameMigration (c : Core) (f : Nat) (good : Bool) : Core :=
  match mapGet c.mem.frames f with
  | none => c
  | some x => if !alive c || pairInService c x.pair then c else migrateOrLose c f good

/-- R165. -/
def execFrameMigration (frame : Nat) (good : Bool) (s : State) : Host.Outcome State Fault Refusal :=
  onCore s fun c => frameMigration c frame good

/-- R166: a walk of a host-managed page, or the sweep, rewrites the entries of its frames that name forwarded ones; entries at 0 are retired. -/
def walkPage (c : Core) (die : Bool) (page : Nat) : Core :=
  let mine := (c.mem.forward.get die).filter fun e => (e.2.page.map (·.1)) == some page
  mine.foldl (fun c e =>
    let i := (e.2.page.map (·.2)).getD 0
    let c := { c with mem := { c.mem with
      xmap := c.mem.xmap.mod die fun m => mapMod m page fun x => x.setFrame i e.2.now
      forward := c.mem.forward.mod die fun t => mapDel t e.1 } }
    retireFwd c e.2) c

/-- R166: the sweep rewrites every entry of a die that still names an old frame: the forward table empties and the old frames leave service. -/
def forwardSweep (c : Core) (die : Bool) : Core :=
  if !alive c || (c.levels.get die).lost then c
  else
    let c := (((c.mem.forward.get die).filterMap fun e => e.2.page.map (·.1)).eraseDups).foldl (walkPage · die) c
    (c.mem.forward.get die).foldl (fun c e => retireFwd c e.2) { c with mem := { c.mem with forward := c.mem.forward.set die [] } }

/-- R166. -/
def execForwardSweep (die : Bool) (s : State) : Host.Outcome State Fault Refusal := onCore s fun c => forwardSweep c die

/-! ## Fencing and repair of a pair (R235) -/

/-- Frames of a pair that indexes, tables and host-managed pages hold. -/
def placedIn (c : Core) (pair : Nat) : Nat :=
  let d := stackDie (pair / 512)
  let mine := fun (ps : List Nat) => ps.countP (· == pair)
  c.obj.indexes.foldl (fun n x => n + x.2.pairs.foldl (fun n l => n + mine l.2) 0 + x.2.late.foldl (fun n l => n + mine l.pairs) 0) 0 +
  c.obj.tables.foldl (fun n t => n + mine t.2.place) 0 +
  ((c.mem.xmap.get d).filter fun p => p.2.kind == 1).foldl (fun n p =>
    n + (List.range (sizeFrames p.2.size)).countP fun i => pairOfNo (pageNow c d p.1 i p.2) == pair) 0

/-- R235: no allocated frame is left in a pair, and no command is in flight. -/
def pairEmpty (c : Core) (pair : Nat) : Bool :=
  let p := pairOf c pair
  (framesIn c pair).isEmpty && forwardedIn c pair == 0 && pairBulk c pair == 0 && placedIn c pair == 0 &&
  nth (c.mem.stagePairs.get (stackDie (pair / 512))) (pair % 2048) 0 == 0 && p.queue.isEmpty && p.issued.isEmpty

/-- R219, R235: the FILL commands that test a pair: every frame with zeros, then with ones. -/
def testFills (pair : Nat) : List BankCmd :=
  [(0 : Word), ~~~(0 : Word)].flatMap fun pat => (List.range 64).map fun i =>
    { op := .fill { pattern := pat, die := stackDie (pair / 512), page := pair, first := 8 * i, test := true }, n := 8 }

/-- R235: the repair of a fenced pair: the fault lies in rows, and its banks (2 spare rows each) and its stack have spare rows left. `rows`: failing rows of the even bank in bits [15:0], of the odd bank above. The pair is filled with two patterns. -/
def startRepair (c : Core) (pair rows : Nat) : Core :=
  let p := pairOf c pair
  let k := pair / 512
  let even := rows % 65536
  let odd := rows / 65536
  if even + odd = 0 || p.unitFenced || (stackOf c k).spareRows < even + odd || 2 < p.spared0 + even || 2 < p.spared1 + odd then c
  else
    let c := { c with stackTab := mapSet c.stackTab k { stackOf c k with spareRows := (stackOf c k).spareRows - (even + odd) } }
    let c := modPair c pair fun p => { p with state := 3, spared0 := p.spared0 + even, spared1 := p.spared1 + odd }
    (testFills pair).foldl (fun c x => enqueue c pair x) c

/-- R235: an empty draining pair is fenced, and repaired where it can be. -/
def fencePair (c : Core) (pair rows : Nat) : Core :=
  let k := pair / 512
  let c := modPair c pair fun p => { p with state := 2 }
  let c := logErr c { kind := 8, die := stackDie k, severity := 2, wh := pairWhere pair }
  startRepair (repairEvent c (stackDie k) 2 k 0 (pair % 512)) pair rows

/-- R235: the patterns of a pair under repair are read back: it returns to service, or stays fenced until reset. -/
def endRepair (c : Core) (pair : Nat) (passes : Bool) : Core :=
  let k := pair / 512
  if !passes then modPair c pair fun p => { p with state := 2 }
  else
    let c := returnFree (modPair c pair fun p => { p with state := 0, errors := 0 }) (stackDie k) (pairRoom c pair)
    repairEvent c (stackDie k) 3 k 0 (pair % 512)

/-- Pairs of a stack that are fenced: one under repair is still fenced until its patterns pass (R235 says "stays fenced" of one that fails, and does not say whether one under repair counts; DESIGN CHOICE, log 170). -/
def fencedPairs (c : Core) (k : Nat) : Nat := ((stackOf c k).pairs.filter fun p => 2 ≤ p.2.state).length

end Sys2Proof.Machine
end

