-- ==== Sys2Proof/Machine/Translation.lean ====
section
/-! DEFINITION. Address translation (05_translation): host-managed mappings and their opcodes, lookups, migration and the forward table. -/

namespace Sys2Proof.Machine

/-- R144: first address of the host-managed half, and the end of the global space. -/
def hostHalf : Nat := 2 ^ 47
def globalEnd : Nat := 2 ^ 48

/-- R146: the bus address of an outbound physical address. -/
def outBus (c : Core) (pa : Nat) : Nat := (regGet c 0x100000 + (pa - outboundBase)) % 2 ^ 64

/-! ## Page-table entries (R147 to R150) -/

/-- R145: the tier of a physical address: 0 stacks, 1 loft, 2 outbound; none in the internal registers, in a gap or above the map. -/
def tierOf (pa : Nat) : Option Nat :=
  if pa < 2 ^ 37 then some 0
  else if 0x10000000000 ≤ pa && pa < 0x10100000000 then some 1
  else if outboundBase ≤ pa && pa < outboundEnd then some 2
  else none

/-- R147, R148: a page-table entry. `size`: 0 pointer, 1 64 KiB, 2 2 MiB, 3 1 GiB. -/
structure Pte where
  write : Bool := false
  cow : Bool := false
  hold : Bool := false
  tier : Nat := 0
  shared : Bool := false
  checked : Bool := false
  size : Nat := 1
  isSealed : Bool := false
  kv : Bool := false
  slot : Nat := 0
  frame : Nat := 0
  deriving DecidableEq, Repr

/-- R147, R148: the 64 bits of a valid entry. -/
def pteWord (e : Pte) : Nat :=
  1 + fieldAt 1 1 (b2n e.write) + fieldAt 2 1 (b2n e.cow) + fieldAt 3 1 (b2n e.hold) + fieldAt 4 2 e.tier + fieldAt 6 1 (b2n e.shared) +
  fieldAt 7 1 (b2n e.checked) + fieldAt 8 2 e.size + fieldAt 10 1 (b2n e.isSealed) + fieldAt 11 1 (b2n e.kv) + fieldAt 12 4 e.slot +
  fieldAt 16 36 e.frame

/-- R147, R148: the fields of an entry's word. -/
def pteOf (w : Nat) : Pte :=
  { write := bit w 1, cow := bit w 2, hold := bit w 3, tier := bits w 5 4, shared := bit w 6, checked := bit w 7, size := bits w 9 8
    isSealed := bit w 10, kv := bit w 11, slot := bits w 15 12, frame := bits w 51 16 }

/-- R156: the faults of a walk. -/
inductive WalkFault where
  | address | unmapped | readOnly | entry
  deriving DecidableEq, Repr

/-- R147, R149, R150: what a leaf entry's word at a level gives a walk. `middle`: it stands in a middle table, else in a leaf table. -/
def walkEntry (w : Nat) (middle write : Bool) : Except WalkFault Pte :=
  let e := pteOf w
  if !bit w 0 then .error .unmapped
  else if bits w 63 52 ≠ 0 || e.tier = 3 || e.size = 0 || (e.size = 3) ≠ middle || tierOf (e.frame * 65536) ≠ some e.tier then .error .entry
  else if write && !e.write && !e.cow then .error .readOnly
  else .ok e

/-- R147, R150: the entry of a session page: 64 KiB, tier 00. -/
def leafWord (c : Core) (l : Leaf) : Nat :=
  pteWord { write := true, cow := l.cow, hold := l.hold, shared := l.shared, checked := true, kv := l.kv, frame := frameNo c l.frame }

/-- R147 to R150: the entries of a host-managed page: each carries its first frame. -/
def pageWord (x : XPage) : Nat :=
  pteWord { write := x.write, tier := (x.kind + 2) % 3, checked := x.kind != 0, size := x.size + 1, frame := x.pa / 65536 }

/-! ## Lookups -/

/-- The mapping that covers a 64 KiB page of a die: its key and page (R149). -/
def xFind (m : Map XPage) (p : Nat) : Option (Nat × XPage) :=
  let at0 := fun (k size : Nat) => (mapGet m k).bind fun x => if x.size = size then some (k, x) else none
  (at0 p 0).or ((at0 (p - p % 32) 1).or (at0 (p - p % 16384) 2))

/-- Bit `die` of a `dies` field. -/
def onDie (dies : Nat) (die : Bool) : Bool := bit dies (b2n die)

/-- R168: fields of XLT_MAP and XLT_UNMAP. -/
def xVa (d : Desc) : Nat := d.field 2 63 0 0
def xPages (d : Desc) : Nat := d.field 4 31 0 0
def xSize (d : Desc) : Nat := d.field 4 33 32 0
def xDies (d : Desc) : Nat := d.field 4 39 38 0

/-- R171: an unmap that waits names a mapping: requests that come after it fault on it. -/
def unmapping (c : Core) (die : Bool) (k : Nat) (x : XPage) : Bool :=
  c.sess.waiting.any fun w =>
    w.desc.opcode == 3 && onDie (xDies w.desc) die && xSize w.desc == x.size &&
    xVa w.desc / 65536 ≤ k && k < xVa w.desc / 65536 + xPages w.desc * sizeFrames x.size

/-- R156: the mapping of a page of a die, as a request that is being carried out finds it; in the device-managed half the runs of pooled prefixes are mapped (R356). A request that an unmap finds in progress is waited for and let through, also where it has not yet walked the page: R171 faults what translates after the unmap has begun and does not say when a request in progress translates (DESIGN CHOICE, log 138). -/
def xPage (die : Bool) (p : Nat) : M (Option (Nat × XPage)) := do
  let r ← get
  if p < hostHalf / 65536 then return (poolPage r.core p).map fun x => (p, x)
  return (xFind (r.core.mem.xmap.get die) p).bind fun h =>
    if !r.resumed && unmapping r.core die h.1 h.2 then none else some h

/-- R144, R150, R166: the walk of a global address of a die: its mapping, with the entries rewritten that name forwarded frames, and the offset there, or the fault. -/
def walk (die : Bool) (va : Nat) (write : Bool) : M (Except WalkFault (Nat × XPage × Nat)) := do
  if 2 ^ 48 ≤ va then return .error .address
  match ← xPage die (va / 65536) with
  | none => return .error .unmapped
  | some (k, x) => match walkEntry (pageWord x) (x.size == 2) write with
    | .error f => return .error f
    | .ok _ =>
      modC fun c => walkPage c die k
      let x := (mapGet ((← getC).mem.xmap.get die) k).getD x
      return .ok (k, x, va - 65536 * k)

/-! ## XLT_MAP and XLT_UNMAP (R168 to R171) -/

/-- R169 checks 1 to 3. -/
def xCheck (d : Desc) : M Unit := do
  check (d.session != 0) .invalidField
  let va := xVa d
  let bytes := sizeFrames (xSize d) * 65536
  check (va < hostHalf || globalEnd ≤ va || (xSize d != 3 && va % bytes != 0) || globalEnd < va + xPages d * bytes) .invalidField
  check (xSize d == 3 || xDies d == 0 || 2 ≤ d.field 4 37 36 0) .invalidField

/-- A range of 64 KiB pages overlaps a mapping. -/
def xOverlaps (m : Map XPage) (p n : Nat) : Bool := m.any fun e => e.1 < p + n && p < e.1 + sizeFrames e.2.size

/-- The dies that a descriptor names. -/
def diesOf (d : Desc) : List Bool := [false, true].filter (onDie (xDies d))

/-- R145, R149: where in a die's loft a page of some frames that the device allocates begins: a place of its own size, which the device chooses (Config.pagePlace), in the slice that the rotation gives (R174). -/
def loftPage (c : Core) (die : Bool) (n i : Nat) : Nat :=
  let r := Config.pagePlace 2 (c.draws + i)
  let ss := sliceList c die
  let slice := nth ss ((c.mem.loftNext.get die + i) % ss.length) 0
  let at0 := if n ≤ 1024 then slice * 1024 + r % (1024 / n) * n else slice / 16 * 16384
  0x10000000000 + 65536 * ((if die then 32768 else 0) + at0)

/-- R211, R234: the pairs of `n` frames from a frame number on have room for them: 32 frames each for a page of 1 GiB. -/
def blockFits (c : Core) (f n : Nat) : Bool :=
  if n ≤ 512 then (List.range n).all fun i => pairOpen c (pairOfNo (f + i))
  else (List.range 512).all fun i => pairInService c (f / 262144 * 512 + i) && n / 512 ≤ pairRoom c (f / 262144 * 512 + i)

/-- A host-managed page of a die has a frame among `n` from a frame number on. -/
def pagesHold (c : Core) (die : Bool) (f n : Nat) : Bool :=
  (c.mem.xmap.get die).any fun p => p.2.kind == 1 &&
    ((p.2.pa / 65536 < f + n && f < p.2.pa / 65536 + sizeFrames p.2.size) || p.2.moved.any fun m => f ≤ m.2 && m.2 < f + n)

/-- R149: the first of some blocks of `n` frames of a die that is free, `k` of them looked at from block `b` on. -/
def freeBlock (c : Core) (die : Bool) (n : Nat) : Nat → Nat → Option Nat
  | 0, _ => none
  | k + 1, b =>
    let f := (if die then 1048576 else 0) + b % (1048576 / n) * n
    if blockFits c f n && !pagesHold c die f n then some f else freeBlock c die n k (b + 1)

/-- R145, R149: the frames of a stacked page: aligned to its size, from a place that the device chooses (Config.pagePlace); none where no aligned block is free (DESIGN CHOICE, log 164). -/
def stackPage (c : Core) (die : Bool) (n : Nat) : Option Nat := freeBlock c die n (1048576 / n) (Config.pagePlace 1 c.draws)

/-- R170: page `i` of a mapping on a die at a physical address. Kind 0 outbound, 1 stacks, 2 loft. -/
def xNew (d : Desc) (kind pa : Nat) : XPage :=
  { size := xSize d, write := d.field 4 34 34 0 == 1, kind := kind, pa := pa, run := if kind = 2 then pageRun pa (sizeFrames (xSize d)) else {} }

/-- Enters a page of a die. -/
def setPage (c : Core) (die : Bool) (page : Nat) (x : XPage) : Core :=
  { c with mem := { c.mem with xmap := c.mem.xmap.mod die fun m => mapSet m page x } }

/-- R170, R211: a stacked page takes its frames from their pairs. -/
def enterStacked (d : Desc) (die : Bool) (i : Nat) (c : Core) : Option Core :=
  let n := sizeFrames (xSize d)
  (stackPage c die n).map fun f =>
    let c := (List.range n).foldl (fun c i => modRoom c (pairOfNo (f + i)) (· - 1)) (reserveFree c die n)
    setPage { c with draws := c.draws + 1 } die (xVa d / 65536 + n * i) (xNew d 1 (65536 * f))

/-- R170: the stacked pages of a die. -/
def enterStack (d : Desc) (c : Core) (die : Bool) : Option Core :=
  (List.range (xPages d)).foldl (fun c i => c.bind (enterStacked d die i)) (some c)

/-- R170: the outbound or loft pages of a die. -/
def xEnter (d : Desc) (kind : Nat) (c : Core) (die : Bool) : Core :=
  let n := sizeFrames (xSize d)
  let c' := if kind = 2 then takeLoft c die (xPages d * n) else c
  let pa := fun i => if kind = 0 then d.field 3 63 0 0 + 65536 * n * i else loftPage c die n i
  let c' := (List.range (xPages d)).foldl (fun c i => setPage c die (xVa d / 65536 + n * i) (xNew d kind (pa i))) c'
  { c' with draws := c'.draws + (if kind = 0 then 0 else xPages d) }

/-- R211, R219: the FILL commands that zero the frames of a stacked page: consecutive frames lie in pairs of their own. -/
def fillCmds (c : Core) (ring : Nat) (die : Bool) (page frames : Nat) : Core :=
  match mapGet (c.mem.xmap.get die) page with
  | none => c
  | some x => (List.range frames).foldl (fun c i =>
    enqueue c (pairOfNo (x.frame i))
      { op := .fill { pattern := 0, die := die, page := page, first := i }, n := 1, owner := .job ring }) c

/-- A descriptor starts to wait for bank-unit commands. -/
def startJob (d : Desc) (j : Job) : M Unit :=
  modC fun c => { c with obj := { c.obj with jobs := mapSet c.obj.jobs d.ring j } }

/-- R176: hot copies in the way of a loft mapping leave only between the die's steps. -/
def waitRoom (dies : List Bool) (n : Nat) : M Unit := do
  let c ← getC
  if dies.any fun die => c.mem.loftFree.get die < hotOn c die + n && stepRuns c die then waitInside

/-- R169, R170: XLT_MAP. Stacked frames are zeroed by FILL, and the request completes once that is done. -/
def xltMapBody (d : Desc) : M Done := do
  xCheck d
  let pages := xPages d
  if pages = 0 then return .done .ok 0 0
  let n := sizeFrames (xSize d)
  let alloc := d.field 4 35 35 0 == 1
  let kind := if !alloc then 0 else if d.field 4 37 36 0 = 0 then 1 else 2
  let pa := d.field 3 63 0 0
  check (!alloc && (pa < outboundBase || pa % (65536 * n) != 0 || outboundEnd < pa + pages * n * 65536)) .invalidField
  let c ← getC
  check ((diesOf d).any fun die => xOverlaps (c.mem.xmap.get die) (xVa d / 65536) (pages * n)) .wrongState
  check (kind == 1 && (diesOf d).any fun die => freeOf c die < pages * n) .noSpace
  check (kind == 2 && (diesOf d).any fun die => !fitsLoft c die (pages * n)) .noSpace
  if kind = 2 then waitRoom (diesOf d) (pages * n)
  if kind != 1 then
    modC fun c => (diesOf d).foldl (xEnter d kind) c
    return .done .ok pages 0
  match (diesOf d).foldl (fun c die => c.bind (enterStack d · die)) (some (← getC)) with
  | none => refuse .noSpace
  | some c => putC c
  startJob d { desc := d }
  modC fun c => (diesOf d).foldl (fun c die =>
    (List.range pages).foldl (fun c i => fillCmds c d.ring die (xVa d / 65536 + n * i) n) c) c
  return .running

/-- R169. -/
def execXltMap (d : Desc) (s : State) : Host.Outcome State Fault Refusal := .next (acceptSeq s d [] (xltMapBody d))

/-- The 64 KiB pages of a range of bytes overlap the range of an unmap. -/
def inUnmap (d : Desc) (va bytes : Nat) : Bool :=
  let lo := xVa d
  let hi := lo + xPages d * sizeFrames (xSize d) * 65536
  va < hi && lo < va + bytes

/-- R171: a request in progress translated an address of the range on a named die: a TILE_COPY, or a table opcode of a bound table. -/
def translates (c : Core) (d x : Desc) : Bool :=
  if x.opcode = 4 then
    let n := x.field 4 31 0 0
    onDie (xDies d) (x.field 4 32 32 0 == 1) &&
    (inUnmap d (x.field 2 63 0 0) (65536 * n) || inUnmap d (x.field 3 63 0 0) (65536 * n) ||
      (x.field 5 63 0 0 != 0 && inUnmap d (x.field 5 63 0 0) (1024 * n)) ||
      (x.field 6 63 0 0 != 0 && inUnmap d (x.field 6 63 0 0) (1024 * n)))
  else if x.opcode = 0x69 || x.opcode = 0x6A || x.opcode = 0x6B then
    let id := if x.opcode = 0x6A then x.field 5 9 0 0 else x.field 4 9 0 0
    match mapGet c.obj.tables id with
    | none => false
    | some t => t.bound && onDie (xDies d) t.die && inUnmap d t.va (cdiv t.rows (65536 / t.width) * 65536)
  else false

/-- R171, R166: the mapping leaves a die; the frames that XLT_MAP took return, wherever they have moved. -/
def xRemove (c : Core) (die : Bool) (k : Nat) (x : XPage) : Core :=
  let c := walkPage c die k
  let x := (mapGet (c.mem.xmap.get die) k).getD x
  let c := { c with mem := { c.mem with xmap := c.mem.xmap.mod die fun m => mapDel m k } }
  if x.kind = 1 then freePlaces c die ((List.range (sizeFrames x.size)).map fun i => pairOfNo (x.frame i))
  else if x.kind = 2 then giveLoft c die x.run.frames else c

/-- R171: the mappings of the descriptor's size in its range on a die. -/
def xMapped (c : Core) (d : Desc) (die : Bool) : List (Nat × XPage) :=
  let lo := xVa d / 65536
  (c.mem.xmap.get die).filter fun e => e.2.size == xSize d && lo ≤ e.1 && e.1 < lo + xPages d * sizeFrames (xSize d)

/-- R171: XLT_UNMAP. A page unmapped on both dies counts once: R171 counts pages and does not say whether per die (DESIGN CHOICE, log 137). -/
def xltUnmapBody (d : Desc) : M Done := do
  xCheck d
  if xPages d = 0 then return .done .ok 0 0
  let c ← getC
  if (c.sess.waiting.any fun w => w.desc != d && translates c d w.desc) || (c.obj.jobs.any fun j => translates c d j.2.desc) then
    waitInside
  let found := (diesOf d).map fun die => (die, xMapped c d die)
  modC fun c => found.foldl (fun c p => p.2.foldl (fun c e => xRemove c p.1 e.1 e.2) c) c
  return .done .ok ((found.flatMap fun p => p.2.map (·.1)).eraseDups.length) 0

/-- R171. -/
def execXltUnmap (d : Desc) (s : State) : Host.Outcome State Fault Refusal := .next (acceptSeq s d [] (xltUnmapBody d))

end Sys2Proof.Machine
end

