-- ==== Sys2Proof/Machine/Tiers.lean ====
section
/-! DEFINITION. Loft, stacks and the pool (06_tiers): TILE_COPY, pool windows and their release lists, late completions, hot copies, retired loft frames. -/

namespace Sys2Proof.Machine

/-! ## TILE_COPY (R181 to R185) -/

/-- R181: fields of TILE_COPY. -/
def tcSrc (d : Desc) : Nat := d.field 2 63 0 0
def tcDst (d : Desc) : Nat := d.field 3 63 0 0
def tcTiles (d : Desc) : Nat := d.field 4 31 0 0
def tcDie (d : Desc) : Bool := d.field 4 32 32 0 == 1

/-- An address outside the host-managed half, or one that an alignment does not divide. -/
def badHostVa (va bytes align : Nat) : Bool := va < hostHalf || globalEnd ≤ va || globalEnd < va + bytes || va % align != 0

/-- A run of 64 KiB pages of a die: mapped, of one tier, and writable when asked; its tier, or none. -/
def rangeTier (die write : Bool) (p : Nat) : Nat → M (Option Nat)
  | 0 => return some 3
  | n + 1 => do
    match ← rangeTier die write (p + 1) n, ← xPage die p with
    | some k, some h =>
      if (write && !h.2.write) || (k != 3 && k != h.2.kind) then return none else return some h.2.kind
    | _, _ => return none

/-- R156: the page that holds a global address that the host named, and the offset in it. -/
def pageOf (die write : Bool) (va : Nat) : M (Nat × XPage × Nat) := do
  match ← walk die va write with
  | .ok r => return r
  | .error _ => refuse .invalidField

/-- Bytes at an outbound global address. -/
def readOut (x : XPage) (off n : Nat) : M (List Byte) := do
  let a := outBus (← getC) (x.pa + off)
  readOutbound a n

/-- Posts bytes to an outbound global address. -/
def writeOut (x : XPage) (off : Nat) (bs : List Byte) : M Unit := do
  let a := outBus (← getC) (x.pa + off)
  writeOutbound a bs

/-- R183, R184: the contents of a source tile, its check values verified; a loft block that failed parity is an internal fault (R202, R468). -/
def sourceTile (d : Desc) (i : Nat) : M (List Byte) := do
  let die := tcDie d
  let (_, x, off) ← pageOf die false (tcSrc d + 65536 * i)
  if x.kind = 0 then
    let bs ← readOut x off 65536
    let chk := d.field 5 63 0 0
    if chk = 0 then return bs
    let (_, y, o) ← pageOf die false (chk + 1024 * i)
    let vs ← readOut y o 1024
    checkHost (checkArray bs != vs)
    return bs
  else
    if let some b := x.bad.find? fun b => off / 256 ≤ b && b < off / 256 + 256 then
      if x.kind = 2 then failLogged 3 .dataError 0 (x.blockPa b)
      else failBlock (pairOfNo (x.frame (b / 256))) (x.blockPa b) .checkMismatch
    return cellsRead x.bytes off 65536

/-- R183: a destination tile is written, with its check values where they go. -/
def destTile (d : Desc) (i : Nat) (bs : List Byte) : M Unit := do
  let die := tcDie d
  let (k, x, off) ← pageOf die true (tcDst d + 65536 * i)
  if x.kind = 0 then
    writeOut x off bs
    let chk := d.field 6 63 0 0
    if chk = 0 then return ()
    let (_, y, o) ← pageOf die true (chk + 1024 * i)
    writeOut y o (checkArray bs)
  else
    modC fun c => { c with mem := { c.mem with xmap := c.mem.xmap.mod die fun m => mapMod m k fun x =>
      { x with bytes := cellsWrite x.bytes off bs, bad := x.bad.filter fun b => !(off / 256 ≤ b && b < off / 256 + 256) } } }

/-- Tiles in ascending order; one that fails ends the request with the tiles before it in count0. -/
def copyTiles (d : Desc) : List Nat → M Unit
  | [] => return ()
  | i :: is => do
    let r ← get
    match (do destTile d i (← sourceTile d i) : M Unit) r with
    | .ok (_, r') => set r'
    | .error (.fail st _ _ c) => throw (.fail st i 0 (keepOutside r.core c))
    | .error w => throw w
    copyTiles d is

/-- R182, R184: TILE_COPY. Host-managed pages are never SEALED, so order 6 never fails. -/
def tileCopyBody (d : Desc) : M Done := do
  check (d.session != 0) .invalidField
  let src := tcSrc d
  let dst := tcDst d
  let n := tcTiles d
  let bytes := 65536 * n
  check (badHostVa src bytes 65536 || badHostVa dst bytes 65536 || (src < dst + bytes && dst < src + bytes)) .invalidField
  let sc := d.field 5 63 0 0
  let dc := d.field 6 63 0 0
  check ((sc != 0 && badHostVa sc 0 1024) || (dc != 0 && badHostVa dc 0 1024)) .invalidField
  if n = 0 then return .done .ok 0 0
  let die := tcDie d
  let ks ← rangeTier die false (src / 65536) n
  let kd ← rangeTier die true (dst / 65536) n
  check (ks.isNone || kd.isNone) .invalidField
  let pages := fun a => (a + 1024 * n - 1) / 65536 - a / 65536 + 1
  let ss ← if sc = 0 then pure (some 0) else rangeTier die false (sc / 65536) (pages sc)
  let sd ← if dc = 0 then pure (some 0) else rangeTier die true (dc / 65536) (pages dc)
  check ((sc != 0 && ks != some 0) || (dc != 0 && kd != some 0) || ss != some 0 || sd != some 0) .invalidField
  modC countWalks
  copyTiles d (List.range n)
  return .done .ok n 0

/-- R184. -/
def execTileCopy (d : Desc) (env : Env) (s : State) : Host.Outcome State Fault Refusal :=
  .next (acceptSeq s d env (tileCopyBody d))

/-! ## Pool windows (R192, R193, R197 to R199) -/

/-- TIER_POOL_CFG[w]. -/
def poolCfg (w : Nat) : Nat := 0x200210 + 0x20 * w

/-- R193: a header that passes: unit size, units, data offset. -/
def headerOk (c : Core) (w : Nat) (h : List Byte) : Option (Nat × Nat × Nat) :=
  let w0 := leAt h 0 8
  let lg := bits w0 47 40
  let units := bits (leAt h 8 8) 39 0
  let data := leAt h 16 8
  let size := regField c (0x200208 + 0x20 * w) 63 20 * 2 ^ 20
  let base := regField c (0x200200 + 0x20 * w) 63 20 * 2 ^ 20
  let at0 := (base + 2 ^ 64 - regGet c 0x100000) % 2 ^ 64
  if bits w0 31 0 = 0x0B1E5A7C && bits w0 39 32 = 1 && 1 ≤ units && 18 ≤ lg && lg ≤ 24 && data % 2 ^ lg = 0 &&
      4096 + 8 * cdiv units 64 ≤ data && data + units * 2 ^ lg ≤ size && at0 + size ≤ outboundEnd - outboundBase then
    some (lg, units, data)
  else none

/-- R193: the header of a window is read and checked: STATE becomes 1, 2 or 3. The claim cursor starts at unit 0, where R194 gives it no start (DESIGN CHOICE, log 176). -/
def readHeader (w : Nat) : M Unit := do
  let a ← winTry w 0
  modC fun c =>
    let x := winOf c w
    match a with
    | .data bs =>
      match headerOk c w bs with
      | some (lg, units, data) => setWin c w { x with state := 1, unitLog2 := lg, units := units, dataOffset := data, cursor := 0 }
      | none => setWin c w { x with state := 3 }
    | _ => setWin c w { x with state := 2 }

/-- Enters a window that has no entry yet. -/
def ensureWin (c : Core) (w : Nat) : Core := if mapHas c.mem.windows w then c else setWin c w {}

/-- R193, R198: a write of TIER_POOL_CFG[w]: EN 0 is refused while POOLED is above 0; EN 1 on a window that was off, failed or refused reads its header. -/
def poolCfgWrite (s : State) (w off size value : Nat) (env : Env) : State :=
  let c := s.core
  let was := regField c (poolCfg w) 0 0
  let c1 := plainWrite c (poolCfg w + off) size value
  if regField c1 (poolCfg w) 0 0 = 0 then
    if was = 0 then { s with core := c1 }
    else if 0 < pooledIn c w then { s with core := logHost (regPut c1 (poolCfg w) 0 0 1) 0x0C (poolCfg w + off) }
    else { s with core := setWin (ensureWin c1 w) w { winOf c1 w with state := 0 } }
  else if off ≠ 0 || (was = 1 && (winOf c w).state ≠ 2 && (winOf c w).state ≠ 3) then { s with core := c1 }
  else eventRun { s with core := ensureWin c1 w } env (readHeader w)

/-- R86, R571: as `bar0Write`, for a write whose effect issues requests. -/
def bar0WriteS (s : State) (off size : Nat) (f : State → State) : State :=
  let c := s.core
  if !c.power.on || !barReady c || !alignedAccess off size then { s with core := bar0Write c off size id }
  else f { s with core := hostAccess c off }

/-- R193. -/
def execPoolWindowEnable (w off size : Nat) (value : Word) (env : Env) (s : State) : Host.Outcome State Fault Refusal :=
  .next (bar0WriteS s (poolCfg w + off) size fun s =>
    if w = 0 ∨ 15 < w ∨ 7 < off then s else poolCfgWrite s w off size value.toNat env)

/-- R198, R199: a write of TIER_POOL_BASE or TIER_POOL_SIZE: ignored while EN is 1, else it discards the window's release list, each entry logged. -/
def poolRangeWrite (c : Core) (w off size value : Nat) : Core :=
  if regField c (poolCfg w) 0 0 = 1 then c
  else
    let n := (winOf c w).releases.length
    let c := plainWrite c off size value
    let c := if n = 0 then c else setWin c w { winOf c w with releases := [] }
    (List.range n).foldl (fun c _ => logErr c { kind := 0x0E, severity := 1 }) c

/-- R199, R405, R409: a take that may have landed is re-offered to any device; one that did not land is forgotten; one that the window does not answer for stays. -/
def retryTake (w loc gen : Nat) (item : ReleaseItem) : M Unit := do
  let c ← getC
  let off := unitOff (winOf c w) loc
  match ← winTry w off with
  | .data bs =>
    if leAt bs 0 16 ≠ heldWord c gen then return ()
    match ← swapWord w off (heldWord c gen) (leaseWord 0 2 (gen + 1) (deviceNo c)) with
    | .old _ => return ()
    | _ => modC fun c => addRelease c w item
  | _ => modC fun c => addRelease c w item

/-- R199: the entries of a release list, in order. -/
def retryItems (w : Nat) : List ReleaseItem → M Unit
  | [] => return ()
  | i :: is => do
    match i with
    | .run r => releaseRun w r
    | .take loc gen _ => retryTake w loc gen i
    retryItems w is

/-- R199: the window answers in STATE 1, and its release list is retried. -/
def execReleaseListRetry (w : Nat) (env : Env) (s : State) : Host.Outcome State Fault Refusal :=
  let x := winOf s.core w
  if !ready s.core || x.state ≠ 1 || x.releases.isEmpty then .next s
  else
    let c := setWin s.core w { x with releases := [] }
    match (retryItems w x.releases) (runOf s c (env ++ noAnswers)) with
    | .ok (_, r) => .next { s with core := r.core }
    | .error _ => .next s

/-- R201: a completion after its timeout is discarded and logged. -/
def execLateCompletion (slot : Nat) (s : State) : Host.Outcome State Fault Refusal :=
  whenReady s fun c => if slot < 16 && c.link.up then logErr c { kind := 0x0A, severity := 1 } else c

/-! ## The loft (R176, R179) -/

/-- R176: tiles of a model on a die that may be hot. -/
def hotTiles (m : Model) (die : Bool) : Nat :=
  let t := m.image.drop 64
  (List.range (miSections m.image)).foldl (fun n i =>
    let s := sectionAt t i
    if s.kind != 3 && s.kind != 12 && (layerDies m.image s.layer).contains die then n + s.tiles else n) 0

/-- R176: free object space fills with hot copies, models in ascending slot. -/
def hotCopyFill (c : Core) (die : Bool) : Core :=
  c.obj.models.foldl (fun c p =>
    if p.2.state != 2 || !p.2.available then c
    else
      let have0 := (mapGet c.mem.hot (2 * p.1 + b2n die)).getD 0
      let room := c.mem.loftFree.get die - hotOn c die
      setHot c die p.1 (have0 + min room (hotTiles p.2 die - have0))) c

/-- R176. -/
def execHotCopyFill (die : Bool) (s : State) : Host.Outcome State Fault Refusal :=
  onCore s fun c => if serving c then hotCopyFill c die else c

/-- R178, R179: `n` object-space frames leave; what is not free is a shortfall of required objects. -/
def loseLoft (c : Core) (die : Bool) (n : Nat) : Core :=
  let short := n - c.mem.loftFree.get die
  takeLoft { c with mem := { c.mem with loftShort := c.mem.loftShort.mod die (· + short) } } die n

/-- The host mapping of a die that holds a loft frame: its page, the mapping, the frame's index there. -/
def loftMapping (c : Core) (die : Bool) (frame : Nat) : Option (Nat × XPage × Nat) :=
  ((c.mem.xmap.get die).filter fun e => e.2.kind == 2).findSome? fun e =>
    ((List.range (sizeFrames e.2.size)).find? fun i => pageNow c die e.1 i e.2 % 32768 == frame).map fun i => (e.1, e.2, i)

/-- The place of a loft frame among the frames of its slice that no mapping holds. -/
def loftPlace (c : Core) (die : Bool) (frame : Nat) : Nat :=
  ((List.range (frame % 1024)).filter fun i => (loftMapping c die (sliceOf frame * 1024 + i)).isNone).length

/-- R174: the place in a run of its `p`-th frame in a slice. -/
def LoftRun.atSlice (r : LoftRun) (n p : Nat) : Nat :=
  let len := r.slices.length
  ((r.slices.findIdx? (· == n)).getD 0 + len - r.first % len) % len + p * len

/-- R174: frames of a slice that the required objects of a die hold. -/
def objectsOnSlice (c : Core) (die : Bool) (n : Nat) : Nat :=
  let runs := c.obj.vocabs.map (fun v => v.2.runs.get die) ++ c.obj.grammars.map (fun g => g.2.runs.get die) ++
    (c.obj.indexes.filter fun x => x.2.die == die).map fun x => x.2.run
  runs.foldl (fun k r => k + r.onSlice n) 0

/-- Hot copies in a slice: free object space holds them, in rotation. -/
def hotOnSlice (c : Core) (die : Bool) (n : Nat) : Nat :=
  LoftRun.onSlice { frames := hotOn c die, slices := sliceList c die } n

/-- R173, R179: sessions whose changed entries a frame of a die's directory cache holds. -/
def changedInFrame (c : Core) (die : Bool) (k : Nat) : List Nat :=
  (changedOn c die).filter fun sid => Config.cacheFrame sid % max 1 (c.mem.dirFrames.get die) == k

/-- R165, R179: the mapped frame of a retired loft frame moves: its old place enters the forward table, and a walk of its page or the sweep gives the page the new one. -/
def moveMapped (c : Core) (die : Bool) (frame page i : Nat) : Core :=
  forward { c with draws := c.draws + 1 } die
    { frame := 0, pair := frame, loft := true, count := 1, page := some (page, i), now := loftPage c die 1 0 / 65536 }

/-- R167: a mapped loft frame holds a check block that fails: a copy of it would end its migration. -/
def loftBad (x : XPage) (i : Nat) : Bool := x.bad.any fun b => b / 256 == i

/-- R176: one hot copy of a die is dropped, the one that R176 takes back first. -/
def dropHot (c : Core) (die : Bool) : Core :=
  match (List.range 16).reverse.find? fun k => mapHas c.mem.hot (2 * k + b2n die) with
  | some k => setHot c die k ((mapGet c.mem.hot (2 * k + b2n die)).getD 0 - 1)
  | none => c

/-- R179: what holds a loft frame lets go of it: a mapped frame moves; a cache frame is written back; a hot copy is dropped. The frames of a slice that no mapping holds are the directory cache's, the tail pool's, the required objects', the hot copies' and the free ones, in this order (DESIGN CHOICE, log 142). -/
def clearLoft (c : Core) (die : Bool) (frame : Nat) : Core :=
  match loftMapping c die frame with
  | some (k, _, i) => moveMapped c die frame k i
  | none =>
    let n := sliceOf frame
    let p := loftPlace c die frame
    let dir := (c.mem.dirRun.get die).onSlice n
    let objects := dir + (c.mem.tailRun.get die).onSlice n + objectsOnSlice c die n
    if p < dir then (changedInFrame c die ((c.mem.dirRun.get die).atSlice n p)).foldl writeBack c
    else if objects ≤ p && p < objects + hotOnSlice c die n then dropHot c die
    else c

/-- R167, R179: a loft frame cannot be retired yet: the forward table is full, and a mapping holds it. -/
def retireWaits (c : Core) (die : Bool) (frame : Nat) : Bool :=
  forwardMax ≤ (c.mem.forward.get die).length && (loftMapping c die frame).isSome

/-- R179, R482: a loft frame is retired, and its partition takes a free object-space frame in its place. A mapped frame whose copy would fail its check values stays (R167). -/
def retireLoft (c : Core) (die : Bool) (frame : Nat) : Core :=
  let n := sliceOf frame
  let wh : Where := { level := 1, region := n / 8, cluster := n % 8 }
  if 32768 ≤ frame || mapHas (c.mem.loftRetired.get die) frame || mapHas (c.levels.get die).clusters (sliceOf frame) ||
      retireWaits c die frame then c
  else if (loftMapping c die frame).any fun m => loftBad m.2.1 m.2.2 then
    logErr c { kind := 3, die := die, wh := wh, addr := 0x10000000000 + 65536 * (frame + if die then 32768 else 0) }
  else
    let c := clearLoft c die frame
    let c := { c with mem := { c.mem with loftRetired := c.mem.loftRetired.mod die fun m => mapSet m frame () } }
    let c := loseLoft c die 1
    let c := logErr c { kind := 8, die := die, severity := 2, wh := wh }
    repairEvent c die 4 (n / 8) (n % 8) (frame % 1024)

/-- R179. -/
def execLoftFrameRetire (die : Bool) (frame : Nat) (s : State) : Host.Outcome State Fault Refusal :=
  onCore s fun c => if serving c then retireLoft c die frame else c

end Sys2Proof.Machine
end

