-- ==== Sys2Proof/Machine/Levels.lean ====
section
/-! DEFINITION. Fencing by level (02_architecture R54 to R58, R178): cores, clusters, regions, stacks, the loss of a die. -/

namespace Sys2Proof.Machine

/-- The key of a cluster: 8 * region + cluster. -/
def clusterKey (region cluster : Nat) : Nat := 8 * region + cluster

/-- Changes the levels of a die. -/
def modLevels (c : Core) (die : Bool) (f : Levels → Levels) : Core := { c with levels := c.levels.mod die f }

/-- R57: the device holds: it fetches nothing, commits nothing and writes nothing until reset. A paired device whose twin link works has sent GIVE_UP (R505). -/
def holdDevice (c : Core) : Core :=
  sendGiveUp { c with power := { c.power with held := true } }

/-- R57: a die is lost, and the device with it. -/
def loseDie (c : Core) (die : Bool) : Core :=
  let c := modLevels (logErr c { kind := 0x10, die := die, severity := 3, wh := { level := 3 } }) die fun l => { l with lost := true }
  holdDevice c

/-- R57. -/
def execDieLost (die : Bool) (s : State) : Host.Outcome State Fault Refusal :=
  onCore s fun c => if ready c && !(c.levels.get die).lost then loseDie c die else c

/-- A model whose layers lie on both dies (R73). -/
def spansDies (c : Core) (slot : Nat) : Bool := miSpanned (imgOf c slot)

/-- R55, R23: the step in flight on a die fails for each session it carried; so does one of the other die whose model has layers here (R73). -/
def failStep (c : Core) (die : Bool) (st : Status) : Core :=
  let c := (inStep (c.sched.get die)).foldl (fun c r => failRow c die r st) c
  if spansDies c (c.sched.get (!die)).slot then (inStep (c.sched.get (!die))).foldl (fun c r => failRow c (!die) r st) c
  else c

/-- R468: committed state of a session that is gone from the loft: rebuilt from the twin's mirror, or the session is LOST. -/
def stateLost (c : Core) (sid : Nat) : Core :=
  if (entryOf c sid).state = .free || sid = 0 then c
  else if shadowed c sid then askTwin c (.pages sid)
  else if canBeLost (entryOf c sid) 1 then loseByEvent c sid 1
  else if canBeLost (entryOf c sid) 2 then loseByEvent c sid 2
  else c

/-- R55, R174: sessions whose changed entries lay in a slice of a die's directory cache. -/
def changedInSlice (c : Core) (die : Bool) (n : Nat) : List Nat :=
  (changedOn c die).filter fun sid =>
    (c.mem.dirRun.get die).slice (Config.cacheFrame sid % max 1 (c.mem.dirFrames.get die)) == n

/-- R174: a run without a slice: its frames lie on the other slices. -/
def LoftRun.without (r : LoftRun) (n : Nat) : LoftRun := { r with slices := r.slices.filter (· != n) }

/-- The run of a die's object without a slice. -/
def runsWithout (die : Bool) (n : Nat) (r : PerDie LoftRun) : PerDie LoftRun := r.mod die (·.without n)

/-- A host loft mapping loses its frames in a slice: their check blocks fail from now on (R468). -/
def pageWithout (c : Core) (die : Bool) (n page : Nat) (x : XPage) : XPage :=
  if x.kind ≠ 2 then x
  else
    let gone := (List.range (sizeFrames x.size)).filter fun i => sliceOf (pageNow c die page i x % 32768) == n
    { x with
      run := { x.run.without n with frames := x.run.frames - gone.length }
      bad := gone.flatMap (fun i => (List.range 256).map (256 * i + ·)) ++ x.bad }

/-- Frames of a slice that host mappings of its die hold. -/
def mappedIn (c : Core) (die : Bool) (n : Nat) : Nat :=
  (c.mem.xmap.get die).foldl (fun k e => k + (e.2.run.frames - (pageWithout c die n e.1 e.2).run.frames)) 0

/-- R178: a slice's frames leave the partitions: free object space and hot copies first, then the tail pool down to 1,024, the directory cache down to 256, last required objects. What is left of each lies on the other slices. -/
def loseSlice (c : Core) (die : Bool) (n : Nat) : Core :=
  let gone := ((c.mem.loftRetired.get die).filter fun p => sliceOf p.1 == n).length
  let need := 1024 - gone - mappedIn c die n
  let a := min need (c.mem.loftFree.get die)
  let b := min (need - a) (c.mem.tailFrames.get die - 1024)
  let d := min (need - a - b) (c.mem.dirFrames.get die - 256)
  let tail := c.mem.tailFrames.get die - b
  let dir := c.mem.dirFrames.get die - d
  trimHot { c with
    mem := { c.mem with
      loftFree := c.mem.loftFree.mod die (· - a)
      tailFrames := c.mem.tailFrames.set die tail
      dirFrames := c.mem.dirFrames.set die dir
      tailRun := c.mem.tailRun.mod die fun r => { r.without n with frames := tail }
      dirRun := c.mem.dirRun.mod die fun r => { r.without n with frames := dir }
      loftShort := c.mem.loftShort.mod die (· + (need - a - b - d))
      xmap := c.mem.xmap.mod die fun m => m.map fun e => (e.1, pageWithout c die n e.1 e.2) }
    obj := { c.obj with
      vocabs := c.obj.vocabs.map fun v => (v.1, { v.2 with runs := runsWithout die n v.2.runs })
      grammars := c.obj.grammars.map fun g => (g.1, { g.2 with runs := runsWithout die n g.2.runs })
      indexes := c.obj.indexes.map fun x => (x.1, if x.2.die == die then { x.2 with run := x.2.run.without n } else x.2) } } die

/-- R55: a cluster leaves service with its loft slice; changed directory entries that lived only there are rebuilt, or their sessions are LOST. -/
def dropCluster (c : Core) (die : Bool) (n : Nat) : Core :=
  if mapHas (c.levels.get die).clusters n then c
  else
    let gone := changedInSlice c die n
    gone.foldl stateLost (loseSlice (modLevels c die fun l => { l with clusters := mapSet l.clusters n () }) die n)

/-- Clusters of a region that are fenced. -/
def fencedIn (c : Core) (die : Bool) (region : Nat) : Nat :=
  ((c.levels.get die).clusters.filter fun p => p.1 / 8 == region).length

/-- R56, R463: a region is fenced with what is left of it; a die with no region left is lost. -/
def fenceRegion (c : Core) (die : Bool) (region : Nat) : Core :=
  if mapHas (c.levels.get die).regions region || 4 ≤ region then c
  else
    let c := (List.range 8).foldl (fun c k => dropCluster c die (clusterKey region k)) c
    let c := modLevels c die fun l => { l with regions := mapSet l.regions region () }
    let c := logErr c { kind := 7, die := die, severity := 2, wh := { level := 2, region := region } }
    let c := failStep c die .fenced
    let c := capacityEvent c die 2 (factorU c die) region
    if (c.levels.get die).regions.length = 4 then loseDie c die else c

/-- R55, R56, R463: a cluster is fenced; the fifth of its region fences the region. -/
def fenceCluster (c : Core) (die : Bool) (region cluster : Nat) : Core :=
  let n := clusterKey region cluster
  if mapHas (c.levels.get die).clusters n || 4 ≤ region || 8 ≤ cluster then c
  else
    let c := dropCluster c die n
    let c := logErr c { kind := 7, die := die, severity := 2, wh := { level := 1, region := region, cluster := cluster } }
    let c := failStep c die .fenced
    let c := capacityEvent c die 1 (factorU c die) (region + 8 * cluster)
    if 5 ≤ fencedIn c die region then fenceRegion c die region else c

/-- R54, R482: a core fails and the spare takes its place; a second fault of the cluster fences it. -/
def swapCore (c : Core) (die : Bool) (region cluster core : Nat) : Core :=
  let n := clusterKey region cluster
  if mapHas (c.levels.get die).clusters n || 4 ≤ region || 8 ≤ cluster || 9 ≤ core then c
  else if mapHas (c.levels.get die).cores n then fenceCluster c die region cluster
  else
    let c := modLevels c die fun l => { l with cores := mapSet l.cores n core }
    let c := logErr c { kind := 7, die := die, severity := 2, wh := { level := 0, region := region, cluster := cluster, core := core } }
    repairEvent c die 1 region cluster core

/-- The die is in service. -/
def dieServes (c : Core) (die : Bool) : Bool := serving c && !(c.levels.get die).lost

/-- R54. -/
def execCoreSwap (die : Bool) (region cluster core : Nat) (s : State) : Host.Outcome State Fault Refusal :=
  onCore s fun c => if dieServes c die then swapCore c die region cluster core else c

/-- R55. -/
def execClusterFence (die : Bool) (region cluster : Nat) (s : State) : Host.Outcome State Fault Refusal :=
  onCore s fun c => if dieServes c die then fenceCluster c die region cluster else c

/-- R56. -/
def execRegionFence (die : Bool) (region : Nat) (s : State) : Host.Outcome State Fault Refusal :=
  onCore s fun c => if dieServes c die then fenceRegion c die region else c

/-! ## Stacks (R58) -/

/-- A frame lies on a stack. -/
def onStack (c : Core) (k f : Nat) : Bool :=
  match mapGet c.mem.frames f with
  | some x => x.pair / 512 == k
  | none => false

/-- The pairs of a stack. -/
def stackPairs (k : Nat) : List Nat := (List.range 512).map (512 * k + ·)

/-- Frames that objects and regions hold on a stack. -/
def stackBulk (c : Core) (k : Nat) : Nat := (stackPairs k).foldl (fun n p => n + pairBulk c p) 0

/-- Frames of a stack that objects held are let go, in the order of its pairs. -/
def dropBulk (c : Core) (k n : Nat) : Core :=
  ((stackPairs k).foldl (fun (a : Nat × Core) p =>
    let g := min a.1 (pairBulk a.2 p)
    (a.1 - g, modBulk a.2 p (· - g))) (n, c)).2

/-- Frames of a model that lie on a stack: its share of what objects and regions hold there, since the model places no object's frames by itself (DESIGN CHOICE, log 134). -/
def modelShare (c : Core) (k : Nat) (m : Model) : Nat :=
  let all := (c.mem.pairBulk.get (stackDie k)).foldl (· + ·) 0
  cdiv (m.frames.get (stackDie k) * stackBulk c k) (max 1 all)

/-- R58: a session with pages on a lost stack: rebuilt from the twin, or LOST. -/
def stackSession (k : Nat) (c : Core) (sid : Nat) : Core :=
  match mapGet c.sess.warm sid with
  | none => c
  | some w =>
    let fs := ((warmFrames w).eraseDups).filter (onStack c k)
    if fs.isEmpty then c
    else if shadowed c sid && fs.length ≤ freeOf c (stackDie k) then askTwin (fs.foldl rebuildFrame c) (.pages sid)
    else loseByEvent c sid 1

/-- R58, R504: a slot with tiles on a lost stack: rebuilt from the twin in other frames of the die, or unavailable; a sealed one is never sent. -/
def stackModel (k : Nat) (c : Core) (slot : Nat) : Core :=
  match mapGet c.obj.models slot with
  | none => c
  | some m =>
    let n := modelShare c k m
    let d := stackDie k
    if n = 0 then c
    else if paired c && !miSealed m.image && n ≤ freeOf c d &&
        (c.twin.hello.bind fun h => mapGet h.slots slot) == some (modelDigest m.image) then
      askTwin (dropBulk (takeFree c d n) k n) (.tiles slot)
    else { c with obj := { c.obj with models := mapSet c.obj.models slot { m with available := false } } }

/-- The owners of commands that a stack holds, or that wait for its queue. -/
def stackOwners (c : Core) (k : Nat) : List Owner :=
  let s := stackOf c k
  ((s.pairs.flatMap fun p => (p.2.queue ++ p.2.issued).map (·.owner)) ++ s.delayed.map (·.2.owner)).eraseDups

/-- R58, R476: commands of a stack are gone, with their staging frames; the rows and jobs they served end ST_FENCED. -/
def dropCommands (c : Core) (k : Nat) : Core :=
  let owners := stackOwners c k
  let gone := (stackPairs k).map fun p => (p, (pairOf c p).issued)
  let c := { c with stackTab := mapMod c.stackTab k fun s => { s with
    partials := 0, delayed := [], pairs := s.pairs.map fun p => (p.1, { p.2 with queue := [], issued := [], clock := 0 }) } }
  owners.foldl (failOwner .fenced) (gone.foldl (fun c p => freeIssued c p.1 p.2) c)

/-- R58, R191: the staging frames of a stack are gone. -/
def dropStage (c : Core) (k : Nat) : Core :=
  let d := stackDie k
  let n := (stackPairs k).foldl (fun n p => n + nth (c.mem.stagePairs.get d) (p % 2048) 0) 0
  let c := takeStaging c d n
  { c with mem := { c.mem with stagePairs := c.mem.stagePairs.mod d fun l => l.zipIdx.map fun x =>
    if (pairBase d + x.2) / 512 = k then 0 else x.1 } }

/-- Free frames of a stack's pairs in service. -/
def stackRoom (c : Core) (k : Nat) : Nat :=
  ((stackPairs k).filter (pairInService c)).foldl (fun n p => n + if (c.mem.pairFree.get (stackDie k)).isEmpty then 0 else pairRoom c p) 0

/-- R58: what tables, lists and host-managed pages had on a fenced stack fails its check values from now on: R58 names sessions and model slots only (DESIGN CHOICE, log 172). -/
def loseObjects (c : Core) (k : Nat) : Core :=
  let on := fun q : Nat => q / 512 == k
  let rows := fun (t : Table) => ((List.range t.place.length).filter fun i => on (nth t.place i 0)).flatMap fun i =>
    ((List.range (rowsPerFrame t.width)).map (rowsPerFrame t.width * i + ·)).filter (· < t.rows)
  let tables := c.obj.tables.map fun p => (p.1, if p.2.bound then p.2 else { p.2 with bad := (rows p.2).foldl (fun m r => mapSet m r ()) p.2.bad })
  let indexes := c.obj.indexes.map fun p =>
    let n := recordsPerFrame p.2.dim p.2.format
    (p.1, { p.2 with lists := p.2.lists.map fun l => (l.1, l.2.zipIdx.map fun r =>
      if on (nth ((mapGet p.2.pairs l.1).getD []) (r.2 / n) 0) then { r.1 with bad := true } else r.1) })
  let d := stackDie k
  let xmap := c.mem.xmap.mod d fun m => m.map fun p => (p.1, if p.2.kind ≠ 1 then p.2 else
    let gone := (List.range (sizeFrames p.2.size)).filter fun i => on (pairOfNo (pageNow c d p.1 i p.2))
    { p.2 with bad := p.2.bad ++ (gone.flatMap fun i => (List.range 256).map (256 * i + ·)).filter (!p.2.bad.contains ·) })
  { c with obj := { c.obj with tables := tables, indexes := indexes }, mem := { c.mem with xmap := xmap } }

/-- R58, R463: a stack is fenced whole. -/
def fenceStack (c : Core) (k : Nat) : Core :=
  if 8 ≤ k || (stackOf c k).state = 2 then c
  else
    let d := stackDie k
    let room := stackRoom c k
    let c := dropCommands { c with stackTab := mapSet c.stackTab k { stackOf c k with state := 2 } } k
    let c := dropStage (reserveFree c d room) k
    let c := logErr c { kind := 7, die := d, severity := 2, wh := { level := 3, stack := k % 4 } }
    let c := (c.sess.warm.map (·.1)).foldl (stackSession k) c
    let c := (c.obj.models.map (·.1)).foldl (stackModel k) c
    let c := { c with mem := { c.mem with frames := c.mem.frames.map fun p =>
      if p.2.pair / 512 == k then (p.1, { p.2 with bad := [0] }) else p } }
    capacityEvent (loseObjects c k) d 3 (factorU c d) (64 * (k % 4))

/-- R58. -/
def execStackFence (stack : Nat) (s : State) : Host.Outcome State Fault Refusal :=
  onCore s fun c => if dieServes c (stackDie stack) then fenceStack c stack else c

/-! ## Fencing and repair of a pair (R235) -/

/-- R58: a stack with more than 64 fenced pairs is fenced whole. -/
def stackLimit (c : Core) (k : Nat) : Core := if 64 < fencedPairs c k then fenceStack c k else c

/-- R235: an empty draining pair is fenced, and repaired where it can be; a pair whose test patterns have been written is read back. -/
def pairFenceRepair (c : Core) (pair rows : Nat) (passes : Bool) : Core :=
  let p := pairOf c pair
  if !alive c || (stackOf c (pair / 512)).state = 2 then c
  else if p.state = 1 && pairEmpty c pair then stackLimit (fencePair c pair rows) (pair / 512)
  else if p.state = 3 && p.queue.isEmpty && p.issued.isEmpty && !((stackOf c (pair / 512)).delayed.any fun x => x.1 == pair) then
    endRepair c pair passes
  else c

/-- R235. -/
def execPairFenceRepair (stack pair rows : Nat) (passes : Bool) (s : State) : Host.Outcome State Fault Refusal :=
  onCore s fun c => if stack < 8 ∧ pair < 512 then pairFenceRepair c (512 * stack + pair) rows passes else c

end Sys2Proof.Machine
end

