-- ==== Sys2Proof/Machine/Power.lean ====
section
/-! DEFINITION. Power, clocks and resets (21_power R557 to R577, 23_package R592 to R594): supplies, boot, training, READY, trips, the three resets, domains, deep idle. -/

namespace Sys2Proof.Machine

/-! ## Supplies (R592, R593) -/

/-- R592: the place of a rail in the power-up order. -/
def railBit : Rail → Nat
  | .vaon => 0 | .vio => 1 | .vsram => 2 | .vlogic0 => 3 | .vlogic1 => 4 | .vphy => 5 | .vpp => 6 | .vstk => 7 | .vstkq => 8

/-- R592: the rails that come before a rail; VLOGIC0 and VLOGIC1 come in either order. -/
def railsBefore : Rail → Nat
  | .vlogic1 => 7
  | r => 2 ^ railBit r - 1

/-- R592: every input counts as asserted. -/
def allRails : Nat := 511

/-- R570: all supplies are good. -/
def supplied (c : Core) : Bool := c.power.on && c.power.rails == allRails

/-- Locked PLLs of both dies (CLK_STAT). -/
def allLocks : Nat := 0x77

/-- R570, R571: READY is set once the supplies are good, the PLLs locked, the stacks trained, PERST# released and the link up, unless the device has failed or is held. -/
def tryReady (c : Core) : Core :=
  let p := c.power
  if supplied c && p.locks == allLocks && p.trained && !p.perst && c.link.up && !p.failed && !p.tripped && !p.held then
    modPower c fun p => { p with ready := true }
  else c

/-- R592: a supply-good input asserts; one out of order is ignored. With all nine, the domains leave reset. -/
def supplyGood (c : Core) (r : Rail) : Core :=
  let p := c.power
  if !p.on || p.rails &&& railsBefore r != railsBefore r then c
  else
    let c := modPower c fun p => { p with rails := p.rails ||| 2 ^ railBit r }
    tryReady (if c.power.rails = allRails && p.rails != allRails then startAll c else c)

/-- R592. -/
def execSupplyGoodAssert (rail : Rail) (s : State) : Host.Outcome State Fault Refusal := onCore s fun c => supplyGood c rail

/-! ## Resets (R565 to R568) -/

/-- R565: RST_CAUSE.LAST. -/
def causeCode : ResetCause → Nat
  | .perst => 2 | .i3c => 3 | .rstFundamental => 4 | .thermal => 5
  | .hotReset => 6 | .linkDisable => 7 | .functionLevel => 8 | .rstHost => 9

/-- R565: the causes of a fundamental reset. -/
def isFundamental : ResetCause → Bool
  | .perst | .i3c | .rstFundamental | .thermal => true
  | _ => false

/-- R567, R487: what every reset but power-on keeps: the always-on domain (error log, INT_FATAL, the aon count, takeovers), and what lies outside. -/
def keptCore (c : Core) : Core :=
  { draws := c.draws, aon := c.aon, bus := c.bus, cfg := { aer := c.cfg.aer }
    errs := { log := c.errs.log, next := c.errs.next, held1 := c.errs.held1, dropped1 := c.errs.dropped1, fatal := c.errs.fatal }
    twin := { takeovers := c.twin.takeovers, beats := c.twin.beats, giveUps := c.twin.giveUps }
    power := c.power }

/-- R567: the key store is emptied, and RTP_STATUS.STATUS and NONCE_IDX take their reset values. -/
def emptyKeys (r : Rot) : Rot := { r with sealKeys := [], ideKeys := [], status := 0, nonceIdx := 0 }

/-- RST_CAUSE after a reset. -/
def causeKept (p : Power) (k : ResetCause) : Power := { p with cause := causeCode k, resets := satAdd 16 p.resets 1 }

/-- A pair after a reset: its repaired rows stay repaired. -/
def pairKept (p : Pair) : Pair := { spared0 := p.spared0, spared1 := p.spared1 }

/-- R567: a stack after a host reset: as trained, with no command. -/
def stackKept (k : Stack) : Stack :=
  { state := if k.trained then 1 else 2, trained := k.trained, spareRows := k.spareRows, temp := k.temp, doubled := k.doubled
    pairs := k.pairs.map fun p => (p.1, pairKept p.2) }

/-- R567: a stack after a fundamental reset, before it is trained again. -/
def stackUntrained (k : Stack) : Stack := { pairs := k.pairs.map fun p => (p.1, pairKept p.2) }

/-- R570: what a reset leaves of the domains: with every supply good they leave reset, with the PLLs that a host reset leaves locked; otherwise they stay in reset. -/
def domainsAfter (c : Core) (locks : Nat) : Core :=
  let c := modPower c fun p => { p with domains := 0, waking := ⟨[], []⟩, locks := 0 }
  if supplied c then startAll (modPower c fun p => { p with locks := locks }) else c

/-- R106, R566, R567: a host reset. A held device whose supply was lost, and a tripped one, stay so (R576, R593). -/
def hostReset (s : State) (k : ResetCause) : State :=
  let c := sendGiveUp s.core
  let p := c.power
  let up := c.link.up && (k = .functionLevel || k = .rstHost)
  let link : Link :=
    if up then { up := true, speed := c.link.speed, width := c.link.width, flit := c.link.flit, badLanes := c.link.badLanes }
    else { badLanes := c.link.badLanes }
  let kept := c.stackTab.map fun x => (x.1, { stackKept x.2 with selfRefresh := p.tripped && x.2.selfRefresh })
  let power := { causeKept p k with ready := false, deep := false, held := p.held && p.supplyLost }
  let c := { keptCore c with link := link, stackTab := kept, power := power }
  { s with core := tryReady (takeHeld (if p.tripped then c else domainsAfter c allLocks)), rot := emptyKeys s.rot }

/-- R565, R571: RST_CMD.OP = 1 is a BAR0 write; the other causes come from the link. -/
def execHostReset (cause : ResetCause) (s : State) : Host.Outcome State Fault Refusal :=
  .next (
    if isFundamental cause || !s.core.power.on then s
    else if cause = .rstHost then bar0WriteS s 0x900028 8 (hostReset · .rstHost)
    else hostReset s cause)

/-- The severity 3 entry of a device that will not become ready or is lost (R536, R568, R572, R593). -/
def logLost (c : Core) (die : Bool) : Core := logErr c { kind := 0x10, die := die, severity := 3, wh := { level := 3 } }

/-- R568: the block firmware of a die that the boot image holds now. -/
def flashed (r : Rot) (same : Bool) (die : Bool) : List Byte :=
  if same then nth r.firmware (b2n die) [] else Config.flashFirmware die

/-- R568: the die whose reloaded firmware does not hash to the digest of power-on; where flash no longer holds what was booted from, one does not (die 0 when the free bytes leave it open; DESIGN CHOICE, log 167). -/
def firmwareBad (r : Rot) (same : Bool) : Option Bool :=
  let bad := fun (die : Bool) => sha256 (flashed r same die) != nth r.fwDigests (b2n die) []
  if same && r.firmware.isEmpty then none
  else if bad true && !bad false then some true
  else if bad false || !same then some false
  else none

/-- R572: a die whose firmware did not verify is lost, and the device will not become ready. -/
def partLost (c : Core) (die : Bool) : Core :=
  modPower (modLevels c die fun l => { l with lost := true }) fun p => { p with failed := true }

/-- R536, R572: what the boot chain did not verify stays so through a reset. -/
def keepUnverified (c : Core) : Core :=
  let u := c.power.unverified
  let c := if u.d0 then partLost c false else c
  if u.d1 then partLost c true else c

/-- R566 to R568: a fundamental reset. -/
def fundamentalReset (s : State) (k : ResetCause) (same : Bool) : State :=
  let c := sendGiveUp s.core
  let p := c.power
  let kept := c.stackTab.map fun x => (x.1, stackUntrained x.2)
  let power := { causeKept p k with
    ready := false, deep := false, trained := false, cold := false, failed := false, tripped := false, cooled := false, resetHeld := none
    held := false, supplyLost := false, thermtrip := false, perst := k = .perst }
  let c := keepUnverified (domainsAfter { keptCore c with stackTab := kept, power := power } 0)
  let c := match firmwareBad s.rot same with
    | some die => partLost (logLost c die) die
    | none => c
  { s with core := takeHeld c, rot := emptyKeys s.rot }

/-- R576: a fundamental reset; one of a tripped device waits until its parts have cooled. -/
def askReset (s : State) (cause : ResetCause) (same : Bool) : State :=
  if s.core.power.tripped && !s.core.power.cooled then
    { s with core := modPower s.core fun p => { p with resetHeld := some (cause, same) } }
  else fundamentalReset s cause same

/-- R565, R571: RST_CMD.OP = 2 is a BAR0 write; the other causes come from the board. -/
def execFundamentalReset (cause : ResetCause) (fwOk : Bool) (s : State) : Host.Outcome State Fault Refusal :=
  .next (
    if !isFundamental cause || !s.core.power.on then s
    else if cause = .rstFundamental then bar0WriteS s 0x900028 8 (askReset · .rstFundamental fwOk)
    else askReset s cause fwOk)

/-- R576: the hottest sensor reads below 95 °C; a reset that waited for it is carried out. -/
def execThermalTripCooled (hottest : Int) (s : State) : Host.Outcome State Fault Refusal :=
  let c := s.core
  .next (
    if !c.power.on || !c.power.tripped || 95 ≤ hottest then s
    else match c.power.resetHeld with
      | some (k, ok) => fundamentalReset s k ok
      | none => { s with core := modPower c fun p => { p with cooled := true } })

/-! ## Power-on (R535 to R537, R570) -/

/-- Draws the four words of the unseal nonce (R555). -/
def drawNonce (c : Core) : List Word × Core :=
  (List.range 4).foldl (fun a _ => let r := drawWord a.2; (a.1 ++ [r.1], r.2)) ([], c)

/-- R537: MR0 to MR4 are extended with the parts, MR9 with the tenant epoch. -/
def bootMeasures (b : BootInfo) : List (Nat × List Byte) :=
  ((List.range 5).map fun i => (i, nth b.parts i [])) ++ [(9, natLe 4 b.tenantEpoch)]

/-- R535 to R540, R553, R565, R570: the always-on supply rises: what was cleared is cleared, the boot chain runs; neither image or no die 1 part verified leaves the device failed, and the part's die lost. The tenant epoch is the one that this device wrote last. -/
def powerOn (s : State) (b : BootInfo) : State :=
  let image := b.imageAOk || b.imageBOk
  let epoch := s.rot.flashEpoch.getD b.tenantEpoch
  let base : Core := { draws := s.core.draws, bus := s.core.bus, power := { on := true, rails := 1, unverified := ⟨!image, !b.die1Ok⟩ } }
  let n := drawNonce base
  let c := if image && b.die1Ok then n.2 else logLost n.2 image
  let r : Rot :=
    { tenantEpoch := epoch, flashEpoch := some epoch, reserved := b.leafF, logSeq := b.logSeq, twinLog := s.rot.twinLog, nonce := n.1
      imageB := !b.imageAOk && b.imageBOk, fwVersions := b.fwVersions, firmware := [nth b.parts 2 [], nth b.parts 3 []]
      fwDigests := [sha256 (nth b.parts 2 []), sha256 (nth b.parts 3 [])] }
  { s with core := keepUnverified c, rot := if image then extendAll r (bootMeasures { b with tenantEpoch := epoch }) else r }

/-- R570. -/
def execPowerOnReset (boot : BootInfo) (s : State) : Host.Outcome State Fault Refusal :=
  .next (if s.core.power.on then s else powerOn s boot)

/-- R107, R593: the always-on supply is gone: nothing runs, and nothing is kept but what lies outside and in flash (R539, R553). -/
def powerOff (s : State) : State :=
  { s with core := { draws := s.core.draws, bus := s.core.bus }, rot := { twinLog := s.rot.twinLog, flashEpoch := s.rot.flashEpoch } }

/-- R593, R592: a supply-good input deasserts: the switched domains are in reset again, and a device that ran loses a die or itself. -/
def supplyLost (s : State) (r : Rail) : State :=
  if r = .vaon then powerOff s
  else
    let was := s.core.power.ready
    let c := modPower s.core fun p =>
      { p with rails := p.rails - (p.rails &&& 2 ^ railBit r), supplyLost := p.supplyLost || was, domains := 0, waking := ⟨[], []⟩, locks := 0 }
    if !was then { s with core := c }
    else
      let c := if r = .vlogic1 || r = .vphy then { c with twin := { c.twin with linkUp := false } } else c
      { s with core :=
          match r with
          | .vlogic0 => loseDie c false
          | .vlogic1 => loseDie c true
          | _ => holdDevice (logErr c { kind := 0x10, severity := 3, wh := { level := 4 } }) }

/-- R593. -/
def execSupplyLost (rail : Rail) (s : State) : Host.Outcome State Fault Refusal :=
  .next (if s.core.power.on then supplyLost s rail else s)

/-- R107. -/
def execSurpriseRemoval (s : State) : Host.Outcome State Fault Refusal := .next (powerOff s)

/-! ## PLLs, PERST#, training (R558, R570 to R573) -/

/-- R558: a fast PLL of a die locks. -/
def execPllLock (die : Bool) (pll : Nat) (s : State) : Host.Outcome State Fault Refusal :=
  onCore s fun c =>
    if supplied c && pll < 3 && !c.power.deep && !c.power.tripped then
      tryReady (modPower c fun p => { p with locks := p.locks ||| 2 ^ (pll + if die then 4 else 0) })
    else c

/-- R80, R81: what the port trains to. -/
def trains (speed width : Nat) (flit : Bool) : Bool :=
  (speed == 64 || speed == 32 || speed == 16) && (width == 1 || width == 2 || width == 4 || width == 8 || width == 16) &&
  (flit || speed != 64)

/-- The link comes up. -/
def linkUp (c : Core) (speed width : Nat) (flit : Bool) : Core :=
  { c with link := { c.link with up := true, speed := speed, width := width, flit := flit } }

/-- R570: PERST# is released and the link trains; a failed device does not train it (R536). -/
def execPerstRelease (speed width : Nat) (flit : Bool) (s : State) : Host.Outcome State Fault Refusal :=
  onCore s fun c =>
    if !supplied c || !c.power.perst then c
    else
      let c := modPower c fun p => { p with perst := false }
      if c.power.failed || !trains speed width flit then c else tryReady (linkUp { c with link := { c.link with badLanes := 0 } } speed width flit)

/-- R570, R572: a stack after training. -/
def trainStack (c : Core) (k : Nat) (ok : Bool) (rows : Nat) : Core :=
  let x := stackOf c k
  { c with stackTab := mapSet c.stackTab k { x with state := if ok then 1 else 2, trained := ok, spareRows := min rows 2048 } }

/-- R572: a die without a trained stack is lost, and the device never becomes ready. -/
def untrainedDie (c : Core) (die : Bool) : Core :=
  let n := (List.range 4).filter fun i => (stackOf c ((if die then 4 else 0) + i)).state == 1
  if n.isEmpty then modPower (modLevels (logLost c die) die fun l => { l with lost := true }) fun p => { p with failed := true } else c

/-- R570, R572, R573: with the fast PLLs locked the stacks train, unless a sensor reads below 0 °C. -/
def stackTraining (c : Core) (coldest : Int) (ok : List Bool) (rows : List Nat) : Core :=
  if !supplied c || c.power.locks != allLocks || c.power.trained || c.power.failed || c.power.tripped then c
  else if coldest < 0 then modPower c fun p => { p with cold := true }
  else
    let c := modPower c fun p => { p with cold := false, trained := true }
    let c := (List.range 8).foldl (fun c k => trainStack c k (ok.getD k false) (nth rows k 0)) c
    tryReady (untrainedDie (untrainedDie c false) true)

/-- R570. -/
def execStackTraining (coldest : Int) (trains : List Bool) (spareRows : List Nat) (s : State) :
    Host.Outcome State Fault Refusal :=
  onCore s fun c => stackTraining c coldest trains spareRows

/-! ## The trip (R576, R594) -/

/-- R558: a PLL that no powered domain needs stops. -/
def stopPlls (c : Core) : Core := modPower c fun p => { p with locks := p.locks &&& pllsOf p.domains }

/-- The loft tier periphery domains (R560). -/
def loftDomains : Nat := 2 ^ 112 - 2 ^ 104

/-- R576, R558: the device trips at 105 °C: only the loft periphery, and the PLLs that clock it, stay. -/
def thermalTrip (c : Core) : Core :=
  let c := sendGiveUp c
  let c := logErr c { kind := 0x10, severity := 3, wh := { level := 4 } }
  let c := { c with stackTab := c.stackTab.map fun x => (x.1, refreshSelf true x.2) }
  stopPlls (modPower c fun p =>
    { p with tripped := true, cooled := false, thermtrip := true, domains := p.domains &&& loftDomains, waking := ⟨[], []⟩ })

/-- R576. -/
def execThermalTrip (hottest : Int) (s : State) : Host.Outcome State Fault Refusal :=
  onCore s fun c => if c.power.on && !c.power.tripped && 105 ≤ hottest then thermalTrip c else c

/-- R594: FAULT_N is asserted (low). -/
def faultN (c : Core) : Bool := c.power.failed || c.errs.fatal.isSome || c.power.held

/-! ## Domains and deep idle (R558, R560 to R563) -/

/-- Some domain from `lo` to `hi` is powered. -/
def anyOn (c : Core) (lo hi : Nat) : Bool := (List.range (hi + 1 - lo)).any fun i => domainOn c (lo + i)

/-- R560: a stack has commands queued or issued, or held until a queue has room. -/
def stackBusy (c : Core) (k : Nat) : Bool :=
  !(stackOf c k).delayed.isEmpty || (stackOf c k).pairs.any fun p => !p.2.queue.isEmpty || !p.2.issued.isEmpty

/-- Rows placed on a die, in its step or in a batch that waits. -/
def stepping (c : Core) (die : Bool) : Bool := !(c.sched.get die).placed.isEmpty

/-- R560: a stack has ordinary traffic: a step of its die, an epoch, or a request of the host under way. -/
def trafficOn (c : Core) (k : Nat) : Bool :=
  stepping c (stackDie k) || c.ckpt.running.isSome || !c.sess.waiting.isEmpty || !c.obj.jobs.isEmpty || !c.sess.parking.isEmpty

/-- R59: a die's APPENDs have tokens not yet tokenized. -/
def tokenizing (c : Core) (die : Bool) : Bool :=
  c.sess.warm.any fun p => (entryOf c p.1).homeDie == die && match p.2.lane with
    | some l => decide (l.ready < l.toks.length)
    | none => false

/-- R560: the front-end block of a domain has no work in flight: the tokenizer has text, the tumbler masks of a step, the thresher pages of a park, a revival or an epoch, the retrieval unit jobs, the step scheduler rows and queues, the walker and the bridge end whatever moves on the die. A descriptor that waits for the host may need each of the first six. -/
def frontIdle (c : Core) (die : Bool) (b : Nat) : Bool :=
  let s := c.sched.get die
  let calm := c.sess.waiting.isEmpty && c.obj.jobs.isEmpty
  let still := !stepping c die && c.ckpt.running.isNone && c.sess.parking.isEmpty
  match b with
  | 0 => calm && !tokenizing c die
  | 1 => calm && !stepping c die
  | 2 => calm && c.ckpt.running.isNone && c.sess.parking.isEmpty
  | 3 => calm
  | 4 => s.placed.isEmpty && s.accts.all fun p => p.2.decodeQ.isEmpty && p.2.laneQ.isEmpty
  | 5 => calm && still
  | 6 => still && !stepping c (!die)
  | _ => if die then regField c 0x700000 0 0 == 0 else !c.link.up

/-- R560: the loft periphery of a die's tier half serves the slices of two regions, all fenced. -/
def slicesFenced (c : Core) (die : Bool) (half : Nat) : Bool :=
  (List.range 16).all fun i => mapHas (c.levels.get die).clusters (16 * half + i)

/-- R560: a domain may power off. -/
def mayPowerOff (c : Core) (n : Nat) : Bool :=
  if n < 64 then (inStep (c.sched.get (decide (32 ≤ n)))).isEmpty
  else if n < 72 then !anyOn c (8 * (n - 64)) (8 * (n - 64) + 7)
  else if n < 80 then !stackBusy c (n - 72) && !trafficOn c (n - 72)
  else if n < 88 then !stackBusy c (n - 80)
  else if n < 104 then frontIdle c (decide (96 ≤ n)) ((n - 88) % 8)
  else n < 112 && slicesFenced c (decide (108 ≤ n)) ((n - 104) % 2)

/-- R560: a domain whose blocks have had no work for PWR_IDLE_CFG.OFF cycles powers off; a stack controller takes its bank-unit group with it, and its stack, which has entered self-refresh, stays so. -/
def domainOff (c : Core) (n : Nat) : Core :=
  if !ready c || regField c 0x900000 31 0 = 0 || !domainOn c n || !mayPowerOff c n then c
  else
    let gone := 2 ^ n ||| if 72 ≤ n && n < 80 then 2 ^ (n + 8) else 0
    let c := modPower c fun p => { p with domains := p.domains - (p.domains &&& gone) }
    let c := if 72 ≤ n && n < 80 then { c with stackTab := mapMod c.stackTab (n - 72) (refreshSelf true) } else c
    stopPlls c

/-- R560. -/
def execDomainPowerOff (domain : Nat) (s : State) : Host.Outcome State Fault Refusal := onCore s fun c => domainOff c domain

/-- R561, R562: a block asks for a domain: a cluster waits for its region's start, any other domain powers on. -/
def domainWake (c : Core) (n : Nat) : Core :=
  if !ready c || 112 ≤ n then c
  else
    let c := if c.power.deep then leaveDeep c 0 else c
    if 64 ≤ n then domainStart c n
    else if domainOn c n then c
    else
      let die := decide (32 ≤ n)
      startWaiting (modPower c fun p => { p with waking := p.waking.mod die (· ++ [n % 32]) }) die

/-- R562. -/
def execDomainWake (domain : Nat) (s : State) : Host.Outcome State Fault Refusal := onCore s fun c => domainWake c domain

/-- R560: the external ports that stay powered: die 0's while the host link is up, die 1's while HNG_PAIR_CFG.EN is 1. -/
def portsKept (c : Core) : Nat :=
  (if c.link.up then 2 ^ 95 else 0) + if regField c 0x700000 0 0 = 1 then 2 ^ 103 else 0

/-- R563: nothing but the ports that R560 keeps on and the loft periphery is powered. -/
def allOff (c : Core) : Bool := c.power.domains &&& (2 ^ 104 - 1 - portsKept c) == 0

/-- R563: no epoch and no RESTORE runs, and the mirror, checkpoint and record queues are empty. -/
def queuesEmpty (c : Core) : Bool :=
  c.ckpt.running.isNone && !(c.sess.waiting.any fun w => w.desc.opcode == 0x82) && c.twin.mirror.isEmpty && c.rings.queue.isEmpty

/-- R563: the package enters deep idle: the fast PLLs stop. -/
def execDeepIdleEntry (s : State) : Host.Outcome State Fault Refusal :=
  onCore s fun c =>
    if ready c && !c.power.deep && regField c 0x900000 63 32 != 0 && allOff c && c.power.waking == ⟨[], []⟩ && queuesEmpty c then
      modPower c fun p => { p with deep := true, locks := 0 }
    else c

/-- R563, R564: a wake source ends deep idle, and what refills were deferred are applied: the row names no source and defers to the step schedulers, so both dies' wake, as by their local timers (DESIGN CHOICE, log 165). -/
def execDeepIdleWake (s : State) : Host.Outcome State Fault Refusal :=
  whenReady s fun c => if c.power.deep then wakeScheduler (wakeScheduler c false) true else c

/-- PWR_STAT.STATE. -/
def powerState (c : Core) : Nat :=
  if c.power.deep then 2 else if c.power.ready && allOff c then 1 else 0

end Sys2Proof.Machine
end

