-- ==== Sys2Proof/Machine/Hss.lean ====
section
/-! DEFINITION. The HSS signatures of the device, of Ovivira's firmware and of its debug root (20_security R535, R538, R543, R555): RFC 8554 with SP 800-208, two levels, top LMS_SHA256_M32_H20, lower LMS_SHA256_M32_H10, one-time signatures LMOTS_SHA256_N32_W4. All numbers are big-endian. -/

namespace Sys2Proof.Machine

/-- A number of `n` bytes, the most significant first. -/
def beBytes (n v : Nat) : List Byte := (natLe n v).reverse

/-- A number read from bytes, the most significant first. -/
def beNat (bs : List Byte) : Nat := leNat bs.reverse

/-! ## One-time signatures (RFC 8554, section 4) -/

/-- The typecode of LMOTS_SHA256_N32_W4, and its number of chains. -/
def otsType : Nat := 3
def otsChains : Nat := 67

/-- One step of chain `i` of leaf `q`. -/
def otsStep (id : List Byte) (q i j : Nat) (x : List Byte) : List Byte := sha256 (id ++ beBytes 4 q ++ beBytes 2 i ++ beBytes 1 j ++ x)

/-- Steps `j`, ..., `j + n - 1` of a chain. -/
def otsChain (id : List Byte) (q i : Nat) : Nat → Nat → List Byte → List Byte
  | 0, _, x => x
  | n + 1, j, x => otsChain id q i n (j + 1) (otsStep id q i j x)

/-- Appendix A: the start of chain `i` of leaf `q`, from the tree's seed. -/
def otsSecret (id seed : List Byte) (q i : Nat) : List Byte := sha256 (id ++ beBytes 4 q ++ beBytes 2 i ++ [0xFF] ++ seed)

/-- The public key of a leaf, from the ends of its chains. -/
def otsKey (id : List Byte) (q : Nat) (ends : List (List Byte)) : List Byte := sha256 (id ++ beBytes 4 q ++ beBytes 2 0x8080 ++ ends.flatten)

/-- The 67 digits of 4 bits that a message is signed by: its hash, then the check sum. -/
def otsDigits (id : List Byte) (q : Nat) (c msg : List Byte) : List Nat :=
  let h := sha256 (id ++ beBytes 4 q ++ beBytes 2 0x8181 ++ c ++ msg)
  let nibbles := fun (bs : List Byte) => bs.flatMap fun b => [b.toNat / 16, b.toNat % 16]
  let ds := nibbles h
  let sum := ds.foldl (fun n d => n + (15 - d)) 0
  (ds ++ nibbles (beBytes 2 (sum * 16))).take otsChains

/-- A one-time signature: the type, the randomizer, a value of each chain. -/
def otsSign (id seed : List Byte) (q : Nat) (c msg : List Byte) : List Byte :=
  beBytes 4 otsType ++ c ++ ((otsDigits id q c msg).zipIdx.flatMap fun d => otsChain id q d.2 d.1 0 (otsSecret id seed q d.2))

/-- The public key of a leaf that a one-time signature of a message leads to. -/
def otsRecover (id : List Byte) (q : Nat) (sig msg : List Byte) : List Byte :=
  let c := bytesAt sig 4 32
  otsKey id q ((otsDigits id q c msg).zipIdx.map fun d => otsChain id q d.2 (15 - d.1) d.1 (bytesAt sig (36 + 32 * d.2) 32))

/-! ## Trees (RFC 8554, section 5) -/

/-- The typecode of the LMS tree of a height. -/
def lmsType (h : Nat) : Nat := h / 5 + 4

/-- The hash of leaf number `r` of a tree, with its public key, and of an inner node. -/
def leafHash (id : List Byte) (r : Nat) (key : List Byte) : List Byte := sha256 (id ++ beBytes 4 r ++ beBytes 2 0x8282 ++ key)
def innerHash (id : List Byte) (r : Nat) (l n : List Byte) : List Byte := sha256 (id ++ beBytes 4 r ++ beBytes 2 0x8383 ++ l ++ n)

/-- Node `r` of the tree of height `h`, `k` layers above the leaves. -/
def treeNode (id seed : List Byte) (h : Nat) : Nat → Nat → List Byte
  | 0, r =>
    let q := r - 2 ^ h
    leafHash id r (otsKey id q ((List.range otsChains).map fun i => otsChain id q i 15 0 (otsSecret id seed q i)))
  | k + 1, r => innerHash id r (treeNode id seed h k (2 * r)) (treeNode id seed h k (2 * r + 1))

/-- The public key of a tree, 56 bytes. -/
def lmsPublic (id seed : List Byte) (h : Nat) : List Byte :=
  beBytes 4 (lmsType h) ++ beBytes 4 otsType ++ id ++ treeNode id seed h h 1

/-- The signature of a message by leaf `q`. -/
def lmsSign (id seed : List Byte) (h q : Nat) (c msg : List Byte) : List Byte :=
  beBytes 4 q ++ otsSign id seed q c msg ++ beBytes 4 (lmsType h) ++
    (List.range h).flatMap fun k => treeNode id seed h k ((2 ^ h + q) / 2 ^ k ^^^ 1)

/-- The root that a path of siblings leads to from node `r`. -/
def climb (id : List Byte) : Nat → List (List Byte) → List Byte → List Byte
  | _, [], x => x
  | r, s :: ss, x => climb id (r / 2) ss (if r % 2 = 1 then innerHash id (r / 2) s x else innerHash id (r / 2) x s)

/-- Bytes of a signature by a tree of height `h`. -/
def lmsBytes (h : Nat) : Nat := 2188 + 32 * h

/-- Algorithm 6a: a signature verifies under a public key of a tree of height `h`. -/
def lmsVerify (h : Nat) (pub sig msg : List Byte) : Bool :=
  let id := bytesAt pub 8 16
  let q := beNat (bytesAt sig 0 4)
  let path := (List.range h).map fun k => bytesAt sig (2188 + 32 * k) 32
  beNat (bytesAt pub 0 4) == lmsType h && beNat (bytesAt pub 4 4) == otsType && beNat (bytesAt sig 4 4) == otsType &&
  beNat (bytesAt sig 2184 4) == lmsType h && decide (q < 2 ^ h) &&
  climb id (2 ^ h + q) path (leafHash id (2 ^ h + q) (otsRecover id q (bytesAt sig 4 2180) msg)) == bytesAt pub 24 32

/-! ## Two levels (RFC 8554, section 6) -/

/-- R538: the identifier, 16 bytes, and the seed, 32 bytes, of tree `t` of a private key: 0 the top tree, then the lower trees in order. The rule says that they come from the key's seed and not how (Config.hssTree). -/
def hssTreeId (seed : List Byte) (t : Nat) : List Byte := bytesAt (Config.hssTree seed t).1 0 16
def hssTreeSeed (seed : List Byte) (t : Nat) : List Byte := bytesAt (Config.hssTree seed t).2 0 32

/-- The public key of tree `t`. -/
def hssTreeKey (seed : List Byte) (t : Nat) : List Byte := lmsPublic (hssTreeId seed t) (hssTreeSeed seed t) (if t = 0 then 20 else 10)

/-- The signature by leaf `q` of tree `t`. -/
def hssTreeSign (seed : List Byte) (t q : Nat) (msg : List Byte) : List Byte :=
  lmsSign (hssTreeId seed t) (hssTreeSeed seed t) (if t = 0 then 20 else 10) q (bytesAt (Config.hssRandomizer seed t q) 0 32) msg

/-- R538: the HSS public key, 60 bytes: the level count, the top tree's. -/
@[irreducible] def hssPublic (seed : List Byte) : List Byte := beBytes 4 2 ++ hssTreeKey seed 0

/-- R539, R543: the signature of a message by leaf `q` of the device, 5,396 bytes: the levels below the top, the top tree's signature of the lower tree's public key, that key, the lower tree's signature. -/
@[irreducible] def hssSign (seed : List Byte) (q : Nat) (msg : List Byte) : List Byte :=
  let t := q / 1024
  let key := hssTreeKey seed (t + 1)
  beBytes 4 1 ++ hssTreeSign seed 0 t key ++ key ++ hssTreeSign seed (t + 1) (q % 1024) msg

/-- R535, R555: a signature of a message verifies under a public key of the device's parameters. -/
@[irreducible] def hssVerify (pub sig msg : List Byte) : Bool :=
  let key := bytesAt sig 2832 56
  sig.length == 5396 && beNat (bytesAt pub 0 4) == 2 && beNat (bytesAt sig 0 4) == 1 &&
  lmsVerify 20 (bytesAt pub 4 56) (bytesAt sig 4 2828) key && lmsVerify 10 key (bytesAt sig 2888 2508) msg

end Sys2Proof.Machine
end

