-- ==== Sys2Proof/Machine/MlKem.lean ====
section
/-! DEFINITION. ML-KEM-1024, the key-transport key of the device (20_security R538, R544): the hash functions of FIPS 202 and the algorithms of FIPS 203 with k = 4, eta1 = eta2 = 2, du = 11, dv = 5. -/

namespace Sys2Proof.Machine

/-! ## Keccak (FIPS 202) -/

/-- The constants of the 24 rounds. -/
def keccakConsts : List Word :=
  [0x0000000000000001, 0x0000000000008082, 0x800000000000808A, 0x8000000080008000, 0x000000000000808B, 0x0000000080000001,
   0x8000000080008081, 0x8000000000008009, 0x000000000000008A, 0x0000000000000088, 0x0000000080008009, 0x000000008000000A] ++
  [0x000000008000808B, 0x800000000000008B, 0x8000000000008089, 0x8000000000008003, 0x8000000000008002, 0x8000000000000080,
   0x000000000000800A, 0x800000008000000A, 0x8000000080008081, 0x8000000000008080, 0x0000000080000001, 0x8000000080008008]

/-- The lanes in the order in which rho and pi visit them, from lane 1 on, each as x + 5 * y. -/
def keccakWalk : Nat → Nat → List Nat
  | 0, _ => []
  | n + 1, i => i :: keccakWalk n (i / 5 + 5 * ((2 * (i % 5) + 3 * (i / 5)) % 5))

/-- Rho and pi: lane number `t` of the walk moves to the next place of the walk, turned by (t + 1)(t + 2) / 2. -/
def keccakMove (a : List Word) : List Word :=
  let w := keccakWalk 25 1
  (List.range 24).foldl (fun b t => b.set (nth w (t + 1) 0) ((nth a (nth w t 0) 0).rotateLeft ((t + 1) * (t + 2) / 2 % 64))) a

/-- One round on 25 lanes: theta, rho and pi, chi, iota. -/
def keccakRound (a : List Word) (rc : Word) : List Word :=
  let col := fun x => (List.range 5).foldl (fun v y => v ^^^ nth a (x % 5 + 5 * y) 0) 0
  let cols := (List.range 5).map col
  let d := (List.range 5).map fun x => nth cols ((x + 4) % 5) 0 ^^^ (nth cols ((x + 1) % 5) 0).rotateLeft 1
  let a := (List.range 25).map fun i => nth a i 0 ^^^ nth d (i % 5) 0
  let b := keccakMove a
  (List.range 25).map fun i =>
    let at' := fun k => nth b (i / 5 * 5 + (i + k) % 5) 0
    let v := nth b i 0 ^^^ (~~~(at' 1) &&& at' 2)
    if i = 0 then v ^^^ rc else v

/-- Keccak-f[1600]. -/
def keccakF (a : List Word) : List Word := keccakConsts.foldl keccakRound a

/-- The 200 bytes of a state. -/
def laneBytes64 (a : List Word) : List Byte := a.flatMap fun w => natLe 8 w.toNat

/-- A block of at most 200 bytes joins the state. -/
def keccakAbsorb (a : List Word) (block : List Byte) : List Word :=
  keccakF ((List.range 25).map fun i => nth a i 0 ^^^ BitVec.ofNat 64 (leAt block (8 * i) 8))

/-- A message with its suffix and padding, in whole blocks of `rate` bytes. -/
def keccakPad (rate : Nat) (suffix : Byte) (bs : List Byte) : List Byte :=
  let n := rate * (bs.length / rate + 1)
  let m := bytesAt (bs ++ [suffix]) 0 n
  m.set (n - 1) (nth m (n - 1) 0 ^^^ 0x80)

/-- The blocks that are squeezed from a state. -/
def keccakSqueeze (rate : Nat) : Nat → List Word → List Byte
  | 0, _ => []
  | n + 1, a => (laneBytes64 a).take rate ++ keccakSqueeze rate n (keccakF a)

/-- The first `n` bytes of the sponge of a message. -/
def sponge (rate : Nat) (suffix : Byte) (n : Nat) (bs : List Byte) : List Byte :=
  let m := keccakPad rate suffix bs
  let a := (List.range (m.length / rate)).foldl (fun a i => keccakAbsorb a (bytesAt m (rate * i) rate)) (List.replicate 25 0)
  (keccakSqueeze rate (cdiv n rate) a).take n

def sha3x256 (bs : List Byte) : List Byte := sponge 136 0x06 32 bs
def sha3x512 (bs : List Byte) : List Byte := sponge 72 0x06 64 bs
def shake128 (n : Nat) (bs : List Byte) : List Byte := sponge 168 0x1F n bs
def shake256 (n : Nat) (bs : List Byte) : List Byte := sponge 136 0x1F n bs

/-! ## Polynomials (FIPS 203, section 4) -/

/-- The modulus. -/
def kemQ : Nat := 3329

/-- Sum and difference of polynomials. -/
def polyAdd (f g : List Nat) : List Nat := List.zipWith (fun a b => (a + b) % kemQ) f g
def polySub (f g : List Nat) : List Nat := List.zipWith (fun a b => (a + kemQ - b) % kemQ) f g

/-- The seven bits of a number in reverse. -/
def bitRev7 (i : Nat) : Nat := (List.range 7).foldl (fun v k => v + if i.testBit k then 2 ^ (6 - k) else 0) 0

/-- A power modulo the modulus. -/
def powQ (b n : Nat) : Nat := (List.range n).foldl (fun v _ => v * b % kemQ) 1

/-- 17 to the power of a reversed index. -/
def zeta (i : Nat) : Nat := powQ 17 (bitRev7 i)

/-- Algorithm 9 on the part of node `i`, with `n` layers to go. -/
def nttFrom : Nat → Nat → List Nat → List Nat
  | 0, _, f => f
  | n + 1, i, f =>
    let lo := f.take (f.length / 2)
    let hi := (f.drop (f.length / 2)).map (· * zeta i % kemQ)
    nttFrom n (2 * i) (polyAdd lo hi) ++ nttFrom n (2 * i + 1) (polySub lo hi)

/-- Algorithm 9: NTT. -/
def ntt (f : List Nat) : List Nat := nttFrom 7 1 f

/-- Algorithm 10 on the part of node `i`, whose layer has `m` nodes, from node `m` on; `n` layers from its own down. -/
def inttFrom : Nat → Nat → Nat → List Nat → List Nat
  | 0, _, _, f => f
  | n + 1, m, i, f =>
    let lo := inttFrom n (2 * m) (2 * i) (f.take (f.length / 2))
    let hi := inttFrom n (2 * m) (2 * i + 1) (f.drop (f.length / 2))
    polyAdd lo hi ++ (polySub hi lo).map (· * zeta (3 * m - 1 - i) % kemQ)

/-- Algorithm 10: inverse NTT. -/
def intt (f : List Nat) : List Nat := (inttFrom 7 1 1 f).map (· * 3303 % kemQ)

/-- Algorithms 11 and 12: the product of two transforms, from pair `i` on. -/
def mulNttFrom : Nat → List Nat → List Nat → List Nat
  | i, a0 :: a1 :: f, b0 :: b1 :: g =>
    (a0 * b0 + a1 * b1 * powQ 17 (2 * bitRev7 i + 1)) % kemQ :: (a0 * b1 + a1 * b0) % kemQ :: mulNttFrom (i + 1) f g
  | _, _, _ => []

def mulNtt (f g : List Nat) : List Nat := mulNttFrom 0 f g

/-- The inner product of two vectors of transforms. -/
def dotNtt (f g : List (List Nat)) : List Nat :=
  (List.zipWith mulNtt f g).foldl polyAdd (List.replicate 256 0)

/-- Algorithms 4 and 5: bits of bytes, bytes of `d`-bit integers, and back. -/
def unpackBits (bs : List Byte) : List Bool := bs.flatMap fun b => (List.range 8).map b.getLsbD
def bitsNat : List Bool → Nat
  | [] => 0
  | b :: bs => b2n b + 2 * bitsNat bs
def chunks {α : Type} (n : Nat) : Nat → List α → List (List α)
  | 0, _ => []
  | k + 1, l => l.take n :: chunks n k (l.drop n)
def packBits (l : List Bool) : List Byte := (chunks 8 (l.length / 8) l).map fun b => BitVec.ofNat 8 (bitsNat b)
def byteEncode (d : Nat) (f : List Nat) : List Byte := packBits (f.flatMap fun a => (List.range d).map a.testBit)

/-- Algorithm 6: 256 integers; of 12 bits they are taken modulo the modulus. -/
def byteDecode (d : Nat) (bs : List Byte) : List Nat :=
  (chunks d 256 (unpackBits bs)).map fun b => if d = 12 then bitsNat b % kemQ else bitsNat b

/-- Section 4.2.1: compression and decompression. -/
def compress (d x : Nat) : Nat := (2 * x * 2 ^ d + kemQ) / (2 * kemQ) % 2 ^ d
def decompress (d y : Nat) : Nat := (2 * kemQ * y + 2 ^ d) / 2 ^ (d + 1)

/-- The candidates below the modulus that a string of bytes gives, in order. -/
def sampleFrom : List Byte → List Nat
  | a :: b :: c :: bs =>
    let d1 := a.toNat + 256 * (b.toNat % 16)
    let d2 := b.toNat / 16 + 16 * c.toNat
    (if d1 < kemQ then [d1] else []) ++ (if d2 < kemQ then [d2] else []) ++ sampleFrom bs
  | _ => []

/-- Algorithm 7: SampleNTT, on sixteen blocks of its stream: fewer than 256 candidates among their 1,792 do not occur in practice. -/
def sampleNtt (seed : List Byte) : List Nat := (sampleFrom (shake128 2688 seed)).take 256

/-- Algorithm 8: SamplePolyCBD with eta = 2. -/
def sampleCbd (bs : List Byte) : List Nat :=
  (chunks 4 256 (unpackBits bs)).map fun b =>
    let n := fun i => b2n (nth b i false)
    (n 0 + n 1 + kemQ - n 2 - n 3) % kemQ

/-! ## K-PKE (FIPS 203, section 5) -/

/-- The matrix of a seed, row by row. -/
def kemMatrix (rho : List Byte) : List (List (List Nat)) :=
  (List.range 4).map fun i => (List.range 4).map fun j => sampleNtt (rho ++ [BitVec.ofNat 8 j, BitVec.ofNat 8 i])

/-- Four small polynomials from a seed, from counter `n` on. -/
def kemSmall (seed : List Byte) (n : Nat) : List (List Nat) :=
  (List.range 4).map fun i => sampleCbd (shake256 128 (seed ++ [BitVec.ofNat 8 (n + i)]))

/-- Algorithm 13: the encryption and the decryption key. -/
def pkeKeyGen (d : List Byte) : List Byte × List Byte :=
  let g := sha3x512 (d ++ [4])
  let rho := g.take 32
  let s := (kemSmall (g.drop 32) 0).map ntt
  let e := (kemSmall (g.drop 32) 4).map ntt
  let t := List.zipWith (fun row ei => polyAdd (dotNtt row s) ei) (kemMatrix rho) e
  (t.flatMap (byteEncode 12) ++ rho, s.flatMap (byteEncode 12))

/-- The four transforms of an encoded vector. -/
def vecDecode (bs : List Byte) : List (List Nat) := (List.range 4).map fun i => byteDecode 12 (bytesAt bs (384 * i) 384)

/-- Algorithm 14: encryption of 32 bytes. -/
def pkeEncrypt (ek m r : List Byte) : List Byte :=
  let a := kemMatrix (bytesAt ek 1536 32)
  let y := (kemSmall r 0).map ntt
  let e1 := kemSmall r 4
  let e2 := sampleCbd (shake256 128 (r ++ [8]))
  let u := (List.range 4).map fun j => polyAdd (intt (dotNtt (a.map fun row => nth row j []) y)) (nth e1 j [])
  let mu := (byteDecode 1 m).map (decompress 1)
  let v := polyAdd (polyAdd (intt (dotNtt (vecDecode ek) y)) e2) mu
  (u.flatMap fun f => byteEncode 11 (f.map (compress 11))) ++ byteEncode 5 (v.map (compress 5))

/-- Algorithm 15: decryption. -/
def pkeDecrypt (dk c : List Byte) : List Byte :=
  let u := (List.range 4).map fun i => (byteDecode 11 (bytesAt c (352 * i) 352)).map (decompress 11)
  let v := (byteDecode 5 (bytesAt c 1408 160)).map (decompress 5)
  let w := polySub v (intt (dotNtt (vecDecode dk) (u.map ntt)))
  byteEncode 1 (w.map (compress 1))

/-! ## ML-KEM (FIPS 203, section 6) -/

/-- R538: ML-KEM.KeyGen_internal: the encapsulation key, 1,568 bytes, and the decapsulation key, 3,168 bytes. -/
@[irreducible] def kemKeyGen (d z : List Byte) : List Byte × List Byte :=
  let p := pkeKeyGen d
  (p.1, p.2 ++ p.1 ++ sha3x256 p.1 ++ z)

/-- Algorithm 17: the shared secret and the ciphertext that a sender makes. -/
@[irreducible] def kemEncaps (ek m : List Byte) : List Byte × List Byte :=
  let g := sha3x512 (m ++ sha3x256 ek)
  (g.take 32, pkeEncrypt ek m (g.drop 32))

/-- R544, R545: ML-KEM.Decaps_internal, with its implicit rejection. -/
@[irreducible] def kemDecaps (dk c : List Byte) : List Byte :=
  let ek := bytesAt dk 1536 1568
  let m := pkeDecrypt (bytesAt dk 0 1536) c
  let g := sha3x512 (m ++ bytesAt dk 3104 32)
  if c = pkeEncrypt ek m (g.drop 32) then g.take 32 else shake256 32 (bytesAt dk 3136 32 ++ c)

end Sys2Proof.Machine
end

