-- ==== Sys2Proof/Machine/Aes.lean ====
section
/-! DEFINITION. AES-256-GCM, by which the device opens wrapped keys (20_security R544) and the tiles of sealed images (R547): the cipher of FIPS 197 and the mode of SP 800-38D with a 12-byte nonce and a 16-byte tag. -/

namespace Sys2Proof.Machine

/-! ## The cipher (FIPS 197) -/

/-- Multiplication by x in the field of AES. -/
def aesX (b : Byte) : Byte := (b <<< 1) ^^^ if b.getLsbD 7 then 0x1B else 0

/-- Multiplication in the field of AES. -/
def aesMul (a b : Byte) : Byte :=
  ((List.range 8).foldl (fun (r : Byte × Byte) i => (if b.getLsbD i then r.1 ^^^ r.2 else r.1, aesX r.2)) (0, a)).1

/-- The inverse in the field, 0 for 0: the power 254. -/
def aesInv (a : Byte) : Byte :=
  let sq := fun b => aesMul b b
  let a2 := sq a; let a4 := sq a2; let a8 := sq a4; let a16 := sq a8; let a32 := sq a16; let a64 := sq a32; let a128 := sq a64
  aesMul a2 (aesMul a4 (aesMul a8 (aesMul a16 (aesMul a32 (aesMul a64 a128)))))

/-- The substitution of a byte: its inverse, then the affine transformation. -/
def aesSub (a : Byte) : Byte :=
  let b := aesInv a
  b ^^^ b.rotateLeft 1 ^^^ b.rotateLeft 2 ^^^ b.rotateLeft 3 ^^^ b.rotateLeft 4 ^^^ 0x63

/-- Byte-wise exclusive or. -/
def xorBytes (a b : List Byte) : List Byte := List.zipWith (· ^^^ ·) a b

/-- The words of the key schedule of a 32-byte key from number `i` on, `n` of them; `ws` holds those before, the last first. -/
def aesWords : Nat → Nat → Byte → List (List Byte) → List (List Byte)
  | 0, _, _, ws => ws
  | n + 1, i, rcon, ws =>
    let prev := nth ws 0 []
    let t := if i % 8 = 0 then
        match (prev.drop 1 ++ prev.take 1).map aesSub with
        | b :: bs => (b ^^^ rcon) :: bs
        | [] => []
      else if i % 8 = 4 then prev.map aesSub
      else prev
    aesWords n (i + 1) (if i % 8 = 0 then aesX rcon else rcon) (xorBytes (nth ws 7 []) t :: ws)

/-- The fifteen round keys of a 32-byte key. -/
def aesKeys (key : List Byte) : List (List Byte) :=
  let first := (List.range 8).map fun i => bytesAt key (4 * i) 4
  let all := (aesWords 52 8 1 first.reverse).reverse.flatten
  (List.range 15).map fun r => bytesAt all (16 * r) 16

/-- The rows of the state are shifted; a state is its 16 bytes, column by column. -/
def aesShift (s : List Byte) : List Byte := (List.range 16).map fun i => nth s ((i + 4 * (i % 4)) % 16) 0

/-- The columns of the state are mixed. -/
def aesMix (s : List Byte) : List Byte :=
  (List.range 16).map fun i =>
    let b := fun k => nth s (i / 4 * 4 + (i + k) % 4) 0
    aesMul 2 (b 0) ^^^ aesMul 3 (b 1) ^^^ b 2 ^^^ b 3

/-- A block of 16 bytes enciphered under the round keys. -/
def aesBlock (keys : List (List Byte)) (block : List Byte) : List Byte :=
  let s := xorBytes block (nth keys 0 [])
  let s := (List.range 13).foldl (fun s r => xorBytes (aesMix (aesShift (s.map aesSub))) (nth keys (r + 1) [])) s
  xorBytes (aesShift (s.map aesSub)) (nth keys 14 [])

/-! ## The mode (SP 800-38D) -/

/-- A block as a number, its first byte the most significant. -/
def blockNat (bs : List Byte) : Nat := leNat bs.reverse

/-- A number as a block of `n` bytes, the most significant first. -/
def natBlock (n v : Nat) : List Byte := (natLe n v).reverse

/-- The product of two blocks in the field of GHASH, whose first bit is the coefficient of x^0. -/
def ghashMul (a b : Nat) : Nat :=
  ((List.range 128).foldl (fun (r : Nat × Nat) i =>
    (if a.testBit (127 - i) then r.1 ^^^ r.2 else r.1,
      if r.2 % 2 = 1 then r.2 / 2 ^^^ 0xE1 * 2 ^ 120 else r.2 / 2)) (0, b)).1

/-- Data filled up with zeros to whole blocks. -/
def padBlocks (bs : List Byte) : List Byte := bytesAt bs 0 (16 * cdiv bs.length 16)

/-- GHASH of whole blocks. -/
def ghash (h : Nat) (bs : List Byte) : Nat :=
  (List.range (bs.length / 16)).foldl (fun y i => ghashMul (y ^^^ blockNat (bytesAt bs (16 * i) 16)) h) 0

/-- Data under the counter blocks from counter 2 on: enciphering and deciphering alike. -/
def gcmStream (keys : List (List Byte)) (nonce bs : List Byte) : List Byte :=
  (List.range (cdiv bs.length 16)).flatMap fun i =>
    xorBytes ((bs.drop (16 * i)).take 16) (aesBlock keys (bytesAt nonce 0 12 ++ natBlock 4 (i + 2)))

/-- The tag of a ciphertext with its additional data. -/
def gcmTag (keys : List (List Byte)) (nonce aad ct : List Byte) : List Byte :=
  let h := blockNat (aesBlock keys (List.replicate 16 0))
  let s := ghash h (padBlocks aad ++ padBlocks ct ++ natBlock 8 (8 * aad.length) ++ natBlock 8 (8 * ct.length))
  xorBytes (natBlock 16 s) (aesBlock keys (bytesAt nonce 0 12 ++ natBlock 4 1))

/-- R544, R547: AES-256-GCM opening: the plaintext, or none when the tag does not match. -/
def gcmOpen (key nonce aad ct tag : List Byte) : Option (List Byte) :=
  let keys := aesKeys (bytesAt key 0 32)
  if gcmTag keys nonce aad ct = bytesAt tag 0 16 then some (gcmStream keys nonce ct) else none

end Sys2Proof.Machine
end

