-- ==== Sys2Proof/Machine/Models.lean ====
section
/-! DEFINITION. MODEL_LOAD and MODEL_UNLOAD (08_numerics_models, R261 to R266, R547). -/

namespace Sys2Proof.Machine

/-- R261: `model_slot` of a descriptor. -/
def slotOf (d : Desc) : Nat := d.field 4 3 0 0

/-- R262: a slot is loading, by another MODEL_LOAD. -/
def slotLoading (c : Core) (d : Desc) (slot : Nat) : Bool := (inFlight c d 0x50).any fun w => slotOf w.desc == slot

/-! ## Tiles as they stream (R263 checks 10 and 11, R547) -/

/-- A byte string with bytes replaced from an offset on. -/
def putBytes (m : List Byte) (off : Nat) (bs : List Byte) : List Byte := m.take off ++ bs ++ m.drop (off + bs.length)

/-- R547: the nonce of a sealed tile: key id, section index, tile index within the section. -/
def tileNonce (m : List Byte) (i place : Nat) : List Byte := natLe 4 (miKeyId m) ++ natLe 4 i ++ natLe 4 place

/-- R547: the plaintext of a tile, the section's table entry being the additional data; none when its tag does not match. -/
def openTile (key : List Byte) (m : List Byte) (i : Nat) (s : Section) (place : Nat) : Option (List Byte) :=
  if miSealed m then
    gcmOpen key (tileNonce m i place) (bytesAt m (64 + 48 * i) 48) (tileAt m s place)
      (bytesAt m (s.offset + 66560 * s.tiles + 16 * place) 16)
  else some (tileAt m s place)

/-- R263 check 10: a tile's plaintext, or the status that it ends the load with. Every byte of a scale tile up to its scale bytes counts as a scale, also those that belong to no element tile where the last scale tile is used in part: R263 does not set them apart (DESIGN CHOICE, log 180). -/
def admitTile (key : List Byte) (m : List Byte) (i : Nat) (s : Section) (place : Nat) : Except Status (List Byte) :=
  match openTile key m i s place with
  | none => .error .checkMismatch
  | some t =>
    if checkArray t != bytesAt m (s.offset + 65536 * s.tiles + 1024 * place) 1024 then .error .checkMismatch
    else if isScaleTile s place && (bytesAt t 0 (tilesPerScale s.format * (128 * tileCols s.format / 32))).any (· == 0xFF) then
      .error .invalidField
    else .ok t

/-- The tiles of an image in image order: section index and place. -/
def imageTiles (m : List Byte) : List (Nat × Nat) :=
  (List.range (miSections m)).flatMap fun i => (List.range (sectionAt (m.drop 64) i).tiles).map fun p => (i, p)

/-- R263: a part of the image is read into its place. -/
def readPart (image off n : Nat) (m : List Byte) : M (List Byte) := do return putBytes m off (← readBus 0 (image + off) n)

/-- R263 check 11: a tile is read, with its check values and, of a sealed image, its tag. -/
def readTile (image : Nat) (s : Section) (p : Nat) (m : List Byte) : M (List Byte) := do
  let m ← readPart image (s.offset + 65536 * p) 65536 m
  let m ← readPart image (s.offset + 65536 * s.tiles + 1024 * p) 1024 m
  if miSealed m then readPart image (s.offset + 66560 * s.tiles + 16 * p) 16 m else return m

/-- R263 checks 10 and 11, on each tile as it streams: the image with its tiles in plaintext. -/
def streamTiles (key : List Byte) (image : Nat) : List (Nat × Nat) → List Byte → M (List Byte)
  | [], m => return m
  | (i, p) :: ts, m => do
    let s := sectionAt (m.drop 64) i
    let m ← readTile image s p m
    match admitTile key m i s p with
    | .error .checkMismatch => failLogged 4 .checkMismatch
    | .error st => refuse st
    | .ok t => streamTiles key image ts (putBytes m (s.offset + 65536 * p) t)

/-! ## MODEL_LOAD (R263, R264) -/

/-- R537: what MR6 is extended with: the slot and the header with the section table, or zeros at an unload. -/
def modelMeasure (slot : Nat) (m : Option (List Byte)) : List Byte :=
  match m with
  | some m => BitVec.ofNat 8 slot :: bytesAt m 0 (64 + 48 * miSections m)
  | none => BitVec.ofNat 8 slot :: List.replicate 32 0

/-- Frees the frames of a slot and empties it; its hot copies go. -/
def emptySlot (c : Core) (slot : Nat) : Core :=
  match mapGet c.obj.models slot with
  | none => c
  | some m =>
    let c := setHot (setHot c false slot 0) true slot 0
    let c := giveFree (giveFree c false m.frames.d0) true m.frames.d1
    { c with obj := { c.obj with models := mapDel c.obj.models slot } }

/-- R263, R264: MODEL_LOAD. A slot whose tiles were lost may be loaded again (R58). -/
def modelLoadBody (d : Desc) : M Done := do
  let image := d.field 2 63 0 0
  let bytes := d.field 3 63 0 0
  let slot := slotOf d
  check (d.session != 0 || image % frameSize != 0 || bytes == 0) .invalidField
  let c ← getC
  check (((mapGet c.obj.models slot).map fun m => m.available || m.state == 3).getD false || slotLoading c d slot) .wrongState
  let _ ← once fun c => (0, emptySlot c slot)
  let h ← readBus 0 image 64
  check (miHeaderBad h bytes) .invalidField
  check (hdrCheckBad h) .checkMismatch
  check (!miLimits h) .unsupported
  let t ← readBus 0 (image + 64) (48 * miSections h)
  check (sectionTableBad h t bytes) .invalidField
  let c ← getC
  match mapGet c.obj.vocabs (modelVocab h) with
  | none => refuse .unknownHandle
  | some v => check (vocabTokens v.image != miVocab h) .unknownHandle
  let keys := (← get).rot.sealKeys
  check (miSealed h && !mapHas keys (miKeyId h)) .sealedSt
  let n0 := miFrames h t false
  let n1 := miFrames h t true
  checkFresh (!fitsStack c false n0 || !fitsStack c true n1) .refusedFit
  let _ ← once fun c => (0, takeFree (takeFree c false n0) true n1)
  orUndo (fun c => giveFree (giveFree c false n0) true n1) do
    let m := h ++ t ++ List.replicate (bytes - 64 - 48 * miSections h) 0
    let plain ← streamTiles ((mapGet keys (miKeyId h)).getD []) image (imageTiles m) m
    let x : Model := { state := 2, image := plain, frames := ⟨n0, n1⟩ }
    modC fun c => { c with obj := { c.obj with models := mapSet c.obj.models slot x } }
    measure 6 (modelMeasure slot (some plain))
    return .done .ok n0 n1

/-- R263. -/
def execModelLoad (d : Desc) (env : Env) (s : State) : Host.Outcome State Fault Refusal :=
  .next (acceptSeq s d env (modelLoadBody d))

/-! ## MODEL_UNLOAD (R265, R366, R497) -/

/-- R366: a PREFIX_REGISTER for the slot is in progress. -/
def slotRegistering (c : Core) (slot : Nat) : Bool :=
  (c.obj.registering.any fun p => p.2.slot == slot) ||
  (c.sess.waiting.any fun w => w.desc.opcode == 0x30 && regSlot w.desc == slot)

/-- A session that is not FREE, a registration in progress or a shadow names the slot. -/
def slotNamed (c : Core) (slot : Nat) : Bool :=
  (c.sess.dir.any fun p => p.2.modelSlot == slot) || slotRegistering c slot ||
  (paired c && c.twin.shadows.any fun p => p.2.entry.modelSlot == slot)

/-- The live prefixes of a slot. -/
def slotPrefixes (c : Core) (slot : Nat) : List Nat := (c.obj.prefixes.filter fun p => p.2.slot == slot).map (·.1)

/-- Releases prefixes in ascending handle. -/
def releaseAll : List Nat → M Unit
  | [] => return ()
  | h :: hs => do
    let _ ← releasePrefix h
    releaseAll hs

/-- Sets the state of a slot (R262). -/
def setSlotState (slot st : Nat) (c : Core) : Core :=
  { c with obj := { c.obj with models := mapMod c.obj.models slot fun m => { m with state := st } } }

/-- R265: MODEL_UNLOAD: the slot is unloading from its check of sessions on; its prefixes are released under R366. The counts of frames freed are the model's own frames, not those of the prefixes released with it, which R265 leaves open (DESIGN CHOICE, log 135). -/
def modelUnloadBody (d : Desc) : M Done := do
  check (d.session != 0) .invalidField
  let slot := slotOf d
  let c ← getC
  check (slotLoading c d slot) .wrongState
  match mapGet c.obj.models slot with
  | none => refuse .unknownHandle
  | some m =>
    checkFresh (m.state != 2 || slotNamed c slot) .wrongState
    let _ ← once fun c => (0, setSlotState slot 3 c)
    orUndo (setSlotState slot 2) (releaseAll (slotPrefixes c slot))
    modC fun c => emptySlot c slot
    measure 6 (modelMeasure slot none)
    return .done .ok m.frames.d0 m.frames.d1

/-- R265. -/
def execModelUnload (d : Desc) (env : Env) (s : State) : Host.Outcome State Fault Refusal :=
  .next (acceptSeq s d env (modelUnloadBody d))

end Sys2Proof.Machine
end

