-- ==== Sys2Proof/Machine/Security.lean ====
section
/-! DEFINITION. Security and tenancy (20_security R535 to R556): the mailbox and its objects, signing state, the key store, tenant change and debug unsealing. -/

namespace Sys2Proof.Machine

/-! ## Mailbox objects (R101, R542) -/

/-- R101, R571: configuration requests reach the mailbox: the function is out of PERST# and its link is up. -/
def mailboxOpen (c : Core) : Bool := c.power.on && !c.power.perst && !c.power.failed && !c.power.tripped && c.link.up

/-- R542: no object waits, and no unseal runs: an object is carried out at once. -/
def mailboxFree (c : Core) : Bool := mailboxOpen c && c.doe.queue.isEmpty && c.doe.token.isNone

/-- A response: the status in the first 4 bytes, then the body. -/
def respond (s : State) (st : Status) (body : List Byte) : State :=
  { s with core := { s.core with reply := .data (natLe 4 (stCode st) ++ body) } }

/-- R101: the DOE Discovery response for an index: vendor, type, next index; Discovery itself at 0, then types 1 to 5. -/
def discoveryWord (index : Nat) : Nat :=
  if index = 0 then 0x01000001
  else if index ≤ 5 then fieldAt 0 16 Config.vendorId + fieldAt 16 8 index + fieldAt 24 8 (if index = 5 then 0 else index + 1)
  else 0xFFFF

/-- R538: what the device derives from its root secret: SHA-256 of four letters, the secret, and what follows. -/
def derived (letters : List Byte) (more : List Byte) : List Byte := sha256 (letters ++ bytesAt Config.rootSecret 0 32 ++ more)

/-- R538: the seed of the identity key, from "HSS0". -/
def hssSeed : List Byte := derived [0x48, 0x53, 0x53, 0x30] []

/-- R538: d and z of the key-transport key of a tenant epoch, from "KEM0" and "KEM1". -/
def kemD (epoch : Nat) : List Byte := derived [0x4B, 0x45, 0x4D, 0x30] (natLe 4 epoch)
def kemZ (epoch : Nat) : List Byte := derived [0x4B, 0x45, 0x4D, 0x31] (natLe 4 epoch)

/-- R538, R542: the encapsulation key of the tenant epoch, 1,568 bytes. -/
def kemKeyBytes (r : Rot) : List Byte := (kemKeyGen (kemD r.tenantEpoch) (kemZ r.tenantEpoch)).1

/-! ## Signing state (R539 to R541) -/

/-- R539: leaves of the device. -/
def leafMax : Nat := 2 ^ 30

/-- R540: where the device resumes, from its own reservation and the one its twin holds, when that is known. -/
def resumeAt (f : Nat) (t : Option Nat) : Nat :=
  min leafMax (match t with
    | some t => if t = f then f else max f t + 1024
    | none => f + 1024)

/-- R540: fixes the next leaf, unless it is fixed already. -/
def resumeLeaf (r : Rot) (t : Option Nat) : Rot :=
  if r.leaf.isSome then r
  else
    let q := resumeAt r.reserved t
    { r with leaf := some q, gap := r.gap || decide (r.reserved < q), exhausted := decide (leafMax ≤ q) }

/-- R539: a record of the signing-state log: the reservation, the record sequence and their check. -/
def reservationRecord (n seq : Nat) : List Byte :=
  let w := natLe 8 (fieldAt 0 31 n + fieldAt 32 32 seq)
  w ++ natLe 8 (crc32c w).toNat

/-- R539: one record of a new reservation in the own log; a paired twin is sent the same. -/
def writeReservation (s : State) (n : Nat) : State :=
  let r := s.rot
  let seq := (r.logSeq + 1) % 2 ^ 32
  let rec_ := reservationRecord n seq
  let r := { r with reserved := n, logSeq := seq, record := rec_ }
  if paired s.core then { s with core := sendMsg s.core (.reservation rec_), rot := { r with twinKnows := some n } }
  else { s with rot := r }

/-- R539, R540: a reservation above the leaf: the resumed one first when it is not written yet, then 256 more. -/
def reserveFor (s : State) (q : Nat) : State :=
  let s := if s.rot.reserved < q then writeReservation s q else s
  if s.rot.reserved ≤ q then writeReservation s (min leafMax (s.rot.reserved + 256)) else s

/-- R539: the paired twin has not acknowledged the record yet: its message waits or its frame stands in the retry buffer (the link's acknowledgement is the only one that the spec describes; DEDUCED, log 168). -/
def signatureWaits (c : Core) (r : Rot) : Bool :=
  let m := TwinMsg.reservation r.record
  paired c && (c.twin.ctl.contains m || c.twin.retry.any fun f => f.payload == msgPayload m)

/-! ## Quotes (R543) -/

/-- R543: words 0 to 75 of a quote. -/
def quoteBody (c : Core) (r : Rot) (nonce : List Byte) (mask : Nat) : List Byte :=
  wordsBytes [ fieldAt 0 32 0x4F565154 + fieldAt 32 8 1 + fieldAt 40 8 (bits (regGet c 0) 7 0) + fieldAt 48 16 mask,
      fieldAt 0 32 (deviceNo c) + fieldAt 32 32 r.tenantEpoch ] ++
    nonce ++
    wordsBytes [ (List.range 4).foldl (fun v i => v + fieldAt (16 * i) 16 (nth r.fwVersions i 0)) 0,
      b2n r.debug + 2 * b2n r.imageB ] ++
    sha256 (kemKeyBytes r) ++
    (List.range 16).flatMap fun i => if bit mask i then bytesAt (nth r.mrs i []) 0 32 else List.replicate 32 0

/-- R541, R543: a quote, signed with the next leaf once its reservation stands in both logs; the answer is `false` while the twin's is awaited. -/
def quote (s : State) (body : List Byte) : State × Bool :=
  if body.length ≠ 36 || leAt body 34 2 ≠ 0 then (respond s .invalidField [], true)
  else
    let r := resumeLeaf s.rot s.rot.twinKnows
    let q := r.leaf.getD 0
    if leafMax ≤ q then (respond { s with rot := { r with exhausted := true } } .noSpace [], true)
    else
      let s := reserveFor { s with rot := r } q
      if signatureWaits s.core s.rot then (s, false)
      else
        let m := quoteBody s.core s.rot (bytesAt body 0 32) (leAt body 32 2)
        let r := { s.rot with leaf := some (q + 1), exhausted := decide (leafMax ≤ q + 1) }
        (respond { s with rot := r } .ok (m ++ hssSign hssSeed q m), true)

/-! ## The key store (R544 to R546) -/

/-- R537: what MR8 measures of a key. -/
def keyMeasure (id purpose : Nat) : List Byte := natLe 4 id ++ natLe 1 purpose

/-- R545: the first failing check of a KEY_LOAD body. -/
def keyLoadCheck (r : Rot) (body : List Byte) : Option Status :=
  let id := leAt body 0 4
  let purpose := leAt body 4 1
  if body.length ≠ 1636 || (purpose ≠ 1 && purpose ≠ 2) || (purpose = 1 && id = 0) || (purpose = 2 && 64 ≤ id) || leAt body 5 3 ≠ 0 then
    some .invalidField
  else if purpose = 1 && r.debug then some .sealedSt
  else if purpose = 1 && mapHas r.sealKeys id then some .wrongState
  else if purpose = 1 && 64 ≤ r.sealKeys.length then some .noSpace
  else none

/-- R544: the key that a body wraps, under the shared secret of its ciphertext and bytes 0 to 7 as additional data, when its tag verifies. -/
def unwrapKey (r : Rot) (body : List Byte) : Option (List Byte) :=
  let ss := kemDecaps (kemKeyGen (kemD r.tenantEpoch) (kemZ r.tenantEpoch)).2 (bytesAt body 8 1568)
  gcmOpen ss (bytesAt body 1576 12) (bytesAt body 0 8) (bytesAt body 1588 32) (bytesAt body 1620 16)

/-- R544, R545. -/
def keyLoad (s : State) (body : List Byte) : State :=
  match keyLoadCheck s.rot body with
  | some st => respond s st []
  | none =>
    match unwrapKey s.rot body with
    | none => respond s .checkMismatch []
    | some k =>
      let id := leAt body 0 4
      let r := if leAt body 4 1 = 1 then { s.rot with sealKeys := mapSet s.rot.sealKeys id k }
        else { s.rot with ideKeys := mapSet s.rot.ideKeys id k }
      respond { s with rot := extendMr r (8, keyMeasure id (leAt body 4 1)) } .ok []

/-- R546: a model slot that is loading or loaded names a key id. -/
def keyInUse (c : Core) (id : Nat) : Bool :=
  (c.obj.models.any fun p => miSealed p.2.image && miKeyId p.2.image == id) ||
  c.sess.waiting.any fun w => w.desc.opcode == 0x50 && match firstAnswer w with
    | some h => miSealed h && miKeyId h == id
    | none => false

/-- R546. -/
def keyDestroy (s : State) (body : List Byte) : State :=
  let id := leAt body 0 4
  if body.length ≠ 4 then respond s .invalidField []
  else if !mapHas s.rot.sealKeys id && !mapHas s.rot.ideKeys id then respond s .unknownHandle []
  else if keyInUse s.core id then respond s .wrongState []
  else
    let purpose := if mapHas s.rot.sealKeys id then 1 else 2
    let r := if purpose = 1 then { s.rot with sealKeys := mapDel s.rot.sealKeys id }
      else { s.rot with ideKeys := mapDel s.rot.ideKeys id }
    respond { s with rot := extendMr r (8, keyMeasure id purpose) } .ok []

/-! ## The mailbox (R101, R542) -/

/-- R542: an object with an empty body. -/
def plainObject (s : State) (body answer : List Byte) : State :=
  if body.isEmpty then respond s .ok answer else respond s .invalidField []

/-- R101, R542: carries out an object; `false`: it waits, and those behind it with it. -/
def carryOut (s : State) (x : DoeObject) : State × Bool :=
  match x.kind with
  | none => ({ s with core := { s.core with reply := .data (natLe 4 (discoveryWord (leAt x.body 0 1))) } }, true)
  | some 1 => quote s x.body
  | some 2 => (plainObject s x.body Config.certChain, true)
  | some 3 => (plainObject s x.body (kemKeyBytes s.rot), true)
  | some 4 => (keyLoad s x.body, true)
  | some 5 => (keyDestroy s x.body, true)
  | some _ => (respond s .invalidField [], true)

/-- Changes the mailbox. -/
def modDoe (s : State) (f : Doe → Doe) : State := { s with core := { s.core with doe := f s.core.doe } }

/-- The 32-bit words of some bytes. -/
def dwords (bs : List Byte) : List Nat := (List.range ((bs.length + 3) / 4)).map fun i => leAt bs (4 * i) 4

/-- R101: the header of an object: vendor and type, then its length in 32-bit words (the layout is PCIe's; PRESUMED, log 131). -/
def objectHeader (kind : Option Nat) (words : Nat) : List Nat :=
  [match kind with
    | none => 1
    | some t => Config.vendorId % 2 ^ 16 + fieldAt 16 8 t, (words + 2) % 2 ^ 18]

/-- R101: the answer to an object of the write mailbox stands in the read mailbox. -/
def portAnswer (s : State) (kind : Option Nat) (was : Reply) : State :=
  match s.core.reply with
  | .data bs =>
    let ws := dwords bs
    let s := modDoe s fun d => { d with out := objectHeader kind ws.length ++ ws }
    { s with core := { s.core with reply := was } }
  | _ => s

/-- R542: carries out the object at the front of those that wait. -/
def serveObject (s : State) : State :=
  match s.core.doe.queue with
  | [] => s
  | x :: xs =>
    if !mailboxOpen s.core || s.core.doe.token.isSome then s
    else
      let was := s.core.reply
      let (s, done) := carryOut s x
      if !done then s
      else
        let s := modDoe s fun d => { d with queue := xs }
        if x.port then portAnswer s x.kind was else s

/-- R542: an object arrives: it is carried out when none is before it, else it waits its turn; while an unseal runs it is not accepted. -/
def mailbox (s : State) (x : DoeObject) : State :=
  if !mailboxOpen s.core || s.core.doe.token.isSome then s
  else if s.core.doe.queue.isEmpty then serveObject (modDoe s fun d => { d with queue := [x] })
  else modDoe s fun d => { d with queue := d.queue ++ [x] }

/-- R101. -/
def execDoeDiscovery (index : Nat) (s : State) : Host.Outcome State Fault Refusal := .next (mailbox s { kind := none, body := natLe 1 index })

/-- R543. -/
def execQuote (body : List Byte) (s : State) : Host.Outcome State Fault Refusal := .next (mailbox s { kind := some 1, body := body })

/-- R542. -/
def execCert (body : List Byte) (s : State) : Host.Outcome State Fault Refusal := .next (mailbox s { kind := some 2, body := body })

/-- R542. -/
def execKemKey (body : List Byte) (s : State) : Host.Outcome State Fault Refusal := .next (mailbox s { kind := some 3, body := body })

/-- R545. -/
def execKeyLoad (body : List Byte) (s : State) : Host.Outcome State Fault Refusal := .next (mailbox s { kind := some 4, body := body })

/-- R546. -/
def execKeyDestroy (body : List Byte) (s : State) : Host.Outcome State Fault Refusal := .next (mailbox s { kind := some 5, body := body })

/-! ## The mailbox in configuration space (R101, R542) -/

/-- The object that the written words spell: its header's length must be theirs. One of another vendor is of no type that the device has. -/
def writtenObject (ws : List Nat) : Option DoeObject :=
  match ws with
  | head :: len :: body =>
    if bits len 17 0 ≠ body.length + 2 then none
    else some { kind := if head % 2 ^ 24 = 1 then none
                        else if bits head 15 0 = Config.vendorId % 2 ^ 16 then some (bits head 23 16) else some 0
                body := body.flatMap (natLe 4), port := true }
  | _ => none

/-- R542: DOE Busy. -/
def doeBusy (d : Doe) : Bool := d.token.isSome || !d.queue.isEmpty

/-- DOE Control: Abort empties the mailbox, Go hands over what was written. Go while Busy, or with words that spell no object, sets DOE Error. -/
def doeControl (s : State) (value : Nat) : State :=
  if bit value 0 then modDoe s fun d => { d with words := [], out := [], error := false, queue := d.queue.filter fun x => !x.port }
  else if !bit value 31 then s
  else
    let d := s.core.doe
    let s := modDoe s fun d => { d with words := [] }
    match writtenObject d.words with
    | some x => if doeBusy d then modDoe s fun d => { d with error := true } else mailbox s x
    | none => modDoe s fun d => { d with error := true }

/-! ## Tenant change (R550 to R553) -/

/-- R550: a tenant change is refused while the pair trains, syncs or is paired. -/
def tenantBarred (c : Core) : Bool := c.twin.state == 1 || c.twin.state == 2 || c.twin.state == 3

/-- Sets RTP_STATUS.STATUS. -/
def rtpStatus (s : State) (st : Status) : State := { s with rot := { s.rot with status := stCode st } }

/-- R551, R537, R553: the root of trust: epoch advanced and written to flash, keys erased, MR5 to MR8 zero, MR9 extended with the new epoch. -/
def tenantRot (r : Rot) : Rot :=
  let e := (r.tenantEpoch + 1) % 2 ^ 32
  let z := List.replicate 32 (0 : Byte)
  let r := { emptyKeys r with tenantEpoch := e, flashEpoch := some e, mrs := (((r.mrs.set 5 z).set 6 z).set 7 z).set 8 z }
  extendMr r (9, natLe 4 e)

/-- R551: everything else takes its value after a host reset, with the link up as it was, every IDE stream that was Secure now Insecure, the error log cleared and INT_FATAL kept. -/
def tenantCore (c : Core) : Core :=
  let k := keptCore c
  let p := c.power
  let held := p.held && p.supplyLost
  tryReady (domainsAfter { k with
    errs := { next := c.errs.next, fatal := c.errs.fatal }
    link := { c.link with downTime := 0, holdOut := false, secure := 0, insecure := c.link.insecure ||| c.link.secure, keySet := [] }
    stackTab := c.stackTab.map fun x => (x.1, stackKept x.2)
    power := { p with deep := false, held := held, ready := p.ready && !held } } allLocks)

/-- R551: a tenant change. -/
def tenantChange (s : State) : State := { s with core := tenantCore s.core, rot := tenantRot s.rot }

/-- R550, R551, R571: a commanded tenant change: ignored and logged before READY and while a command is carried out. -/
def tenantCommand (s : State) : State :=
  if !barReady s.core || s.core.doe.token.isSome then { s with core := if s.core.power.on then logHost s.core 0x0C 0x800000 else s.core }
  else if tenantBarred s.core then rtpStatus s .wrongState
  else tenantChange s

/-- R551: RTP_CMD.OP = 1, or board management. -/
def execTenantChange (s : State) : Host.Outcome State Fault Refusal := .next (tenantCommand s)

/-! ## Debug unsealing (R555, R556) -/

/-- R555: the nonce that a token must hold. -/
def nonceBytes (r : Rot) : List Byte := r.nonce.flatMap fun w => natLe 8 w.toNat

/-- R555: a token is accepted: it names this device's HSS public key and the nonce, and its signature verifies under the debug root. -/
def tokenGood (r : Rot) (bs : List Byte) : Bool :=
  bytesAt bs 0 32 == sha256 (hssPublic hssSeed) && bytesAt bs 32 32 == nonceBytes r &&
  hssVerify Config.debugRoot (bytesAt bs 64 5396) (bytesAt bs 0 64)

/-- R555: the read of the token at RTP_ARG: its bytes, or the status of the read that failed. -/
def readToken (c : Core) : M (List Byte) := readBus 0 (regField c 0x800008 63 6 * 64) 5460

/-- R556: after the tenant change MR9 is extended with 0xDB and the debug lands open. -/
def unsealed (s : State) : State :=
  let s := tenantChange s
  { s with rot := { extendMr s.rot (9, [0xDB]) with debug := true } }

/-- R555, R556: the unseal goes on with what the token read answers; a read that waits for its link keeps the command busy (R542). -/
def unsealRun (s : State) (env : Env) : State :=
  match readToken s.core (runOf s s.core (env ++ noAnswers)) with
  | .ok (bs, r) =>
    let s := { s with core := { r.core with doe := { r.core.doe with token := none } } }
    if tokenGood s.rot bs then unsealed s else rtpStatus s .invalidField
  | .error (.fail st _ _ c) => rtpStatus { s with core := { c with doe := { c.doe with token := none } } } st
  | .error (.wait ..) => modDoe s fun d => { d with token := some env }

/-- R555, R556: a commanded unseal: R550 first, then the token. -/
def unsealCommand (s : State) (env : Env) : State :=
  if !barReady s.core || s.core.doe.token.isSome then { s with core := if s.core.power.on then logHost s.core 0x0C 0x800000 else s.core }
  else if tenantBarred s.core then rtpStatus s .wrongState
  else unsealRun s env

/-- R542: what waits in the root of trust goes on: an unseal whose read can be made now, the object at the front. -/
def trustTick (s : State) : State :=
  match s.core.doe.token with
  | some env => if barReady s.core then unsealRun s env else s
  | none => serveObject s

/-- R556. -/
def execDebugUnseal (env : Env) (s : State) : Host.Outcome State Fault Refusal := .next (unsealCommand s env)

/-! ## The twin's signing-state log (R539) -/

/-- R539: a record of the twin's: its reservation, when the record is well formed. -/
def twinRecord (bs : List Byte) : Option Nat :=
  let w := leAt bs 0 8
  if bs.length = 16 && leAt bs 8 4 == (crc32c (bytesAt bs 0 8)).toNat && !bit w 31 && leAt bs 12 4 == 0 && 1 ≤ bits w 30 0 &&
      bits w 30 0 ≤ leafMax then
    some (bits w 30 0)
  else none

/-- R539: writes the twin's record to the twin's log, of which the highest valid R counts. -/
def execSigningRecord (bytes : List Byte) (s : State) : Host.Outcome State Fault Refusal :=
  .next (
    if !alive s.core || !s.core.twin.linkUp || !(s.core.twin.state == 2 || s.core.twin.state == 3) then s
    else match twinRecord bytes with
      | some n => { s with rot := { s.rot with twinLog := max s.rot.twinLog n } }
      | none => s)

end Sys2Proof.Machine
end

