-- ==== Sys2Proof/Machine/Pairing.lean ====
section
/-! DEFINITION. The twin link and pairing (18_twin R488 to R499, R505): frames and their retry buffer, lanes, training, HELLO, resynchronisation, unpairing, frame grants, and what the loss of the link does. -/

namespace Sys2Proof.Machine

/-- Changes the twin's state. -/
def modTwin (c : Core) (f : Twin → Twin) : Core := { c with twin := f c.twin }

/-- HNG_PAIR_CFG.EN and AUTO. -/
def pairEn (c : Core) : Bool := regField c 0x700000 0 0 == 1
def pairAuto (c : Core) : Bool := regField c 0x700000 1 1 == 1

/-- R489: credits of a class. -/
def creditMax (cls : Nat) : Nat :=
  match cls with
  | 0 => 64
  | 1 => 2048
  | _ => 1024

/-- The state of a link that has just trained, of the shadows and grants that it carries none. -/
def freshLink (t : Twin) (up : Bool) : Twin :=
  { t with
    linkUp := up, txSeq := 0, rxNext := 0, nak := false, replay := false, retry := [], ctl := [], bulk := [], bulkSent := 0, share := 0, wire := []
    credits := [(0, creditMax 0), (1, creditMax 1), (2, creditMax 2)], owed := [], silent := false, seeking := false
    unpairing := false, saidUnpair := false, asked := ⟨false, false⟩ }

/-! ## Unpairing (R498) -/

/-- The space of a sheaf that this device keeps for a shadow is given back; units of a pool window go by its release list. -/
def freeShadowSheaf (c : Core) (sh : Shadow) : Core :=
  match sh.ix with
  | none => c
  | some ix =>
    if ix.place = 1 then freeBarn c ix.die ix.locator
    else if ix.place = 3 then freeSpill c ix.locator
    else if sh.entry.state = .parked then addRelease c ix.window (.run (sheafRun c ix))
    else c

/-- R498: shadows go, and the frames that this device has granted return. -/
def dropShadows (c : Core) : Core :=
  let c := c.twin.shadows.foldl (fun c p => freeShadowSheaf c p.2) c
  let l := c.twin.lent
  modTwin (returnFree (returnFree c false l.d0) true l.d1) fun t =>
    { t with shadows := [], lent := ⟨0, 0⟩, granted := ⟨0, 0⟩, mirror := [], mirrorSent := 0, entered := [], hello := none
             toSend := [], toRecv := [], recvDone := false, requests := [] }

/-- R498, R505: a pair that synchronises or is paired is unpaired, and a TWIN record of kind 2 says so. -/
def unpairTo (c : Core) (st : Nat) : Core :=
  let was := c.twin.state == 2 || c.twin.state == 3
  let c := modTwin (dropShadows c) fun t => { freshLink t false with state := st, cause := 0 }
  if was then twinEvent c 2 0 else c

/-- R498: the devices unpair: at once while nothing is paired; else the mirror records in the queue go first, and then UNPAIR. -/
def startUnpair (c : Core) : Core :=
  if c.twin.linkUp && (c.twin.state == 2 || c.twin.state == 3) then modTwin c fun t => { t with unpairing := true } else unpairTo c 0

/-- R498: EN is cleared. A device that lost the witness, and one in a takeover, stay as they are. -/
def pairOff (c : Core) : Core := if c.twin.state = 5 || c.twin.taking then c else startUnpair c

/-- R498: a device that unpairs has written its mirror records: it sends UNPAIR; with that sent too, its shadows go. It trains again when EN has been set meanwhile. -/
def finishUnpair (c : Core) : Core :=
  if !c.twin.unpairing || !c.twin.mirror.isEmpty then c
  else if c.twin.ctl.contains .unpair then c
  else if c.twin.saidUnpair && c.twin.ctl.isEmpty then unpairTo c (b2n (pairEn c))
  else if c.twin.saidUnpair then c
  else sendMsg (modTwin c fun t => { t with saidUnpair := true }) .unpair

/-- R498. -/
def execUnpair (s : State) : Host.Outcome State Fault Refusal :=
  onCore s fun c => bar0Write c 0x700000 8 fun c => pairOff (regPut c 0x700000 0 0 0)

/-- R498: the twin's UNPAIR arrives. -/
def execUnpairReceived (s : State) : Host.Outcome State Fault Refusal :=
  whenReady s fun c => if c.twin.linkUp && (c.twin.state == 2 || c.twin.state == 3) && !c.twin.unpairing then startUnpair c else c

/-! ## Training (R494) -/

/-- R262: slots loaded here with their model digests. -/
def ownSlots (c : Core) : Map Nat := (c.obj.models.filter fun p => p.2.state == 2).map fun p => (p.1, modelDigest p.2.image)

/-- R494, R540: what this device says of itself. -/
def ownHello (c : Core) (r : Rot) : Hello :=
  { deviceNo := deviceNo c, stepping := bits (regGet c 0) 7 0, slots := ownSlots c
    ids := c.sess.dir.map (·.1), lost := (c.sess.dir.filter fun p => p.2.state == .lost).map (·.1)
    interval := regField c 0x500200 31 0, credits := regField c 0x500208 31 0, leafT := r.twinLog }

/-- R494: the link trains; once it is up, HELLO goes to the twin. -/
def trainLink (c : Core) (r : Rot) (trained : Bool) : Core :=
  let c := modTwin c fun t => freshLink t trained
  if trained then sendMsg c (.hello (ownHello c r)) else c

/-- R494: EN is set: the link trains, unless the device synchronises, is paired, or holds after losing the witness. -/
def pairOn (c : Core) (r : Rot) (trained : Bool) : Core :=
  let t := c.twin
  if t.state = 2 || t.state = 3 || t.state = 5 || t.taking then c
  else trainLink (modTwin c fun t => { t with state := 1, cause := 0 }) r trained

/-- R494: the write that sets EN; with EN set, the training that a link which is down makes. -/
def execPairEnable (trained : Bool) (s : State) : Host.Outcome State Fault Refusal :=
  onCore s fun c =>
    if ready c && pairEn c && c.twin.state = 1 then (if c.twin.linkUp then c else trainLink c s.rot trained)
    else bar0Write c 0x700000 8 fun c => pairOn (regPut c 0x700000 0 0 1) s.rot trained

/-! ## HELLO (R494, R495, R540) -/

/-- R494: why a pairing is refused; 0 when it is not. -/
def helloCause (c : Core) (h : Hello) : Nat :=
  if deviceNo c = h.deviceNo || deviceNo c = 0 || h.deviceNo = 0 then 1
  else if bits (regGet c 0) 7 0 ≠ h.stepping then 2
  else if (ownSlots c).any fun p => match mapGet h.slots p.1 with | some g => g != p.2 | none => false then 3
  else if c.sess.dir.any fun p => h.ids.contains p.1 then 4
  else if regField c 0x500200 31 0 ≠ h.interval || regField c 0x500208 31 0 ≠ h.credits then 5
  else 0

/-- R495: own sessions to send, ascending. -/
def sessionsToSend (c : Core) : List Nat := (c.sess.dir.filter fun p => p.2.state != .lost).map (·.1)

/-- R495: sessions still to send: one that has been closed or is LOST sends nothing. -/
def stillToSend (c : Core) : List Nat :=
  c.twin.toSend.filter fun i => (entryOf c i).state != .free && (entryOf c i).state != .lost

/-- R494, R495: HELLO arrives: pairing is refused, or the devices synchronise. A later HELLO tells what the twin has loaded since (R497). -/
def helloCore (c : Core) (h : Hello) : Core :=
  if c.twin.state ≠ 1 then modTwin c fun t => { t with hello := some h }
  else if helloCause c h ≠ 0 then modTwin c fun t => { t with state := 6, cause := helloCause c h, twinNo := h.deviceNo }
  else modTwin c fun t =>
    { t with state := 2, cause := 0, twinNo := h.deviceNo, hello := some h, toSend := sessionsToSend c
             toRecv := h.ids.filter fun i => !h.lost.contains i }

/-- R494, R540: HELLO also tells the reservation that the twin holds for this device, from which the leaf resumes. -/
def execHello (h : Hello) (s : State) : Host.Outcome State Fault Refusal :=
  let c := s.core
  .next (
    if !ready c || !c.twin.linkUp || !(c.twin.state == 1 || c.twin.state == 2 || c.twin.state == 3) then s
    else { s with core := helloCore c h, rot := resumeLeaf { s.rot with twinKnows := some h.leafT } (some h.leafT) })

/-! ## The witness (R493, R506) -/

/-- HNG_WITNESS: the window, 0 for none, and the byte offset in it. -/
def witnessWindow (c : Core) : Nat := regField c 0x700018 3 0
def witnessOff (c : Core) : Nat := regField c 0x700018 47 4 * 16

/-- R493: a witness word. -/
def witnessWord (holder st gen : Nat) : Nat := holder % 2 ^ 32 + st * 2 ^ 32 + gen % 2 ^ 32 * 2 ^ 64

/-- R493: reads the witness word. -/
def readWitness : M Nat := do
  let c ← getC
  return leNat (← winRead (witnessWindow c) (witnessOff c) 16)

/-- R493: swaps the word read to a new one, its generation one higher; whether the swap landed. -/
def swapWitness (v holder st : Nat) : M Bool := do
  let c ← getC
  match ← swapWord (witnessWindow c) (witnessOff c) v (witnessWord holder st (bits v 95 64 + 1)) with
  | .old o => return o == v
  | _ => return false

/-- R493, R515: the word names nobody and the pair is paired. -/
def pairWitness : M Unit := do
  if witnessWindow (← getC) = 0 then return ()
  let v ← readWitness
  let _ ← swapWitness v 0 1

/-! ## Paired (R496, R515) -/

/-- R496: the device holds a complete shadow of every session of the twin: kind 5, once, and the twin is told. -/
def recvComplete (c : Core) : Core :=
  if c.twin.recvDone || !c.twin.toRecv.isEmpty then c
  else sendMsg (twinEvent (modTwin c fun t => { t with recvDone := true }) 5 0) .complete

/-- R496: both devices have issued kind 5, and this one has sent every copy. -/
def nowPaired (c : Core) (twinToo : Bool) : Bool :=
  twinToo && c.twin.recvDone && (stillToSend c).isEmpty && !copying c fun _ => true

/-- R463, R496, R515: the pair is PAIRED: kind 1; the survivor of a takeover has its capacity restored. -/
def enterPaired (c : Core) : Core :=
  let c := twinEvent (modTwin c fun t => { t with state := 3 }) 1 0
  if c.twin.taken then
    let c := modTwin c fun t => { t with taken := false }
    capacityEvent (capacityEvent c false 6 65536 0) true 6 65536 0
  else c

/-- R493, R515: the device with the lower number swaps the witness, and so does a survivor. -/
def swapsWitness (c : Core) : Bool := c.twin.taken || deviceNo c < c.twin.twinNo

/-- R496. -/
def syncDone (s : State) (twinToo : Bool) (env : Env) : State :=
  let c := recvComplete s.core
  if !nowPaired c twinToo then { s with core := c }
  else
    let s' := { s with core := enterPaired c }
    if swapsWitness c then eventRun s' env pairWitness else s'

/-- R496. -/
def execTwinSyncDone (twinToo : Bool) (env : Env) (s : State) : Host.Outcome State Fault Refusal :=
  .next (if ready s.core && s.core.twin.linkUp && s.core.twin.state == 2 then syncDone s twinToo env else s)

/-! ## Link loss, GIVE_UP and the witness (R505, R506) -/

/-- R505, R507: a takeover starts. -/
def startTakeover (c : Core) : Core := twinEvent (modTwin c fun t => { t with taking := true, seeking := false }) 3 0

/-- R506: the witness names the twin: the device holds, its sessions are the twin's. -/
def loseWitness (c : Core) : Core :=
  holdDevice (twinEvent (modTwin c fun t => { t with state := 5, seeking := false }) 6 0)

/-- R506: one attempt at the witness. -/
def tryWitness : M Unit := do
  let c ← getC
  if witnessWindow c = 0 then modC startTakeover
  else
    let v ← readWitness
    if bits v 31 0 = c.twin.twinNo && bits v 33 32 = 2 then modC loseWitness
    else if ← swapWitness v (deviceNo c) 2 then modC startTakeover

/-- R506: a paired device whose twin is silent and whose link is down seeks the witness. -/
def seekWitness (s : State) (env : Env) : State :=
  eventRun { s with core := modTwin s.core fun t => { t with seeking := true } } env tryWitness

/-- R505: the link is down: with heartbeats arriving both devices unpair; in silence the witness decides. A takeover that has started goes on. -/
def twinLinkDown (c : Core) (arriving : Bool) : Core :=
  let again := if pairAuto c then 1 else 0
  if c.twin.taking then modTwin c fun t => { t with linkUp := false }
  else if c.twin.unpairing then unpairTo c (b2n (pairEn c))
  else if c.twin.state = 2 || (c.twin.state = 3 && arriving) then unpairTo c again
  else
    let c := modTwin c fun t => { t with linkUp := false }
    if c.twin.state = 3 && c.twin.silent then
      (if witnessWindow c = 0 then startTakeover c else modTwin c fun t => { t with seeking := true })
    else c

/-- R505, R506, R563: no heartbeat has arrived for MISS periods. -/
def execHeartbeatSilence (env : Env) (s : State) : Host.Outcome State Fault Refusal :=
  let c := s.core
  .next (
    if !alive c || c.twin.state ≠ 3 || c.twin.taking || c.twin.unpairing then s
    else
      let s := { s with core := wakeBy (modTwin c fun t => { t with silent := true }) .silence }
      if c.twin.linkUp then s else seekWitness s env)

/-- R506: the witness is tried again, once per heartbeat period. -/
def execWitnessSwap (env : Env) (s : State) : Host.Outcome State Fault Refusal :=
  .next (if alive s.core && s.core.twin.seeking then eventRun s env tryWitness else s)

/-- R505: GIVE_UP of a paired twin is taken over at once. -/
def execGiveUpReceived (s : State) : Host.Outcome State Fault Refusal :=
  onCore s fun c => if alive c && paired c && !c.twin.taking && !c.twin.unpairing then startTakeover c else c

/-- R492: a heartbeat is sent. -/
def execHeartbeatSend (s : State) : Host.Outcome State Fault Refusal :=
  onCore s fun c => if c.power.on && c.power.ready then modTwin c fun t => { t with beats := t.beats + 1 } else c

/-! ## Frames (R488 to R490) -/

/-- R490: frames that `ack` covers leave the retry buffer. -/
def ackFrames (l : List TxFrame) (ack : Nat) : List TxFrame :=
  if l.any fun f => f.seq == ack then (l.dropWhile fun f => f.seq != ack).tail else l

/-- R489: credits of a class return, up to what the class has. -/
def addCredits (t : Twin) (cls n : Nat) : Twin :=
  if cls < 3 then { t with credits := mapSet t.credits cls (min (creditMax cls) ((mapGet t.credits cls).getD 0 + n)) } else t

/-- R488, R490: the check of a frame is good and its `seq` is the next expected. -/
def frameGood (t : Twin) (f : List Byte) : Bool :=
  f.length == 512 && (crc32c (bytesAt f 0 496)).toNat == leAt f 496 4 && leAt f 0 4 == t.rxNext

/-- R489: the credit of a frame taken is owed to its sender; idle frames take none. -/
def oweCredit (t : Twin) (cls : Nat) : Twin :=
  if cls < 3 then { t with owed := mapSet t.owed cls ((mapGet t.owed cls).getD 0 + 1) } else t

/-- R489, R490: a frame arrives: a bad one is dropped and a replay is asked for. -/
def frameReceive (t : Twin) (f : List Byte) : Twin :=
  if !frameGood t f then { t with nak := true }
  else
    let t := { t with rxNext := (t.rxNext + 1) % 2 ^ 32, nak := false, retry := ackFrames t.retry (leAt f 4 4) }
    let t := if bit (leAt f 8 1) 2 then { t with replay := true } else t
    oweCredit (addCredits t (leAt f 9 1 % 4) (leAt f 10 2)) (leAt f 8 1 % 4)

/-- R490, R563: a frame wakes die 1's port. -/
def execTwinFrameReceive (frame : List Byte) (s : State) : Host.Outcome State Fault Refusal :=
  onCore s fun c => if c.power.on && c.twin.linkUp then wakeBy (modTwin c fun t => frameReceive t frame) (.frame none) else c

/-- R490: the frames from `ack` + 1 on are sent again; one sent again for the sixteenth time takes the link down. -/
def frameReplay (c : Core) (arriving : Bool) : Core :=
  let c := modTwin c fun t => { t with replay := false, retry := t.retry.map fun f => { f with resends := f.resends + 1 } }
  let c := countError c true 8
  if c.twin.retry.any fun f => 16 ≤ f.resends then twinLinkDown c arriving else c

/-- R490. -/
def execTwinFrameReplay (arriving : Bool) (s : State) : Host.Outcome State Fault Refusal :=
  onCore s fun c =>
    if alive c && c.twin.linkUp && c.twin.replay && !c.twin.retry.isEmpty then frameReplay c arriving else c

/-- R488, R491: frames that the link carries in one aon cycle: 875,000,000 a second; half of them at 16 lanes, 17 and 18 in turn. -/
def framesPerCycle (c : Core) : Nat := if c.twin.half then 17 + c.aon % 2 else 35

/-- R490: frames that may go in one aon cycle, as far as the retry buffer has room. -/
def frameRoom (c : Core) : Nat := min (framesPerCycle c) (4096 - c.twin.retry.length)

/-- Bytes of what waits in the bulk class. -/
def bulkLen (b : BulkItem) : Nat :=
  match b with
  | .copy r => mirrorLen r
  | .answer _ bs => bs.length

/-- Bytes of the bulk class still to send. -/
def bulkLeft (c : Core) : Nat := (c.twin.bulk.foldl (fun n b => n + bulkLen b) 0) - c.twin.bulkSent

/-- R489: of `n` frames, those of mirror and bulk, with `m` and `b` frames waiting: three to one, each giving its unused share to the other; `k` is the place in the round of four. -/
def shareFrames : Nat → Nat → Nat → Nat → Nat × Nat × Nat
  | 0, _, _, k => (0, 0, k)
  | n + 1, m, b, k =>
    if m = 0 && b = 0 then (0, 0, k)
    else if b = 0 || (0 < m && k < 3) then
      let r := shareFrames n (m - 1) b (if b = 0 then k else k + 1)
      (r.1 + 1, r.2)
    else
      let r := shareFrames n m (b - 1) (if m = 0 then k else 0)
      (r.1, r.2.1 + 1, r.2.2)

/-- R489, R490: frames that go in one aon cycle, by class, and the place in the round after them: what waits, as far as the class's credits, the link and the retry buffer let it; control first. After GIVE_UP only control frames go. -/
def framesToSend (c : Core) : Nat × Nat × Nat × Nat :=
  let t := c.twin
  let credit := fun cls => (mapGet t.credits cls).getD 0
  let room := frameRoom c
  let ctl := min room (min (credit 0) t.ctl.length)
  let mirror := if t.gaveUp then 0 else min (credit 1) (cdiv (mirrorUsed c) framePayload)
  let bulk := if t.gaveUp then 0 else min (credit 2) (cdiv (bulkLeft c) framePayload)
  (ctl, shareFrames (room - ctl) mirror bulk t.share)

/-! ### The streams of the classes (R488, R501) -/

/-- Bytes of pages. -/
def pagesBytes (cols : List ImageCol) : List Byte := cols.flatMap fun k => k.pages.flatMap pageBytes

/-- The bytes of every page of an image: its control frame, its map pages, its columns. -/
def imageStream (i : Image) : List Byte :=
  let cols : Map Column := i.cols.map fun k => (k.col, { slot := k.slot, pooled := k.pooled, score := k.score, mass := k.mass })
  ctlPage i.ctl cols i.cleared ++ ((List.range i.mapCount).flatMap (mapPage cols i.cleared)) ++ pagesBytes i.cols

/-- R403: the bytes of a sheaf index entry. -/
def indexBytes (ix : SheafIx) : List Byte :=
  wordsBytes [fieldAt 0 2 ix.place + fieldAt 2 1 (b2n ix.die) + fieldAt 3 4 ix.window + fieldAt 8 40 ix.locator,
    fieldAt 0 32 ix.generation, ix.stamp.toNat, fieldAt 0 32 ix.size]

/-- R501: the bytes of a body that the table gives. -/
def knownBytes (c : Core) : MBody → List Byte
  | .step _ _ kv mass .. => kv.flatten ++ mass.flatMap fun m => natLe 4 m.2.toNat
  | .chunk _ kv => (kv.map List.flatten).flatten
  | .turnStart _ t .. => stopsBytes t.stops
  | .opened e i => wordsBytes (entryWords c e 0) ++ (i.map fun i => pagesBytes i.cols).getD []
  | .parked _ ix => (ix.map indexBytes).getD []
  | .revived _ i => (i.map imageStream).getD []
  | .copy e i sheaf ix .. => wordsBytes (entryWords c e 0) ++ (i.map imageStream).getD [] ++ sheaf ++ (ix.map indexBytes).getD []
  | _ => []

/-- R501: the bytes of a mirror record. -/
def mirrorBytes (c : Core) (r : MirrorRec) : List Byte :=
  (mirrorHeader r).flatMap (fun w => natLe 8 w.toNat) ++ mirrorOpen r.body ++ bytesAt (knownBytes c r.body) 0 (mirrorKnown r.body)

/-- The bytes of a list of items from an offset, `n` at most; only items that they reach are formed. -/
def streamFrom {α : Type} (len : α → Nat) (bytes : α → List Byte) : List α → Nat → Nat → List Byte
  | [], _, _ => []
  | x :: xs, off, n =>
    if n = 0 then []
    else if len x ≤ off then streamFrom len bytes xs (off - len x) n
    else
      let part := (bytes x).drop off |>.take n
      part ++ streamFrom len bytes xs 0 (n - part.length)

/-- The next `n` bytes of the mirror class. -/
def mirrorStream (c : Core) (n : Nat) : List Byte :=
  streamFrom (·.bytes) (fun p => bytesAt ((mirrorBytes c p.out).drop p.first) 0 p.bytes) c.twin.mirror c.twin.mirrorSent n

/-- The next `n` bytes of the bulk class. -/
def bulkStream (c : Core) (n : Nat) : List Byte :=
  streamFrom bulkLen (fun b => match b with | .copy r => mirrorBytes c r | .answer _ bs => bs) c.twin.bulk c.twin.bulkSent n

/-- Items whose bytes have all been sent leave their queue: what is left, and the bytes of its first item sent. -/
def sentItems {α : Type} (len : α → Nat) : List α → Nat → List α × Nat
  | [], _ => ([], 0)
  | x :: xs, n => if len x ≤ n then sentItems len xs (n - len x) else (x :: xs, n)

/-! ### Sending (R488 to R490) -/

/-- R488: the bytes of a frame. -/
def wireFrame (f : TxFrame) : List Byte :=
  let body := natLe 4 f.seq ++ natLe 4 f.ack ++ natLe 1 (f.cls % 4 + 4 * b2n f.nak) ++ natLe 1 (f.creditCls % 4) ++ natLe 2 f.credits ++
    natLe 4 0 ++ bytesAt f.payload 0 framePayload
  body ++ natLe 4 (crc32c body).toNat ++ natLe 12 0

/-- R488, R491: what each data lane carries of a frame: byte k on lane k mod 32; at 16 lanes, k mod 16 (DESIGN CHOICE, log 107). -/
def laneBytes (half : Bool) (bs : List Byte) : List (List Byte) :=
  let n := if half then 16 else 32
  (List.range n).map fun l => (List.range (512 / n)).map fun i => nth bs (l + n * i) 0

/-- R488, R490: a frame of a class leaves with its payload, with what it acknowledges or asks for and the credits of one class; it is kept until it is acknowledged. An idle frame takes no credit. -/
def putFrame (t : Twin) (cls : Nat) (payload : List Byte) : Twin :=
  let back := (t.owed.head?).getD (0, 0)
  let n := min back.2 65535
  let f : TxFrame :=
    { seq := t.txSeq, cls := cls, ack := (t.rxNext + 2 ^ 32 - 1) % 2 ^ 32, nak := t.nak, creditCls := back.1, credits := n, payload := payload }
  { t with
    txSeq := (t.txSeq + 1) % 2 ^ 32, retry := t.retry ++ [f], nak := false
    owed := if back.2 ≤ n then t.owed.tail else mapSet t.owed back.1 (back.2 - n)
    credits := if cls < 3 then mapSet t.credits cls ((mapGet t.credits cls).getD 0 - 1) else t.credits }

/-- R490: frames of a class leave with the pieces of a stream. -/
def putFrames (cls : Nat) : Nat → List Byte → Twin → Twin
  | 0, _, t => t
  | n + 1, bs, t => putFrames cls n (bs.drop framePayload) (putFrame t cls (bytesAt bs 0 framePayload))

/-- R488: the lanes stand with the frame sent last. -/
def setWire (t : Twin) : Twin := { t with wire := ((t.retry.getLast?).map fun f => laneBytes t.half (wireFrame f)).getD t.wire }

/-- R488: the frame slots of a cycle that nothing fills carry idle frames, with what they acknowledge and the credits they return. -/
def putIdle (n : Nat) (t : Twin) : Twin := putFrames 3 n [] t

/-- The always-on supply is good, and the device has neither failed nor tripped nor, but for its GIVE_UP, is held. -/
def frameAlive (c : Core) : Bool := c.power.on && !c.power.failed && !c.power.tripped && (!c.power.held || c.twin.gaveUp)

/-- R488 to R501: one aon cycle's frames are sent. -/
def sendFrames (c : Core) : Core :=
  if !frameAlive c || !c.twin.linkUp then c
  else
    let (k, m, b, share) := framesToSend c
    let ms := mirrorStream c (m * framePayload)
    let bs := bulkStream c (b * framePayload)
    let q := sentItems (·.bytes) c.twin.mirror (c.twin.mirrorSent + m * framePayload)
    let r := sentItems bulkLen c.twin.bulk (c.twin.bulkSent + b * framePayload)
    let idle := frameRoom c - k - m - b
    modTwin c fun t =>
      let t := (t.ctl.take k).foldl (fun t x => putFrame t 0 (msgPayload x)) t
      let t := { t with ctl := t.ctl.drop k, mirror := q.1, mirrorSent := q.2, bulk := r.1, bulkSent := r.2, share := share }
      setWire (putIdle idle (putFrames 2 b bs (putFrames 1 m ms t)))

/-- R499: the owner asks for a further block when it holds fewer than 4,096 granted frames. -/
def askGrant (c : Core) (die : Bool) : Core :=
  if c.twin.linkUp && (c.twin.state == 2 || c.twin.state == 3) && !c.twin.unpairing && !c.twin.asked.get die && decide (grantLeft c die < 4096) then
    sendMsg (modTwin c fun t => { t with asked := t.asked.set die true }) (.grant die .asked)
  else c

/-! ## Lanes (R491) -/

/-- Failed lanes of 0 to 31. -/
def badData (t : Twin) : Nat := (t.badLanes.filter fun p => p.1 < 32).length

/-- R491: the lane carries data: a data lane, or a spare in use. -/
def laneCarries (t : Twin) (lane : Nat) : Bool := lane < 32 || lane - 32 < t.sparesUsed

/-- R491: a lane fails: a spare takes its place; the third failure leaves 16 lanes, and fewer than 16 good ones no link. -/
def laneFails (c : Core) (lane : Nat) (arriving : Bool) : Core :=
  if 34 ≤ lane || mapHas c.twin.badLanes lane || !c.twin.linkUp then c
  else
    let carried := laneCarries c.twin lane
    let c := modTwin c fun t => { t with badLanes := mapSet t.badLanes lane () }
    let n := c.twin.badLanes.length
    if n ≤ 2 then
      let c := modTwin c fun t => { t with sparesUsed := min 2 (badData t) }
      if carried then repairEvent c true 5 0 0 lane else c
    else if 34 - n < 16 then twinLinkDown c arriving
    else modTwin c fun t => { t with half := true }

/-- R491. -/
def execTwinLaneSpare (lane : Nat) (arriving : Bool) (s : State) : Host.Outcome State Fault Refusal :=
  onCore s fun c => if alive c then laneFails c lane arriving else c

/-- R491: the lanes whose eye check fails. -/
def execEyeCheck (bad : List Nat) (arriving : Bool) (s : State) : Host.Outcome State Fault Refusal :=
  onCore s fun c => if alive c then bad.foldl (fun c lane => laneFails c lane arriving) c else c

/-! ## Frame grants (R499) -/

/-- R499: frames of a block. -/
def grantBlock : Nat := 1024

/-- R499: grant traffic of a die; what this device grants or returns goes to the twin. -/
def frameGrant (c : Core) (die : Bool) (g : Grant) : Core :=
  match g with
  | .asked =>
    if floorOf c + grantBlock < freeOf c die then
      sendMsg (modTwin (reserveFree c die grantBlock) fun t => { t with lent := t.lent.mod die (· + grantBlock) }) (.grant die .received)
    else c
  | .returned =>
    if grantBlock ≤ c.twin.lent.get die then
      modTwin (returnFree c die grantBlock) fun t => { t with lent := t.lent.mod die (· - grantBlock) }
    else c
  | .received =>
    if grantLeft c die < 4096 then
      modTwin c fun t => { t with granted := t.granted.mod die (· + grantBlock), asked := t.asked.set die false }
    else c
  | .gaveBack =>
    if 16384 < grantLeft c die then
      sendMsg (modTwin c fun t => { t with granted := t.granted.mod die (· - grantBlock) }) (.grant die .returned)
    else c

/-- R499. -/
def execFrameGrant (die : Bool) (g : Grant) (s : State) : Host.Outcome State Fault Refusal :=
  whenReady s fun c => if c.twin.linkUp && (c.twin.state == 2 || c.twin.state == 3) then frameGrant c die g else c

end Sys2Proof.Machine
end

