-- ==== Sys2Proof/Machine/Twin.lean ====
section
/-! DEFINITION. Shadows, mirror records and takeover (18_twin R499 to R514). -/

namespace Sys2Proof.Machine

/-! ## Columns of a shadow -/

/-- The lowest slot that no unpooled column of a shadow has (R323). -/
def shadowSlot (cols : List ImageCol) : Nat :=
  lowestSlot (cols.map fun k => (k.col, ({ slot := k.slot, pooled := k.pooled } : Column)))

/-- A new column of a shadow, in column order. -/
def insertCol (cols : List ImageCol) (L j : Nat) : List ImageCol :=
  let k : ImageCol := ⟨j, shadowSlot cols, false, 0, 0, List.replicate L []⟩
  cols.takeWhile (·.col < j) ++ k :: cols.dropWhile (·.col < j)

/-- One position's bytes in each layer of a column. -/
def writeCol (off : Nat) (kv : List (List Byte)) (k : ImageCol) : ImageCol :=
  { k with pages := k.pages.zipIdx.map fun (pg, l) => cellsWrite pg off (nth kv l []) }

/-- R501: a position's KV joins a shadow's columns. -/
def writeShadow (img : List Byte) (p : Nat) (kv : List (List Byte)) (cols : List ImageCol) : List ImageCol :=
  let j := p / pageP img
  let cols := if cols.any (·.col == j) then cols else insertCol cols (miLayers img) j
  cols.map fun k => if k.col = j then writeCol (p % pageP img * kvBytes img) kv k else k

/-- R322: map pages of a shadow's columns. -/
def shadowMaps (cols : List ImageCol) : Nat := ((cols.filterMap fun k => mapPageOf k.col).eraseDups).length

/-- R338: scores at the end of a turn that is not cancelled. -/
def decayCols (k : Nat) (cols : List ImageCol) : List ImageCol :=
  cols.map fun x => { x with score := (decayScore k { slot := x.slot, score := x.score, mass := x.mass }).score }

/-- R501: `mass` of each valid column. -/
def putMass (mass : List (Nat × W32)) (cols : List ImageCol) : List ImageCol :=
  cols.map fun k => match mass.find? fun m => m.1 == k.col with
    | some m => { k with mass := m.2 }
    | none => k

/-- Positions that an APPEND wrote become a shadow's own (R274). -/
def mergeLane (img : List Byte) : List (List (List Byte)) → Nat → List ImageCol → List ImageCol
  | [], _, cols => cols
  | kv :: r, p, cols => mergeLane img r (p + 1) (writeShadow img p kv cols)

/-! ## Records that need no request (R501, R503) -/

/-- A session's entry as a shadow keeps it. -/
def shadowEntry (e : Entry) : Entry := { e with prefixHandle := 0, prefixAttached := false }

/-- R341: the entries of a shadow's evicted columns. -/
def clearedCols (evicted : List Nat) (sh : Shadow) : Map Column :=
  sh.cols.foldl (fun m k =>
    if evicted.contains k.col then mapSet m k.col { slot := k.slot, pooled := k.pooled, score := k.score, mass := k.mass } else m) sh.cleared

/-- R503: what a record makes of its session's shadow. -/
def applyBody (c : Core) (b : MBody) (sh : Shadow) : Shadow :=
  let img := imgOf c sh.entry.modelSlot
  match b with
  | .step ctl e kv mass turn ends =>
    { sh with entry := shadowEntry e, ctl := ctl, turn := turn, ends := ends
              cols := putMass mass (writeShadow img (e.nextPosition - 1) kv sh.cols)
              cleared := mapDel sh.cleared ((e.nextPosition - 1) / pageP img) }
  | .chunk _ kv => { sh with lane := sh.lane ++ kv }
  | .appendDone ctl e fin =>
    let cols := mergeLane img sh.lane sh.entry.nextPosition sh.cols
    { sh with entry := shadowEntry e, ctl := ctl, cols := cols, cleared := sh.cleared.filter (fun x => !cols.any (·.col == x.1))
              lane := [], fin := some fin }
  | .turnStart e turn evicted ctl =>
    let cols := sh.cols.filter fun k => !evicted.contains k.col
    { sh with entry := shadowEntry e, ctl := ctl, cols := cols, cleared := clearedCols evicted sh
              turn := some turn, mark := some (shadowEntry e, ctl, cols), ends := none }
  | .turnEnd e _ cancelled fin =>
    if cancelled then
      match sh.mark with
      | some m => { sh with entry := shadowEntry e, ctl := m.2.1, cols := m.2.2, turn := none, mark := none, ends := none, fin := some fin }
      | none => { sh with entry := shadowEntry e, turn := none, mark := none, ends := none, fin := some fin }
    else
      let k := (sh.turn.map (·.decay)).getD (regField c 0x500140 12 8)
      let cols := if 0 < e.step then decayCols k sh.cols else sh.cols
      { sh with entry := shadowEntry e, cols := cols, turn := none, mark := none, ends := none, fin := some fin }
  | .cancel => { sh with entry := { sh.entry with cancelPending := true } }
  | .done fin => { sh with lane := if fin.opcode = 0x13 then [] else sh.lane, fin := some fin }
  | _ => sh

/-- The shadow of a session. -/
def shadowOf (c : Core) (sid : Nat) : Option Shadow := mapGet c.twin.shadows sid

/-- Replaces a shadow. -/
def setShadow (c : Core) (sid : Nat) (sh : Shadow) : Core :=
  modTwin c fun t => { t with shadows := mapSet t.shadows sid { sh with mapCount := max sh.mapCount (shadowMaps sh.cols) } }

/-- Ids that are not FREE on the twin (R494). -/
def twinHas (c : Core) (sid : Nat) : Core :=
  modTwin c fun t => { t with hello := t.hello.map fun h => { h with ids := insertAsc sid h.ids } }
def twinLacks (c : Core) (sid : Nat) : Core :=
  modTwin c fun t => { t with hello := t.hello.map fun h => { h with ids := h.ids.filter (· != sid) } }

/-- R34, R386: the control frame of a session just opened. -/
def openedCtl (c : Core) (e : Entry) : Ctl :=
  match (if e.grammarBound then mapGet c.obj.grammars e.grammarId else none) with
  | some g => bindCtl {} g.image
  | none => {}

/-- R501: a session is opened on the twin; one restored as LOST has no shadow. -/
def applyOpened (c : Core) (sid : Nat) (e : Entry) (image : Option Image) : Core :=
  let c := twinHas c sid
  if e.state = .lost then c
  else match image with
    | some i => setShadow c sid { entry := shadowEntry e, ctl := i.ctl, cols := i.cols, cleared := i.cleared, mapCount := i.mapCount }
    | none => setShadow c sid { entry := shadowEntry e, ctl := openedCtl c e, bare := 0 < e.nextPosition }

/-! ## Packing and reviving shadows (R503) -/

/-- Carries out a part that may fail, with an answer for when it does. -/
def orElse {α : Type} (m : M α) (d : α) : M α := fun r =>
  match m r with
  | .ok x => .ok x
  | .error _ => .ok (d, r)

/-- R22: the warm state of an end reason. -/
def warmState (e : Entry) : SState := if e.endReason = 5 ∨ e.endReason = 6 then .waiting else .idle

/-- R395, R396: the sheaf of a shadow: the entry copy in its warm state. -/
def packShadow (c : Core) (sh : Shadow) (stamp : Nat) (lens : List Nat) (lease : Nat) : List Byte :=
  let img := imgOf c sh.entry.modelSlot
  let cols : Map Column := sh.cols.map fun k => (k.col, { slot := k.slot, pooled := k.pooled, score := k.score, mass := k.mass })
  let h : SheafHead :=
    { kvFmt := miKvFmt img, spanned := miSpanned img, layers := miLayers img, columns := cols.length, mapPages := sh.mapCount
      digest := modelDigest img, stamp := stamp, prefixHandle := 0, prefixCols := 0, prefixStamp := 0, lens := lens
      entry := { sh.entry with state := warmState sh.entry } }
  let other := ctlPage sh.ctl cols sh.cleared :: (List.range sh.mapCount).map (mapPage cols sh.cleared)
  let kv := sh.cols.flatMap fun k => k.pages.map pageBytes
  sheafBytes h (other.map packOther ++ kv.map (packKv h.kvFmt lens)) (other ++ kv) lease

/-- The lease word of a sheaf at a place. -/
def placeLease (c : Core) (p : SheafPlace) : Nat :=
  match p with
  | .pool _ _ => heldWord c 1
  | _ => 0

/-- R203, R503: this device places a sheaf for a shadow; none when no place is free. -/
def keepSheaf (home : Bool) (bytes : List Byte) (stamp : Nat) : M (Option SheafIx) :=
  orElse (do
    match ← findPlace home false 0 bytes.length with
    | none => return none
    | some p =>
      let lease := placeLease (← getC) p
      return some (← storeSheaf p (bytesAt (natLe 16 lease) 0 256 ++ bytes.drop 256) stamp)) none

/-- R402: the code table under which a shadow is packed. -/
def shadowCodes (sh : Shadow) : M (List Nat) := do
  let c ← getC
  let r := codesFor c sh.entry.modelSlot (miKvFmt (imgOf c sh.entry.modelSlot)) (sh.cols.flatMap fun k => k.pages.map pageBytes)
  putC r.2
  return r.1

/-- R503: the pack of a shadow whose session was parked; the warm state that the record leaves out is kept in the shadow. -/
def packParked (sh : Shadow) : M (Option SheafIx) := do
  let stamp ← drawM
  let lens ← shadowCodes sh
  keepSheaf sh.entry.homeDie (packShadow (← getC) sh stamp.toNat lens 0) stamp.toNat

/-- R501, R503: PARK: a pooled session leaves its index entry alone; another is packed here, or kept as pages. A session that the twin has restored from a checkpoint comes with no contents. -/
def applyParked (sid : Nat) (e : Entry) (ix : Option SheafIx) : M Unit := do
  let c ← getC
  let sh := (shadowOf c sid).getD { entry := e, bare := true }
  let e := shadowEntry e
  match ix with
  | some x => putC (setShadow (twinHas c sid) sid { entry := e, ctl := sh.ctl, ix := some x, fin := sh.fin })
  | none =>
    if sh.bare then putC (setShadow (twinHas c sid) sid { sh with entry := e })
    else
      match ← packParked { sh with entry := e } with
      | some x => modC fun c => setShadow c sid { entry := e, ctl := sh.ctl, ix := some x, fin := sh.fin }
      | none => modC fun c => setShadow c sid { sh with entry := e }

/-- The bytes of a sheaf that this device keeps. -/
def keptBytes (ix : SheafIx) : M (List Byte) := do
  let c ← getC
  if ix.place = 1 then return barnBytes c ix
  else if ix.place = 3 then readBus 0 (spillAddr c ix.locator) (256 * ix.size)
  else winRead ix.window (sheafOff c ix) (256 * ix.size)

/-- The columns of a sheaf as read. -/
def sheafCols (sh : SheafRead) : List ImageCol :=
  sh.cols.map fun (j, col, pgs) => ⟨j, col.slot, col.pooled, col.score, col.mass, pgs.map (cellsWrite [] 0)⟩

/-- R501, R503: REVIVE: a pooled sheaf's pages come with the record; another is revived from this device's own copy. -/
def applyRevived (sid : Nat) (die : Bool) (image : Option Image) : M Unit := do
  let c ← getC
  match shadowOf c sid with
  | none => return ()
  | some sh =>
    match image with
    | some i =>
      let e : Entry := { shadowEntry i.entry with homeDie := die }
      putC (setShadow c sid { entry := e, ctl := i.ctl, cols := i.cols, cleared := i.cleared, mapCount := i.mapCount, fin := sh.fin })
    | none => match sh.ix with
      | none => putC (setShadow c sid { sh with entry := { sh.entry with state := warmState sh.entry, homeDie := die, imagePlace := 0 } })
      | some ix =>
        let bs ← orElse (keptBytes ix) []
        modC fun c => freeShadowSheaf c sh
        match readSheaf bs with
        | none => modC fun c => setShadow c sid { sh with ix := none }
        | some r =>
          let h := r.head.entry
          let e : Entry := { shadowEntry h with account := sh.entry.account, homeDie := die, imagePlace := 0 }
          modC fun c => setShadow c sid
            { entry := e, ctl := readCtl r.ctlBytes, cols := sheafCols r, cleared := r.cleared, mapCount := r.head.mapPages, fin := sh.fin }

/-! ## Copies of own sessions (R495) -/

/-- R495, R501: the columns that the mark of a turn in progress holds. -/
def markCols (c : Core) (e : Entry) (w : Warm) (m : Mark) : List ImageCol :=
  let cols := w.columns.filter fun p => p.1 * pageP (imgOf c e.modelSlot) < m.nextPosition
  let cols := match m.openColumn with
    | some (j, ls) => mapMod cols j fun k => { k with leaves := ls }
    | none => cols
  imageCols c e { w with columns := cols }

/-- R495: a warm session's copy: its contents, and of a turn in progress its fields and mark. -/
def warmCopy (c : Core) (sid : Nat) (e : Entry) (w : Warm) : MBody :=
  .copy e (imageOf c sid) [] none w.turn
    (w.mark.map fun m => ({ e with nextPosition := m.nextPosition, resident := m.resident, privateFrames := m.privateFrames
                                   startWaiting := m.startWaiting }, m.ctl, markCols c e w m))

/-- The key-value bytes of position `p` in each layer of some columns. -/
def positionKv (c : Core) (img : List Byte) (cols : Map Column) (p : Nat) : List (List Byte) :=
  let leaves := ((mapGet cols (p / pageP img)).map (·.leaves)).getD []
  leaves.map fun l => cellsRead (frameBytes c l.frame) (p % pageP img * kvBytes img) (kvBytes img)

/-- R495, R501: chunks that a running APPEND has committed before the copy follow it as one CHUNK record (DESIGN CHOICE, log 146). -/
def laneChunks (c : Core) (e : Entry) (w : Warm) : Option MBody :=
  w.lane.bind fun ln =>
    if ln.done = 0 then none
    else some (.chunk e.nextPosition ((List.range ln.done).map fun i =>
      positionKv c (imgOf c e.modelSlot) ln.cols (e.nextPosition + i)))

/-- R495: the copy of the next session goes to the twin; its commits are mirrored from then on. -/
def syncSession (sid : Nat) : M Unit := do
  let c ← getC
  let e := entryOf c sid
  let body ← (match mapGet c.sess.warm sid, mapGet c.mem.index sid with
    | some w, _ => pure (warmCopy c sid e w)
    | none, some ix =>
      if ix.place = 2 then pure (.copy e none [] (some ix) none none)
      else do return .copy e none (← orElse (keptBytes ix) []) none none none
    | none, none => pure (.copy e none [] none none none) : M MBody)
  let r := mirrorRec c sid body
  modC fun c => modTwin c fun t => { t with toSend := (stillToSend c).tail, copies := t.copies ++ [r], bulk := t.bulk ++ [.copy r] }
  match (mapGet c.sess.warm sid).bind (laneChunks c e) with
  | some b => modC fun c => mirror c sid b
  | none => return ()

/-- R495: the next session may be sent: the copy before it has gone, and it has no row in a step. -/
def maySync (c : Core) (sid : Nat) : Bool :=
  ready c && c.twin.linkUp && c.twin.state == 2 && !c.twin.unpairing && (stillToSend c).head? == some sid && !copying c (fun _ => true) &&
    !(c.sched.d0.placed ++ c.sched.d1.placed).any fun r => r.session == sid

/-- R495. -/
def execSessionSync (session : Nat) (env : Env) (s : State) : Host.Outcome State Fault Refusal :=
  .next (if maySync s.core session then eventRun s env (syncSession session) else s)

/-! ## Records that need the place of a sheaf -/

/-- R501: CLOSE: the shadow goes; the session is LOST on the twin, or FREE there. -/
def applyClosed (sid cause : Nat) : M Unit := do
  modC fun c =>
    let c := match shadowOf c sid with
      | some sh => freeShadowSheaf c sh
      | none => c
    let c := modTwin c fun t => { t with shadows := mapDel t.shadows sid, toRecv := t.toRecv.filter (· != sid) }
    if cause = 0 then twinLacks c sid else twinHas c sid

/-- R495: a session's copy arrives; the sheaf of a PARKED one is kept under this device's own chain. -/
def applyCopy (sid : Nat) (e : Entry) (image : Option Image) (sheaf : List Byte) (ix : Option SheafIx) (turn : Option Turn)
    (mark : Option (Entry × Ctl × List ImageCol)) : M Unit := do
  let base : Shadow := { entry := shadowEntry e, turn := turn, mark := mark }
  let sh ← (match image with
    | some i => pure { base with ctl := i.ctl, cols := i.cols, cleared := i.cleared, mapCount := i.mapCount }
    | none =>
      if ix.isSome || sheaf.isEmpty then pure { base with ix := ix }
      else do
        let kept ← keepSheaf e.homeDie sheaf (readHead sheaf).stamp
        match kept, readSheaf sheaf with
        | some x, _ => return { base with ix := some x }
        | none, some r => return { base with ctl := readCtl r.ctlBytes, cols := sheafCols r, cleared := r.cleared, mapCount := r.head.mapPages }
        | none, none => return base : M Shadow)
  modC fun c => modTwin (setShadow (twinHas c sid) sid sh) fun t => { t with toRecv := t.toRecv.filter (· != sid) }

/-- R495, R501, R503: a record of the twin's, or a session's copy, is applied. -/
def applyRecord (r : MirrorRec) : M Unit :=
  match r.body with
  | .copy e image sheaf ix turn mark => applyCopy r.session e image sheaf ix turn mark
  | .opened e image => modC fun c => applyOpened c r.session e image
  | .closed cause => applyClosed r.session cause
  | .parked e ix => applyParked r.session e ix
  | .revived die image => applyRevived r.session die image
  | b => modC fun c => match shadowOf c r.session with
    | some sh => setShadow c r.session (applyBody c b sh)
    | none => c

/-- R503, R563: a record wakes the die of its shadow. -/
def execMirrorRecordApply (r : MirrorRec) (env : Env) (s : State) : Host.Outcome State Fault Refusal :=
  .next (
    if alive s.core && (s.core.twin.state == 2 || s.core.twin.state == 3) then
      eventRun { s with core := wakeBy s.core (.frame ((shadowOf s.core r.session).map (·.entry.homeDie))) } env (applyRecord r)
    else s)

/-! ## Requests of the twin (R504) -/

/-- R504: what answers a request: the control frame, map pages and columns of a shadow, its sheaf, the tiles of an unsealed slot. -/
def twinAnswer (r : TwinReq) : M (Option (List Byte)) := do
  let c ← getC
  match r with
  | .pages sid =>
    return (shadowOf c sid).map fun sh =>
      imageStream ({ entry := sh.entry, ctl := sh.ctl, mapCount := sh.mapCount, cols := sh.cols, cleared := sh.cleared } : Image)
  | .tiles slot =>
    return (loadedModel c slot).bind fun m =>
      if miSealed m.image then none else some (m.image.drop (64 + 48 * miSections m.image))
  | .sheaf sid =>
    match shadowOf c sid with
    | none => return none
    | some sh => match sh.ix with
      | some ix => if sh.entry.state = .parked then orElse (do return some (← keptBytes ix)) none else return none
      | none =>
        if sh.bare then return none
        let stamp ← drawM
        let lens ← shadowCodes sh
        return some (packShadow (← getC) sh stamp.toNat lens 0)

/-- R504: a request of the twin is answered. -/
def answerTwin (r : TwinReq) : M Unit := do
  match ← twinAnswer r with
  | some bs => modC fun c => modTwin c fun t => { t with answers := t.answers ++ [(r, bs)], bulk := t.bulk ++ [.answer r bs] }
  | none => return ()

/-- R504. -/
def execTwinRequest (r : TwinReq) (env : Env) (s : State) : Host.Outcome State Fault Refusal :=
  .next (if ready s.core && s.core.twin.linkUp && paired s.core then eventRun s env (answerTwin r) else s)

/-! ## Promotion (R507, R508) -/

/-- Frames with the contents of a shadow column's pages. -/
def shadowLayers (img : List Byte) (home : Bool) (cols : Map Column) (j : Nat) : List (Nat × Cells) → Range → Except Block (List Leaf × Range)
  | [], x => .ok ([], x)
  | (l, pg) :: ps, x =>
    let die := layerDie img home l
    match takeFrame x false die (columnPair x.core cols die j l) pg with
    | .error b => .error b
    | .ok (f, y) => match shadowLayers img home cols j ps y with
      | .error b => .error b
      | .ok (ls, z) => .ok (({ frame := f, kv := true } : Leaf) :: ls, z)

/-- A column of a shadow comes into a session range; a pooled one takes the lowest free slot. -/
def shadowColumn (img : List Byte) (home : Bool) (all : List ImageCol) (k : ImageCol) (x : Range) : Except Block Range :=
  let used : Map Column := all.map fun q => (q.col, { slot := q.slot, pooled := q.pooled })
  let slot := if k.pooled then lowestSlot (x.warm.columns.foldl (fun m p => mapSet m p.1 p.2) used) else k.slot
  let pages := (List.range (miLayers img)).map (kvPageNo (miLayers img) slot) ++ (mapPageOf k.col).toList.map mapPageNo
  match mapPagesIn home false pages x with
  | .error b => .error b
  | .ok x => match takeMapPage home false k.col x with
    | .error b => .error b
    | .ok x => match shadowLayers img home x.warm.columns k.col ((List.range k.pages.length).zip k.pages) x with
      | .error b => .error b
      | .ok (ls, x) =>
        let col : Column := { slot := slot, score := k.score, mass := k.mass, leaves := ls }
        .ok ⟨x.core, { x.warm with columns := mapSet x.warm.columns k.col col }⟩

/-- The columns of a shadow, in order. -/
def shadowColumns (img : List Byte) (home : Bool) (all : List ImageCol) : List ImageCol → Range → Except Block Range
  | [], x => .ok x
  | k :: ks, x => match shadowColumn img home all k x with
    | .error b => .error b
    | .ok x => shadowColumns img home all ks x

/-- R38: the leaf entries of the open column for a mark: shared with the session's own while the page has not changed, else in frames of their own. -/
def markPages (img : List Byte) (home : Bool) (j : Nat) : List (Nat × Cells) → Range → Except Block (List Leaf × Range)
  | [], x => .ok ([], x)
  | (l, pg) :: ps, x =>
    let die := layerDie img home l
    let own := (mapGet x.warm.columns j).bind fun col => col.leaves[l]?
    let one : Except Block (Leaf × Range) :=
      match own with
      | some k =>
        if frameBytes x.core k.frame = pg then
          let cols := mapMod x.warm.columns j fun col => { col with leaves := col.leaves.set l { k with cow := true } }
          .ok ({ k with cow := true }, ⟨addRef x.core k.frame, { x.warm with columns := cols }⟩)
        else match takeFrame x false die (columnPair x.core x.warm.columns die j l) pg with
          | .error b => .error b
          | .ok (f, y) => .ok ({ frame := f, kv := true }, y)
      | none => match takeFrame x false die (columnPair x.core x.warm.columns die j l) pg with
        | .error b => .error b
        | .ok (f, y) => .ok ({ frame := f, kv := true }, y)
    match one with
    | .error b => .error b
    | .ok (k, x) => match markPages img home j ps x with
      | .error b => .error b
      | .ok (ks, x) => .ok (k :: ks, x)

/-- R38, R507: the turn mark of a taken-over turn; `m` the range as it stood with the mark's columns alone. -/
def shadowMark (img : List Byte) (home : Bool) (mk : Entry × Ctl × List ImageCol) (m x : Range) : Except Block Range :=
  let j := mk.1.nextPosition / pageP img
  let base : Mark :=
    { nextPosition := mk.1.nextPosition, resident := mk.1.resident, ctl := mk.2.1, startWaiting := mk.1.startWaiting
      openColumn := none, privateFrames := mk.1.privateFrames, tables := m.warm.tables.length, leafTabs := m.warm.leafTabs
      mapPages := m.warm.mapPages.map (·.1) }
  match mk.2.2.find? fun k => k.col == j && mk.1.nextPosition % pageP img != 0 with
  | none => .ok ⟨x.core, { x.warm with mark := some base }⟩
  | some k => match markPages img home j ((List.range k.pages.length).zip k.pages) x with
    | .error b => .error b
    | .ok (ls, x) => .ok ⟨x.core, { x.warm with mark := some { base with openColumn := some (j, ls) } }⟩

/-- R152, R507: the range of a warm shadow: first the columns that its mark has, then the others. -/
def shadowRange (c : Core) (img : List Byte) (home : Bool) (sh : Shadow) : Except Block Range :=
  if freeOf c home < 3 then .error .noSpace
  else
    let old := ((sh.mark.map (·.2.2)).getD []).map (·.col)
    let first := sh.cols.filter fun k => old.contains k.col
    let rest := sh.cols.filter fun k => !old.contains k.col
    match shadowColumns img home sh.cols first (freshRange c home) with
    | .error b => .error b
    | .ok m => match shadowColumns img home sh.cols rest m with
      | .error b => .error b
      | .ok x => match sh.mark with
        | none => .ok x
        | some mk => shadowMark img home mk m x

/-- R43: the frames that the rest of a taken-over turn may need. -/
def turnRest (img : List Byte) (e : Entry) (t : Turn) (x : Range) : Except Block Range :=
  let n := fun die => turnNeed img x.warm e.homeDie die e.nextPosition (t.maxTokens - e.step)
  if freeOf x.core false < n false ∨ freeOf x.core true < n true then .error .noSpace
  else .ok ⟨reserveFree (reserveFree x.core false (n false)) true (n true), { x.warm with room0 := n false, room1 := n true }⟩

/-- R507: a turn in progress goes on under its fields, its session QUEUED. -/
def resumeTurn (c : Core) (sid : Nat) (e : Entry) (t : Turn) : Core :=
  let c := { c with sess := { c.sess with inProg := mapSet c.sess.inProg sid t.desc } }
  waking (modEntry c sid fun x => { x with state := .queued }) e.homeDie fun c => joinDecode c e.homeDie e.account sid

/-- R313, R507, R508: a turn whose last step record holds an end reason has ended with it; one whose bound grammar is not loaded here ends at its last mirrored step. -/
def endTaken (c : Core) (sid : Nat) (sh : Shadow) : Core :=
  match sh.ends with
  | some r => stopTurn c sid r (if r = 8 then .dataError else .ok)
  | none => if grammarMissing c (entryOf c sid) sh.ctl then stopTurn c sid 8 .unknownHandle else c

/-- R507, R508: a warm shadow becomes a session; none when its frames are short. -/
def promoteWarm (c : Core) (sid : Nat) (sh : Shadow) (st : SState) : Option Core :=
  let e := sh.entry
  let img := imgOf c e.modelSlot
  let built : Except Block Range := match shadowRange c img e.homeDie sh with
    | .error b => .error b
    | .ok x => match sh.turn with
      | some t => turnRest img e t x
      | none => .ok x
  match built with
  | .error _ => none
  | .ok x =>
    let turn := sh.turn.map fun t => { t with replayed := true }
    let w : Warm := { x.warm with ctl := sh.ctl, cleared := sh.cleared, turn := turn }
    let c := setEntry x.core sid { e with state := st, imagePlace := 0, rootFrame := nth w.tables 0 0 }
    let c := storeRange ⟨c, w⟩ sid
    some (match turn with
      | some t => endTaken (resumeTurn c sid e t) sid sh
      | none => c)

/-- R507: a packed shadow becomes a session with an index entry; none when the index's frames are short. -/
def promotePacked (c : Core) (sid : Nat) (sh : Shadow) (ix : SheafIx) : Option Core :=
  if freeOf c (dirDie sid) < indexNeed c sid then none
  else
    let c := setIndex c sid ix
    let st : SState := if ix.place = 2 then .pooled else .parked
    let c := setEntry c sid { sh.entry with state := st, imagePlace := ix.place, rootFrame := 0 }
    some (if sh.entry.state = .pooled then modTwin c fun t => { t with leases := mapSet t.leases sid t.twinNo } else c)

/-- R507: a shadow becomes a session of this device's own; what cannot be kept is LOST (R25). Whether it was taken over. -/
def promote (c : Core) (sid : Nat) (sh : Shadow) : Core × Bool :=
  let e := sh.entry
  let made : Option Core := match sh.ix with
    | some ix => promotePacked c sid sh ix
    | none =>
      if isWarm e.state then promoteWarm c sid sh (if sh.turn.isSome then .queued else if e.state = .waiting then .waiting else .idle)
      else if e.state = .parked && !sh.bare then promoteWarm c sid sh (warmState e)
      else none
  match made with
  | some c => (c, true)
  | none => (loseSession (setEntry c sid { e with state := .lost, rootFrame := 0 }) sid 1 .lost 0 false, false)

/-- R510: the completion that the shadow of a session not in a turn kept. -/
def keptCompletion (c : Core) (sid : Nat) (sh : Shadow) : Core :=
  match sh.turn, sh.fin with
  | none, some f => replayCompletion c sid f
  | _, _ => c

/-- R511. -/
def execTakeoverRingHold (s : State) : Host.Outcome State Fault Refusal := whenReady s ringHold

/-- R507: the shadows are promoted in ascending session id. -/
def promoteAll (shadows : Map Shadow) (c : Core) : Core × Nat :=
  shadows.foldl (fun a p => let r := promote a.1 p.1 p.2; (r.1, a.2 + b2n r.2)) (c, 0)

/-- R462, R463, R507 to R511: the takeover. -/
def takeover (c : Core) : Core :=
  let sh := c.twin.shadows
  let l := c.twin.lent
  let c := returnFree (returnFree c false l.d0) true l.d1
  let c := modTwin c fun t =>
    { freshLink t false with
      state := 4, taking := false, taken := true, takeovers := satAdd 16 t.takeovers 1, shadows := [], lent := ⟨0, 0⟩
      granted := ⟨0, 0⟩, mirror := [], mirrorSent := 0, entered := [], hello := none, toSend := [], toRecv := [], recvDone := false, requests := [] }
  let r := promoteAll sh c
  let c := sh.foldl (fun c p => keptCompletion c p.1 p.2) r.1
  let c := twinEvent c 4 r.2
  ringHold (capacityEvent (capacityEvent c false 4 32768 0) true 4 32768 0)

/-- R507. -/
def execTakeover (s : State) : Host.Outcome State Fault Refusal :=
  onCore s fun c => if alive c && c.twin.taking then takeover c else c

/-- R507: the lease of a taken-over pooled session is swapped in the background. -/
def execTakeoverLeaseSwap (session : Nat) (env : Env) (s : State) : Host.Outcome State Fault Refusal :=
  .next (
    if !serving s.core || !mapHas s.core.twin.leases session then s
    else match (takeoverLease session) { runOf s s.core (env ++ noAnswers) with sid := session } with
      | .ok (_, r) => { s with core := r.core }
      | .error (.fail _ _ _ c) => { s with core := c }
      | .error (.wait ..) => s)

end Sys2Proof.Machine
end

