-- ==== Sys2Proof/Machine/Clock.lean ====
section
/-! DEFINITION. What passes with time alone: one aon cycle. -/

namespace Sys2Proof.Machine

/-- R557, R103, R501: with no command waiting, one aon cycle passes while the always-on supply is good: the counter counts, a down link counts its down time, the cycle's frames leave on the twin link, records enter the mirror queue as room comes, an unpairing goes on, blocks of frames are asked for, and on each die a waiting region's clusters start where R561 lets them, and what waits in the root of trust goes on (R542). -/
def tick (s : State) : State :=
  if s.core.power.on then
    let link := if s.core.link.up then s.core.link
      else { s.core.link with downTime := satAdd 32 s.core.link.downTime 1 }
    let c := { s.core with aon := s.core.aon + 1, link := link }
    let c := if c.twin.bulk.isEmpty then sendFrames c else wakingBoth c sendFrames
    let c := if alive c then askGrant (askGrant (releaseLate (finishUnpair c)) false) true else c
    trustTick { s with core := startWaiting (startWaiting c false) true }
  else s

end Sys2Proof.Machine
end

