-- ==== Sys2Proof/Machine/HostLink.lean ====
section
/-! DEFINITION. The host link (03_host_link R98 to R105, R583, R584): loss, return, retrain, the hold, and the IDE streams. -/

namespace Sys2Proof.Machine

/-- Changes the link's state. -/
def modLink (c : Core) (f : Link → Link) : Core := { c with link := f c.link }

/-- R142: a LINK event record: speed and width of a link that is up, cause, IDE slot, arg1. -/
def linkEvent (c : Core) (cause slot arg1 : Nat) : Core :=
  let sw := if c.link.up then fieldAt 0 8 c.link.speed + fieldAt 8 5 c.link.width else 0
  issueEvent c 4 false 0 0 (sw + fieldAt 16 8 cause + fieldAt 24 4 slot) arg1

/-! ## Loss and return (R103 to R105, R598) -/

/-- R598: requests sent before the link went down get no completion. -/
def loseRequests (c : Core) : Core :=
  { c with sess := { c.sess with waiting := c.sess.waiting.map fun w => if 0 < w.tags then { w with lost := true } else w } }

/-- R103: the data link goes down. -/
def linkDown (c : Core) : Core :=
  let c := loseRequests (modLink c fun l => { l with up := false, downTime := 0 })
  if ready c then linkEvent (requeue (requeue c false) true) 2 0 0 else c

/-- R103. -/
def execLinkDown (s : State) : Host.Outcome State Fault Refusal :=
  onCore s fun c => if c.power.on && c.link.up then linkDown c else c

/-- What the link or stream 0 held goes out: waiting requests in order (R598), and messages (R96). -/
def releaseHost (c : Core) : Core := msixRelease (sendWaiting c)

/-- R104, R570: the link comes back: held records and fetching go on; a device that waited only for its link becomes ready. -/
def linkReturn (c : Core) (speed width : Nat) (flit : Bool) : Core :=
  let c' := wakingBoth c fun c => releaseHost (linkUp c speed width flit)
  if ready c' then linkEvent c' 3 0 c.link.downTime else tryReady c'

/-- R102: every lane of a link of so many lanes, from lane 0, is good. -/
def lanesGood (bad width : Nat) : Bool := bad % 2 ^ width == 0

/-- R80, R102: the widest link that the good lanes support, starting from lane 0; 0 when lane 0 has failed. -/
def goodWidth (bad : Nat) : Nat := ([16, 8, 4, 2, 1].find? fun w => lanesGood bad w).getD 0

/-- R104. -/
def execLinkReturn (speed width : Nat) (flit : Bool) (s : State) : Host.Outcome State Fault Refusal :=
  onCore s fun c =>
    if supplied c && !c.power.perst && !c.power.failed && !c.power.tripped && !c.link.up && trains speed width flit &&
        lanesGood c.link.badLanes width then
      linkReturn c speed width flit
    else c

/-- R105: the hold has run out: a severity 3 entry, GIVE_UP of a paired device, and the device is held until reset. -/
def holdOut (c : Core) : Core :=
  holdDevice (modLink (logErr c { kind := 0x10, severity := 3, wh := { level := 4 } }) fun l => { l with holdOut := true })

/-- HIF_LINK_HOLD.HOLD. -/
def linkHold (c : Core) : Nat := regField c 0x20 31 0

/-- R105: the down time reaches HIF_LINK_HOLD, unless that is 0. -/
def linkHoldExpiry (c : Core) : Core :=
  if !ready c || c.link.up || linkHold c = 0 || c.link.holdOut then c
  else holdOut (modLink c fun l => { l with downTime := max l.downTime (linkHold c) })

/-- R105. -/
def execLinkHoldExpiry (s : State) : Host.Outcome State Fault Refusal := onCore s linkHoldExpiry

/-- R584: a write of HOLD while the link is down counts the down time already passed. -/
def holdWritten (c : Core) (off : Nat) : Core :=
  if off = 0 && ready c && !c.link.up && linkHold c ≠ 0 && linkHold c ≤ c.link.downTime then linkHoldExpiry c else c

/-- R584, R579: a write of HIF_LINK_HOLD. -/
def linkHoldWrite (c : Core) (off size value : Nat) : Core := holdWritten (plainWrite c (0x20 + off) size value) off

/-- R584. -/
def execLinkHoldWrite (off size : Nat) (value : Word) (s : State) : Host.Outcome State Fault Refusal :=
  onCore s fun c => if off < 8 then bar0Write c (0x20 + off) size fun c => linkHoldWrite c off size value.toNat else c

/-! ## Retrain (R102) -/

/-- R102: the link retrains on the lanes that are left: the widest width they support from lane 0, no wider and no faster than it was. With lane 0 gone no width is left, and the link goes down (DESIGN CHOICE, log 130). -/
def laneRetrain (c : Core) (lane speed : Nat) : Core :=
  let c := modLink c fun l => { l with badLanes := l.badLanes ||| 2 ^ lane }
  let width := min c.link.width (goodWidth c.link.badLanes)
  if width = 0 then linkDown c
  else
    let less := speed < c.link.speed || width < c.link.width
    let c := modLink c fun l => { l with speed := speed, width := width }
    let c := if less then regPut c 0x18 14 14 1 else c
    if ready c then linkEvent c 1 0 0 else c

/-- R102. -/
def execLinkLaneRetrain (lane speed : Nat) (s : State) : Host.Outcome State Fault Refusal :=
  onCore s fun c =>
    if c.power.on && c.link.up && lane < 16 && speed ≤ c.link.speed && trains speed c.link.width c.link.flit then laneRetrain c lane speed
    else c

/-! ## IDE (R97 to R100, R583) -/

/-- R583: a write of HIF_IDE_REQUIRE; R98 reads it at the next request, and traffic that it no longer holds goes on. -/
def ideRequireWrite (c : Core) (off size value : Nat) : Core := releaseHost (plainWrite c (0x10 + off) size value)

/-- R583. -/
def execIdeRequireWrite (off size : Nat) (value : Word) (s : State) : Host.Outcome State Fault Refusal :=
  onCore s fun c => if off < 8 then bar0Write c (0x10 + off) size fun c => ideRequireWrite c off size value.toNat else c

/-- R544: the id of the key of a slot, direction (0 receive, 1 transmit) and key set. -/
def ideKeyId (slot dir keys : Nat) : Nat := slot + 16 * dir + 32 * keys

/-- A direction of a slot holds the key of a key set. -/
def hasIdeKey (r : Rot) (slot dir keys : Nat) : Bool := mapHas r.ideKeys (ideKeyId slot dir keys)

/-- The key set that a direction starts with: the lower one it holds a key of. -/
def firstKeySet (r : Rot) (slot dir : Nat) : Option Nat :=
  if hasIdeKey r slot dir 0 then some 0 else if hasIdeKey r slot dir 1 then some 1 else none

/-- Sets or clears bit `w` of a 16-bit mask. -/
def maskPut (m w : Nat) (on : Bool) : Nat := putBits m w w (b2n on)

/-- R99: the host has set a stream up with a key for each direction: it is Secure, and what was held for it goes on. -/
def streamSecure (c : Core) (r : Rot) (slot : Nat) : Core :=
  match firstKeySet r slot 0, firstKeySet r slot 1 with
  | some a, some b =>
    releaseHost (modLink c fun l =>
      let keys := mapSet (mapSet l.keySet (2 * slot) a) (2 * slot + 1) b
      { l with secure := maskPut l.secure slot true, insecure := maskPut l.insecure slot false, keySet := keys })
  | _, _ => c

/-- The host port and its IDE engines serve. -/
def portUp (c : Core) : Bool := c.power.on && !c.power.failed && !c.power.tripped && c.link.up

/-- R99. -/
def execIdeStreamSecure (slot : Nat) (s : State) : Host.Outcome State Fault Refusal :=
  onCore s fun c => if portUp c && slot < 16 && !bit c.link.secure slot then streamSecure c s.rot slot else c

/-- R100: a direction of a Secure stream goes over to its other key set. -/
def keySetSwitch (c : Core) (r : Rot) (slot dir : Nat) : Core :=
  let now := (mapGet c.link.keySet (2 * slot + dir)).getD 0
  if bit c.link.secure slot && hasIdeKey r slot dir (1 - now) then
    modLink c fun l => { l with keySet := mapSet l.keySet (2 * slot + dir) (1 - now) }
  else c

/-- R100. -/
def execIdeKeySetSwitch (slot : Nat) (direction : Bool) (s : State) : Host.Outcome State Fault Refusal :=
  onCore s fun c => if alive c && slot < 16 then keySetSwitch c s.rot slot (b2n direction) else c

/-- R99: an integrity failure moves a Secure stream to Insecure; it is logged and told. -/
def streamFails (c : Core) (slot : Nat) : Core :=
  let c := modLink c fun l => { l with secure := maskPut l.secure slot false, insecure := maskPut l.insecure slot true }
  linkEvent (logErr c { kind := 0x0D, severity := 1 }) 4 slot 0

end Sys2Proof.Machine
end

