-- ==== Sys2Proof/Machine/Ckpt.lean ====
section
/-! DEFINITION. Checkpoints (19_checkpoint R516 to R529): classes and triggers, the cut, hasps, the writing of an epoch and its end. -/

namespace Sys2Proof.Machine

/-- Replaces the running epoch. -/
def setEpoch (c : Core) (ep : Option Epoch) : Core := { c with ckpt := { c.ckpt with running := ep } }

/-- A RESTORE is being carried out. -/
def restoring (c : Core) : Bool := c.sess.waiting.any fun w => w.desc.opcode == 0x82

/-- An epoch or a RESTORE is running (CKP_STAT.BUSY). -/
def ckptBusy (c : Core) : Bool := c.ckpt.running.isSome || restoring c

/-! ## Triggers (R516 to R518) -/

/-- R518: an epoch of a class starts under the next number and the class's next sequence. -/
def startEpoch (c : Core) (cls : Nat) (d : Option Desc) : Core :=
  match mapGet c.ckpt.classes cls with
  | none => c
  | some k =>
    let n := c.ckpt.next.getD (regGet c 0x710000)
    { c with ckpt := { c.ckpt with
      running := some { cls := cls, number := n, seq := k.seq, desc := d }
      next := some (n % (2 ^ 64 - 1) + 1)
      classes := mapSet c.ckpt.classes cls { k with seq := k.seq + 1 } } }

/-- R517: a trigger of a class fires: an epoch starts, or one start stays pending. -/
def trigger (c : Core) (cls : Nat) : Core :=
  if !mapHas c.ckpt.classes cls then c
  else if ckptBusy c then { c with ckpt := { c.ckpt with pending := mapSet c.ckpt.pending cls () } }
  else startEpoch c cls none

/-- R516, R563: the timer of an enabled class runs out. -/
def execCkptTimerExpiry (cls : Nat) (s : State) : Host.Outcome State Fault Refusal :=
  onCore s fun c =>
    match mapGet c.ckpt.classes cls with
    | some k => if serving c && k.enable && k.timerEn then trigger (wakeBy c .writers) cls else c
    | none => c

/-- R516: the step count of an enabled class is reached. -/
def execCkptStepTrigger (cls : Nat) (s : State) : Host.Outcome State Fault Refusal :=
  onCore s fun c =>
    match mapGet c.ckpt.classes cls with
    | some k =>
      if serving c && k.enable && 0 < k.steps && k.steps ≤ k.since then trigger c cls else c
    | none => c

/-- R517: a class below another has a start waiting, pending or held. -/
def earlierStart (c : Core) (cls : Nat) : Bool :=
  c.ckpt.pending.any (fun p => p.1 < cls) || c.sess.waiting.any fun w => w.desc.opcode == 0x80 && w.desc.field 2 2 0 0 < cls

/-- R517: the lowest pending class starts once no epoch runs. -/
def ckptPendingStart (c : Core) : Core :=
  match c.ckpt.pending with
  | [] => c
  | (cls, _) :: rest =>
    if !serving c || ckptBusy c || earlierStart c cls then c
    else startEpoch { c with ckpt := { c.ckpt with pending := rest } } cls none

/-- R517. -/
def execCkptPendingStart (s : State) : Host.Outcome State Fault Refusal := onCore s ckptPendingStart

/-- R517, R519: CKPT_START; it is held while an epoch runs, and completes when its own ends. -/
def ckptStartBody (d : Desc) : M Done := do
  check (d.session != 0) .invalidField
  let cls := d.field 2 2 0 0
  let c ← getC
  check (!mapHas c.ckpt.classes cls) .unknownHandle
  if ckptBusy c || earlierStart c cls then waitInside
  putC (startEpoch c cls (some d))
  return .running

/-- R517. -/
def execCkptStart (d : Desc) (s : State) : Host.Outcome State Fault Refusal :=
  .next (acceptSeq s d [] (ckptStartBody d))

/-! ## CKPT_CLASS_SET (R519, R520) -/

/-- R519: the class that a CKPT_CLASS_SET describes. -/
def classOf0 (d : Desc) : CkClass :=
  let f := fun hi lo => d.field 2 hi lo 0
  { enable := f 3 3 == 1, dest := f 4 4 == 1, window := f 8 5, scope := f 16 9, timerEn := f 17 17 == 1, keep := f 20 18
    base := d.field 3 63 0 0, areaSize := d.field 4 63 0 0, timer := d.field 5 31 0 0, steps := d.field 5 63 32 0 }

/-- R519, CKPT_CLASS_SET order 1. -/
def classBad (k : CkClass) : Bool :=
  k.keep < 2 || 7 < k.keep || k.areaSize == 0 || k.areaSize % 65536 != 0 || (!k.dest && k.base % 65536 != 0) ||
  (k.enable && k.scope == 0) || (k.timerEn && k.timer == 0) || (k.dest && k.window == 0)

/-- R520: the earlier run of a class, when this device claimed it. -/
def dropRun (k : Option CkClass) : M Unit := do
  match k with
  | none => return ()
  | some k => match k.run with
    | none => return ()
    | some r => if !k.attached then releaseRun k.window r

/-- R519, R520: CKPT_CLASS_SET. -/
def ckptClassSetBody (d : Desc) : M Done := do
  let k := classOf0 d
  check (d.session != 0 || classBad k) .invalidField
  let cls := d.field 2 2 0 0
  let c ← getC
  check ((c.ckpt.running.map (·.cls)) == some cls) .wrongState
  let x := winOf c k.window
  check (k.dest && x.state != 1) .wrongState
  let attach := d.field 2 21 21 0 == 1
  let n := cdiv (k.keep * k.areaSize) (unitBytes x)
  check (k.dest && attach && x.units < k.base + n) .invalidField
  let run ← if !k.dest then pure none else if attach then pure (some (⟨k.base, n⟩ : Run)) else do
    match ← claimRun k.window n with
    | none => refuse .noSpace
    | some r => pure (some r)
  let old := mapGet (← getC).ckpt.classes cls
  dropRun old
  let k := { k with run := run, attached := attach, seq := (old.map (·.seq)).getD 0, since := (old.map (·.since)).getD 0 }
  modC fun c => { c with ckpt := { c.ckpt with classes := mapSet c.ckpt.classes cls k } }
  return .done .ok (if k.dest && !attach then (run.map (·.first)).getD 0 else 0) 0

/-- R520. -/
def execCkptClassSet (d : Desc) (env : Env) (s : State) : Host.Outcome State Fault Refusal :=
  .next (acceptSeq s d env (ckptClassSetBody d))

/-! ## The cut (R521, R525) -/

/-- What a header says of a slot's image. -/
def cutHead (c : Core) (slot : Nat) : CutHead :=
  let img := imgOf c slot
  { slot := slot, kvFmt := miKvFmt img, spanned := miSpanned img, layers := miLayers img, digest := modelDigest img
    vocab := modelVocab img }

/-- R525: a session in a turn is recorded as IDLE with end reason 8. -/
def cutEntry (e : Entry) : Entry :=
  if e.state = .queued || e.state = .running then { e with state := .idle, endReason := 8 } else e

/-- R528: what the cut knows of a LOST session: its slot and, where it is loaded, its grammar. -/
def lostHead (c : Core) (e : Entry) : CutHead :=
  { cutHead c e.modelSlot with
    grammar := if e.grammarBound then ((mapGet c.obj.grammars e.grammarId).map fun g => grDigest g.image).getD 0 else 0 }

/-- R521: a session in scope as it stands at the cut; one whose hand-over is in flight is recorded by its index entry, if it has one. -/
def cutItem (c : Core) (sid : Nat) (e : Entry) : Option CutItem :=
  if e.state = .lost then some { session := sid, entry := e, head := lostHead c e }
  else if isWarm e.state then
    match mapGet c.sess.warm sid, imageOf c sid with
    | some w, some i =>
      let h := { cutHead c e.modelSlot with
        grammar := w.ctl.gdigest
        prefixCols := prefixColumns w
        prefixStamp := ((mapGet c.obj.prefixes e.prefixHandle).map fun p => p.stamp.toNat).getD 0 }
      some { session := sid, entry := cutEntry e, image := some { i with entry := cutEntry e }, head := h
             frames := w.ctlLeaf.frame :: w.mapPages.map (·.2.frame) ++ w.columns.flatMap fun p => p.2.leaves.map (·.frame) }
    | _, _ => none
  else (mapGet c.mem.index sid).map fun ix => { session := sid, entry := e, ix := some ix }

/-- R367: a prefix as it stands at the cut. -/
def cutPrefix (c : Core) (h : Nat) : Option CutPrefix :=
  (mapGet c.obj.prefixes h).map fun p =>
    { handle := h, px := p, head := cutHead c p.slot
      pages := if p.dies = 0 then p.pooled else (prefixPages c p (p.dies == 2)).map fun col => col.map (frameBytes c) }

/-- R521: one more checkpoint reference on the frames of a barn sheaf. -/
def barnRef (c : Core) (i : CutItem) : Core :=
  match i.ix with
  | some x => if x.place = 1 then { c with mem := { c.mem with barn := mapMod c.mem.barn (barnKey x.die x.locator) fun s => { s with refs := s.refs + 1 } } } else c
  | none => c

/-- R521: the cut, shared by both dies: changed entries of sessions in scope are written back (R175), and every live prefix is to be recorded (R367). -/
def takeCut (c : Core) (ep : Epoch) : Core :=
  match mapGet c.ckpt.classes ep.cls with
  | none => c
  | some k =>
    let items := (c.sess.dir.filter fun p => bit k.scope p.2.ckptClass).filterMap fun p => cutItem c p.1 p.2
    let handles := c.obj.prefixes.map (·.1)
    let marked : Map Unit := (items.filter fun i => i.image.isSome).map fun i => (i.session, ())
    let ep := { ep with items := items, marked := marked, prefixes := handles.filterMap (cutPrefix c) }
    let c := items.foldl (fun c i => writeBack (barnRef c i) i.session) c
    let classes := mapSet c.ckpt.classes ep.cls { k with since := 0 }
    { c with ckpt := { c.ckpt with running := some ep, classes := classes } }

/-- R521, R316: a die takes the cut once its step in flight has committed. -/
def ckptCut (c : Core) (die : Bool) : Core :=
  match c.ckpt.running with
  | none => c
  | some ep =>
    if !serving c || ep.cut.get die || !(inStep (c.sched.get die)).isEmpty then c
    else
      let ep := { ep with cut := ep.cut.set die true }
      if ep.cut.d0 && ep.cut.d1 then takeCut c ep else setEpoch c (some ep)

/-- R521. -/
def execCkptCut (die : Bool) (s : State) : Host.Outcome State Fault Refusal := onCore s fun c => ckptCut c die

/-- R522: the background sweep sets the hasps of a marked session. -/
def execHaspSet (session : Nat) (s : State) : Host.Outcome State Fault Refusal := onCore s fun c => haspSession c session

/-! ## Letting go (R163, R521, R523, R529) -/

/-- Leaf entries without their hasps. -/
def unhold (l : Leaf) : Leaf := { l with hold := false }

/-- A column without its hasps. -/
def unholdColumn (col : Column) : Column := { col with leaves := col.leaves.map unhold }

/-- A range without its hasps. -/
def unhasp (w : Warm) : Warm :=
  let lane := w.lane.map fun ln => { ln with cols := ln.cols.map fun p => (p.1, unholdColumn p.2) }
  { w with
    ctlLeaf := unhold w.ctlLeaf
    mapPages := w.mapPages.map fun p => (p.1, unhold p.2)
    columns := w.columns.map fun p => (p.1, unholdColumn p.2)
    lane := lane }

/-- The references that passed to the checkpoint on a frame are dropped. -/
def letFrame (c : Core) (ep : Epoch) (f : Nat) : Core :=
  (List.range ((mapGet ep.frames f).getD 0)).foldl (fun c _ => dropRef c f) c

/-- The staging frame that holds a frame's old contents is free again. -/
def letStaged (c : Core) (ep : Epoch) (f : Nat) : Core :=
  match mapGet ep.staged f with
  | some die => { c with mem := { c.mem with stagingFree := c.mem.stagingFree.mod die (· + 1) } }
  | none => c

/-- R524: an image's barn frames or spill units are no longer the session's own: only the epoch keeps them. -/
def keptForCkpt (c : Core) (i : CutItem) : Bool :=
  match i.ix with
  | some x => (x.place == 1 || x.place == 3) &&
      ((mapGet c.mem.index i.session).map fun y => (y.place, y.die, y.locator)) != some (x.place, x.die, x.locator)
  | none => false

/-- R524: the barn or spill space of an image that is no longer the session's own is freed. -/
def letPacked (c : Core) (i : CutItem) : Core :=
  match i.ix with
  | none => c
  | some x =>
    let kept := keptForCkpt c i
    if x.place = 1 then
      let c := { c with mem := { c.mem with barn := mapMod c.mem.barn (barnKey x.die x.locator) fun s => { s with refs := s.refs - 1 } } }
      if kept then freeBarn c x.die x.locator else c
    else if kept then freeSpill c x.locator
    else c

/-- An item is recorded or given up: its hasps, mark, references and staging frames go. -/
def letItem (c : Core) (i : CutItem) : Core :=
  match c.ckpt.running with
  | none => c
  | some ep =>
    let c := letPacked c i
    let c := i.frames.foldl (fun c f => letStaged (letFrame c ep f) ep f) c
    let ep := { ep with
      items := ep.items.filter fun j => j.session != i.session
      marked := mapDel ep.marked i.session
      frames := ep.frames.filter fun p => !i.frames.contains p.1
      staged := ep.staged.filter fun p => !i.frames.contains p.1 }
    let c := setEpoch c (some ep)
    { c with sess := { c.sess with warm := mapMod c.sess.warm i.session unhasp } }

/-! ## Records and shards (R526 to R528) -/

/-- R528: a record. -/
def ckptRecord (kind sid handle : Nat) (body : List Byte) : List Byte :=
  pad256 (wordsBytes [fieldAt 0 8 kind + fieldAt 8 24 sid + fieldAt 32 32 handle, body.length, 0, 0] ++ body)

/-- R527: the words of a shard header before `hdr_check`. -/
def shardWords (c : Core) (ep : Epoch) (die : Bool) (id records bytes check : Nat) : List Nat :=
  [ 0x4F56434B + fieldAt 32 8 1 + fieldAt 40 3 ep.cls + fieldAt 43 1 (b2n die), ep.number % 2 ^ 64,
    fieldAt 0 32 id + fieldAt 32 32 records, bytes, check, fieldAt 0 32 (deviceNo c) + fieldAt 32 32 ep.seq, 0 ]

/-- R527: a shard of records. -/
def shardBytes (c : Core) (ep : Epoch) (die : Bool) (id : Nat) (recs : List (List Byte)) : List Byte :=
  let body := recs.flatten
  let check := 256 + body.length
  let bytes := check + roundUp (4 * (check / 256)) 256
  let ws := wordsBytes (shardWords c ep die id recs.length bytes check)
  let covered := bytesAt (ws ++ natLe 8 (crc32c ws).toNat) 0 256 ++ body
  covered ++ pad256 (checkArray covered)

/-- R520: the IDE slot of a class's areas (0 host), and the offset of an area there: a bus address, or an offset of the window. -/
def areaAt (c : Core) (k : CkClass) (a : Nat) : Nat :=
  if k.dest then unitOff (winOf c k.window) ((k.run.map (·.first)).getD 0) + a * k.areaSize else k.base + a * k.areaSize

/-- Writes bytes into an area. -/
def areaWrite (k : CkClass) (at0 : Nat) (bs : List Byte) : M Unit :=
  if k.dest then winWrite k.window at0 bs else postBus 0 at0 bs

/-- Reads bytes of an area. -/
def areaRead (k : CkClass) (at0 n : Nat) : M (List Byte) :=
  if k.dest then winRead k.window at0 n else readBus 0 at0 n

/-- The running epoch with its class. -/
def epochM : M (Epoch × CkClass) := do
  let c ← getC
  match c.ckpt.running with
  | none => refuse .partFailed
  | some ep => match mapGet c.ckpt.classes ep.cls with
    | none => refuse .partFailed
    | some k => return (ep, k)

/-- R527: a shard that would pass the area fails the epoch. -/
def shardFits (bytes : Nat) : M Unit := do
  let (ep, k) ← epochM
  check (k.areaSize < ep.offset + bytes) .noSpace

/-- Where the shard that is being written begins. -/
def shardAt : M Nat := do
  let (ep, k) ← epochM
  return areaAt (← getC) k (ep.seq % k.keep) + ep.offset

/-- Changes the running epoch. -/
def modEpoch (f : Epoch → Epoch) : M Unit := modC fun c => setEpoch c (c.ckpt.running.map f)

/-- R59: bytes of a die's checkpoint queue, and those in it: of records that have not passed to the host port. -/
def ckptQueueMax : Nat := 64 * 2 ^ 20
def Epoch.recorded (ep : Epoch) (die : Bool) : Nat := (ep.filling.get die).foldl (fun n x => n + x.length) 0
def Epoch.queued (ep : Epoch) (die : Bool) : Nat := ep.recorded die - ep.passed.get die

/-- R598, R599: a record in the checkpoint queue can pass to the host port: the link is up, or a write that waited for it has timed out. -/
def portOpen : M Bool := do
  let r ← get
  return r.core.link.up || r.env.head? == some .late

/-- R59, R527: what a die's queue holds passes to the area, behind the header of its shard; a shard that has no place yet takes the one behind the shards before it, unless the other die's is being written. -/
def passQueue (die : Bool) : M Unit := do
  let (ep, k) ← epochM
  if 0 < ep.queued die && ep.writing != some (!die) then
    if ← portOpen then
      shardFits (256 + ep.recorded die)
      areaWrite k ((← shardAt) + 256 + ep.passed.get die) ((ep.filling.get die).flatten.drop (ep.passed.get die))
      modEpoch fun e => { e with passed := e.passed.set die (e.recorded die), writing := some die }

/-- R526, R527: the shard with some records that lies behind those before it is complete: its check array and its header are written. -/
def endShard (die : Bool) (id : Nat) (recs : List (List Byte)) : M Nat := do
  let (ep, k) ← epochM
  let bs := shardBytes (← getC) ep die id recs
  let check := 256 + recs.flatten.length
  shardFits bs.length
  let at0 ← shardAt
  areaWrite k (at0 + check) (bs.drop check)
  areaWrite k at0 (bs.take 256)
  modEpoch fun e => { e with offset := e.offset + bs.length }
  return at0 + bs.length

/-- R526: the shard that a die fills is closed; it waits while the other die's is being written. -/
def closeShard (die : Bool) : M Unit := do
  let (ep, _) ← epochM
  let recs := ep.filling.get die
  if recs.isEmpty then return ()
  if ep.writing == some (!die) || !(← portOpen) then waitInside
  passQueue die
  let id := ep.shards.length + 1
  let _ ← endShard die id recs
  modEpoch fun e => { e with
    filling := e.filling.set die [], passed := e.passed.set die 0, writing := none, shards := e.shards ++ [(id, die, e.offset - ep.offset)] }

/-- R526: a record joins the shard that a die fills; one that would take its records past 1 GiB closes it first. It passes on as far as R59 lets it. -/
def addRecord (die : Bool) (r : List Byte) : M Unit := do
  let (ep, _) ← epochM
  if 0 < ep.recorded die && 2 ^ 30 < ep.recorded die + r.length then closeShard die
  modEpoch fun e => { e with filling := e.filling.mod die fun l => l ++ [r] }
  passQueue die

/-- R528: what the manifest requires for an entry whose model and grammar are those of a head; what the head does not know is left out (DESIGN CHOICE, log 174). -/
def entryNeeds (e : Entry) (h : CutHead) : List (Nat × Nat × Nat) :=
  (if h.layers = 0 then [] else [(1, e.modelSlot, h.digest)]) ++
  (if h.vocab = 0 then [] else [(2, 0, h.vocab)]) ++
  (if e.grammarBound && h.grammar != 0 then [(3, e.grammarId, h.grammar)] else []) ++ [(4, e.account, 0)]

/-- Adds requirements, each once. -/
def addNeeds (l : List (Nat × Nat × Nat)) : M Unit :=
  modEpoch fun e => { e with needs := l.foldl (fun m x => if m.contains x then m else m ++ [x]) e.needs }

/-- R396: the header of a sheaf packed from a cut. -/
def cutSheafHead (h : CutHead) (e : Entry) (columns maps stamp : Nat) (lens : List Nat) (px : Bool) : SheafHead :=
  { kvFmt := h.kvFmt, spanned := h.spanned, layers := h.layers, columns := columns, mapPages := maps, digest := h.digest
    stamp := stamp, prefixHandle := if px then e.prefixHandle else 0, prefixCols := if px then h.prefixCols else 0
    prefixStamp := if px then h.prefixStamp else 0, lens := lens, entry := e }

/-- The columns of an image as a column map. -/
def imageColumns (cols : List ImageCol) : Map Column :=
  cols.map fun x => (x.col, { slot := x.slot, pooled := x.pooled, score := x.score, mass := x.mass })

/-- R395, R528: the sheaf of a warm session as it stood at the cut. -/
def packImage (h : CutHead) (i : Image) (stamp : Nat) (lens : List Nat) : List Byte :=
  let m := imageColumns i.cols
  let other := ctlPage i.ctl m i.cleared :: (List.range i.mapCount).map (mapPage m i.cleared)
  let kv := i.cols.flatMap fun x => x.pages.map pageBytes
  let sh := cutSheafHead h i.entry i.cols.length i.mapCount stamp lens true
  sheafBytes sh (other.map packOther ++ kv.map (packKv h.kvFmt lens)) (other ++ kv) 0

/-- R528: the sheaf of a prefix: a zero entry and page 0, its token list in map pages, its columns. -/
def packPrefix (p : CutPrefix) (stamp : Nat) (lens : List Nat) : List Byte :=
  let list := p.px.toks.flatMap (natLe 4)
  let maps := (List.range (tokenFrames p.px.toks.length)).map fun i => bytesAt list (65536 * i) 65536
  let other := List.replicate 65536 0 :: maps
  let kv := p.pages.flatMap fun col => col.map pageBytes
  let sh := cutSheafHead p.head {} p.pages.length maps.length stamp lens false
  sheafBytes sh (other.map packOther ++ kv.map (packKv p.head.kvFmt lens)) (other ++ kv) 0

/-- R528: the 64-byte header of a prefix record. -/
def prefixHeader (p : CutPrefix) : List Byte :=
  bytesAt (wordsBytes
    [ fieldAt 0 32 p.handle + fieldAt 32 4 p.px.slot, p.px.stamp.toNat, fieldAt 0 21 p.px.toks.length,
      fieldAt 0 2 p.px.dies + fieldAt 2 4 p.px.window ]) 0 64

/-- R529: a part of an epoch other than its writes: whatever ends it, the epoch fails with ST_PART_FAILED. -/
def asPart {α : Type} (m : M α) : M α := fun r =>
  match m r with
  | .error (.fail _ a b c) => .error (.fail .partFailed a b c)
  | y => y

/-- R361, R367: the pages of a pooled prefix that still lives are read from their window. -/
def verifyPooled (h : Nat) : M Unit := do
  match mapGet (← getC).obj.prefixes h with
  | none => return ()
  | some p =>
    if p.dies ≠ 0 then return ()
    let want := p.pooled.flatten.flatMap pageBytes
    let got ← asPart (winRead p.window (unitOff (winOf (← getC) p.window) p.run.first) want.length)
    if got != want then failLogged 3 .partFailed

/-- The code table of a slot. -/
def codesM (h : CutHead) (pages : List (List Byte)) : M (List Nat) := do
  let (lens, c) := codesFor (← getC) h.slot h.kvFmt pages
  putC c
  return lens

/-- R367, R528: a live prefix is recorded once, in a die 0 shard. A page that fails its check value fails the epoch (R529). -/
def writePrefix (h : Nat) : M Unit := do
  let (ep, _) ← epochM
  match ep.prefixes.find? fun p => p.handle == h with
  | none => return ()
  | some p =>
    if p.px.dies = 0 then verifyPooled h
    if mapHas (← getC).obj.prefixes h then
      if let some f := (prefixFrames p.px).find? (frameBad (← getC)) then failFrame f .partFailed
    let lens ← codesM p.head (p.pages.flatMap fun col => col.map pageBytes)
    let stamp ← drawM
    addRecord false (ckptRecord 3 0 h (prefixHeader p ++ packPrefix p stamp.toNat lens))
    modEpoch fun e => { e with prefixes := e.prefixes.filter fun q => q.handle != h }

/-- R528: a sheaf under another stamp, its lease block zero; the check value of its header block follows. -/
def restamp (bs : List Byte) (stamp : Nat) : List Byte :=
  let check := leAt bs (256 + 72) 8
  let head := bytesAt bs 256 32 ++ natLe 8 stamp ++ bytesAt bs 296 216
  List.replicate 256 0 ++ head ++ bytesAt bs 512 (check - 512) ++ checkArray head ++ bs.drop (check + 4)

/-- R524: the packed image of a session, from where it lay at the cut, verified. No lease is judged. -/
def readPacked (ix : SheafIx) : M (List Byte × SheafRead) := do
  let c ← getC
  let bs ← asPart (
    if ix.place = 1 then pure (barnBytes c ix)
    else if ix.place = 3 then readBus 0 (spillAddr c ix.locator) (256 * ix.size)
    else winRead ix.window (sheafOff c ix) (256 * ix.size))
  match readSheaf bs with
  | some sh => if sh.head.stamp = ix.stamp.toNat then return (bs, sh) else failLogged 3 .partFailed
  | none => failLogged 3 .partFailed

/-- R528: what a packed image needs: its own model and grammar digests; the vocabulary of its slot, while that holds its model. -/
def packedHead (c : Core) (sh : SheafRead) : CutHead :=
  let img := imgOf c sh.head.entry.modelSlot
  { layers := sh.head.layers, digest := sh.head.digest, grammar := (readCtl sh.ctlBytes).gdigest
    vocab := if modelDigest img = sh.head.digest then modelVocab img else 0 }

/-- R367: a session of die 0 brings the prefix that it names into the shard there; what die 1's sessions name goes in when die 0 has recorded its own. -/
def itemPrefix (i : CutItem) : M Unit := if dirDie i.session then pure () else writePrefix i.entry.prefixHandle

/-- R526, R528: one session is recorded. A page that fails its check value fails the epoch: it is not sent (R90, R529). -/
def writeItem (i : CutItem) : M Unit := do
  let die := dirDie i.session
  itemPrefix i
  match i.image, i.ix with
  | some img, _ =>
    if let some f := i.frames.find? (frameBad (← getC)) then failFrame f .partFailed
    if img.cols.any (·.pooled) then verifyPooled i.entry.prefixHandle
    let lens ← codesM i.head (img.cols.flatMap fun x => x.pages.map pageBytes)
    let stamp ← drawM
    addNeeds (entryNeeds i.entry i.head)
    addRecord die (ckptRecord 1 i.session 0 (packImage i.head img stamp.toNat lens))
  | none, some ix =>
    let (bs, sh) ← readPacked ix
    let stamp ← drawM
    addNeeds (entryNeeds sh.head.entry (packedHead (← getC) sh))
    addNeeds [(4, i.entry.account, 0)]
    addRecord die (ckptRecord 1 i.session 0 (restamp bs stamp.toNat))
  | none, none =>
    addNeeds (entryNeeds i.entry i.head)
    addRecord die (ckptRecord 2 i.session 0 (wordsBytes (entryWords {} i.entry 0)))
  modC fun c => letItem c i

/-! ## EPOCH_WRITE (R524, R526, R529) -/

/-- R529: the status that a failed part gives an epoch; only its writes, and the read that confirms them, end late or in error. -/
def epochStatus (st : Status) : Status :=
  if st = .tierTimeout || st = .tierError || st = .noSpace then st else .partFailed

/-- R162, R524: a write waits for a warm session to be copied; or a request, or the freeing of the space that it lies in, waits for a packed image. -/
def waitedOn (c : Core) (i : CutItem) : Bool :=
  let sid := i.session
  if i.ix.isSome then
    keptForCkpt c i || (uncopied c sid 2 && c.sess.waiting.any fun w =>
      w.desc.session == sid && w.slot == 16 && (w.desc.opcode == 0x11 || w.desc.opcode == 0x21 || w.desc.opcode == 0x22))
  else mapHas c.ckpt.stalled sid || c.sess.waiting.any fun w => w.desc.session == sid && w.slot == 17

/-- R162, R524, R526: the session is the next of its directory die: packed images that requests wait on come first, then sessions that writes wait on. -/
def writeNext (c : Core) (ep : Epoch) (sid : Nat) : Bool :=
  let mine := ep.items.filter fun i => dirDie i.session == dirDie sid
  let first := (mine.filter fun i => i.ix.isSome && waitedOn c i) ++ (mine.filter fun i => waitedOn c i)
  ((first.head?.or mine.head?).map (·.session)) == some sid

/-- The opcode of the request that a running epoch belongs to; 0 for none. -/
def epochOpcode (c : Core) : Nat := ((c.ckpt.running.bind fun ep => ep.desc).map fun d => d.opcode).getD 0

/-- A part of an epoch against its answers: a failed part fails the epoch. A write that finds the link down waits for it, unless it has timed out (R598). -/
def epochRun (s : State) (env : Env) (m : M Unit) : State :=
  match m { runOf s s.core (if s.core.link.up then env ++ noAnswers else env) with opc := epochOpcode s.core } with
  | .ok (_, r) => { s with core := r.core }
  | .error (.fail st _ _ c) =>
    let c := { keepOutside s.core c with ckpt := c.ckpt }
    { s with core := setEpoch c (c.ckpt.running.map fun ep => { ep with failed := some (epochStatus st) }) }
  | .error (.wait ..) => s

/-- R367: prefixes that no session recorded named. -/
def writePrefixes : List Nat → M Unit
  | [] => return ()
  | h :: hs => do
    writePrefix h
    writePrefixes hs

/-- R59: a die's checkpoint queue is full. -/
def queueFull (ep : Epoch) (die : Bool) : Bool := decide (ckptQueueMax ≤ ep.queued die)

/-- R59, R526: a die that has recorded all its sessions closes its shard when the other's queue is full behind it; die 0 records the prefixes that are left first. -/
def yieldShard (die : Bool) : M Unit := do
  let (ep, _) ← epochM
  if ep.writing == some (!die) && queueFull ep die && !(ep.items.any fun i => dirDie i.session == !die) then
    if die then writePrefixes (ep.prefixes.map (·.handle))
    closeShard (!die)

/-- R59, R526: a session is recorded once the checkpoint queue of its directory die has room; meanwhile the background copy pauses. -/
def writeOne (i : CutItem) : M Unit := do
  let die := dirDie i.session
  yieldShard die
  passQueue die
  if queueFull (← epochM).1 die then waitInside
  writeItem i

/-- R526: the checkpoint writer records a session. -/
def epochWrite (s : State) (sid : Nat) (env : Env) : State :=
  match s.core.ckpt.running with
  | none => s
  | some ep =>
    if !alive s.core || cutDue s.core || ep.failed.isSome || !writeNext s.core ep sid then s
    else match ep.items.find? fun i => i.session == sid with
      | none => s
      | some i => epochRun s env (writeOne i)

/-- R526. -/
def execEpochWrite (session : Nat) (env : Env) (s : State) : Host.Outcome State Fault Refusal :=
  .next (epochWrite s session env)

/-! ## EPOCH_END (R529) -/

/-- R142, R519, R529: an epoch ends: what it holds goes, the event record, and the completion of the CKPT_START that named it. -/
def finishEpoch (c : Core) (ep : Epoch) (st : Status) (shards : Nat) : Core :=
  let c := ep.items.foldl letItem c
  let c := if st = .ok then { c with ckpt := { c.ckpt with last := mapSet c.ckpt.last ep.cls ep.number } } else c
  let c := issueEvent (setEpoch c none) 8 false 0 0 (ep.number % 2 ^ 64)
    (fieldAt 0 3 ep.cls + fieldAt 8 8 (stCode st) + fieldAt 16 32 shards)
  match ep.desc with
  | none => c
  | some d => complete c d st (ep.number % 2 ^ 32) shards

/-- Kind 4 and kind 5 bodies of the manifest. -/
def shardList (l : List (Nat × Bool × Nat)) : List Byte :=
  l.flatMap fun x => wordsBytes [fieldAt 0 32 x.1 + fieldAt 32 1 (b2n x.2.1), x.2.2]
def needList (l : List (Nat × Nat × Nat)) : List Byte :=
  l.flatMap fun x => wordsBytes [fieldAt 0 8 x.1 + fieldAt 8 24 x.2.1, x.2.2 % 2 ^ 64]

/-- R526, R528, R529: the last shards, then the manifest, confirmed by an 8-byte read of its end. -/
def writeManifest : M Unit := do
  if (← epochM).1.writing == some true then closeShard true
  writePrefixes ((← epochM).1.prefixes.map (·.handle))
  closeShard false
  closeShard true
  let (ep, k) ← epochM
  let recs := [ckptRecord 4 0 0 (shardList ep.shards), ckptRecord 5 0 0 (needList ep.needs)]
  if !(← portOpen) then waitInside
  shardFits (256 + recs.flatten.length)
  areaWrite k ((← shardAt) + 256) recs.flatten
  let stop ← endShard false 0 recs
  let _ ← areaRead k (stop - 8) 8
  let n := ep.shards.length + 1
  modC fun c => finishEpoch c ep .ok n

/-- R529: the manifest ends a complete epoch; a failed one is wound up without. -/
def epochEnd (s : State) (env : Env) : State :=
  match s.core.ckpt.running with
  | none => s
  | some ep =>
    match ep.failed with
    | some st => { s with core := finishEpoch s.core ep st ep.shards.length }
    | none =>
      if !alive s.core || cutDue s.core || !ep.items.isEmpty then s
      else
        let t := epochRun s env writeManifest
        match t.core.ckpt.running with
        | none => t
        | some ep => match ep.failed with
          | none => t
          | some st => { t with core := finishEpoch t.core ep st ep.shards.length }

/-- R529. -/
def execEpochEnd (env : Env) (s : State) : Host.Outcome State Fault Refusal := .next (epochEnd s env)

end Sys2Proof.Machine
end

