-- ==== Sys2Proof/Machine/Restore.lean ====
section
/-! DEFINITION. RESTORE (19_checkpoint R530 to R533): the search of a class's areas, the choice of an epoch, the rebuilding of prefixes and sessions. -/

namespace Sys2Proof.Machine

/-! ## Shards as read (R527, R528, R530) -/

/-- A shard header that passed, with where the shard lies. -/
structure ShardRef where
  area : Nat
  at0 : Nat
  cls : Nat
  die : Bool
  epoch : Nat
  id : Nat
  records : Nat
  bytes : Nat
  check : Nat
  deriving DecidableEq, Repr

/-- R530: the header of a shard; none when its magic or its `hdr_check` fails. -/
def shardHead (area at0 : Nat) (h : List Byte) : Option ShardRef :=
  let w := fun i => leAt h (8 * i) 8
  if bits (w 0) 31 0 ≠ 0x4F56434B ∨ bits (w 7) 31 0 ≠ (crc32c (bytesAt h 0 56)).toNat ∨ w 3 < 256 then none
  else some
    { area := area, at0 := at0, cls := bits (w 0) 42 40, die := bit (w 0) 43, epoch := w 1
      id := bits (w 2) 31 0, records := bits (w 2) 63 32, bytes := w 3, check := w 4 }

/-- R530: the shards of an area, following `bytes` from its start. -/
def scanArea (k : CkClass) (a start : Nat) : Nat → Nat → M (List ShardRef)
  | 0, _ => return []
  | fuel + 1, off => do
    if k.areaSize < off + 256 then return []
    match shardHead a (start + off) (← areaRead k (start + off) 256) with
    | none => return []
    | some h => return h :: (← scanArea k a start fuel (off + h.bytes))

/-- R530: the shard headers of every area of a class. -/
def scanAreas (k : CkClass) : List Nat → M (List ShardRef)
  | [] => return []
  | a :: as => do
    let r ← get
    let hs ← scanArea k a (areaAt r.core k a) (r.env.length + 1) 0
    return hs ++ (← scanAreas k as)

/-- A record as read. -/
structure RecordIn where
  kind : Nat
  session : Nat
  handle : Nat
  body : List Byte
  deriving DecidableEq, Repr

/-- R528: `n` records from an offset of a shard; none when one passes the check array. -/
def readRecords (bs : List Byte) (check : Nat) : Nat → Nat → Option (List RecordIn)
  | 0, _ => some []
  | n + 1, off =>
    let w0 := leAt bs off 8
    let len := leAt bs (off + 8) 8
    let next := off + roundUp (32 + len) 256
    if check < next then none
    else (readRecords bs check n next).map fun rs => ⟨bits w0 7 0, bits w0 31 8, bits w0 63 32, bytesAt bs (off + 32) len⟩ :: rs

/-- A prefix as a record holds it: tokens, and pages by column, then layer. -/
structure PrefixIn where
  handle : Nat
  slot : Nat
  stamp : Word
  dies : Nat
  window : Nat
  toks : List Nat
  pages : List (List (List Byte))
  deriving DecidableEq, Repr

/-- R528: a prefix record; none when its sheaf fails. -/
def readPrefix (r : RecordIn) : Option PrefixIn :=
  let w := fun i => leAt r.body (8 * i) 8
  let bs := r.body.drop 64
  if headShape bs || !sheafChecked bs then none
  else
    let h := readHead bs
    match readPages bs h (leAt bs (256 + 72) 8) h.pages 0 (recordsAt h.pages) with
    | none => none
    | some ps =>
      let list := ((ps.drop 1).take h.mapPages).flatten
      let kv := ps.drop (1 + h.mapPages)
      some
        { handle := bits (w 0) 31 0, slot := bits (w 0) 35 32, stamp := BitVec.ofNat 64 (w 1)
          dies := bits (w 3) 1 0, window := bits (w 3) 5 2
          toks := (List.range (bits (w 2) 20 0)).map fun i => leAt list (4 * i) 4
          pages := (List.range h.columns).map fun j => (kv.drop (j * h.layers)).take h.layers }

/-- R530: the check values within a record. -/
def recordOk (r : RecordIn) : Bool :=
  match r.kind with
  | 1 => (readSheaf r.body).isSome
  | 3 => (readPrefix r).isSome
  | _ => true

/-- R530: a shard's records, when every check value verifies. -/
def shardRecords (h : ShardRef) (bs : List Byte) : Option (List RecordIn) :=
  if bs.length ≠ h.bytes ∨ h.check % 256 ≠ 0 ∨ h.bytes < h.check + 4 * (h.check / 256) then none
  else if checkArray (bytesAt bs 0 h.check) ≠ bytesAt bs h.check (4 * (h.check / 256)) then none
  else match readRecords bs h.check h.records 256 with
    | none => none
    | some rs => if rs.all recordOk then some rs else none

/-- R530: a shard read in full. -/
def readShard (k : CkClass) (h : ShardRef) : M (Option (List RecordIn)) := do
  return shardRecords h (← areaRead k h.at0 h.bytes)

/-- R530: shards read in full, in order; none when a block of one fails. -/
def readShards (k : CkClass) : List ShardRef → M (Option (List RecordIn))
  | [] => return some []
  | h :: hs => do
    match ← readShard k h with
    | none => return none
    | some rs => return (← readShards k hs).map (rs ++ ·)

/-- Bodies of the records of a kind, joined. -/
def bodiesOf (kind : Nat) (rs : List RecordIn) : List Byte := (rs.filter fun r => r.kind == kind).flatMap (·.body)

/-- R528: 16-byte entries of a body as two words. -/
def pairsOf (bs : List Byte) : List (Nat × Nat) :=
  (List.range (bs.length / 16)).map fun i => (leAt bs (16 * i) 8, leAt bs (16 * i + 8) 8)

/-- R530: the shards that a manifest lists, when every one was found with its listed `bytes`. -/
def listedShards (hs : List ShardRef) (m : ShardRef) (list : List (Nat × Nat)) : Option (List ShardRef) :=
  list.foldr (fun x acc =>
    match acc, hs.find? fun h => h.area == m.area && h.epoch == m.epoch && h.id == bits x.1 31 0 && h.bytes == x.2 with
    | some l, some h => some (h :: l)
    | _, _ => none) (some [])

/-- What a chosen epoch holds. -/
structure Chosen where
  epoch : Nat
  records : List RecordIn
  needs : List (Nat × Nat)
  deriving DecidableEq, Repr

/-- One more candidate abandoned (CKP_RESTORE_STAT). -/
def abandon (c : Core) : Core := { c with ckpt := { c.ckpt with candidates := satAdd 8 c.ckpt.candidates 1 } }

/-- R530: the first of the manifests, newest first, whose epoch verifies in full. -/
def choose (k : CkClass) (hs : List ShardRef) : List ShardRef → M (Option Chosen)
  | [] => return none
  | m :: ms => do
    match ← readShard k m with
    | none =>
      modC abandon
      choose k hs ms
    | some rs =>
      match listedShards hs m (pairsOf (bodiesOf 4 rs)) with
      | none => choose k hs ms
      | some l =>
        match ← readShards k l with
        | none =>
          modC abandon
          choose k hs ms
        | some recs => return some ⟨m.epoch, recs, pairsOf (bodiesOf 5 rs)⟩

/-- Manifests in descending epoch. -/
def manifests (hs : List ShardRef) : List ShardRef :=
  (hs.filter fun h => h.id == 0).mergeSort fun a b => decide (b.epoch ≤ a.epoch)

/-! ## RESTORE checks 6 and 7 (R531) -/

/-- R531 check 6: a requirement of the manifest is not met. -/
def needMissing (c : Core) (x : Nat × Nat) : Bool :=
  let id := bits x.1 31 8
  match bits x.1 7 0 with
  | 1 => ((loadedModel c id).map fun m => modelDigest m.image) != some x.2
  | 2 => !mapHas c.obj.vocabs x.2
  | 3 => ((mapGet c.obj.grammars id).map fun g => grDigest g.image) != some x.2
  | 4 => !mapHas c.acctCfg id
  | _ => false

/-- R531 check 7, R532: an id that is not FREE here or on the twin. -/
def idBusy (c : Core) (sid : Nat) : Bool := (entryOf c sid).state != .free || idOnTwin c sid

/-- R531 check 7: a live prefix has the handle with another stamp. -/
def stampClash (c : Core) (p : PrefixIn) : Bool :=
  match mapGet c.obj.prefixes p.handle with
  | some q => q.stamp != p.stamp
  | none => false

/-! ## Placing (R532) -/

/-- R324, R355, R532: the frames of one more column of a rebuilt prefix. -/
def placeColumn (img : List Byte) (home : Bool) (before : Map Column) (c : Core) (col : List (List Byte)) : List Nat × Core :=
  col.zipIdx.foldl (fun (b : List Nat × Core) x =>
    let die := layerDie img home x.2
    let q := newFrame (reserveFree b.2 die 1) die (columnPair b.2 before die before.length x.2) (cellsWrite [] 0 x.1)
    (b.1 ++ [q.1], q.2)) ([], c)

/-- R532: the page frames of a rebuilt prefix for a home die: its pages by column, then layer. -/
def placePages (img : List Byte) (home : Bool) (c : Core) (pages : List (List (List Byte))) : List (List Nat) × Core :=
  let r := pages.foldl (fun (a : Map Column × Core) col =>
    let r := placeColumn img home a.1 a.2 col
    (a.1 ++ [(a.1.length, ({ slot := a.1.length, leaves := r.1.map fun f => { frame := f } } : Column))], r.2)) ([], c)
  (r.1.map fun p => p.2.leaves.map (·.frame), r.2)

/-- Frames that a rebuilt prefix takes on a die. -/
def prefixNeed (c : Core) (img : List Byte) (p : PrefixIn) (die : Bool) : Nat :=
  let n := p.pages.length
  (if p.dies = 0 then 0 else if miSpanned img then layersOn img false die * n
   else if bit p.dies (b2n die) then miLayers img * n else 0) +
  (if die then 0 else tokenFrames p.toks.length +
    (if p.dies = 0 then 0 else nodeFrames (nodesWith c.obj p.slot p.toks (p.toks.length / 64)) - nodeFrames c.obj.nodes.length))

/-- R345, R532: a rebuilt prefix is entered under its handle and stamp. -/
def enterPrefix (c : Core) (p : PrefixIn) (pages : PerDie (List (List Nat))) (run : Run) : Core :=
  let c := takeFree c false (tokenFrames p.toks.length)
  let q : Prefix := { slot := p.slot, stamp := p.stamp, toks := p.toks, dies := p.dies, window := p.window, run := run, pages := pages
                      base := if p.dies = 0 then poolBase c p.handle p.pages.flatten.length else 0
                      pooled := if p.dies = 0 then p.pages.map fun col => col.map (cellsWrite [] 0) else [] }
  let issued := if c.obj.issued.contains p.handle then c.obj.issued else p.handle :: c.obj.issued
  let o := { c.obj with prefixes := mapSet c.obj.prefixes p.handle q, issued := issued }
  if p.dies = 0 then { c with obj := o }
  else
    let ins := insertNodes p.slot p.handle p.toks (p.toks.length / 64) 0 (chain0 p.slot) 0xFFFFFFFF o
    withNodes c { ins.1 with prefixes := mapSet ins.1.prefixes p.handle { q with nodes := ins.2 } }

/-- R532: a prefix of the epoch is rebuilt; one live under the same handle and stamp is used as it stands. The run of a pooled one. -/
def rebuildPrefix (p : PrefixIn) : M (Option (Nat × Run)) := do
  let c ← getC
  if mapHas c.obj.prefixes p.handle then return none
  match loadedModel c p.slot with
  | none => refuse .unknownHandle
  | some m =>
    check (freeOf c false < prefixNeed c m.image p false || freeOf c true < prefixNeed c m.image p true ||
      4096 ≤ c.obj.prefixes.length + c.obj.registering.length ||
      (p.dies != 0 && nodeMax < nodesWith c.obj p.slot p.toks (p.toks.length / 64))) .noSpace
    if p.dies = 0 then
      let x := winOf c p.window
      check (x.state != 1) .noSpace
      let data := p.pages.flatten.flatten ++ p.pages.flatten.flatMap checkArray
      match ← claimRun p.window (cdiv data.length (unitBytes x)) with
      | none => refuse .noSpace
      | some run =>
        writeRun p.window (unitOff x run.first) data run
        confirmRun p.window (run.first + run.units - 1) run
        modC fun c => enterPrefix c p ⟨[], []⟩ run
        return some (p.window, run)
    else
      let put := fun (c : Core) (die : Bool) => if bit p.dies (b2n die) then placePages m.image die c p.pages else ([], c)
      if miSpanned m.image then
        let a := placePages m.image false c p.pages
        putC (enterPrefix a.2 p ⟨a.1, []⟩ ⟨0, 0⟩)
      else
        let a := put c false
        let b := put a.2 true
        putC (enterPrefix b.2 p ⟨a.1, b.1⟩ ⟨0, 0⟩)
      return none

/-- R532: a session of the epoch comes back PARKED or POOLED; whether it was restored, and its pool run. -/
def restoreSession (sid : Nat) (body : List Byte) : M (Option (Nat × Run)) := do
  let c ← getC
  check (freeOf c (dirDie sid) < indexNeed c sid) .noSpace
  match ← findPlace (dirDie sid) false 0 body.length with
  | none => refuse .noSpace
  | some place =>
    let held := heldWord (← getC) 1
    let lease := match place with
      | .pool _ _ => held
      | _ => 0
    let h := readHead body
    let ix ← storeSheaf place (bytesAt (natLe 16 lease) 0 256 ++ body.drop 256) h.stamp
    let st : SState := if ix.place = 2 then .pooled else .parked
    modC fun c => setEntry (setIndex c sid ix) sid { h.entry with state := st, imagePlace := ix.place }
    mirrorM sid (.parked (entryOf (← getC) sid) (if ix.place = 2 then some ix else none))
    let c ← getC
    return if ix.place = 2 then some (ix.window, sheafRun c ix) else none

/-- R532: a session recorded by its entry alone comes back LOST. -/
def restoreLost (sid : Nat) (body : List Byte) : M Unit := do
  let e := entryOfWords ((List.range 8).map fun i => leAt body (8 * i) 8)
  modC fun c => setEntry c sid (lostEntry e false)
  mirrorM sid (.opened (entryOf (← getC) sid) none)

/-- Goes on with what comes after a placing, which is undone if that fails. -/
def andThen {α : Type} (x : Option (Nat × Run)) (m : M α) : M α :=
  match x with
  | some (w, r) => holdingRun w r m
  | none => m

/-- R532: prefixes, then the rest. -/
def rebuildPrefixes {α : Type} (m : M α) : List PrefixIn → M α
  | [] => m
  | p :: ps => do andThen (← rebuildPrefix p) (rebuildPrefixes m ps)

/-- R532: sessions in the order of their records; how many were restored. -/
def restoreSessions : List RecordIn → M Nat
  | [] => return 0
  | r :: rs => do
    if idBusy (← getC) r.session then
      modC fun c => { c with ckpt := { c.ckpt with skipped := satAdd 24 c.ckpt.skipped 1 } }
      restoreSessions rs
    else if r.kind = 2 then
      restoreLost r.session r.body
      return (← restoreSessions rs) + 1
    else
      let x ← restoreSession r.session r.body
      return (← andThen x (restoreSessions rs)) + 1

/-! ## RESTORE (R530 to R533) -/

/-- R533: the sessions of readable shards of newer epochs; a shard that cannot be read is passed over. -/
def newerSessions (k : CkClass) : List ShardRef → M (List Nat)
  | [] => return []
  | h :: hs => do
    let a ← if k.dest then winTry k.window h.at0 h.bytes else request 0 h.at0 h.bytes
    let ids := match a with
      | .data bs => ((shardRecords h (bytesAt bs 0 h.bytes)).getD []).filterMap fun r =>
          if r.kind = 1 ∨ r.kind = 2 then some r.session else none
      | _ => []
    return ids ++ (← newerSessions k hs)

/-- R533: the next epoch is numbered above the highest epoch of any header. -/
def numberAbove (c : Core) (hs : List ShardRef) : Core :=
  let top := hs.foldl (fun n h => max n h.epoch) 0
  let n := c.ckpt.next.getD (regGet c 0x710000)
  { c with ckpt := { c.ckpt with next := some (max n (top % (2 ^ 64 - 1) + 1)) } }

/-- R530 to R533: RESTORE. -/
def restoreBody (d : Desc) : M Done := do
  check (d.session != 0) .invalidField
  let cls := d.field 2 2 0 0
  let c ← getC
  match mapGet c.ckpt.classes cls with
  | none => refuse .unknownHandle
  | some k =>
    check (ckptBusy c) .wrongState
    putC { c with ckpt := { c.ckpt with skipped := 0, candidates := 0 } }
    let all ← scanAreas k (List.range k.keep)
    let hs := all.filter fun h => h.cls == cls
    let want := d.field 3 63 0 0
    match ← choose k hs (if want = 0 then manifests hs else (manifests hs).filter fun h => h.epoch == want) with
    | none => refuse .partFailed
    | some x =>
      check (x.needs.any (needMissing (← getC))) .unknownHandle
      let sess := x.records.filter fun r => r.kind == 1 || r.kind == 2
      let pres := x.records.filterMap fun r => if r.kind = 3 then readPrefix r else none
      let c ← getC
      check ((d.field 2 3 3 0 == 0 && sess.any fun r => idBusy c r.session) || pres.any (stampClash c)) .wrongState
      let newer ← newerSessions k (hs.filter fun h => x.epoch < h.epoch)
      let n ← atomically (rebuildPrefixes (restoreSessions sess) pres)
      modC fun c => issueEvent (numberAbove c all) 8 false 0 0 (x.epoch % 2 ^ 64) (fieldAt 0 3 cls)
      return .done .ok n (sess.filter fun r => newer.contains r.session).length

/-- R530. -/
def execRestore (d : Desc) (env : Env) (s : State) : Host.Outcome State Fault Refusal :=
  .next (acceptSeq s d env (restoreBody d))

end Sys2Proof.Machine
end

