-- ==== Sys2Proof/Machine/Retrieval.lean ====
section
/-! DEFINITION. Vector search and embedding tables (15_retrieval): indexes, inserts, deletes, compaction, searches; tables, row writes and pooled lookups. -/

namespace Sys2Proof.Machine

/-! ## Objects in use (R440) -/

/-- The index id that a descriptor of an index opcode names. -/
def indexIdOf (d : Desc) : Nat :=
  match d.opcode with
  | 0x60 => d.field 3 7 0 0
  | 0x61 => d.field 5 7 0 0
  | 0x62 => d.field 3 7 0 0
  | 0x63 => d.field 2 7 0 0
  | _ => d.field 4 7 0 0

/-- The table id that a descriptor of a table opcode names. -/
def tableIdOf (d : Desc) : Nat :=
  match d.opcode with
  | 0x68 => d.field 4 28 19 0
  | 0x6A => d.field 5 9 0 0
  | _ => d.field 4 9 0 0

/-- Opcodes of indexes and of tables. -/
def isIndexOp (op : Nat) : Bool := 0x60 ≤ op && op ≤ 0x64
def isTableOp (op : Nat) : Bool := 0x68 ≤ op && op ≤ 0x6B

/-- Two descriptors name one object of a kind. -/
def sameObject (a b : Desc) : Bool :=
  (isIndexOp a.opcode && isIndexOp b.opcode && indexIdOf a == indexIdOf b) ||
  (isTableOp a.opcode && isTableOp b.opcode && tableIdOf a == tableIdOf b)

/-- INDEX_CREATE with `destroy`, TABLE_LOAD with `unload`. -/
def destroys (d : Desc) : Bool := (d.opcode == 0x60 || d.opcode == 0x68) && bit d.flags 0

/-- R440: a destroy or unload of the object has begun and waits. -/
def beingDestroyed (c : Core) (d : Desc) : Bool :=
  c.sess.waiting.any fun w => w.desc != d && destroys w.desc && sameObject w.desc d

/-- R440: other descriptors that name the object have started and not completed. -/
def objectBusy (c : Core) (d : Desc) : Bool :=
  (c.sess.waiting.any fun w => w.desc != d && sameObject w.desc d) || c.obj.jobs.any fun j => j.2.desc != d && sameObject j.2.desc d

/-- R440: a descriptor that comes after a destroy has begun finds no object. -/
def checkAlive (d : Desc) : M Unit := do
  let r ← get
  check (!r.resumed && beingDestroyed r.core d) .unknownHandle

/-- An index that a descriptor names. -/
def indexNamed (d : Desc) : M Index := do
  match mapGet (← getC).obj.indexes (indexIdOf d) with
  | some x => return x
  | none => refuse .unknownHandle

/-- A table that a descriptor names. -/
def tableNamed (d : Desc) : M Table := do
  match mapGet (← getC).obj.tables (tableIdOf d) with
  | some x => return x
  | none => refuse .unknownHandle

/-- The index of a descriptor that starts. -/
def indexOf (d : Desc) : M Index := do
  checkAlive d
  indexNamed d

/-- The table of a descriptor that starts. -/
def tableOf (d : Desc) : M Table := do
  checkAlive d
  tableNamed d

/-- Replaces an index. -/
def setIndexObj (c : Core) (id : Nat) (x : Index) : Core :=
  { c with obj := { c.obj with indexes := mapSet c.obj.indexes id x } }

/-- Replaces a table. -/
def setTable (c : Core) (id : Nat) (x : Table) : Core :=
  { c with obj := { c.obj with tables := mapSet c.obj.tables id x } }

/-! ## Index state -/

/-- Records of an index in its lists. -/
def Index.records (x : Index) : List VecRec := x.lists.flatMap (·.2)

/-- R421: ids taken: those of records, live or tombstoned. -/
def Index.taken (x : Index) : List Nat := x.records.map (·.vid)

/-- The list of a centroid. -/
def Index.list (x : Index) (i : Nat) : List VecRec := (mapGet x.lists i).getD []

/-- Replaces a list; an empty one is not listed. -/
def Index.setList (x : Index) (i : Nat) (l : List VecRec) : Index :=
  { x with lists := if l.isEmpty then mapDel x.lists i else mapSet x.lists i l }

/-- R413: records of one list frame. -/
def Index.perFrame (x : Index) : Nat := recordsPerFrame x.dim x.format

/-- Frames of a list of n records. -/
def Index.listFrames (x : Index) (n : Nat) : Nat := cdiv n x.perFrame

/-- Every stacked frame that an index holds. -/
def Index.frames (x : Index) : Nat := x.fixed + x.lists.foldl (fun n p => n + x.listFrames p.2.length) 0

/-- R418: the lowest free id. -/
def Index.freeId (x : Index) : Option Nat :=
  let t := x.taken
  (List.range (t.length + 1)).find? fun i => i < x.capacity && !t.contains i

/-- R414: the pair of the next frame of a list whose frames lie in some pairs: the run's pair while it has one free, else the in-service pair of the die with the most free frames. -/
def nextListPair (c : Core) (die : Bool) (pairs : List Nat) : Nat :=
  match pairs.getLast? with
  | some q => if pairs.length % 8 != 0 && pairOpen c q then q else mostFree c die
  | none => mostFree c die

/-- R414: a list takes one more frame. -/
def takeListFrame (c : Core) (die : Bool) (pairs : List Nat) : List Nat × Core :=
  let q := nextListPair c die pairs
  (pairs ++ [q], modRoom (reserveFree c die 1) q (· - 1))

/-- A list takes its frames. -/
def takeListFrames (c : Core) (die : Bool) : Nat → List Nat → List Nat × Core
  | 0, pairs => (pairs, c)
  | n + 1, pairs =>
    let r := takeListFrame c die pairs
    takeListFrames r.2 die n r.1

/-- The frames of every list of an index are free. -/
def dropListFrames (c : Core) (x : Index) : Core :=
  (x.pairs.map (·.2) ++ x.late.map (·.pairs)).foldl (fun c ps => freePlaces c x.die ps) c

/-- The pairs of a list's frames. -/
def Index.listPairs (x : Index) (i : Nat) : List Nat := (mapGet x.pairs i).getD []

/-- Replaces the pairs of a list's frames; none are not listed. -/
def Index.setPairs (x : Index) (i : Nat) (ps : List Nat) : Index :=
  { x with pairs := if ps.isEmpty then mapDel x.pairs i else mapSet x.pairs i ps }

/-! ## INDEX_CREATE (R428, R429, R440) -/

/-- R429: INDEX_CREATE with `destroy`. -/
def indexDestroyBody (d : Desc) : M Done := do
  check (d.session != 0) .invalidField
  let x ← indexOf d
  if objectBusy (← getC) d then waitInside
  modC fun c =>
    let c := giveLoft (giveFree (dropListFrames c x) x.die x.fixed) x.die x.loft
    { c with obj := { c.obj with indexes := mapDel c.obj.indexes (indexIdOf d) } }
  return .done .ok x.frames 0

/-- R428: frames of the parts of an index: centroids with their norms, locator, bitmap, list table; and of its loft copy. -/
def indexNeeds (ncent dim fmt metric capacity : Nat) : Nat × Nat :=
  let cents := framesOf (ncent * dim * elemBytes fmt + if metric = 2 then 4 * ncent else 0)
  (cents + framesOf (8 * capacity) + framesOf (cdiv capacity 8) + framesOf (32 * ncent), cents)

/-- R428, R429: INDEX_CREATE. -/
def indexCreateBody (d : Desc) : M Done := do
  if bit d.flags 0 then indexDestroyBody d
  else
    let id := indexIdOf d
    let src := d.field 2 63 0 0
    let dim := d.field 3 20 8 0
    let metric := d.field 3 22 21 0
    let fmt := d.field 3 26 23 0
    let die := d.field 3 27 27 0 == 1
    let ncent := d.field 3 44 28 0
    let cap := d.field 4 28 0 0
    check (d.session != 0 || dim == 0 || 4096 < dim || ncent == 0 || 65536 < ncent || cap == 0 || 268435456 < cap ||
      metric == 3 || (fmt != 6 && fmt != 8) || src % 4 != 0) .invalidField
    let c ← getC
    check (mapHas c.obj.indexes id || (inFlight c d 0x60).any fun w => !destroys w.desc && indexIdOf w.desc == id) .wrongState
    let (n, loft) := indexNeeds ncent dim fmt metric cap
    checkFresh (!fitsStack c die n || !fitsLoft c die loft) .noSpace
    let first ← once fun c => (c.mem.loftNext.get die, takeLoft (takeFree c die n) die loft)
    orUndo (fun c => giveLoft (giveFree c die n) die loft) do
      waitHot die
      let bs ← readBus 0 src (4 * ncent * dim)
      let cents := (List.range ncent).map fun i => converted metric fmt (f32s bs (4 * dim * i) dim)
      check (cents.any (·.isNone)) .invalidField
      let x : Index :=
        { die := die, metric := metric, format := fmt, dim := dim, capacity := cap, centroids := cents.map (·.getD []), fixed := n, loft := loft
          run := if loft = 0 then {} else { first := first, frames := loft, slices := sliceList c die } }
      modC fun c => setIndexObj c id x
      return .done .ok n loft

/-- R428. -/
def execIndexCreate (d : Desc) (env : Env) (s : State) : Host.Outcome State Fault Refusal :=
  .next (acceptSeq s d env (indexCreateBody d))

/-- R429. -/
def execIndexDestroy (d : Desc) (s : State) : Host.Outcome State Fault Refusal :=
  .next (acceptSeq s d [] (indexDestroyBody d))

/-! ## VEC_INSERT and VEC_DELETE (R418, R421, R430) -/

/-- R417: the centroid whose list a vector enters. -/
def Index.listFor (x : Index) (e : List Nat) : Nat :=
  (bestCentroids x.metric x.format x.centroids (elemVals x.format e) 1).headD 0

/-- R414: a vector that enters a list opens a frame. -/
def Index.opensFrame (x : Index) (i : Nat) : Bool := (x.list i).length % x.perFrame == 0

/-- R429 orders 4 and 5: what refuses a vector: its input (R416), the lack of a frame for a new list frame. -/
def insertRefusal (c : Core) (x : Index) (v : List W32) : Option Status :=
  match converted x.metric x.format v with
  | none => some .invalidField
  | some e => if (x.opensFrame (x.listFor e) && freeOf c x.die = 0) || x.freeId.isNone then some .noSpace else none

/-- R414, R417, R418: one vector enters its list: the state, the new index, the id it took. -/
def insertOne (c : Core) (x : Index) (v : List W32) (attr : Nat) : Core × Index × Nat :=
  let e := (converted x.metric x.format v).getD []
  let i := x.listFor e
  let id := x.freeId.getD 0
  let r : VecRec := { vid := id, live := true, norm2 := norm2Of x.metric (elemVals x.format e), attr := attr, elems := e }
  let t := if x.opensFrame i then takeListFrame c x.die (x.listPairs i) else (x.listPairs i, c)
  (t.2, (x.setList i (x.list i ++ [r])).setPairs i t.1, id)

/-- R430: items in order; the first that fails ends the request with the items before it in count0. The sum of what they answer. -/
def eachItem (f : Nat → M Nat) : List Nat → M Nat
  | [] => return 0
  | i :: is => do
    let r ← get
    match f i r with
    | .ok (n, r') =>
      set r'
      return n + (← eachItem f is)
    | .error (.fail st _ _ c) => throw (.fail st i 0 (keepOutside r.core c))
    | .error w => throw w

/-- R418, R430: a vector enters an index and its id goes to the host. -/
def insertItem (ixId out : Nat) (v : List W32) (attr : Nat) (c : Core) : Nat × Core :=
  match mapGet c.obj.indexes ixId with
  | none => (0, c)
  | some x =>
    let (c, y, id) := insertOne c x v attr
    (id, setIndexObj c ixId y |> fun c => busPayload c out (natLe 4 id))

/-- R416, R418, R429: one vector of a VEC_INSERT: read, inserted, and its id written, whole or not at all. -/
def vecInsertItem (d : Desc) (dim i : Nat) : M Nat := do
  let at0 := d.field 3 63 0 0
  let v ← readBus 0 (d.field 2 63 0 0 + 4 * dim * i) (4 * dim)
  let v := f32s v 0 dim
  let c ← getC
  if let some st := (mapGet c.obj.indexes (indexIdOf d)).bind fun x => insertRefusal c x v then checkFresh true st
  let a ← if at0 = 0 then pure [] else readBus 0 (at0 + 8 * i) 8
  let out := d.field 4 63 0 0 + 4 * i
  let _ ← oncePosted 0 out (insertItem (indexIdOf d) out v (leAt a 0 8))
  return 1

/-- R418: VEC_INSERT. -/
def vecInsertBody (d : Desc) : M Done := do
  let n := d.field 5 24 8 0
  check (d.field 2 63 0 0 % 4 != 0 || d.field 3 63 0 0 % 8 != 0 || d.field 4 63 0 0 % 4 != 0 || 65536 < n) .invalidField
  if n = 0 then return .done .ok 0 0
  let x ← indexOf d
  checkFresh (x.capacity - x.taken.length < n) .noSpace
  let _ ← eachItem (vecInsertItem d x.dim) (List.range n)
  return .done .ok n 0

/-- R418. -/
def execVecInsert (d : Desc) (env : Env) (s : State) : Host.Outcome State Fault Refusal :=
  .next (acceptSeq s d env (vecInsertBody d))

/-- R421: the record of a live id becomes a tombstone; none when the id is not live. -/
def Index.bury (x : Index) (id : Nat) : Option Index :=
  if x.records.any fun r => r.vid == id && r.live then
    some { x with lists := x.lists.map fun p => (p.1, p.2.map fun r => if r.vid == id then { r with live := false } else r) }
  else none

/-- R421: the record of an id of an index becomes a tombstone; 1, or 0 where the id is not live. -/
def buryItem (ixId id : Nat) (c : Core) : Nat × Core :=
  match (mapGet c.obj.indexes ixId).bind fun x => x.bury id with
  | some y => (1, setIndexObj c ixId y)
  | none => (0, c)

/-- R421, R430: one id of a VEC_DELETE, whose tombstone stands. -/
def vecDeleteItem (d : Desc) (i : Nat) : M Nat := do
  let id ← readBus 0 (d.field 2 63 0 0 + 4 * i) 4
  once (buryItem (indexIdOf d) (leAt id 0 4))

/-- R421: VEC_DELETE. -/
def vecDeleteBody (d : Desc) : M Done := do
  let src := d.field 2 63 0 0
  let n := d.field 3 28 8 0
  check (src % 4 != 0 || 1048576 < n) .invalidField
  if n = 0 then return .done .ok 0 0
  let _ ← indexOf d
  let gone ← eachItem (vecDeleteItem d) (List.range n)
  return .done .ok gone (n - gone)

/-- R421. -/
def execVecDelete (d : Desc) (env : Env) (s : State) : Host.Outcome State Fault Refusal :=
  .next (acceptSeq s d env (vecDeleteBody d))

/-! ## INDEX_COMPACT (R422, R423) -/

/-- How far a compaction has come: the state, the index, tombstones removed, net frames freed. -/
structure Compact where
  core : Core
  index : Index
  tombs : Nat := 0
  freed : Nat := 0
  deriving DecidableEq, Repr

/-- R422: the rings whose searches still scan a list of an index as it stands. -/
def searchRings (c : Core) (x : Index) (id list : Nat) : List Nat :=
  (c.obj.jobs.map (·.1)).filter fun r => scansList c r id list && !(x.late.any fun p => p.list == list && p.rings.contains r)

/-- The job of a descriptor ends. -/
def endJob (c : Core) (d : Desc) : Core :=
  let c := { c with obj := { c.obj with jobs := mapDel c.obj.jobs d.ring } }
  if d.opcode = 0x64 then freeLate c (indexIdOf d) else c

/-- R422, R476: the records of a list that fail their check values as they are copied are counted, and each is logged. -/
def noteRecords (c : Core) (x : Index) (id i : Nat) : Core :=
  let bad := (x.list i).zipIdx.filter fun r => r.1.live && r.1.bad
  bad.foldl (fun c r =>
    let p := recordPlace x id i (x.listPairs i) r.2
    noteBlock c 0 0x63 0 p.1 p.2) (regCount c 0x430000 63 32 bad.length)

/-- R422: one list is rewritten; none when frames run short. A live record whose check value fails is dropped. -/
def compactList (id : Nat) (k : Compact) (i : Nat) : Option Compact :=
  let x := k.index
  let l := x.list i
  let keep := l.filter fun r => r.live && !r.bad
  let old := x.listFrames l.length
  let new := x.listFrames keep.length
  if freeOf k.core x.die < new then none
  else
    let t := takeListFrames (noteRecords k.core x id i) x.die new []
    let rings := searchRings t.2 x id i
    let c := if rings.isEmpty then freePlaces t.2 x.die (x.listPairs i) else t.2
    let x := if rings.isEmpty then x else { x with late := x.late ++ [⟨i, x.listPairs i, rings⟩] }
    some ⟨c, (x.setList i keep).setPairs i t.1, k.tombs + (l.filter fun r => !r.live).length, k.freed + (old - new)⟩

/-- R422: lists in ascending order, until frames run short. -/
def compactLists (id : Nat) : List Nat → Compact → Compact × Bool
  | [], k => (k, true)
  | i :: is, k => match compactList id k i with
    | none => (k, false)
    | some k' => compactLists id is k'

/-- R422: INDEX_COMPACT. -/
def indexCompactBody (d : Desc) : M Done := do
  let x ← indexOf d
  let (k, whole) := compactLists (indexIdOf d) (x.lists.map (·.1)) { core := ← getC, index := x }
  putC (setIndexObj k.core (indexIdOf d) k.index)
  if whole then return .done .ok k.tombs k.freed else failC .noSpace k.tombs k.freed

/-- R422. -/
def execIndexCompact (d : Desc) (s : State) : Host.Outcome State Fault Refusal :=
  .next (acceptSeq s d [] (indexCompactBody d))

/-! ## SEARCH (R417, R419, R423 to R427) -/

/-- R425: a filter header or term that breaks its layout. -/
def filterBad (f : List Byte) : Bool :=
  let h := leAt f 0 32
  8 < h % 16 || 32 ≤ h ||
  (List.range (h % 16)).any fun i =>
    let w0 := leAt f (32 + 32 * i) 8
    64 < bits w0 5 0 + bits w0 11 6 + 1 || 5 ≤ bits w0 14 12 || bits w0 63 16 != 0 || leAt f (56 + 32 * i) 8 != 0

/-- R425: one term on a record. -/
def termPasses (f : List Byte) (i : Nat) (r : VecRec) : Bool :=
  let w0 := leAt f (32 + 32 * i) 8
  let a := leAt f (40 + 32 * i) 8
  let b := leAt f (48 + 32 * i) 8
  let v := r.attr / 2 ^ bits w0 5 0 % 2 ^ (bits w0 11 6 + 1)
  let t := match bits w0 14 12 with
    | 0 => v == a
    | 1 => decide (a ≤ v ∧ v ≤ b)
    | 2 => v &&& a == a
    | 3 => v &&& a != 0
    | _ => decide (a ≤ r.vid ∧ r.vid ≤ b)
  t != bit w0 15

/-- R425: a record passes the filter; no filter and no terms let every record pass. -/
def filterPasses (f : List Byte) (r : VecRec) : Bool :=
  let h := leAt f 0 32
  let ts := (List.range (h % 16)).map fun i => termPasses f i r
  ts.isEmpty || if bit h 4 then ts.any (·) else ts.all (·)

/-- SEARCH fields. -/
def searchK (d : Desc) : Nat := d.field 4 18 8 0

/-- R211, R414: the frames of a list as runs of up to 8 in one pair: first frame, frames, pair. -/
def listRuns (pairs : List Nat) : List (Nat × Nat × Nat) :=
  (pairs.zipIdx.foldl (fun (rs : List (Nat × Nat × Nat)) q => match rs with
    | (a, n, p) :: rest => if p = q.1 && a / 8 = q.2 / 8 then (a, n + 1, p) :: rest else (q.2, 1, q.1) :: rs
    | [] => [(q.2, 1, q.1)]) []).reverse

/-- R414, R423: the DIST_SCAN commands of a probed list: one for each run of up to 8 frames, to its pair. -/
def scanList (x : Index) (id ring k : Nat) (q : List Nat) (c : Core) (p : Nat × Nat) : Core :=
  let l := x.list p.2
  (listRuns (x.listPairs p.2)).foldl (fun c r =>
    let recs := (l.drop (r.1 * x.perFrame)).take (r.2.1 * x.perFrame)
    let o : ScanOp := { index := id, list := p.2, metric := x.metric, format := x.format, query := q, kl := k, rank := p.1
                        first := r.1 * x.perFrame, recs := recs }
    enqueue c r.2.2 { op := .scan o, n := r.2.1, owner := .job ring }) c

/-- R427: a result. -/
def hitBytes (h : Hit) : List Byte := natLe 4 h.item.vid ++ natLe 4 h.key.toNat ++ natLe 8 h.item.attr

/-- R424, R476: the header of a record that fails its check value is counted and logged, and its pair drains. -/
def noteHeader (x : Index) (id : Nat) (c : Core) (h : Hit) : Core :=
  match x.lists.findSome? fun l => (l.2.findIdx? fun r => r.vid == h.item.vid).map fun k => (l.1, k) with
  | none => c
  | some (list, k) =>
    let p := recordPlace x id list (x.listPairs list) k
    noteBlock c 0 0x64 0 p.1 p.2

/-- R419, R424 to R427: a search whose scans have all come back: merge, the headers of the best (one that fails its check value is skipped), filter, results, completion. -/
def searchFinish (d : Desc) (j : Job) : M Done := do
  let x ← indexNamed d
  if let some st := j.failed then refuse st
  let best := (sortBy (fun a b : Hit => hitBefore x.metric a b) j.hits).take (searchK d)
  let lost := best.filter fun h => x.records.any fun r => r.vid == h.item.vid && r.bad
  modC fun c => lost.foldl (noteHeader x (indexIdOf d)) (regCount c 0x430000 63 32 lost.length)
  let out := best.filter fun h => !lost.contains h && filterPasses j.filter h.item
  if !out.isEmpty then postBus 0 (d.field 3 63 0 0) (out.flatMap hitBytes)
  modC fun c => regCount c 0x430000 31 0 1
  return .done (if out.length < searchK d then .fewer else .ok) out.length (j.skipped + lost.length)

/-- R423, R426: SEARCH. -/
def searchBody (d : Desc) : M Done := do
  let query := d.field 2 63 0 0
  let out := d.field 3 63 0 0
  let k := searchK d
  let probes := d.field 4 27 19 0
  let filter := d.field 5 63 0 0
  check (query % 4 != 0 || out % 16 != 0 || filter % 32 != 0 || k == 0 || 1024 < k || probes == 0 || 256 < probes) .invalidField
  let x ← indexOf d
  check (x.centroids.length < probes) .invalidField
  let qb ← readBus 0 query (4 * x.dim)
  let head ← if filter = 0 then pure [] else readBus 0 filter 32
  let n := min 8 (leAt head 0 1 % 16)
  let terms ← if n = 0 then pure [] else readBus 0 (filter + 32) (32 * n)
  let f := head ++ terms
  match converted x.metric 8 (f32s qb 0 x.dim) with
  | none => refuse .invalidField
  | some q =>
    check (filterBad f) .invalidField
    let lists := bestCentroids x.metric x.format x.centroids (elemVals 8 q) probes
    startJob d { desc := d, filter := f }
    modC fun c => ((List.range lists.length).zip lists).foldl (scanList x (indexIdOf d) d.ring k q) c
    let c ← getC
    if unitsBusy c (.job d.ring) then return .running
    modC fun c => endJob c d
    searchFinish d ((mapGet c.obj.jobs d.ring).getD { desc := d, filter := f })

/-- R426. -/
def execSearch (d : Desc) (env : Env) (s : State) : Host.Outcome State Fault Refusal :=
  .next (acceptSeq s d env (searchBody d))

/-! ## Tables (R431, R438, R439) -/

/-- R438: TABLE_LOAD with `unload`. -/
def tableUnloadBody (d : Desc) : M Done := do
  check (d.session != 0) .invalidField
  let t ← tableOf d
  if objectBusy (← getC) d then waitInside
  modC fun c =>
    let c := freePlaces c t.die t.place
    { c with obj := { c.obj with tables := mapDel c.obj.tables (tableIdOf d) } }
  return .done .ok t.frames 0

/-- R431: every page of a range is mapped on a die, writable and outbound. -/
def boundPages (die : Bool) (p : Nat) : Nat → M Bool
  | 0 => return true
  | n + 1 => do
    match ← xPage die (p + n) with
    | some h => if h.2.kind = 0 && h.2.write then boundPages die p n else return false
    | none => return false

/-- R438: TABLE_LOAD. A table that takes no stacked frames loads whatever its die has free: R207 does not say whether the floor must be kept for it (DESIGN CHOICE, log 171). -/
def tableLoadBody (d : Desc) : M Done := do
  if bit d.flags 0 then tableUnloadBody d
  else
    let src := d.field 2 63 0 0
    let rows := d.field 3 32 0 0
    let w := d.field 4 13 0 0
    let fmt := d.field 4 17 14 0
    let die := d.field 4 18 18 0 == 1
    let id := tableIdOf d
    let bound := bit d.flags 1
    let adaptive := bit d.flags 2
    check (d.session != 0 || rows == 0 || 2 ^ 32 < rows || w < 32 || 8192 < w || w % 32 != 0 ||
      (fmt != 6 && fmt != 8 && fmt != 9) || src % 65536 != 0) .invalidField
    let c ← getC
    check (mapHas c.obj.tables id || (inFlight c d 0x68).any fun x => !destroys x.desc && tableIdOf x.desc == id) .wrongState
    let pages := cdiv rows (rowsPerFrame w)
    if bound then
      check (src < hostHalf || globalEnd < src + 65536 * pages) .invalidField
      check (!(← boundPages die (src / 65536) pages)) .invalidField
    let n := (if bound then 0 else pages) + if adaptive then framesOf (4 * rows) else 0
    checkFresh (n != 0 && !fitsStack c die n) .noSpace
    let _ ← once fun c => (0, takeFree c die n)
    orUndo (fun c => giveFree c die n) do
      let bs ← if bound then pure [] else readBus 0 src (rows * w)
      modC fun c =>
        let p := takePlaces (giveFree c die n) die n
        setTable p.2 id
          { die := die, format := fmt, width := w, rows := rows, bound := bound, adaptive := adaptive
            va := if bound then src else 0, frames := n, place := p.1, bytes := cellsWrite [] 0 bs }
      return .done .ok n 0

/-- R438. -/
def execTableLoad (d : Desc) (env : Env) (s : State) : Host.Outcome State Fault Refusal :=
  .next (acceptSeq s d env (tableLoadBody d))

/-- R438. -/
def execTableUnload (d : Desc) (s : State) : Host.Outcome State Fault Refusal :=
  .next (acceptSeq s d [] (tableUnloadBody d))

/-! ## Rows -/

/-- R156: where a row of a bound table lies, by a walk of its die: the page and the offset there. A walk that faults is the device's own. -/
def rowPlace (t : Table) (r : Nat) (write : Bool) : M (Nat × XPage × Nat) := do
  match ← walk t.die (t.va + r / rowsPerFrame t.width * 65536 + r % rowsPerFrame t.width * t.width) write with
  | .ok p => return p
  | .error _ => failLogged 3 .dataError

/-- R435: another request that reads or writes a row of a bound table is in flight, and one of the two changes it. -/
def rowBusy (c : Core) (d : Desc) (id r : Nat) (write : Bool) : Bool :=
  c.sess.waiting.any fun w => w.desc != d && match w.row with
    | some (t, k, x) => t == id && k == r && (write || x)
    | none => false

/-- R435: an access of a row of a bound table is held while one that changes the row, or that the access would change it under, is in flight; in flight itself, it is seen as such. -/
def holdRow {α : Type} (d : Desc) (r : Nat) (write : Bool) (m : M α) : M α := do
  let s ← get
  if s.had = 0 && !s.sent && s.past.isEmpty && rowBusy s.core d (tableIdOf d) r write then waitInside
  fun x => match m x with
    | .error (.wait w) => .error (.wait { w with row := some (tableIdOf d, r, write) })
    | y => y

/-- The bytes of a row: a bound one over the host link, or from a page that has since been mapped in device memory, where a failing check block ends the request with a status. -/
def readRow (d : Desc) (t : Table) (r : Nat) (write : Bool) (st : Status) : M (List Byte) := do
  if t.bound then
    let (_, x, off) ← rowPlace t r false
    if x.kind = 0 then
      let a := outBus (← getC) (x.pa + off)
      holdRow d r write (readOutbound a t.width)
    else
      if let some b := x.bad.find? fun b => off / 256 ≤ b && b ≤ (off + t.width - 1) / 256 then
        if x.kind = 1 then failBlock (pairOfNo (x.frame (b / 256))) (x.blockPa b) st else failLogged 3 st 0 (x.blockPa b)
      return cellsRead x.bytes off t.width
  else return cellsRead t.bytes (r * t.width) t.width

/-- R437: a row's accumulator; +0 is not listed. -/
def setAdapt (t : Table) (r : Nat) (acc : Option W32) : Table :=
  match acc with
  | some a => { t with adapt := if a = 0 then mapDel t.adapt r else mapSet t.adapt r a }
  | none => t

/-- R436: the bytes of a row of a loaded table, with fresh check values. -/
def setRow (t : Table) (r : Nat) (bs : List Byte) : Table :=
  { t with bytes := cellsWrite t.bytes (r * t.width) bs, bad := mapDel t.bad r }

/-- EMB_STAT.ROWS counts a row written. -/
def rowWritten (c : Core) (id : Nat) (f : Table → Table) : Core :=
  match mapGet c.obj.tables id with
  | none => c
  | some t => regCount (setTable c id (f t)) 0x430008 63 32 1

/-- R435, R436: a row is written whole, with its accumulator, and stays written: of a bound table to its place outside, or into the page that has since been mapped there, whose check blocks it seals afresh where it fills them (R468). -/
def writeRow (d : Desc) (t : Table) (r : Nat) (bs : List Byte) (acc : Option W32) : M Unit := do
  let id := tableIdOf d
  if t.bound then
    let (k, x, off) ← rowPlace t r true
    if x.kind = 0 then
      let c ← getC
      let a := outBus c (x.pa + off)
      let _ ← holdRow d r true (oncePosted (ideStream c a) a fun c => (0, rowWritten (busPayload c a bs) id (setAdapt · r acc)))
    else
      let _ ← once fun c => (0, rowWritten { c with mem := { c.mem with xmap := c.mem.xmap.mod t.die fun m => mapMod m k fun x =>
        { x with bytes := cellsWrite x.bytes off bs, bad := x.bad.filter fun b => !(off ≤ 256 * b && 256 * b + 256 ≤ off + bs.length) } } } id (setAdapt · r acc))
  else
    let _ ← once fun c => (0, rowWritten c id fun t => setAdapt (setRow t r bs) r acc)

/-- A row whose check block fails (R439 order 5): one that is read, or whose block holds other rows as well. -/
def rowCheckFails (t : Table) (r : Nat) (reads : Bool) : Bool := !t.bound && mapHas t.bad r && (reads || t.width % 256 != 0)

/-- The table as earlier items have left it. -/
def tableNow (d : Desc) (t : Table) : M Table := do return (mapGet (← getC).obj.tables (tableIdOf d)).getD t

/-- R430, R439: the row that an item of a request on rows names. -/
def rowIdOf (d : Desc) (t : Table) (i : Nat) : M Nat := do
  let r := leAt (← readBus 0 (d.field 2 63 0 0 + 4 * i) 4) 0 4
  check (t.rows ≤ r) .invalidField
  return r

/-- R439 order 5: a row of a loaded table whose check block fails. -/
def checkRow (d : Desc) (t : Table) (r : Nat) (reads : Bool) : M Unit := do
  if rowCheckFails t r reads then
    let p := t.rowAt (tableIdOf d) r
    failBlock p.1 p.2 .checkMismatch

/-- R436: one row of a ROW_REPLACE. -/
def rowReplaceItem (d : Desc) (t : Table) (i : Nat) : M Nat := do
  let r ← rowIdOf d t i
  let bs ← readBus 0 (d.field 3 63 0 0 + i * t.width) t.width
  let now ← tableNow d t
  checkRow d now r false
  writeRow d now r bs none
  return 1

/-- R436: ROW_REPLACE. -/
def rowReplaceBody (d : Desc) : M Done := do
  let n := d.field 4 26 10 0
  check (d.field 2 63 0 0 % 4 != 0 || d.field 3 63 0 0 % 32 != 0 || 65536 < n) .invalidField
  if n = 0 then return .done .ok 0 0
  let t ← tableOf d
  let _ ← eachItem (rowReplaceItem d t) (List.range n)
  return .done .ok n 0

/-- R436. -/
def execRowReplace (d : Desc) (env : Env) (s : State) : Host.Outcome State Fault Refusal :=
  .next (acceptSeq s d env (rowReplaceBody d))

/-- R437: a row and its accumulator after an update by a rule. -/
def updatedRow (rule : Nat) (alpha eps : W32) (x g : List W32) (acc : W32) : List W32 × W32 :=
  if rule = 0 then (x.zipWith (fun v h => fma alpha h v) g, acc)
  else
    let acc := fadd acc (fdiv (freduce (g.map fun v => fmul v v)) (fOfNat x.length))
    let s := fdiv alpha (fadd (fsqrt acc) eps)
    (x.zipWith (fun v h => fma (fneg s) h v) g, acc)

/-- R437: one row of a ROW_UPDATE. -/
def rowUpdateItem (d : Desc) (t : Table) (i : Nat) : M Nat := do
  let rule := d.field 4 27 27 0
  let alpha := BitVec.ofNat 32 (d.field 5 31 0 0)
  let eps := BitVec.ofNat 32 (d.field 5 63 32 0)
  let e := t.width / elemBytes t.format
  let r ← rowIdOf d t i
  let g ← readBus 0 (d.field 3 63 0 0 + 4 * e * i) (4 * e)
  let now ← tableNow d t
  checkRow d now r true
  let old ← readRow d now r true .checkMismatch
  let acc := (mapGet now.adapt r).getD 0
  let (x, acc) := updatedRow rule alpha eps (rowToF32 t.format old) (f32s g 0 e) acc
  writeRow d now r (rowOfF32 t.format x) (if rule = 1 then some acc else none)
  return 1

/-- R437: ROW_UPDATE. A count of 0 completes before `rule` is looked at (R412). -/
def rowUpdateBody (d : Desc) : M Done := do
  let n := d.field 4 26 10 0
  check (d.field 2 63 0 0 % 4 != 0 || d.field 3 63 0 0 % 4 != 0 || 65536 < n) .invalidField
  if n = 0 then return .done .ok 0 0
  let plain : Bool := ((mapGet (← getC).obj.tables (tableIdOf d)).map fun t => !t.adaptive).getD false
  check (d.field 4 27 27 0 == 1 && plain) .invalidField
  let t ← tableOf d
  let _ ← eachItem (rowUpdateItem d t) (List.range n)
  return .done .ok n 0

/-- R437. -/
def execRowUpdate (d : Desc) (env : Env) (s : State) : Host.Outcome State Fault Refusal :=
  .next (acceptSeq s d env (rowUpdateBody d))

/-! ## ROW_POOL (R432 to R434) -/

/-- The bags of a request: the row ids of each; none when a bag breaks R439 order 4. -/
def bagRows (t : Table) (ids bags : List Byte) (nids : Nat) (i : Nat) : Option (List Nat) :=
  let e := leAt bags (8 * i) 8
  let first := bits e 31 0
  let n := bits e 42 32
  if 1024 < n || nids < first + n then none
  else
    let rs := (List.range n).map fun k => leAt ids (4 * (first + k)) 4
    if rs.any fun r => t.rows ≤ r then none else some rs

/-- R433: the rows of a bag of a bound table, read in order; a failing check block fails a part of the request (R439 order 6). -/
def stageRows (d : Desc) (t : Table) : List Nat → M (List (List Byte))
  | [] => return []
  | r :: rs => do
    let b ← readRow d t r false .partFailed
    return b :: (← stageRows d t rs)

/-- R433: the rows of every bag. -/
def stageBags (d : Desc) (t : Table) : List (List Nat) → M (List (List (List Byte)))
  | [] => return []
  | rs :: bags => do
    let b ← if t.bound then stageRows d t rs else pure []
    return b :: (← stageBags d t bags)

/-- R432: the GATHER_MAX commands of some rows in one pair: groups of up to `size`. -/
def gatherGroup (id : Nat) (ring bag pair size w : Nat) (staged : Bool) (rows : List (Nat × List Byte)) (c : Core) : Core :=
  (List.range (cdiv rows.length size)).foldl (fun c g =>
    let some0 := (rows.drop (size * g)).take size
    let o : GatherOp := { table := id, bag := bag, rows := some0.map (·.1), staged := some0.map (·.2) }
    enqueue c pair { op := .gather o, n := some0.length, w := w, owner := .job ring
                     stage := if staged then cdiv some0.length (rowsPerFrame w) else 0 }) c

/-- R191, R433: rows of a bound table that the staging frames of some one pair of its die hold, up to the 64 of a group. -/
def stagedGroup (c : Core) (t : Table) : Nat :=
  let rooms := (List.range 2048).map fun i =>
    let q := pairBase t.die + i
    if pairInService c q && !(pairOf c q).unitFenced then nth (c.mem.stagePairs.get t.die) i 0 else 0
  min 64 (rooms.foldl max 0 * rowsPerFrame t.width)

/-- R432, R433: the GATHER_MAX commands of a bag: its rows by the pair that holds them; of a bound table, by the staging frames of one pair that they are packed into. -/
def gatherBag (id : Nat) (t : Table) (ring : Nat) (c : Core) (b : Nat × List Nat × List (List Byte)) : Core :=
  if t.bound then
    let size := stagedGroup c t
    match stagePair c t.die none (cdiv (min size b.2.1.length) (rowsPerFrame t.width)) with
    | some q => gatherGroup id ring b.1 q size t.width true (b.2.1.zip b.2.2) c
    | none => c
  else
    ((b.2.1.filterMap t.rowPair).eraseDups).foldl (fun c q =>
      gatherGroup id ring b.1 q 64 t.width false ((b.2.1.filter fun r => t.rowPair r == some q).map fun r => (r, [])) c) c

/-- R50, R191: a request waits for staging frames. -/
def waitStagingFrames {α : Type} : M α := waitInside

/-- R191, R434: staging frames that the output rows of a ROW_POOL take. -/
def poolStage (t : Table) (nbags : Nat) : Nat := cdiv (nbags * t.width) 65536

/-- R432, R434: a lookup whose gathers have all come back: the bags' rows go out together, and their staging frames come free. -/
def poolFinish (d : Desc) (j : Job) : M Done := do
  let t ← tableNamed d
  let n := d.field 5 20 10 0
  modC fun c => giveStaging c t.die (poolStage t n)
  if let some st := j.failed then refuse st
  let row := fun i => maxRows t.format t.width ((j.rows.filter fun p => p.1 == i).map (·.2))
  postBus 0 (d.field 4 63 0 0) ((List.range n).flatMap row)
  modC fun c => regCount c 0x430008 31 0 n
  return .done .ok n 0

/-- R432: ROW_POOL. -/
def rowPoolBody (d : Desc) : M Done := do
  let ids := d.field 2 63 0 0
  let bags := d.field 3 63 0 0
  let out := d.field 4 63 0 0
  let nbags := d.field 5 20 10 0
  let nids := d.field 5 52 32 0
  check (ids % 4 != 0 || bags % 8 != 0 || out % 32 != 0 || 1024 < nbags) .invalidField
  if nbags = 0 then return .done .ok 0 0
  check (1048576 < nids) .invalidField
  let t ← tableOf d
  let idb ← if nids = 0 then pure [] else readBus 0 ids (4 * nids)
  let bagb ← readBus 0 bags (8 * nbags)
  let rows := (List.range nbags).map (bagRows t idb bagb nids)
  check (rows.any (·.isNone)) .invalidField
  let rows := rows.map (·.getD [])
  let staged ← stageBags d t rows
  let c ← getC
  if c.mem.stagingFree.get t.die < poolStage t nbags || (t.bound && stagedGroup c t == 0 && rows.any (!·.isEmpty)) then waitStagingFrames
  modC fun c => takeStaging c t.die (poolStage t nbags)
  startJob d { desc := d }
  modC fun c => ((List.range nbags).zip (rows.zip staged)).foldl (gatherBag (tableIdOf d) t d.ring) c
  let c ← getC
  if unitsBusy c (.job d.ring) then return .running
  modC fun c => endJob c d
  poolFinish d ((mapGet c.obj.jobs d.ring).getD { desc := d })

/-- R432. -/
def execRowPool (d : Desc) (env : Env) (s : State) : Host.Outcome State Fault Refusal :=
  .next (acceptSeq s d env (rowPoolBody d))

/-! ## Jobs whose commands have all come back -/

/-- A descriptor that waited for bank-unit commands completes. -/
def finishJob (d : Desc) (j : Job) : M Done := do
  modC fun c => endJob c d
  match d.opcode with
  | 0x02 => if let some st := j.failed then refuse st else return .done .ok (xPages d) 0
  | 0x64 => searchFinish d j
  | _ => poolFinish d j

end Sys2Proof.Machine
end

