-- ==== Sys2Proof/Machine/ConfigSpace.lean ====
section
/-! DEFINITION. Configuration space (03_host_link R82 to R85, R88, R89, R91, R92, R95, 00_scope R2): the registers of the function that the spec names, and the host's reads and writes of them. The spec names the registers; their places in the capabilities, and where the capabilities lie, are the model's (log 131). -/

namespace Sys2Proof.Machine

/-- R84, R2: class code 0x12_0000 and Revision ID, the stepping. -/
def classAndRevision : Nat := 0x12000000 + 0xB0

/-- R84, R85: the low and high words of a 64-bit, non-prefetchable memory BAR of 16 MiB. -/
def barLow (b : Nat) : Nat := 4 + b % 256 * 2 ^ 24
def barHigh (b : Nat) : Nat := b / 256

/-- The PCIe code of a link speed. -/
def speedCode (gts : Nat) : Nat := if gts = 64 then 6 else if gts = 32 then 5 else if gts = 16 then 4 else 0

/-- R82, R89: Device Control. -/
def deviceControl (g : Cfg) : Nat := fieldAt 4 1 (b2n g.relaxed) + fieldAt 5 3 g.mps + fieldAt 12 3 g.mrrs

/-- The configuration word at an offset divisible by 4: Device Capabilities give 512 B payloads (R82) and function-level reset (R106); Link Capabilities 64 GT/s, 16 lanes and ASPM L1 alone (R80, R83); Device Capabilities 2 the two CompareAndSwap sizes and 10-bit tags (R88, R92); the Data Object Exchange capability at 0x140, its status and its read mailbox (R101, R542). -/
def configWord (c : Core) (off : Nat) : Nat :=
  let g := c.cfg
  match off with
  | 0x00 => Config.vendorId % 2 ^ 16 + Config.deviceId % 2 ^ 16 * 2 ^ 16
  | 0x04 => 0x00100000
  | 0x08 => classAndRevision
  | 0x10 => barLow g.bar0
  | 0x14 => barHigh g.bar0
  | 0x18 => barLow g.bar2
  | 0x1C => barHigh g.bar2
  | 0x34 => 0x40
  | 0x40 => 0x00028010
  | 0x44 => 0x10008002
  | 0x48 => deviceControl g
  | 0x4C => 0x00000906
  | 0x50 => g.aspm + fieldAt 16 4 (speedCode c.link.speed) + fieldAt 20 6 c.link.width
  | 0x64 => 0x00030300
  | 0x68 => fieldAt 12 1 (b2n g.tag10)
  | 0x80 => 0x07FF0011 + fieldAt 30 1 (b2n c.rings.functionMask) + fieldAt 31 1 (b2n c.rings.msixEnable)
  | 0x84 => 0x8000
  | 0x88 => 0x7000
  | 0x100 => 0x14020001
  | 0x104 => g.aer
  | 0x140 => 0x0001002E
  | 0x14C => b2n (c.doe.token.isSome || !c.doe.queue.isEmpty) + fieldAt 2 1 (b2n c.doe.error) + fieldAt 31 1 (b2n !c.doe.out.isEmpty)
  | 0x154 => c.doe.out.headD 0
  | _ => 0

/-- A configuration access of 1, 2 or 4 bytes that lies in one word. -/
def configAccess (off size : Nat) : Bool := (size == 1 || size == 2 || size == 4) && off % size == 0 && decide (off < 4096)

/-- R571: configuration requests are answered while the link is up. -/
def configServes (c : Core) : Bool := c.power.on && c.link.up

/-- A configuration read; one of another shape, or with no link, is no request of the function. -/
def configRead (c : Core) (off size : Nat) : Core :=
  if !configServes c then c
  else if !configAccess off size then { c with reply := .ur }
  else { c with reply := .data (bytesAt (natLe 4 (configWord c (off / 4 * 4))) (off % 4) size) }

/-- The word that a write of some bytes leaves, were every bit writable. -/
def mergedWord (old off size value : Nat) : Nat :=
  putBits old (8 * (off % 4) + 8 * size - 1) (8 * (off % 4)) (value % 2 ^ (8 * size))

/-- Changes the configuration registers. -/
def modCfg (c : Core) (f : Cfg → Cfg) : Core := { c with cfg := f c.cfg }

/-- What a written configuration word sets: BARs, Device Control (R82, R89), Link Control (R83), Device Control 2 (R88), MSI-X Message Control (R96), the error status, whose bits a 1 clears (R91), and the mailbox: a word written, a word taken (R101). -/
def configPut (c : Core) (off word written : Nat) : Core :=
  match off with
  | 0x10 => modCfg c fun g => { g with bar0 := g.bar0 / 256 * 256 + word / 2 ^ 24 }
  | 0x14 => modCfg c fun g => { g with bar0 := word * 256 + g.bar0 % 256 }
  | 0x18 => modCfg c fun g => { g with bar2 := g.bar2 / 256 * 256 + word / 2 ^ 24 }
  | 0x1C => modCfg c fun g => { g with bar2 := word * 256 + g.bar2 % 256 }
  | 0x48 => modCfg c fun g => { g with relaxed := bit word 4, mps := bits word 7 5, mrrs := bits word 14 12 }
  | 0x50 => modCfg c fun g => { g with aspm := bits word 1 0 }
  | 0x68 => sendWaiting (modCfg c fun g => { g with tag10 := bit word 12 })
  | 0x80 => msixRelease { c with rings := { c.rings with functionMask := bit word 30, msixEnable := bit word 31 } }
  | 0x104 => modCfg c fun g => { g with aer := g.aer - (g.aer &&& written) }
  | 0x150 => { c with doe := { c.doe with words := c.doe.words ++ [written] } }
  | 0x154 => { c with doe := { c.doe with out := c.doe.out.drop 1 } }
  | _ => c

/-- A configuration write. -/
def configWrite (c : Core) (off size value : Nat) : Core :=
  let base := off / 4 * 4
  if !configServes c || !configAccess off size then c
  else configPut c base (mergedWord (configWord c base) off size value) (mergedWord 0 off size value)

end Sys2Proof.Machine
end

