-- ==== Sys2Proof/Machine/Rings.lean ====
section
/-! DEFINITION. Rings, doorbells and completions (04_rings): the command window, tails and heads, fetching, record writing and interrupts. -/

namespace Sys2Proof.Machine

/-! ## NOP and FENCE (R120, R127) -/

/-- R127, R128: an earlier descriptor of the same ring is still open. -/
def earlierOpen (c : Core) (d : Desc) : Bool :=
  match mapGet c.rings.subs d.ring with
  | none => false
  | some r => !(r.opened.takeWhile fun n => n != d.count).isEmpty

/-- The fetcher keeps a descriptor that it carries out itself until the earlier ones of its ring have completed. -/
def fetcherKeep (c : Core) (d : Desc) : Core :=
  match mapGet c.rings.subs d.ring with
  | none => c
  | some r =>
    if r.buffer.contains d then c
    else
      let r := { r with buffer := r.buffer ++ [d], opened := r.opened ++ [d.count], spent := r.spent + 1 }
      { c with rings := { c.rings with subs := mapSet c.rings.subs d.ring r } }

/-- R120: NOP completes ST_OK, honouring FENCE_BEFORE. -/
def execNop (d : Desc) (s : State) : Host.Outcome State Fault Refusal :=
  onCore s fun c =>
    if !serving c then c
    else if d.fenceBefore && earlierOpen c d then fetcherKeep c d
    else complete c d .ok 0 0

/-- R127: FENCE completes ST_OK once every earlier descriptor of its ring has completed, and holds back its ring until then. -/
def execFence (d : Desc) (s : State) : Host.Outcome State Fault Refusal :=
  onCore s fun c =>
    if !serving c then c
    else if earlierOpen c d then fetcherKeep c d
    else complete c d .ok 0 0

/-! ## The command window (R109 to R114, R600) -/

/-- R108: ids of a kind: 0 submission, 1 completion, 2 stream, 3 event. -/
def ringLimit (kind : Nat) : Nat :=
  match kind with
  | 0 => 4096
  | 1 => 4096
  | 2 => 1024
  | _ => 16

/-- A ring of a kind and id exists. -/
def ringExists (c : Core) (kind id : Nat) : Bool :=
  if kind = 0 then mapHas c.rings.subs id else (recRing c kind id).isSome

/-- Sets STATUS of the window. -/
def windowStatus (c : Core) (st : Status) : Core := { c with rings := { c.rings with status := stCode st } }

/-- R109: the first failing check of a create command. -/
def createCheck (c : Core) (kind id : Nat) : Option Status :=
  let log2 := regField c 0x10018 4 0
  let gen := regField c 0x10018 6 5
  let pre := regField c 0x10020 30 24
  if ringLimit kind ≤ id then some .invalidField
  else if ringExists c kind id then some .wrongState
  else if log2 < 4 || 16 < log2 then some .invalidField
  else if kind = 0 && (gen = 0 || pre = 0 || 64 < pre) then some .invalidField
  else if kind ≠ 0 && (2047 < regField c 0x10018 18 8 || regField c 0x10028 7 0 = 0 || regField c 0x10028 31 16 = 0) then
    some .invalidField
  else if kind = 0 && (!ringExists c 1 (regField c 0x10020 11 0) ||
      (regField c 0x10020 22 22 = 1 && !ringExists c 2 (regField c 0x10020 21 12))) then some .unknownHandle
  else none

/-- R112: a new ring with tail, head and counts at 0; a submission ring that names an errored completion ring is errored with cause 5 (R143). -/
def createRing (c : Core) (kind id : Nat) : Core :=
  let base := regField c 0x10010 63 12 * 4096
  let log2 := regField c 0x10018 4 0
  if kind = 0 then
    let r : SubRing :=
      { base := base, log2 := log2, gen := regField c 0x10018 6 5, cq := regField c 0x10020 11 0
        stream := if regField c 0x10020 22 22 = 1 then some (regField c 0x10020 21 12) else none
        prefetch := regField c 0x10020 30 24 }
    let c := { c with rings := { c.rings with subs := mapSet c.rings.subs id r } }
    if ringErrored c 1 r.cq then ringError1 c 0 id 5 0 else c
  else
    setRecRing c kind id
      { base := base, log2 := log2, irqEn := regField c 0x10018 7 7 == 1, vector := regField c 0x10018 18 8
        count := regField c 0x10028 7 0, time := regField c 0x10028 31 16 }

/-- R109, R110: a create command. -/
def ringCreate (c : Core) (kind id : Nat) : Core :=
  if ringsHeld c then c
  else if c.rings.window.isSome then logHost c 0x0C 0x10000
  else match createCheck c kind id with
    | some st => windowStatus c st
    | none => windowStatus (createRing c kind id) .ok

/-- R511: the rings of HNG_TAKE_CFG are still needed by a taken-over turn or a kept completion. -/
def takeNeeds (c : Core) : Bool :=
  !c.twin.kept.isEmpty || c.sess.warm.any fun p => match p.2.turn with | some t => t.replayed | none => false

/-- R600: the first failing check of a destroy command. -/
def destroyCheck (c : Core) (kind id : Nat) : Option Status :=
  if ringLimit kind ≤ id then some .invalidField
  else if !ringExists c kind id then some .unknownHandle
  else if (kind = 1 && c.rings.subs.any fun p => p.2.cq == id) ||
      (kind = 2 && c.rings.subs.any fun p => p.2.stream == some id) ||
      (kind = 1 && takeNeeds c && regField c 0x700020 11 0 == id) ||
      (kind = 2 && takeNeeds c && regField c 0x700020 21 12 == id) then some .wrongState
  else none

/-- R113, R114: fetching or record writing of a ring stops; records held for it are discarded. -/
def startDestroy (c : Core) (kind id : Nat) : Core :=
  if kind = 0 then
    { c with rings := { c.rings with
      subs := mapMod c.rings.subs id fun r => { r with destroying := true }, window := some (0, id) } }
  else match recRing c kind id with
    | none => c
    | some r =>
      let c := discardRecs (setRecRing c kind id { r with destroying := true }) kind id
      queueFreed { c with rings := { c.rings with window := some (kind, id) } }

/-- R600: a destroy command. -/
def ringDestroy (c : Core) (kind id : Nat) : Core :=
  if ringsHeld c then c
  else if c.rings.window.isSome then logHost c 0x0C 0x10000
  else match destroyCheck c kind id with
    | some st => windowStatus c st
    | none => startDestroy c kind id

/-- R113: a submission ring's last completion has been written. -/
def subDrained (c : Core) (id : Nat) : Bool :=
  (match mapGet c.rings.subs id with
    | some r => r.opened.isEmpty
    | none => true) &&
  !(c.rings.queue.any fun r => r.kind == 1 && bits (nth r.words 1 0) 59 48 == id)

/-- R109. -/
def execRingCreate (kind id : Nat) (s : State) : Host.Outcome State Fault Refusal :=
  onCore s fun c => bar0Write c 0x10000 8 fun c => ringCreate c kind id

/-- R600. -/
def execRingDestroy (kind id : Nat) (s : State) : Host.Outcome State Fault Refusal :=
  onCore s fun c => bar0Write c 0x10000 8 fun c => ringDestroy c kind id

/-- R113, R114: BUSY clears and the ring is gone; a device that does not serve keeps its rings (R57). -/
def execRingDestroyDone (s : State) : Host.Outcome State Fault Refusal :=
  onCore s fun c =>
    match c.rings.window with
    | none => c
    | some (kind, id) =>
      if !alive c || (kind = 0 && !subDrained c id) then c
      else
        let g := c.rings
        let c := { c with rings :=
          if kind = 0 then { g with subs := mapDel g.subs id, window := none }
          else if kind = 1 then { g with cqs := mapDel g.cqs id, window := none }
          else if kind = 2 then { g with streams := mapDel g.streams id, window := none }
          else { g with events := mapDel g.events id, window := none } }
        windowStatus c .ok

/-! ## Doorbells (R87, R94, R121, R122, R133) -/

/-- R122: a submission tail value. -/
def tailWrite (c : Core) (n value : Nat) : Core :=
  let v := value % 2 ^ 32
  match mapGet c.rings.subs n with
  | none => logHost c 0x0B (n * 4096)
  | some r =>
    if (v + 2 ^ 32 - r.fetched) % 2 ^ 32 ≤ 2 ^ r.log2 then
      { c with rings := { c.rings with subs := mapSet c.rings.subs n { r with tail := v } } }
    else ringError c 0 n 1 v

/-- R121, R133: a completion head value. -/
def cqHeadWrite (c : Core) (n value : Nat) : Core :=
  if ringExists c 1 n then headWrite c 1 n (value % 2 ^ 32) else logHost c 0x0B (n * 4096 + 8)

/-- R57, R87, R571: a doorbell write of a size: ignored before READY, dropped and logged unless it is an aligned 8-byte write; a held device takes none. -/
def doorbellWrite (c : Core) (addr size : Nat) (f : Core → Core) : Core :=
  if !barReady c then c
  else if size ≠ 8 then logHost c 0x0B addr
  else if ringsHeld c then c
  else f (wakeBy c .doorbell)

/-- R122. -/
def execSubmissionTailWrite (n size : Nat) (value : Word) (s : State) : Host.Outcome State Fault Refusal :=
  onCore s fun c => doorbellWrite c (n * 4096) size fun c => tailWrite c n value.toNat

/-- R133. -/
def execCompletionHeadWrite (n size : Nat) (value : Word) (s : State) : Host.Outcome State Fault Refusal :=
  onCore s fun c => doorbellWrite c (n * 4096 + 8) size fun c => cqHeadWrite c n value.toNat

/-- R92, R94: a CompareAndSwap on +0x0 of a doorbell page: the catcher takes the swap value as a write when the compare value matches, and the old value is returned. Any other atomic operation, BAR0, and any other offset answer Unsupported Request. -/
def execDoorbellCompareAndSwap (op : AtomicOp) (bar n off : Nat) (wide : Bool) (compare swap : List Word) (s : State) :
    Host.Outcome State Fault Refusal :=
  onCore s fun c =>
    if !c.power.on then c
    else if op ≠ .compareAndSwap || bar ≠ 2 || off ≠ 0 || 4096 ≤ n then { c with reply := .ur }
    else
      let (t, h) := doorbellWords c n
      let cmp := fun i => (compare.getD i 0).toNat
      let sw := fun i => (swap.getD i 0).toNat
      let c' := { c with reply := .data (natLe 8 t ++ if wide then natLe 8 h else []) }
      if !ready c then c'
      else if cmp 0 = t && (!wide || cmp 1 = h) then
        let c' := tailWrite (wakeBy c' .doorbell) n (sw 0)
        if wide then cqHeadWrite c' n (sw 1) else c'
      else c'

/-! ## Stream and event heads (R585) -/

/-- R579, R585: a write of a head register; the upper half is reserved. -/
def headRegWrite (c : Core) (base kind n off size : Nat) (value : Word) : Core :=
  bar0Write c (base + 8 * n + off) size fun c =>
    if ringsHeld c then c
    else if !ringExists c kind n then logHost c 0x0B (base + 8 * n + off)
    else if off ≠ 0 then c
    else wakingBoth c fun c => overflowRecords (headWrite c kind n (value.toNat % 2 ^ 32))

/-- R585. -/
def execStreamHeadWrite (n off size : Nat) (value : Word) (s : State) : Host.Outcome State Fault Refusal :=
  onCore s fun c => headRegWrite c 0x20000 2 n off size value

/-- R585, R141. -/
def execEventHeadWrite (n off size : Nat) (value : Word) (s : State) : Host.Outcome State Fault Refusal :=
  onCore s fun c => headRegWrite c 0x22000 3 n off size value

/-! ## Fetching (R123, R125, R575) -/

/-- R59: descriptors in the fetch buffer. -/
def fetchBuffered (c : Core) : Nat := c.rings.subs.foldl (fun n p => n + p.2.buffer.length) 0

/-- R59: descriptors in a die's router store. -/
def routerHeld (c : Core) (die : Bool) : Nat :=
  c.sess.held.foldl (fun n p => if sessionDie c p.1 == die then n + p.2.length else n) 0

/-- R59: places of a die's router store. -/
def routerMax : Nat := 16384

/-- A descriptor needs a place of its router's store. -/
def needsPlace (d : Desc) : Bool := d.session != 0 && d.opcode != 0x12 && d.opcode != 0x15

/-- R59: the router store of a descriptor's die is full. -/
def cannotPlace (c : Core) (d : Desc) : Bool := needsPlace d && decide (routerMax ≤ routerHeld c (sessionDie c d.session))

/-- R127, R129: a FENCE of a ring has been taken up and its completion has not been handed to the writer. -/
def fenceOpen (c : Core) (ring : Nat) : Bool :=
  c.rings.engines.any fun e => match e.desc with
    | some d => d.ring == ring && d.opcode == 1 && bits (nth e.out.words 1 0) 7 0 == stCode .ok
    | none => false

/-- R127, R128, R601: the first buffered descriptor of a ring that nothing holds, with what the generic checks say of it. `sids` are the sessions that a waiting FENCE_BEFORE holds (0 for the sequencer). A FENCE that passes its checks and waits holds everything behind it. -/
def routableFrom (c : Core) (gen : Nat) (sids : List Nat) : List Desc → Option (Desc × Option Status)
  | [] => none
  | d :: ds =>
    let bad := genericCheck c gen d
    let fence := d.opcode == 1 && bad.isNone
    if sids.contains d.session then (if fence then none else routableFrom c gen sids ds)
    else match bad with
      | some st => some (d, some st)
      | none =>
        if fence then (if earlierOpen c d then none else some (d, none))
        else if d.fenceBefore && earlierOpen c d then routableFrom c gen (d.session :: sids) ds
        else some (d, none)

/-- R127, R128, R601: the descriptor of a ring that may be routed next, and its status when it is refused. -/
def routable (c : Core) (ring : Nat) (r : SubRing) : Option (Desc × Option Status) :=
  if fenceOpen c ring then none else routableFrom c r.gen [] r.buffer

/-- R59: the next descriptor of a ring cannot be placed. -/
def ringBlocked (c : Core) (ring : Nat) (r : SubRing) : Bool :=
  match routable c ring r with
  | some (d, none) => cannotPlace c d
  | _ => false

/-- R59, R125: a ring may be visited: its tail is ahead, it holds credits, its next descriptor can be placed and nothing has stopped it. -/
def fetchable (c : Core) (ring : Nat) (r : SubRing) : Bool :=
  r.tail != r.fetched && r.spent < r.prefetch && !r.errored && !r.destroying && !ringBlocked c ring r

/-- R125: the next ring in round-robin order after the last one visited. -/
def nextRing (c : Core) : Option Nat :=
  let ids := (c.rings.subs.filter fun p => fetchable c p.1 p.2).map (·.1)
  match ids.find? fun i => c.rings.lastRing < i with
  | some i => some i
  | none => ids.head?

/-- R125: entries of one visit. -/
def visitCount (c : Core) (r : SubRing) : Nat :=
  let pending := (r.tail + 2 ^ 32 - r.fetched) % 2 ^ 32
  let left := 2 ^ r.log2 - r.fetched % 2 ^ r.log2
  min (min (min (r.prefetch - r.spent) pending) (min 8 left)) (1024 - fetchBuffered c)

/-- The descriptor in entry bytes. -/
def descOf (ring count : Nat) (bs : List Byte) : Desc :=
  ⟨ring, count, (List.range (bs.length / 8)).map fun i => BitVec.ofNat 64 (leAt bs (8 * i) 8)⟩

/-- R91: a failed descriptor fetch is logged in the error log (kind 0x09), and one that was sent under Advanced Error Reporting. -/
def logFetch (c : Core) (addr : Nat) (sent : Bool) (a : Ans) : Core :=
  logErr (if sent then logAer c a else c) { kind := 9, severity := 1, addr := outPa c addr }

/-- R123, R125: one visit of a ring with the answer to its read; a failed read is a ring error (R91, R143), and so is one whose stream is barred (R98). Without a tag the read waits (R88). -/
def fetchVisit (c : Core) (ring : Nat) (a : Ans) : Core :=
  match mapGet c.rings.subs ring with
  | none => c
  | some r =>
    let n := visitCount c r
    let sz := entryBytes r.gen
    let addr := r.base + r.fetched % 2 ^ r.log2 * sz
    if !serving c || linkHeld c || nextRing c ≠ some ring || n = 0 || tagsFree c = 0 then c
    else match (if barredAt c 0 addr then .refused else a) with
      | .data bs =>
        let ds := (List.range n).map fun i => descOf ring ((r.fetched + i) % 2 ^ 32) (bytesAt bs (sz * i) sz)
        { c with rings := { c.rings with
          lastRing := ring
          subs := mapSet c.rings.subs ring { r with
            fetched := (r.fetched + n) % 2 ^ 32, spent := r.spent + n
            buffer := r.buffer ++ ds, opened := r.opened ++ ds.map (·.count) } } }
      | x => ringError (logFetch { c with rings := { c.rings with lastRing := ring } } addr (!barredAt c 0 addr) x) 0 ring 2 r.fetched

/-- R125. -/
def execFetchVisit (ring : Nat) (answer : Ans) (s : State) : Host.Outcome State Fault Refusal :=
  onCore s fun c => fetchVisit c ring answer

/-! ## Writing records (R130 to R138, R141) -/

/-- R130. -/
def execCompletionRecordWrite (ring : Nat) (s : State) : Host.Outcome State Fault Refusal :=
  onCore s fun c => writeRecord c 1 ring

/-- R98, R599: output bytes that cannot be sent end their TURN_RUN with ST_TIER_ERROR. -/
def bytesBarred (c : Core) (x : Rec) : Core :=
  let sid := recSession x
  let e := entryOf c sid
  if e.turn ≠ recTurn x || (((mapGet c.sess.warm sid).bind (·.turn)).isNone) then c
  else
    let c := retractRec x c
    match (c.sched.get e.homeDie).rows.find? fun r => r.session == sid with
    | some r => failRow c e.homeDie r .tierError
    | none => stopTurn c sid 8 .tierError

/-- R137, R599: the first queued record of a stream ring is written, or its bytes cannot be sent. -/
def streamWrite (c : Core) (ring : Nat) : Core :=
  match recRing c 2 ring, takeRec c.rings.queue 2 ring with
  | some r, some (x, _) => if canWrite c r && bytesFail c x then bytesBarred (writeRecord c 2 ring) x else writeRecord c 2 ring
  | _, _ => c

/-- R137: output bytes first, then the stream record. -/
def execStreamRecordWrite (ring : Nat) (s : State) : Host.Outcome State Fault Refusal :=
  onCore s fun c => streamWrite c ring

/-- R141. -/
def execEventRecordWrite (ring : Nat) (s : State) : Host.Outcome State Fault Refusal :=
  onCore s fun c => writeRecord c 3 ring

/-- R135: TIME has passed since the first record after the last message. -/
def execCoalesceTimerExpiry (kind ring : Nat) (s : State) : Host.Outcome State Fault Refusal :=
  onCore s fun c =>
    match recRing c kind ring with
    | none => c
    | some r =>
      if r.irqEn && 0 < r.unsignalled && alive c then msixDue (setRecRing c kind ring { r with unsignalled := 0 }) r.vector
      else c

/-- R96: `how` 0 clears a vector's mask bit in the BAR0 table (R86, R571), 1 sets MSI-X Enable and 2 clears Function Mask in configuration space; pending messages that nothing masks are sent. -/
def execMsixUnmask (how vector : Nat) (s : State) : Host.Outcome State Fault Refusal :=
  onCore s fun c =>
    match how with
    | 0 => bar0Write c (0x800C + 16 * vector) 4 fun c => msixRelease (if vector < 2048 then regPut c (0x8008 + 16 * vector) 32 32 0 else c)
    | 1 => if configServes c then msixRelease { c with rings := { c.rings with msixEnable := true } } else c
    | _ => if configServes c then msixRelease { c with rings := { c.rings with functionMask := false } } else c

end Sys2Proof.Machine
end

