-- ==== Sys2Proof/Machine/Text.lean ====
section
/-! DEFINITION. VOCAB_LOAD and its unload form (09_text, R270, R271). -/

namespace Sys2Proof.Machine

/-- Object-space frames of a vocabulary: its surface table, surface bytes and hash table (R269, R176). -/
def vocabLoft (h : List Byte) : Nat :=
  framesOf (8 * vocabTokens h) + framesOf (vocabSurfLen h) + framesOf (16 * 2 ^ vocabSlotsLog2 h)

/-- R270: VOCAB_LOADs in progress, other than `d`. -/
def vocabLoading (c : Core) (d : Desc) : Nat := ((inFlight c d 0x42).filter fun w => !bit w.desc.flags 0).length

/-- R271 check 3: a slot that is not empty, or a grammar id that is loading past its check 5 or loaded, names a vocabulary. -/
def vocabNamed (c : Core) (d : Desc) (digest : Nat) : Bool :=
  (c.obj.models.any fun p => modelVocab p.2.image == digest) ||
  (c.obj.grammars.any fun p => grammarVocab p.2.image == digest) ||
  ((inFlight c d 0x50).any fun w => ((firstAnswer w).map modelVocab) == some digest) ||
  ((inFlight c d 0x40).any fun w => ((firstAnswer w).map grammarVocab) == some digest)

/-- R270. -/
def vocabLoadBody (d : Desc) : M Done := do
  let image := d.field 2 63 0 0
  let bytes := d.field 3 63 0 0
  check (d.session != 0 || image % frameSize != 0 || bytes == 0) .invalidField
  let c ← getC
  check (16 ≤ c.obj.vocabs.length + vocabLoading c d) .noSpace
  let h ← readBus 0 image 64
  check (vocabHeaderBad h bytes) .invalidField
  check (hdrCheckBad h) .checkMismatch
  let n := framesOf bytes
  let loft := vocabLoft h
  let dg ← withBoth n loft fun runs => do
    let img ← readBus 0 image bytes
    checkHost (!checksMatch img (vocabCheckAt img))
    check (vocabHeaderBad img bytes || vocabBodyBad img) .invalidField
    let dg := digest8 img
    check (mapHas (← getC).obj.vocabs dg) .wrongState
    modC fun c => { c with obj := { c.obj with vocabs := mapSet c.obj.vocabs dg ⟨img, n, loft, runs⟩ } }
    return dg
  measure 7 (1 :: natLe 8 dg)
  return .done .ok (dg % 2 ^ 32) (dg / 2 ^ 32)

/-- R271. -/
def vocabUnloadBody (d : Desc) : M Done := do
  check (d.session != 0) .invalidField
  let dg := d.field 4 63 0 0
  let c ← getC
  match mapGet c.obj.vocabs dg with
  | none => refuse .unknownHandle
  | some v =>
    check (vocabNamed c d dg) .wrongState
    modC fun c =>
      let c := giveBoth c v.frames v.loft
      { c with obj := { c.obj with vocabs := mapDel c.obj.vocabs dg } }
    measure 7 (1 :: natLe 8 dg)
    return .done .ok 0 0

/-- R270. -/
def execVocabLoad (d : Desc) (env : Env) (s : State) : Host.Outcome State Fault Refusal :=
  .next (acceptSeq s d env (vocabLoadBody d))

/-- R271. -/
def execVocabUnload (d : Desc) (s : State) : Host.Outcome State Fault Refusal :=
  .next (acceptSeq s d [] (vocabUnloadBody d))

end Sys2Proof.Machine
end

