-- ==== Sys2Proof/Machine/Carry.lean ====
section
/-! DEFINITION. Routing and dispatch (R11, R12, R125 to R129, R601): fetched descriptors leave the fetch buffer, routers and the sequencer carry out the next one or go on with a waiting one, and the events that end a waiting request (R91, R99, R201). -/

namespace Sys2Proof.Machine

/-! ## What a descriptor does -/

/-- R116: the carrying out of a descriptor, by its opcode and the flag that selects a row of it. -/
def bodyOf (d : Desc) : M Done :=
  let off := bit d.flags 0
  match d.opcode with
  | 0x02 => xltMapBody d
  | 0x03 => xltUnmapBody d
  | 0x04 => tileCopyBody d
  | 0x10 => sessOpenBody d
  | 0x11 => sessCloseBody d
  | 0x12 => sessQueryBody d
  | 0x13 => appendBody d
  | 0x14 => turnRunBody d
  | 0x20 => parkBody d
  | 0x21 => reviveBody d
  | 0x22 => handoverOutBody d
  | 0x23 => handoverInBody d
  | 0x30 => prefixRegisterBody d
  | 0x31 => prefixReleaseBody d
  | 0x40 => grammarLoadBody d
  | 0x41 => grammarUnloadBody d
  | 0x42 => if off then vocabUnloadBody d else vocabLoadBody d
  | 0x50 => modelLoadBody d
  | 0x51 => modelUnloadBody d
  | 0x60 => if off then indexDestroyBody d else indexCreateBody d
  | 0x61 => vecInsertBody d
  | 0x62 => vecDeleteBody d
  | 0x63 => indexCompactBody d
  | 0x64 => searchBody d
  | 0x68 => if off then tableUnloadBody d else tableLoadBody d
  | 0x69 => rowReplaceBody d
  | 0x6A => rowPoolBody d
  | 0x6B => rowUpdateBody d
  | 0x70 => if off then accountDeleteBody d else accountSetBody d
  | 0x71 => bucketSetBody d
  | 0x72 => meterSetBody d
  | 0x80 => ckptStartBody d
  | 0x81 => ckptClassSetBody d
  | 0x82 => restoreBody d
  | _ => refuse .invalidField

/-- R215 to R219: a descriptor whose bank-unit commands are out finishes; any other is carried out. -/
def goOn (c : Core) (d : Desc) : M Done :=
  match mapGet c.obj.jobs d.ring with
  | some j => if j.desc = d then finishJob d j else bodyOf d
  | none => bodyOf d

/-- R9: a session's descriptor is checked against its account before its own checks. -/
def checked (d : Desc) (m : M Done) : M Done := if d.session = 0 then m else (do accountCheck d; m)

/-! ## Routing (R59, R68, R125 to R128, R601) -/

/-- R125: a descriptor leaves the fetch buffer and its credit returns. -/
def leaveBuffer (c : Core) (d : Desc) : Core :=
  { c with rings := { c.rings with
    subs := mapMod c.rings.subs d.ring fun r => { r with buffer := r.buffer.erase d, spent := r.spent - 1 } } }

/-- R126: the fetcher, a session router or the sequencer accepts a descriptor that passed the generic checks. -/
def acceptRouted (s : State) (d : Desc) : State :=
  let c := s.core
  match d.opcode with
  | 0x00 => { s with core := complete c d .ok 0 0 }
  | 0x01 => { s with core := complete c d .ok 0 0 }
  | 0x12 => settle s d [] (sessQueryBody d)
  | 0x15 => { s with core := turnCancel c d }
  | _ => { s with core := if d.session = 0 then holdSeq c d else holdSession c d }

/-- R601, R126: the next descriptor of a ring is judged and accepted; a refused one completes at once. A full router store takes none. -/
def descriptorRoute (s : State) (ring : Nat) : State :=
  let c := s.core
  match mapGet c.rings.subs ring with
  | none => s
  | some r =>
    if !serving c then s
    else match routable c ring r with
      | none => s
      | some (d, some st) => { s with core := complete (leaveBuffer c d) d st 0 0 }
      | some (d, none) =>
        if cannotPlace c d then s
        else acceptRouted { s with core := leaveBuffer c d } d

/-- R601. -/
def execDescriptorRoute (ring : Nat) (s : State) : Host.Outcome State Fault Refusal := .next (descriptorRoute s ring)

/-! ## Going on after a wait -/

/-- A waiting request belongs to a session, or to a ring's sequencer descriptor. -/
def waitsFor (sequencer : Bool) (id : Nat) (w : Waiting) : Bool :=
  if sequencer then w.desc.session == 0 && w.desc.ring == id else w.desc.session != 0 && w.desc.session == id

/-- Takes a waiting request off the list. -/
def unwait (c : Core) (w : Waiting) : Core :=
  { c with sess := { c.sess with waiting := c.sess.waiting.erase w } }

/-- A waiting descriptor goes on with more answers than it had. -/
def resume (s : State) (w : Waiting) (more : Env) : State :=
  let c := unwait s.core w
  let c := if w.desc.session = 0 then c else haspSession c w.desc.session
  let s := settle { s with core := c } w.desc (w.env ++ more) (checked w.desc (goOn c w.desc)) (some w)
  { s with core := sendWaiting s.core }

/-! ## Dispatch (R11, R126) -/

/-- R88, R98, R583, R598: answers can reach a waiting request: it has been sent and its stream has not failed, or it sends none and stream 0 does not hold it. -/
def canGoOn (c : Core) (w : Waiting) : Bool :=
  !w.lost && (if w.need = 0 then !(w.slot < 16 && w.stream == 0 && slotBarred c 0)
    else decide (0 < w.tags) && !(w.stream == 0 && bit c.link.insecure 0))

/-- R215, R356: the descriptor of a ring that waits for the inside: its bank-unit commands are back, or its positions are computed. -/
def insideReady (c : Core) (ring : Nat) : Option Desc :=
  match mapGet c.sess.seqProg ring with
  | none => none
  | some d =>
    if c.sess.waiting.any fun w => w.desc = d then none
    else if mapHas c.obj.jobs ring then (if unitsBusy c (.job ring) then none else some d)
    else if mapHas c.obj.registering ring then some d
    else none

/-- R11: the next held descriptor of a session is carried out. -/
def nextSession (s : State) (sid : Nat) (env : Env) : State :=
  match heldOf s.core sid with
  | [] => s
  | d :: ds =>
    if mapHas s.core.sess.inProg sid then s
    else
      let held := if ds.isEmpty then mapDel s.core.sess.held sid else mapSet s.core.sess.held sid ds
      let c := { s.core with sess := { s.core.sess with held := held } }
      startSession { s with core := c } d env (bodyOf d)

/-- R126: the next held descriptor of a ring is carried out. -/
def nextSeq (s : State) (ring : Nat) (env : Env) : State :=
  match seqHeldOf s.core ring with
  | [] => s
  | d :: ds =>
    if mapHas s.core.sess.seqProg ring then s
    else
      let held := if ds.isEmpty then mapDel s.core.sess.seqHeld ring else mapSet s.core.sess.seqHeld ring ds
      let c := { s.core with sess := { s.core.sess with seqHeld := held } }
      startSeq { s with core := c } d env (bodyOf d)

/-- R11, R126: a waiting descriptor goes on, else one whose inside work is done, else the next held one starts. -/
def descriptorDispatch (s : State) (sequencer : Bool) (id : Nat) (env : Env) : State :=
  let c := s.core
  if !serving c then s
  else match c.sess.waiting.find? fun w => waitsFor sequencer id w && canGoOn c w with
    | some w => resume s w env
    | none =>
      if !sequencer then nextSession s id env
      else match insideReady c id with
        | some d => settle s d env (goOn c d)
        | none => nextSeq s id env

/-- R11. -/
def execDescriptorDispatch (sequencer : Bool) (id : Nat) (env : Env) (s : State) : Host.Outcome State Fault Refusal :=
  .next (descriptorDispatch s sequencer id env)

/-! ## Requests that end without data (R91, R99, R201) -/

/-- The oldest request to the outside that waits for a session, or for a ring. -/
def oldestRequest (c : Core) (sequencer : Bool) (id : Nat) : Option Waiting :=
  c.sess.waiting.find? fun w => waitsFor sequencer id w && w.slot < 16

/-- A waiting request gets no completion in time; the timer that says so may wake the device. -/
def timeOut (s : State) (sequencer : Bool) (id : Nat) (applies : Waiting → Bool) (wake : Core → Core) : State :=
  if !serving s.core then s
  else match oldestRequest s.core sequencer id with
    | some w => if applies w then resume { s with core := wake s.core } w [.late] else s
    | none => s

/-- R201, R563: a tier timeout; its local timer wakes the step scheduler of the request's die, die 0 for the sequencer (DESIGN CHOICE, log 166). -/
def execTierTimeout (sequencer : Bool) (id : Nat) (s : State) : Host.Outcome State Fault Refusal :=
  .next (timeOut s sequencer id (fun w => tierLimit s.core w.slot != 0) fun c =>
    wakeBy c (.scheduler (!sequencer && sessionDie c id)))

/-- R598: a non-posted request that has been sent. -/
def wasSent (w : Waiting) : Bool := w.lost || decide (0 < w.tags)

/-- R91: a completion timeout is logged under Advanced Error Reporting. -/
def pcieError (s : State) (sequencer : Bool) (id : Nat) : State :=
  match oldestRequest s.core sequencer id with
  | some w => if serving s.core && wasSent w then { s with core := logAer s.core .late } else s
  | none => s

/-- R91, R598: the completion timeout of a request that has been sent, or of a descriptor fetch. -/
def execPcieCompletionTimeout (fetch sequencer : Bool) (id : Nat) (s : State) : Host.Outcome State Fault Refusal :=
  .next (if fetch then { s with core := fetchVisit s.core id .late } else timeOut (pcieError s sequencer id) sequencer id wasSent fun c => c)

/-- R99: what a request that waits on a failed stream gets: a window's request that has been sent may have been carried out, as after a poisoned completion (R93 names no such case; DESIGN CHOICE, log 159); one not sent finds its stream barred. -/
def failedAns (w : Waiting) : Env := if !wasSent w then [] else if w.slot = 0 then [.refused] else [.poisoned]

/-- R99: the stream becomes Insecure, and every request waiting on it ends ST_TIER_ERROR; those of slot 0 are held. -/
def integrityFailure (s : State) (slot : Nat) : State :=
  let c := s.core
  if !alive c || !c.link.up || 16 ≤ slot || !bit c.link.secure slot then s
  else
    let s := { s with core := streamFails c slot }
    if slot = 0 then s
    else (c.sess.waiting.filter fun w => w.slot < 16 && w.stream == slot).foldl (fun s w => resume s w (failedAns w)) s

/-- R99. -/
def execIdeIntegrityFailure (slot : Nat) (s : State) : Host.Outcome State Fault Refusal := .next (integrityFailure s slot)

end Sys2Proof.Machine
end

