-- ==== Sys2Proof/Machine/Integrity.lean ====
section
/-! DEFINITION. Integrity and errors (17_integrity R466 to R487): parity recovery, counts of repaired errors, watch checkpoints, unit thresholds, the error log. -/

namespace Sys2Proof.Machine

/-! ## Parity recovery (R466 to R468) -/

/-- R467: replays or re-reads allowed; none for a loft word with no stacked original. -/
def parityLimit : ParityPlace → Nat
  | .coreQueue | .clusterSwitch | .regionSwitch => 4
  | .dieBridge => 16
  | .coreStoreClean => 2
  | .coreStoreComputed | .loftBacked => 1
  | .loftDirectory | .loftHostMapping => 0

/-- R479: the class that counts a repair. -/
def parityClass : ParityPlace → Nat
  | .coreQueue | .clusterSwitch | .coreStoreClean | .coreStoreComputed => 1
  | .loftBacked | .loftDirectory | .loftHostMapping => 2
  | .regionSwitch => 3
  | .dieBridge => 4

/-- R484: repaired by re-read (0x02) or by replay (0x01). -/
def parityKind : ParityPlace → Nat
  | .coreStoreClean | .loftBacked => 2
  | _ => 1

/-- R145: the loft frame of its die that holds a physical address in the loft. -/
def loftFrameOf (pa : Nat) : Nat := pa / 65536 % 32768

/-- R468: the check block of a host loft mapping that holds a physical address fails from now on. -/
def mappingParity (c : Core) (die : Bool) (pa : Nat) : Core :=
  match loftMapping c die (loftFrameOf pa) with
  | none => c
  | some (k, x, i) =>
    let b := 256 * i + pa % 65536 / 256
    if x.bad.contains b then c
    else { c with mem := { c.mem with xmap := c.mem.xmap.mod die fun m => mapMod m k fun x => { x with bad := b :: x.bad } } }

/-- R467: what follows when the limit is spent. -/
def paritySpent (c : Core) (die : Bool) (place : ParityPlace) (wh : Where) (sid pa : Nat) : Core :=
  match place with
  | .coreQueue | .coreStoreClean | .coreStoreComputed => swapCore c die wh.region wh.cluster wh.core
  | .clusterSwitch => fenceCluster c die wh.region wh.cluster
  | .regionSwitch => fenceRegion c die wh.region
  | .dieBridge => loseDie c die
  | .loftBacked | .loftDirectory => stateLost c sid
  | .loftHostMapping => mappingParity c die pa

/-- R482: one more error of a unit; a count that reaches its threshold starts the unit's action, and is cleared. -/
def unitError (c : Core) (u : UnitId) : Core :=
  match u with
  | .core die region cluster core =>
    let key := 9 * clusterKey region cluster + core
    let n := (mapGet (c.errs.rates.get die).cores key).getD 0 + 1
    if n < regField c 0x600108 7 0 then modRates c die fun r => { r with cores := mapSet r.cores key n }
    else modRates (swapCore c die region cluster core) die fun r => { r with cores := mapDel r.cores key }
  | .loftFrame die frame =>
    let n := (mapGet (c.errs.rates.get die).frames frame).getD 0 + 1
    if n < regField c 0x600108 15 8 then modRates c die fun r => { r with frames := mapSet r.frames frame n }
    else modRates (retireLoft c die frame) die fun r => { r with frames := mapDel r.frames frame }
  | .bankPair stack pair =>
    let p := 512 * stack + pair
    if 8 ≤ stack || 512 ≤ pair then c
    else
      let n := (pairOf c p).errors + 1
      if n < regField c 0x600108 31 16 then modPair c p fun q => { q with errors := n }
      else modPair (if (pairOf c p).state = 0 then startDrain c p else c) p fun q => { q with errors := 0 }

/-- R482: the error of a core's store or queue port, or of a loft frame (the frame of an address in its die's loft), counts for its unit. -/
def parityUnit (c : Core) (die : Bool) (place : ParityPlace) (wh : Where) (addr : Nat) : Core :=
  match place with
  | .coreQueue | .coreStoreClean | .coreStoreComputed => unitError c (.core die wh.region wh.cluster wh.core)
  | .loftBacked | .loftDirectory | .loftHostMapping => unitError c (.loftFrame die (loftFrameOf addr))
  | _ => c

/-- R467, R479: a repaired error: counted (each replay of a link, each repair elsewhere), logged under its class, and counted for its unit. -/
def parityRepaired (c : Core) (die : Bool) (place : ParityPlace) (wh : Where) (tries sid addr : Nat) : Core :=
  let k := parityClass place
  let n := if k = 3 || k = 4 then tries else 1
  let c := (List.range n).foldl (fun c _ => countError c die k) c
  parityUnit (logErr c { cls := k, kind := parityKind place, die := die, severity := 0, wh := wh, session := sid, addr := addr }) die place wh addr

/-- R466: a word whose two parity bits agree with it. -/
def parityGood (f : Fetched) : Bool := parityBits f.word == (f.even, f.odd)

/-- R467, R468, R482: what follows a word that is not recovered. A frame of the loft counts it as an error; a core that meets it is failed at once. -/
def parityLost (c : Core) (die : Bool) (place : ParityPlace) (wh : Where) (sid pa : Nat) : Core :=
  let c := if parityLimit place = 0 then c
    else logErr c { kind := 6, die := die, severity := 1, wh := wh, session := sid, addr := pa }
  let c := paritySpent c die place wh sid pa
  if parityClass place = 2 then parityUnit c die place wh pa else c

/-- R467, R468: a parity error and the word as each try has brought it, up to the limit: the first good one repairs it. -/
def parityReplay (c : Core) (die : Bool) (place : ParityPlace) (wh : Where) (reads : List Fetched) (sid pa : Nat) : Core :=
  let reads := reads.take (parityLimit place)
  match reads.findIdx? parityGood with
  | some i => parityRepaired c die place wh (i + 1) sid pa
  | none => if reads.length < parityLimit place then c else parityLost c die place wh sid pa

/-- R467. -/
def execParityReplay (die : Bool) (place : ParityPlace) (wh : Where) (reads : List Fetched) (session addr : Nat) (s : State) :
    Host.Outcome State Fault Refusal :=
  onCore s fun c => if dieServes c die then parityReplay c die place wh reads session addr else c

/-! ## Windows (R479 to R481) -/

/-- R479: a window ends: the counts become the last window's, and everything that happens once a window may happen again. -/
def endWindow (r : Rates) : Rates := { r with last := r.now, now := [], told := [], watched := [], logged := [] }

/-- R479. -/
def execErrorRateWindowEnd (die : Bool) (s : State) : Host.Outcome State Fault Refusal :=
  whenReady s fun c => modRates c die endWindow

/-- R480. -/
def execErrorRateRecord (die : Bool) (cls : Nat) (s : State) : Host.Outcome State Fault Refusal :=
  whenReady s fun c => countError c die cls

/-- R481: the sum of classes 1 to 6 in the current window. -/
def watchSum (c : Core) (die : Bool) : Nat :=
  (List.range 6).foldl (fun n i => n + (mapGet (c.errs.rates.get die).now (i + 1)).getD 0) 0

/-- R481, R516: a watch class whose sum passes its threshold starts a checkpoint, at most once per window. -/
def watchClass (c : Core) (die : Bool) (cls threshold : Nat) : Core :=
  match mapGet c.ckpt.classes cls with
  | none => c
  | some k =>
    if threshold = 0 || watchSum c die ≤ threshold || !k.enable || mapHas (c.errs.rates.get die).watched cls then c
    else trigger (modRates c die fun r => { r with watched := mapSet r.watched cls () }) cls

/-- R481. -/
def execWatchTrigger (die : Bool) (s : State) : Host.Outcome State Fault Refusal :=
  onCore s fun c =>
    if serving c then
      watchClass (watchClass c die 6 (regField c 0x600100 31 0)) die 7 (regField c 0x600100 63 32)
    else c

/-! ## Units (R482) -/

/-- R482: a period ends: every count of the die's units is cleared. -/
def endPeriod (c : Core) (die : Bool) : Core :=
  let c := modRates c die fun r => { r with cores := [], frames := [] }
  { c with stackTab := c.stackTab.map fun p =>
      if stackDie p.1 == die then (p.1, { p.2 with pairs := p.2.pairs.map fun q => (q.1, { q.2 with errors := 0 }) }) else p }

/-- R482. -/
def execUnitPeriodEnd (die : Bool) (s : State) : Host.Outcome State Fault Refusal :=
  whenReady s fun c => endPeriod c die

/-- R482. -/
def execUnitThresholdAction (unit : UnitId) (s : State) : Host.Outcome State Fault Refusal :=
  onCore s fun c => if serving c then unitError c unit else c

/-! ## The error log (R483 to R487) -/

/-- R483, R484. -/
def execErrorLogEntry (die : Bool) (cls kind severity : Nat) (host : Bool) (wh : Where) (session status opcode addr : Nat) (s : State) :
    Host.Outcome State Fault Refusal :=
  onCore s fun c =>
    if c.power.on then
      logErr c { cls := cls, kind := kind, die := die, severity := severity, host := host, wh := wh, session := session
                 status := status, opcode := opcode, addr := addr }
    else c

end Sys2Proof.Machine
end

