-- ==== Sys2Proof/Machine/View.lean ====
section
/-! DEFINITION. What BAR0 reads return (R86, R580, R582, and the field tables of every chapter): the stored fields of a register, and the fields that show state held elsewhere. -/

namespace Sys2Proof.Machine

/-- The index of an offset in an array of `n` registers of 8 bytes from a base. -/
def arrayIx (base n off : Nat) : Option Nat := if base ≤ off ∧ off < base + 8 * n then some ((off - base) / 8) else none

/-! ## The fields that registers show beside their stored ones -/

/-- HIF_SETUP. -/
def viewSetup (c : Core) : Nat := b2n c.setupDone + 2 * b2n c.setupBusy + 4 * b2n c.setupRefused

/-- HIF_LINK_STATUS. -/
def viewLink (c : Core) : Nat :=
  let l := c.link
  (if l.up then fieldAt 0 7 l.speed + fieldAt 7 5 l.width + fieldAt 12 1 (b2n l.flit) + fieldAt 13 1 1 else 0) +
    fieldAt 15 1 (b2n (linkHeld c)) + fieldAt 16 16 l.secure + fieldAt 32 32 l.downTime

/-- R96: 64 bits of the MSI-X pending-bit array. -/
def viewPending (c : Core) (i : Nat) : Nat :=
  (List.range 64).foldl (fun v k => if mapHas c.rings.msixPending (64 * i + k) then v + 2 ^ k else v) 0

/-- HIF and RNG blocks. -/
def viewHif (c : Core) (off : Nat) : Nat :=
  if off = 0x8 then viewSetup c
  else if off = 0x18 then viewLink c
  else if off = 0x10008 then b2n c.rings.window.isSome + fieldAt 8 8 c.rings.status
  else match arrayIx 0x7000 32 off, arrayIx 0x18000 4096 off, arrayIx 0x20000 1024 off, arrayIx 0x22000 16 off with
    | some i, _, _, _ => viewPending c i
    | _, some i, _, _ => ((mapGet c.rings.subs i).map (·.fetched)).getD 0
    | _, _, some i, _ => ((mapGet c.rings.streams i).map (·.head % 2 ^ 32)).getD 0
    | _, _, _, some i => ((mapGet c.rings.events i).map (·.head % 2 ^ 32)).getD 0
    | _, _, _, _ => 0

/-- TIER_POOL_STATUS[w]. -/
def viewPool (c : Core) (w : Nat) : Nat :=
  fieldAt 0 2 (winOf c w).state + fieldAt 8 24 (pooledIn c w) + fieldAt 32 16 (winOf c w).timeouts

/-- XLT, LOFT and TIER blocks. -/
def viewTier (c : Core) (off : Nat) : Nat :=
  if off = 0x100010 then fieldAt 0 13 c.mem.forward.d0.length + fieldAt 16 13 c.mem.forward.d1.length
  else if off = 0x200008 then
    fieldAt 0 16 c.mem.loftRetired.d0.length + fieldAt 16 16 c.mem.loftRetired.d1.length +
      fieldAt 32 16 (hotOn c false) + fieldAt 48 16 (hotOn c true)
  else if 0x200238 ≤ off ∧ off ≤ 0x2003F8 ∧ (off - 0x200218) % 0x20 = 0 then viewPool c ((off - 0x200218) / 0x20)
  else 0

/-- Pairs of a stack in a state. -/
def pairsIn (c : Core) (k st : Nat) : Nat := ((stackOf c k).pairs.filter fun p => p.2.state == st).length

/-- HBC_STATUS[k]. -/
def viewStack (c : Core) (k : Nat) : Nat :=
  let x := stackOf c k
  fieldAt 0 2 x.state + fieldAt 2 1 (b2n x.doubled) + fieldAt 8 8 x.temp + fieldAt 16 10 (pairsIn c k 2) + fieldAt 32 12 x.spareRows

/-- BPU_PAIR_STATE[k][i]. -/
def viewPairs (c : Core) (k i : Nat) : Nat :=
  (List.range 32).foldl (fun v j => v + fieldAt (2 * j) 2 ((mapGet (stackOf c k).pairs (32 * i + j)).getD {}).state) 0

/-- HBC and BPU blocks. -/
def viewHbc (c : Core) (off : Nat) : Nat :=
  let k := (off - 0x300000) / 0x10000
  let o := (off - 0x300000) % 0x10000
  if off < 0x300000 ∨ 0x380000 ≤ off then 0
  else if o = 0 then viewStack c k
  else if off = 0x300208 then fieldAt 0 3 c.gov.d0.level + fieldAt 8 3 c.gov.d1.level
  else match arrayIx 0x100 16 o with
    | some i => viewPairs c k i
    | none => 0

/-- TOK, TMB, THR, SRCH and EMB blocks. -/
def viewEng (c : Core) (off : Nat) : Nat :=
  if off = 0x400000 then fieldAt 48 5 c.obj.vocabs.length
  else if off = 0x410000 then fieldAt 0 13 c.obj.grammars.length
  else if off = 0x420010 then fieldAt 0 21 c.mem.barnFree.d0 + fieldAt 32 21 c.mem.barnFree.d1
  else if off = 0x430010 then fieldAt 0 9 c.obj.indexes.length + fieldAt 16 11 c.obj.tables.length
  else 0

/-- R262: the state of a slot: loading while a MODEL_LOAD that names it waits. -/
def slotState (c : Core) (slot : Nat) : Nat :=
  if c.sess.waiting.any fun w => w.desc.opcode == 0x50 && slotOf w.desc == slot then 1
  else ((mapGet c.obj.models slot).map (·.state)).getD 0

/-- SCHED_SLOT_STATE. -/
def viewSlots (c : Core) : Nat :=
  (List.range 16).foldl (fun v k =>
    v + fieldAt (2 * k) 2 (slotState c k) +
      fieldAt (32 + k) 1 (b2n (((mapGet c.obj.models k).map fun m => miSpanned m.image).getD false))) 0

/-- SCHED block. -/
def viewSched (c : Core) (off : Nat) : Nat :=
  if off = 0x500010 then viewSlots c
  else if off = 0x500108 then fieldAt 32 16 c.sched.d0.lastRows + fieldAt 48 16 c.sched.d1.lastRows
  else if off = 0x500180 then fieldAt 0 13 c.obj.prefixes.length + fieldAt 16 21 c.obj.nodes.length
  else if off = 0x500210 then fieldAt 0 17 (capFactor c false) + fieldAt 32 17 c.sched.d0.scale
  else if off = 0x500218 then fieldAt 0 17 (capFactor c true) + fieldAt 32 17 c.sched.d1.scale
  else if off = 0x500220 then fieldAt 0 16 c.acctCfg.length + fieldAt 32 32 (sumCir c)
  else 0

/-- INT_RATE_LAST[d][c]. -/
def viewRate (c : Core) (die : Bool) (cls : Nat) : Nat :=
  let r := c.errs.rates.get die
  fieldAt 0 32 ((mapGet r.last cls).getD 0) + fieldAt 32 32 ((mapGet r.now cls).getD 0)

/-- INT block. -/
def viewInt (c : Core) (off : Nat) : Nat :=
  if off = 0x600000 then fieldAt 0 32 c.errs.next + fieldAt 32 8 c.errs.held1.length + fieldAt 40 16 c.errs.dropped1
  else match arrayIx 0x600010 4 off, arrayIx 0x600200 8 off, arrayIx 0x600240 8 off, arrayIx 0x608000 4096 off with
    | some j, _, _, _ => nth (c.errs.fatal.getD []) j 0
    | _, some i, _, _ => viewRate c false (i + 1)
    | _, _, some i, _ => viewRate c true (i + 1)
    | _, _, _, some i => nth ((mapGet c.errs.log (i / 4)).getD []) (i % 4) 0
    | _, _, _, _ => 0

/-- HNG_PAIR_STATUS. -/
def viewPair (c : Core) : Nat :=
  let t := c.twin
  fieldAt 0 3 t.state + fieldAt 3 3 t.cause + fieldAt 6 2 t.sparesUsed + fieldAt 8 1 (b2n t.half) + fieldAt 16 32 t.twinNo

/-- CKP_STAT. -/
def viewCkpt (c : Core) : Nat :=
  b2n (ckptBusy c) + fieldAt 1 3 ((c.ckpt.running.map (·.cls)).getD 0) +
    c.ckpt.pending.foldl (fun v p => v + fieldAt (4 + p.1) 1 1) 0

/-- HNG and CKP blocks. -/
def viewHng (c : Core) (off : Nat) : Nat :=
  if off = 0x700008 then viewPair c
  else if off = 0x700028 then fieldAt 0 32 c.twin.shadows.length + fieldAt 32 16 c.twin.takeovers
  else if off = 0x710008 then viewCkpt c
  else if off = 0x710050 then fieldAt 0 24 c.ckpt.skipped + fieldAt 24 8 c.ckpt.candidates
  else match arrayIx 0x710010 8 off with
    | some i => (mapGet c.ckpt.last i).getD 0
    | none => 0

/-- RTP_LEAF. -/
def viewLeaf (r : Rot) : Nat :=
  fieldAt 0 30 (match r.leaf with | some q => q | none => Config.leafUnfixed r.reserved) +
    fieldAt 30 1 (b2n r.gap) + fieldAt 31 1 (b2n r.exhausted)

/-- RTP block. -/
def viewRtp (c : Core) (r : Rot) (off : Nat) : Nat :=
  if off = 0x800010 then b2n c.doe.token.isSome + fieldAt 1 1 (b2n r.debug) + fieldAt 8 8 r.status + fieldAt 16 16 r.nonceIdx + fieldAt 32 32 r.tenantEpoch
  else if off = 0x800018 then viewLeaf r
  else match arrayIx 0x800020 4 off with
    | some j => ((r.nonce[j]?).map BitVec.toNat).getD 0
    | none => 0

/-- Domains powered. -/
def domainCount (c : Core) : Nat := ((List.range 112).filter (domainOn c)).length

/-- PWR_STAT. -/
def viewPower (c : Core) : Nat :=
  let p := c.power
  b2n p.ready + 2 * b2n p.cold + 4 * b2n p.failed + fieldAt 3 2 (powerState c) + fieldAt 5 1 (b2n p.tripped) +
    fieldAt 16 7 (domainCount c)

/-- PWR, CLK, RST and TEL blocks. -/
def viewPwr (c : Core) (off : Nat) : Nat :=
  let p := c.power
  if off = 0x900008 then viewPower c
  else if off = 0x900010 then p.domains % 2 ^ 64
  else if off = 0x900018 then p.domains / 2 ^ 64
  else if off = 0x900020 then fieldAt 0 3 p.locks + fieldAt 4 3 (p.locks / 16)
  else if off = 0x900030 then fieldAt 0 4 p.cause + fieldAt 16 16 p.resets
  else if off = 0xF00000 then fieldAt 0 12 (p.watts / 10) + fieldAt 20 8 (max p.temps.d0 p.temps.d1)
  else 0

/-- R86, R582: the 8-byte value of a BAR0 register; an unimplemented offset reads 0. -/
def readReg (s : State) (off : Nat) : Nat :=
  let c := s.core
  regGet c off + (
    if off < 0x100000 then viewHif c off
    else if off < 0x300000 then viewTier c off
    else if off < 0x400000 then viewHbc c off
    else if off < 0x500000 then viewEng c off
    else if off < 0x600000 then viewSched c off
    else if off < 0x700000 then viewInt c off
    else if off < 0x800000 then viewHng c off
    else if off < 0x900000 then viewRtp s.core s.rot off
    else viewPwr c off)

/-! ## Reads (R86, R571, R580) -/

/-- R580: the fields that a read of `size` bytes at `off` clears: those that lie wholly in what is read. -/
def clearedFields (off size : Nat) : List Field :=
  (regFields (off / 8 * 8)).filter fun f => f.acc == .rc && 8 * (off % 8) ≤ f.lo && f.lo + f.width ≤ 8 * (off % 8) + 8 * size

/-- R580: the counts read start again from 0. -/
def clearRead (c : Core) (off size : Nat) : Core :=
  let base := off / 8 * 8
  let fs := clearedFields off size
  let c := if fs.isEmpty then c else regSet c base (fs.foldl (fun v f => putBits v (f.lo + f.width - 1) f.lo 0) (regGet c base))
  if base = 0x600000 && !fs.isEmpty then { c with errs := { c.errs with dropped1 := 0 } } else c

/-- RTP_STATUS.NONCE_IDX names the unseal nonce word that a read at RTP_NONCE reaches (DEDUCED, log 157). -/
def noteNonce (r : Rot) (off : Nat) : Rot :=
  match arrayIx 0x800020 4 off with
  | some j => { r with nonceIdx := j }
  | none => r

/-- R571: registers that read before READY. -/
def readsEarly (base : Nat) : Bool := base == 0x900008 || base == 0x900020 || base == 0x900030

/-- R86, R571, R579, R580: a BAR0 read: refused when misaligned, 0 before READY, else the bytes it reaches; the read-clear counts that it reaches start again. Before READY a misaligned read is refused without an entry, and a write is logged with kind 0x0C whatever its size: R571 gives neither (DESIGN CHOICE, log 132). -/
def bar0Read (s : State) (off size : Nat) : State :=
  let c := s.core
  let base := off / 8 * 8
  if !c.power.on then s
  else if !alignedAccess off size then
    { s with core := { (if barReady c then logHost c 0x0B off else c) with reply := .ur } }
  else if !barReady c && !readsEarly base then { s with core := { c with reply := .data (List.replicate size 0) } }
  else
    let c := if barReady c then hostAccess c base else c
    let bs := bytesAt (natLe 8 (readReg { s with core := c } base)) (off % 8) size
    { s with core := clearRead { c with reply := .data bs } off size, rot := if barReady c then noteNonce s.rot base else s.rot }

/-- R87, R571: a BAR2 read, which the always-on catcher answers: one that is no aligned 8-byte read is refused and logged; a tail or head word answers what the catcher holds, and any other offset 0. Before READY a read answers 0, as R571 has it, and a refused one is not logged (DESIGN CHOICE, log 132). -/
def bar2Read (c : Core) (off size : Nat) : Core :=
  if !c.power.on then c
  else if size ≠ 8 || off % 8 ≠ 0 then { (if barReady c then logHost c 0x0B off else c) with reply := .ur }
  else if !barReady c then { c with reply := .data (natLe 8 0) }
  else
    let (t, h) := doorbellWords c (off / 4096)
    let v := if off % 4096 = 0 then t else if off % 4096 = 8 then h else 0
    { c with reply := .data (natLe 8 v) }

/-- R86, R87, R84: a host read of BAR0, of BAR2, or of configuration space. -/
def hostRead (s : State) (bar off size : Nat) : State :=
  if bar = 0 then bar0Read s off size
  else if bar = 2 then { s with core := bar2Read s.core off size }
  else if bar = 8 then { s with core := configRead s.core off size }
  else s

/-- R580, R86, R87. -/
def execReadClearCounter (bar off size : Nat) (s : State) : Host.Outcome State Fault Refusal := .next (hostRead s bar off size)

end Sys2Proof.Machine
end

