-- ==== Sys2Proof/Machine/Setup.lean ====
section
/-! DEFINITION. The set-up lock (22_registers R587 to R590, R189, R190) and host writes to registers (R579). -/

namespace Sys2Proof.Machine

/-! ## The set-up lock -/

/-- R588: a write of 1 to DONE starts the lock sequence, unless it runs or has completed. -/
def setupWrite (c : Core) : Core :=
  if c.setupBusy || c.setupDone then c else { c with setupBusy := true, setupRefused := false }

/-- R588. -/
def execSetupDoneWrite (s : State) : Host.Outcome State Fault Refusal := onCore s fun c => bar0Write c 0x8 8 setupWrite

/-- Stacked frames of a die in service: 512 on each pair in service of its trained stacks. -/
def carvable (c : Core) (die : Bool) : Nat :=
  (List.range 4).foldl (fun n i =>
    let k := stackOf c ((if die then 4 else 0) + i)
    if k.state = 1 then n + (262144 - 512 * (k.pairs.filter fun p => p.2.state != 0).length) else n) 0

/-- TIER_BARN.STAGE_FRAMES. -/
def stageFrames (c : Core) : Nat := regField c 0x200100 46 32

/-- R189: frames of the six regions. -/
def carveNeed (c : Core) : Nat := 8192 + 66 + 4096 + 1024 + barnFrames c + stageFrames c

/-- R190: the carve leaves FLOOR frames on a die. -/
def carveOk (c : Core) (die : Bool) : Bool := carveNeed c + floorOf c ≤ carvable c die

/-- R191: staging frames that the map of the spill region takes on die 0. -/
def spillMapFrames (c : Core) : Nat := cdiv (regField c 0x200120 23 0) 524288

/-- LOFT_PART: frames of the directory cache and of the tail pool. -/
def dirPart (c : Core) : Nat := regField c 0x200000 15 0
def tailPart (c : Core) : Nat := regField c 0x200000 31 16

/-- R173: object-space frames of a die: what its slices in service have left. -/
def objectSpace (c : Core) (die : Bool) : Nat :=
  let slices := sliceList c die
  1024 * slices.length - ((c.mem.loftRetired.get die).filter fun p => slices.contains (sliceOf p.1)).length - dirPart c - tailPart c

/-- R211: every frame of the trained stacks of a die is free: those of pairs out of service are not the allocator's. -/
def freshPairs (c : Core) (die : Bool) : Core :=
  let rooms := (List.range 2048).map fun q => if (stackOf c ((pairBase die + q) / 512)).state = 1 then 512 else 0
  { c with mem := { c.mem with
    free := c.mem.free.set die (carvable c die)
    pairFree := c.mem.pairFree.set die rooms
    pairBulk := c.mem.pairBulk.set die (rooms.map fun _ => 0) } }

/-- R189: the staging frames of a die, dealt over its pairs. -/
def carveStage (c : Core) (die : Bool) : Core :=
  let xs := dealFrom (Config.bulkStart (freeOf c die)) (stageFrames c) (inService c die (c.mem.pairFree.get die))
  let c := reserveFree c die (stageFrames c)
  { c with mem := { c.mem with
    pairFree := c.mem.pairFree.mod die fun l => List.zipWith (· - ·) l xs
    stagePairs := c.mem.stagePairs.set die xs } }

/-- R173, R174: the directory cache and the tail pool of a die are dealt over its slices; the rest is object space. -/
def carveLoft (c : Core) (die : Bool) : Core :=
  let dir := runAt c die (dirPart c)
  let c := turnRotation c die (dirPart c)
  let tail := runAt c die (tailPart c)
  let c := turnRotation c die (tailPart c)
  { c with mem := { c.mem with
    loftFree := c.mem.loftFree.set die (objectSpace c die)
    dirFrames := c.mem.dirFrames.set die (dirPart c), tailFrames := c.mem.tailFrames.set die (tailPart c)
    dirRun := c.mem.dirRun.set die dir, tailRun := c.mem.tailRun.set die tail } }

/-- R173, R189: frames of a die's directory and of its frame metadata. -/
def metaFrames : Nat := 8192 + 66

/-- R574: the directory and the frame metadata of a die are filled with zeros, by one FILL for the frames that a pair holds: each counts as issued, and the die's allowance is charged for all of them when the lock ends (R230; DESIGN CHOICE, log 169). -/
def fillTables (c : Core) (die : Bool) : Core :=
  let xs := dealFrom (Config.bulkStart (freeOf c die)) metaFrames (inService c die (c.mem.pairFree.get die))
  let fills := fun (i : Nat) => ((xs.drop (512 * i)).take 512).countP (0 < ·)
  let c := takeFree c die metaFrames
  let c := { c with gov := c.gov.mod die fun g => { g with allow := g.allow - (65536 * metaFrames : Nat) } }
  (List.range 4).foldl (fun c i => regCount c (hbcStat (i + if die then 4 else 0)) 31 0 (fills i)) c

/-- R173, R189: a die's memory as carved, in the order of the table. -/
def carveDie (c : Core) (die : Bool) : Core :=
  let c := fillTables (freshPairs c die) die
  carveLoft (carveStage (takeFree c die (carveNeed c - stageFrames c - metaFrames)) die) die

/-- R173, R189: the memory of both dies as carved. -/
def carved (c : Core) : Core :=
  let c := carveDie (carveDie c false) true
  { c with mem := { c.mem with
    stagingFree := ⟨stageFrames c - spillMapFrames c, stageFrames c⟩
    barnFree := ⟨barnUsable c, barnUsable c⟩ } }

/-- R588, R589: the lock sequence ends: the carve, MR5 and DONE, or REFUSED. -/
def lockDone (s : State) : State :=
  let c := s.core
  if !c.setupBusy || !ready c then s
  else if !(carveOk c false && carveOk c true) then
    { s with core := logHost { c with setupBusy := false, setupRefused := true } 0x0C 0x8 }
  else { s with core := { carved c with setupBusy := false, setupDone := true }, rot := extendMr s.rot (5, rwsString c) }

/-- R588. -/
def execSetupLockDone (s : State) : Host.Outcome State Fault Refusal := .next (lockDone s)

/-! ## Register writes (R579) -/

/-- R494, R498: a write of HNG_PAIR_CFG; a link that EN starts still has to train (PAIR_ENABLE). -/
def pairCfgWrite (c : Core) (off size value : Nat) : Core :=
  let was := pairEn c
  let c := plainWrite c off size value
  if pairEn c = was then c else if was then pairOff c else pairOn c {} false

/-- R110: a write of RNG_CMD. -/
def ringCmdWrite (c : Core) (off value : Nat) : Core :=
  if off % 8 ≠ 0 then c
  else match bits value 1 0 with
    | 1 => ringCreate c (bits value 3 2) (bits value 15 4)
    | 2 => ringDestroy c (bits value 3 2) (bits value 15 4)
    | _ => c

/-- R585: a write of a stream or event head. -/
def headWriteAt (c : Core) (kind n off value : Nat) : Core :=
  if ringsHeld c then c
  else if !ringExists c kind n then logHost c 0x0B off
  else if off % 8 ≠ 0 then c
  else wakingBoth c fun c => overflowRecords (headWrite c kind n (value % 2 ^ 32))

/-- R95, R96: a write of the MSI-X table. -/
def msixWrite (c : Core) (off size value : Nat) : Core := msixRelease (plainWrite c off size value)

/-- R192, R198: a write of a window's BASE, SIZE or CFG. A write that enables a window reads its header; the answer, which this row does not carry, counts as late, and POOL_WINDOW_ENABLE carries it (DESIGN CHOICE, log 119). -/
def poolWrite (s : State) (off size value : Nat) : State :=
  let w := (off - 0x200200) / 0x20
  let o := (off - 0x200200) % 0x20
  if o < 0x10 then { s with core := poolRangeWrite s.core w off size value }
  else poolCfgWrite s w (o - 0x10) size value []

/-- R551, R565: a write of RTP_CMD or RST_CMD. The answer to an unseal's token read, which this row does not carry, counts as late, and flash holds the firmware that the device booted from; DEBUG_UNSEAL and FUNDAMENTAL_RESET carry both (DESIGN CHOICE, log 119). -/
def commandWrite (s : State) (base off value : Nat) : State :=
  if off % 8 ≠ 0 then s
  else if base = 0x800000 then (match bits value 3 0 with
    | 1 => tenantCommand s
    | 2 => unsealCommand s []
    | _ => s)
  else match bits value 1 0 with
    | 1 => hostReset s .rstHost
    | 2 => askReset s .rstFundamental true
    | _ => s

/-- R110, R579: a write that BAR0 takes, by register; one to the ring command window while it is busy is ignored and logged. -/
def bar0Store (s : State) (off size value : Nat) : State :=
  let base := off / 8 * 8
  let c := s.core
  let put := fun (c : Core) => { s with core := c }
  if 0x10000 ≤ base ∧ base ≤ 0x10028 ∧ c.rings.window.isSome then put (logHost c 0x0C off)
  else if base = 0x8 then put (if off = 0x8 && bit value 0 then setupWrite c else c)
  else if base = 0x10 then put (ideRequireWrite c (off % 8) size value)
  else if base = 0x20 then put (linkHoldWrite c (off % 8) size value)
  else if 0x8000 ≤ base ∧ base < 0x10000 then put (msixWrite c off size value)
  else if base = 0x10000 then put (ringCmdWrite c off value)
  else if 0x20000 ≤ base ∧ base < 0x22000 then put (headWriteAt c 2 ((base - 0x20000) / 8) off value)
  else if 0x22000 ≤ base ∧ base < 0x22080 then put (headWriteAt c 3 ((base - 0x22000) / 8) off value)
  else if 0x200220 ≤ base ∧ base < 0x200400 ∧ (base - 0x200200) % 0x20 < 0x18 then poolWrite s off size value
  else if base = 0x700000 then put (pairCfgWrite c off size value)
  else if base = 0x800000 ∨ base = 0x900028 then commandWrite s base off value
  else put (plainWrite c off size value)

/-- R87: a BAR2 write: tail and head words by their own rules, another offset ignored. A write of another size is dropped and logged at whatever offset it lies: R87 drops and logs a doorbell write and ignores writes at other offsets, and does not say which of the two a misaligned or narrow write beside the two words is (DESIGN CHOICE, log 160). -/
def bar2Store (c : Core) (off size value : Nat) : Core :=
  if !barReady c || 0x1000000 ≤ off then c
  else if size ≠ 8 || off % 8 ≠ 0 then logHost c 0x0B off
  else if ringsHeld c then c
  else
    let c := wakeBy c .doorbell
    match off % 4096 with
    | 0 => tailWrite c (off / 4096) value
    | 8 => cqHeadWrite c (off / 4096) value
    | _ => c

/-- A configuration write; Go and Abort of DOE Control act on the root of trust (R101, R542). -/
def configStore (s : State) (off size value : Nat) : State :=
  if configServes s.core && configAccess off size && off / 4 * 4 == 0x148 then doeControl s (mergedWord 0 off size value)
  else { s with core := configWrite s.core off size value }

/-- R86, R571, R579: a host write. -/
def hostWrite (s : State) (bar off size value : Nat) : State :=
  if bar = 2 then { s with core := bar2Store s.core off size value }
  else if bar = 0 then bar0WriteS s off size fun s => bar0Store s off size value
  else if bar = 8 then configStore s off size value
  else s

/-- R579. -/
def execRegisterWrite (bar off size : Nat) (value : Word) (s : State) : Host.Outcome State Fault Refusal :=
  .next (hostWrite s bar off size (value.toNat % 2 ^ (8 * size)))

end Sys2Proof.Machine
end

