-- ==== Sys2Proof/Machine/Dispatch.lean ====
section
/-! DEFINITION. One arm per command: the meaning it calls. -/

namespace Sys2Proof.Machine

/-- The effect of a command on everything but the queue. -/
def exec (i : Instr) (s : State) : Host.Outcome State Fault Refusal :=
  match i with
  | .nop d => Sys2Proof.Machine.execNop d s
  | .fence d => Sys2Proof.Machine.execFence d s
  | .xltMap d => Sys2Proof.Machine.execXltMap d s
  | .xltUnmap d => Sys2Proof.Machine.execXltUnmap d s
  | .tileCopy d env => Sys2Proof.Machine.execTileCopy d env s
  | .sessOpen d env => Sys2Proof.Machine.execSessOpen d env s
  | .sessClose d env => Sys2Proof.Machine.execSessClose d env s
  | .sessQuery d => Sys2Proof.Machine.execSessQuery d s
  | .append d env => Sys2Proof.Machine.execAppend d env s
  | .turnRun d env => Sys2Proof.Machine.execTurnRun d env s
  | .turnCancel d => Sys2Proof.Machine.execTurnCancel d s
  | .park d env => Sys2Proof.Machine.execPark d env s
  | .revive d env => Sys2Proof.Machine.execRevive d env s
  | .handoverOut d env => Sys2Proof.Machine.execHandoverOut d env s
  | .handoverIn d env => Sys2Proof.Machine.execHandoverIn d env s
  | .prefixRegister d env => Sys2Proof.Machine.execPrefixRegister d env s
  | .prefixRelease d env => Sys2Proof.Machine.execPrefixRelease d env s
  | .grammarLoad d env => Sys2Proof.Machine.execGrammarLoad d env s
  | .grammarUnload d => Sys2Proof.Machine.execGrammarUnload d s
  | .vocabLoad d env => Sys2Proof.Machine.execVocabLoad d env s
  | .vocabUnload d => Sys2Proof.Machine.execVocabUnload d s
  | .modelLoad d env => Sys2Proof.Machine.execModelLoad d env s
  | .modelUnload d env => Sys2Proof.Machine.execModelUnload d env s
  | .indexCreate d env => Sys2Proof.Machine.execIndexCreate d env s
  | .indexDestroy d => Sys2Proof.Machine.execIndexDestroy d s
  | .vecInsert d env => Sys2Proof.Machine.execVecInsert d env s
  | .vecDelete d env => Sys2Proof.Machine.execVecDelete d env s
  | .indexCompact d => Sys2Proof.Machine.execIndexCompact d s
  | .search d env => Sys2Proof.Machine.execSearch d env s
  | .tableLoad d env => Sys2Proof.Machine.execTableLoad d env s
  | .tableUnload d => Sys2Proof.Machine.execTableUnload d s
  | .rowReplace d env => Sys2Proof.Machine.execRowReplace d env s
  | .rowPool d env => Sys2Proof.Machine.execRowPool d env s
  | .rowUpdate d env => Sys2Proof.Machine.execRowUpdate d env s
  | .accountSet d => Sys2Proof.Machine.execAccountSet d s
  | .accountDelete d => Sys2Proof.Machine.execAccountDelete d s
  | .bucketSet d => Sys2Proof.Machine.execBucketSet d s
  | .meterSet d => Sys2Proof.Machine.execMeterSet d s
  | .ckptClassSet d env => Sys2Proof.Machine.execCkptClassSet d env s
  | .ckptStart d => Sys2Proof.Machine.execCkptStart d s
  | .restore d env => Sys2Proof.Machine.execRestore d env s
  | .doeDiscovery index => Sys2Proof.Machine.execDoeDiscovery index s
  | .quote body => Sys2Proof.Machine.execQuote body s
  | .cert body => Sys2Proof.Machine.execCert body s
  | .kemKey body => Sys2Proof.Machine.execKemKey body s
  | .keyLoad body => Sys2Proof.Machine.execKeyLoad body s
  | .keyDestroy body => Sys2Proof.Machine.execKeyDestroy body s
  | .ringCreate kind id => Sys2Proof.Machine.execRingCreate kind id s
  | .ringDestroy kind id => Sys2Proof.Machine.execRingDestroy kind id s
  | .ringDestroyDone => Sys2Proof.Machine.execRingDestroyDone s
  | .submissionTailWrite n size value => Sys2Proof.Machine.execSubmissionTailWrite n size value s
  | .doorbellCompareAndSwap op bar n off wide compare swap => Sys2Proof.Machine.execDoorbellCompareAndSwap op bar n off wide compare swap s
  | .completionHeadWrite n size value => Sys2Proof.Machine.execCompletionHeadWrite n size value s
  | .streamHeadWrite n off size value => Sys2Proof.Machine.execStreamHeadWrite n off size value s
  | .eventHeadWrite n off size value => Sys2Proof.Machine.execEventHeadWrite n off size value s
  | .setupDoneWrite => Sys2Proof.Machine.execSetupDoneWrite s
  | .setupLockDone => Sys2Proof.Machine.execSetupLockDone s
  | .poolWindowEnable w off size value env => Sys2Proof.Machine.execPoolWindowEnable w off size value env s
  | .ideRequireWrite off size value => Sys2Proof.Machine.execIdeRequireWrite off size value s
  | .linkHoldWrite off size value => Sys2Proof.Machine.execLinkHoldWrite off size value s
  | .pairEnable trained => Sys2Proof.Machine.execPairEnable trained s
  | .unpair => Sys2Proof.Machine.execUnpair s
  | .tenantChange => Sys2Proof.Machine.execTenantChange s
  | .debugUnseal env => Sys2Proof.Machine.execDebugUnseal env s
  | .hostReset cause => Sys2Proof.Machine.execHostReset cause s
  | .fundamentalReset cause fwOk => Sys2Proof.Machine.execFundamentalReset cause fwOk s
  | .readClearCounter bar off size => Sys2Proof.Machine.execReadClearCounter bar off size s
  | .msixUnmask how vector => Sys2Proof.Machine.execMsixUnmask how vector s
  | .registerWrite bar off size value => Sys2Proof.Machine.execRegisterWrite bar off size value s
  | .powerOnReset boot => Sys2Proof.Machine.execPowerOnReset boot s
  | .supplyGoodAssert rail => Sys2Proof.Machine.execSupplyGoodAssert rail s
  | .supplyLost rail => Sys2Proof.Machine.execSupplyLost rail s
  | .perstRelease speed width flit => Sys2Proof.Machine.execPerstRelease speed width flit s
  | .stackTraining coldest trains spareRows => Sys2Proof.Machine.execStackTraining coldest trains spareRows s
  | .thermalTrip hottest => Sys2Proof.Machine.execThermalTrip hottest s
  | .linkLaneRetrain lane speed => Sys2Proof.Machine.execLinkLaneRetrain lane speed s
  | .linkDown => Sys2Proof.Machine.execLinkDown s
  | .linkReturn speed width flit => Sys2Proof.Machine.execLinkReturn speed width flit s
  | .linkHoldExpiry => Sys2Proof.Machine.execLinkHoldExpiry s
  | .surpriseRemoval => Sys2Proof.Machine.execSurpriseRemoval s
  | .ideIntegrityFailure slot => Sys2Proof.Machine.execIdeIntegrityFailure slot s
  | .tierTimeout sequencer id => Sys2Proof.Machine.execTierTimeout sequencer id s
  | .lateCompletion slot => Sys2Proof.Machine.execLateCompletion slot s
  | .releaseListRetry w env => Sys2Proof.Machine.execReleaseListRetry w env s
  | .fetchVisit ring answer => Sys2Proof.Machine.execFetchVisit ring answer s
  | .descriptorRoute ring => Sys2Proof.Machine.execDescriptorRoute ring s
  | .descriptorDispatch sequencer id env => Sys2Proof.Machine.execDescriptorDispatch sequencer id env s
  | .batchForm die => Sys2Proof.Machine.execBatchForm die s
  | .stepCommit die session text => Sys2Proof.Machine.execStepCommit die session text s
  | .stepFailed die session faults => Sys2Proof.Machine.execStepFailed die session faults s
  | .streamRecordWrite ring => Sys2Proof.Machine.execStreamRecordWrite ring s
  | .completionRecordWrite ring => Sys2Proof.Machine.execCompletionRecordWrite ring s
  | .eventRecordWrite ring => Sys2Proof.Machine.execEventRecordWrite ring s
  | .coalesceTimerExpiry kind ring => Sys2Proof.Machine.execCoalesceTimerExpiry kind ring s
  | .bankCommandIssue stack pair => Sys2Proof.Machine.execBankCommandIssue stack pair s
  | .scorePartial stack pair outcome => Sys2Proof.Machine.execScorePartial stack pair outcome s
  | .distScan stack pair outcome => Sys2Proof.Machine.execDistScan stack pair outcome s
  | .gatherMax stack pair outcome => Sys2Proof.Machine.execGatherMax stack pair outcome s
  | .fill stack pair outcome => Sys2Proof.Machine.execFill stack pair outcome s
  | .unitFaultRetry stack pair again => Sys2Proof.Machine.execUnitFaultRetry stack pair again s
  | .pairDrain stack pair => Sys2Proof.Machine.execPairDrain stack pair s
  | .pairFenceRepair stack pair rows passes => Sys2Proof.Machine.execPairFenceRepair stack pair rows passes s
  | .frameMigration frame good => Sys2Proof.Machine.execFrameMigration frame good s
  | .forwardSweep die => Sys2Proof.Machine.execForwardSweep die s
  | .refreshTick stack => Sys2Proof.Machine.execRefreshTick stack s
  | .refreshModeChange stack hottest => Sys2Proof.Machine.execRefreshModeChange stack hottest s
  | .governorPeriod die power hottest => Sys2Proof.Machine.execGovernorPeriod die power hottest s
  | .governorLoan die bytes => Sys2Proof.Machine.execGovernorLoan die bytes s
  | .coreSwap die region cluster core => Sys2Proof.Machine.execCoreSwap die region cluster core s
  | .clusterFence die region cluster => Sys2Proof.Machine.execClusterFence die region cluster s
  | .regionFence die region => Sys2Proof.Machine.execRegionFence die region s
  | .stackFence stack => Sys2Proof.Machine.execStackFence stack s
  | .dieLost die => Sys2Proof.Machine.execDieLost die s
  | .loftFrameRetire die frame => Sys2Proof.Machine.execLoftFrameRetire die frame s
  | .parityReplay die place wh reads session addr => Sys2Proof.Machine.execParityReplay die place wh reads session addr s
  | .sessionLost session cause => Sys2Proof.Machine.execSessionLost session cause s
  | .idleAgeTick die => Sys2Proof.Machine.execIdleAgeTick die s
  | .policyPark session env => Sys2Proof.Machine.execPolicyPark session env s
  | .bucketRefill die n => Sys2Proof.Machine.execBucketRefill die n s
  | .meterRefill die n => Sys2Proof.Machine.execMeterRefill die n s
  | .errorRateWindowEnd die => Sys2Proof.Machine.execErrorRateWindowEnd die s
  | .errorRateRecord die cls => Sys2Proof.Machine.execErrorRateRecord die cls s
  | .watchTrigger die => Sys2Proof.Machine.execWatchTrigger die s
  | .unitPeriodEnd die => Sys2Proof.Machine.execUnitPeriodEnd die s
  | .unitThresholdAction unit => Sys2Proof.Machine.execUnitThresholdAction unit s
  | .errorLogEntry die cls kind severity host wh session status opcode addr => Sys2Proof.Machine.execErrorLogEntry die cls kind severity host wh session status opcode addr s
  | .ckptTimerExpiry cls => Sys2Proof.Machine.execCkptTimerExpiry cls s
  | .ckptStepTrigger cls => Sys2Proof.Machine.execCkptStepTrigger cls s
  | .ckptCut die => Sys2Proof.Machine.execCkptCut die s
  | .haspSet session => Sys2Proof.Machine.execHaspSet session s
  | .epochWrite session env => Sys2Proof.Machine.execEpochWrite session env s
  | .epochEnd env => Sys2Proof.Machine.execEpochEnd env s
  | .ckptPendingStart => Sys2Proof.Machine.execCkptPendingStart s
  | .hotCopyFill die => Sys2Proof.Machine.execHotCopyFill die s
  | .twinFrameReceive frame => Sys2Proof.Machine.execTwinFrameReceive frame s
  | .twinFrameReplay arriving => Sys2Proof.Machine.execTwinFrameReplay arriving s
  | .twinLaneSpare lane arriving => Sys2Proof.Machine.execTwinLaneSpare lane arriving s
  | .eyeCheck bad arriving => Sys2Proof.Machine.execEyeCheck bad arriving s
  | .heartbeatSend => Sys2Proof.Machine.execHeartbeatSend s
  | .heartbeatSilence env => Sys2Proof.Machine.execHeartbeatSilence env s
  | .hello h => Sys2Proof.Machine.execHello h s
  | .sessionSync session env => Sys2Proof.Machine.execSessionSync session env s
  | .twinSyncDone twinToo env => Sys2Proof.Machine.execTwinSyncDone twinToo env s
  | .unpairReceived => Sys2Proof.Machine.execUnpairReceived s
  | .giveUpReceived => Sys2Proof.Machine.execGiveUpReceived s
  | .witnessSwap env => Sys2Proof.Machine.execWitnessSwap env s
  | .takeover => Sys2Proof.Machine.execTakeover s
  | .takeoverRingHold => Sys2Proof.Machine.execTakeoverRingHold s
  | .takeoverLeaseSwap session env => Sys2Proof.Machine.execTakeoverLeaseSwap session env s
  | .mirrorRecordApply r env => Sys2Proof.Machine.execMirrorRecordApply r env s
  | .twinRequest r env => Sys2Proof.Machine.execTwinRequest r env s
  | .frameGrant die g => Sys2Proof.Machine.execFrameGrant die g s
  | .signingRecord bytes => Sys2Proof.Machine.execSigningRecord bytes s
  | .domainPowerOff domain => Sys2Proof.Machine.execDomainPowerOff domain s
  | .domainWake domain => Sys2Proof.Machine.execDomainWake domain s
  | .pllLock die pll => Sys2Proof.Machine.execPllLock die pll s
  | .deepIdleEntry => Sys2Proof.Machine.execDeepIdleEntry s
  | .deepIdleWake => Sys2Proof.Machine.execDeepIdleWake s
  | .ideStreamSecure slot => Sys2Proof.Machine.execIdeStreamSecure slot s
  | .ideKeySetSwitch slot direction => Sys2Proof.Machine.execIdeKeySetSwitch slot direction s
  | .pcieCompletionTimeout fetch sequencer id => Sys2Proof.Machine.execPcieCompletionTimeout fetch sequencer id s
  | .thermalTripCooled hottest => Sys2Proof.Machine.execThermalTripCooled hottest s

end Sys2Proof.Machine
end

