-- ==== Sys2Proof/Safety.lean ====
section
/-! DEFINITION. The terms that claims use: when a descriptor starts at once, when host memory answers, what a measurement register may become, and which commands may replace one. -/

namespace Sys2Proof.Machine

/-- R11, R126: the sequencer carries out a descriptor of a ring at once: the device serves, and no earlier one of the ring is in progress or held. -/
def seqFree (c : Core) (d : Desc) : Prop :=
  serving c = true ∧ mapHas c.sess.seqProg d.ring = false ∧ seqHeldOf c d.ring = []

/-- R11: the router carries out a session's descriptor at once. -/
def sessFree (c : Core) (d : Desc) : Prop :=
  serving c = true ∧ mapHas c.sess.inProg d.session = false ∧ heldOf c d.session = []

/-- R9: the account check passes. -/
def ownAccount (c : Core) (d : Desc) : Prop :=
  (entryOf c d.session).state = .free ∨ (entryOf c d.session).account = d.account

/-- R88, R98, R598: requests to host memory are sent at once: the link is up, no stream of host memory is barred, and a tag is free. -/
def hostAnswers (c : Core) : Prop := c.link.up = true ∧ (∀ a, barredAt c 0 a = false) ∧ 0 < tagsFree c

/-- R133: how far a head value runs ahead of a ring's head, modulo 2^32. -/
def headAdvance (q : RecRing) (v : Nat) : Nat := (v + 2 ^ 32 - q.head % 2 ^ 32) % 2 ^ 32

/-- R133: a ring whose head has moved up to a value. -/
def advanced (q : RecRing) (v : Nat) : RecRing := { q with head := q.head + headAdvance q v }

/-- R263 check 11: an image with what a tile's reads give put in its place, taken from the host's copy `e`: the tile, its check values and, of a sealed image, its tag. -/
def withTile (e : List Byte) (i p : Nat) (m : List Byte) : List Byte :=
  let s := sectionAt (m.drop 64) i
  let put := fun (off n : Nat) (m : List Byte) => putBytes m off (bytesAt e off n)
  let m := put (s.offset + 65536 * s.tiles + 1024 * p) 1024 (put (s.offset + 65536 * p) 65536 m)
  if miSealed m then put (s.offset + 66560 * s.tiles + 16 * p) 16 m else m

/-- R263 checks 10 and 11: what a model slot holds once the tiles of the host's copy `e` have streamed into an image, or the status of the first that fails. -/
def streamed (key e : List Byte) : List (Nat × Nat) → List Byte → Except Status (List Byte)
  | [], m => .ok m
  | (i, p) :: ts, m =>
    let s := sectionAt (m.drop 64) i
    let m := withTile e i p m
    match admitTile key m i s p with
    | .error st => .error st
    | .ok t => streamed key e ts (putBytes m (s.offset + 65536 * p) t)

/-- The answers to the reads that stream those tiles. -/
def tileAnswers (key e : List Byte) : List (Nat × Nat) → List Byte → Env
  | [], _ => []
  | (i, p) :: ts, m =>
    let s := sectionAt (m.drop 64) i
    let m := withTile e i p m
    let sealTag := if miSealed m then [Ans.data (bytesAt e (s.offset + 66560 * s.tiles + 16 * p) 16)] else []
    let rest := match admitTile key m i s p with
      | .error _ => []
      | .ok t => tileAnswers key e ts (putBytes m (s.offset + 65536 * p) t)
    .data (bytesAt e (s.offset + 65536 * p) 65536) :: .data (bytesAt e (s.offset + 65536 * s.tiles + 1024 * p) 1024) :: (sealTag ++ rest)

/-- R537: a register value reached from another by extensions, each SHA-256 of the value and 32 bytes. -/
inductive Extended (v : List Byte) : List Byte → Prop where
  | same : Extended v v
  | more (w d : List Byte) : Extended v w → d.length = 32 → Extended v (sha256 (w ++ d))

/-- Every measurement register of `t` is the one of `r`, extended zero or more times. -/
def onlyExtends (r t : Rot) : Prop := t.mrs.length = r.mrs.length ∧ ∀ i, i < 16 → Extended (nth r.mrs i []) (nth t.mrs i [])

/-- R537: sixteen registers of 32 bytes. -/
def mrsWf (r : Rot) : Prop := r.mrs.length = 16 ∧ ∀ m ∈ r.mrs, m.length = 32

/-- A session whose descriptor meets nothing outside its own state: no epoch runs, no lease is to be read again first (R21), and the device mirrors nothing (R495). -/
def plainSession (c : Core) (sid : Nat) : Prop :=
  c.ckpt.running = none ∧ mapHas c.sess.reread sid = false ∧ c.twin.state ≠ 2 ∧ c.twin.state ≠ 3

/-- R116: the row of a descriptor that is carried out for a session. -/
def sessionRow (d : Desc) (env : Env) : Option Instr :=
  match d.opcode with
  | 0x10 => some (.sessOpen d env)
  | 0x11 => some (.sessClose d env)
  | 0x13 => some (.append d env)
  | 0x14 => some (.turnRun d env)
  | 0x20 => some (.park d env)
  | 0x21 => some (.revive d env)
  | 0x22 => some (.handoverOut d env)
  | 0x23 => some (.handoverIn d env)
  | _ => none

/-- R116: the row of a session-less descriptor that reads from the outside. -/
def sequencerRow (d : Desc) (env : Env) : Option Instr :=
  match d.opcode with
  | 0x04 => some (.tileCopy d env)
  | 0x30 => some (.prefixRegister d env)
  | 0x31 => some (.prefixRelease d env)
  | 0x40 => some (.grammarLoad d env)
  | 0x50 => some (.modelLoad d env)
  | 0x51 => some (.modelUnload d env)
  | 0x61 => some (.vecInsert d env)
  | 0x62 => some (.vecDelete d env)
  | 0x64 => some (.search d env)
  | 0x69 => some (.rowReplace d env)
  | 0x6A => some (.rowPool d env)
  | 0x6B => some (.rowUpdate d env)
  | 0x81 => some (.ckptClassSet d env)
  | 0x82 => some (.restore d env)
  | _ => none

end Sys2Proof.Machine
end

