-- ==== Sys2Proof/Certificates/Slice0/Obligations.lean ====
section
/-! DEFINITION. The statements about the device, by the rules of spec/ that say what a command does: the block itself, rings, sessions and turns, objects, data, parking and checkpoints, security, the links, power, units, levels and the pair. -/

open Sys2Proof
open Sys2Proof.Machine

/-! ## The block -/

/-- A step takes the command at the front of the queue and answers what it does with the rest of the queue waiting; on an empty queue one aon cycle passes (the model's choice, log entry 2). -/
def Obligations.StepTakesFrontCommand : Prop :=
  (∀ (c : Instr) (rest : List Instr) (s : State), step { s with pending := c :: rest } = exec c { s with pending := rest }) ∧
  ∀ s : State, step { s with pending := [] } = .next (tick { s with pending := [] })

/-- Every command answers a next state, whatever the state, and none reads or writes the queue. -/
def Obligations.EveryCommandAnswersNext : Prop :=
  ∀ (c : Instr) (s : State), ∃ t, exec c s = .next t ∧ t.pending = s.pending

/-- R537, R551: except where power comes or goes, a step either only extends measurement registers, or is a tenant change: the tenant epoch goes up by one, MR5 to MR8 are zero, and the others only extend. -/
def Obligations.MeasurementsOnlyExtend : Prop :=
  ∀ (s t : State), mrsWf s.rot → step s = .next t →
    (∀ b rest, s.pending ≠ .powerOnReset b :: rest) → (∀ r rest, s.pending ≠ .supplyLost r :: rest) →
    (∀ rest, s.pending ≠ .surpriseRemoval :: rest) →
    onlyExtends s.rot t.rot ∨
      (t.rot.tenantEpoch = (s.rot.tenantEpoch + 1) % 2 ^ 32 ∧
        (∀ i, 5 ≤ i → i ≤ 8 → nth t.rot.mrs i [] = List.replicate 32 0) ∧
        ∀ i, i < 16 → i < 5 ∨ 8 < i → Extended (nth s.rot.mrs i []) (nth t.rot.mrs i []))

/-- R537: the sixteen measurement registers stay 32 bytes long in every step from any state in which they are. -/
def Obligations.MeasurementsKeepShape : Prop :=
  ∀ (s t : State), mrsWf s.rot → step s = .next t → mrsWf t.rot

/-- What reset leaves: no command and no record waits, sixteen measurement registers of 32 bytes (R537), no power, reset cause 1 (R565), an empty directory, and TIER_TIMEOUT and TIER_FLOOR at the reset values of their field tables (06_tiers.md). -/
def Obligations.ResetState : Prop :=
  State.reset.pending = [] ∧ mrsWf State.reset.rot ∧ State.reset.core.power.on = false ∧ State.reset.core.power.cause = 1 ∧
  State.reset.core.sess.dir = [] ∧ State.reset.core.rings.queue = [] ∧
  regField State.reset.core 0x200110 31 0 = 0x61A8 ∧ regField State.reset.core 0x200110 63 32 = 0x3D090 ∧
  regField State.reset.core 0x200108 20 0 = 0x4000

/-! ## Rings, doorbells and completions (04_rings) -/

/-- R120, R127: NOP completes ST_OK with both counts 0, at once, or when FENCE_BEFORE is set once no earlier descriptor of its ring is open; FENCE completes ST_OK with both counts 0 once none is. While one is open, a FENCE, and a NOP with FENCE_BEFORE, of a ring that exists stands in the ring's fetch buffer and no record is queued. -/
def Obligations.NopAndFence : Prop :=
  ∀ (d : Desc) (s : State), serving s.core = true →
    ((d.fenceBefore = true → earlierOpen s.core d = false) →
      exec (.nop d) s = .next { s with core := complete s.core d .ok 0 0 }) ∧
    (earlierOpen s.core d = false → exec (.fence d) s = .next { s with core := complete s.core d .ok 0 0 }) ∧
    ∀ q, mapGet s.core.rings.subs d.ring = some q → earlierOpen s.core d = true →
      let kept := fun (t : State) => t.core.rings.queue = s.core.rings.queue ∧ t.core.rings.engines = s.core.rings.engines ∧
        ∃ r, mapGet t.core.rings.subs d.ring = some r ∧ r.buffer.contains d = true
      (d.fenceBefore = true → ∃ t, exec (.nop d) s = .next t ∧ kept t) ∧ ∃ t, exec (.fence d) s = .next t ∧ kept t

/-- R129, R130: a completion whose ring stands is put at the end of the record queue while a place is free and kept for no commit (R315) and no engine waits: tag, status, opcode, generation, session and submission ring in words 0 and 1, the counts in the last word, and the descriptor's irq; the descriptor is open no more. Host memory, the device's memory and its objects stay as they are. -/
def Obligations.CompletionRecord : Prop :=
  ∀ (c : Core) (d : Desc) (st : Status) (c0 c1 : Nat) (r : SubRing) (q : RecRing),
    mapGet c.rings.subs d.ring = some r → mapGet c.rings.cqs r.cq = some q → q.errored = false → q.destroying = false →
    c.rings.queue.length + c.rings.keep.length < 4096 → c.rings.engines = [] →
    (complete c d st c0 c1).rings.queue = c.rings.queue ++
      [⟨1, r.cq, [d.tag,
        stCode st + d.opcode % 2 ^ 8 * 2 ^ 8 + d.generation % 2 ^ 2 * 2 ^ 16 + d.session % 2 ^ 24 * 2 ^ 24 + d.ring % 2 ^ 12 * 2 ^ 48,
        c0 % 2 ^ 32 + c1 % 2 ^ 32 * 2 ^ 32], d.irq, [], 0⟩] ∧
    (complete c d st c0 c1).rings.engines = [] ∧
    mapGet (complete c d st c0 c1).rings.subs d.ring = some { r with opened := r.opened.erase d.count } ∧
    (complete c d st c0 c1).bus = c.bus ∧ (complete c d st c0 c1).mem = c.mem ∧ (complete c d st c0 c1).obj = c.obj

/-- R109, R112: on a device that is ready, a create command for a free id of a kind with fields in range makes the ring of that kind, empty, with its tail, head and counts at 0, and sets STATUS 0; nothing but the ring and STATUS changes. A submission ring names a completion ring that exists and is not errored, and a stream ring that exists when STREAM_EN is set. R113, R114, R600: a destroy command for a submission ring stops its fetching, and is busy; one for a record ring that no submission ring names stops its record writing, drops its queued records, and is busy. When it is done the ring is gone and STATUS is 0; while a submission ring has descriptors open or completions unwritten, it is not done. -/
def Obligations.RingsCreatedAndDestroyed : Prop :=
  (∀ (id kind : Nat) (s : State), ready s.core = true → s.core.power.deep = false →
     s.core.rings.window = none → 4 ≤ regField s.core 0x10018 4 0 → regField s.core 0x10018 4 0 ≤ 16 →
     (id < 4096 → mapHas s.core.rings.subs id = false → 1 ≤ regField s.core 0x10018 6 5 →
       1 ≤ regField s.core 0x10020 30 24 → regField s.core 0x10020 30 24 ≤ 64 →
       mapHas s.core.rings.cqs (regField s.core 0x10020 11 0) = true → ringErrored s.core 1 (regField s.core 0x10020 11 0) = false →
       (regField s.core 0x10020 22 22 = 1 → mapHas s.core.rings.streams (regField s.core 0x10020 21 12) = true) →
       exec (.ringCreate 0 id) s = .next { s with core := { s.core with rings := { s.core.rings with
         status := 0
         subs := mapSet s.core.rings.subs id
           { base := regField s.core 0x10010 63 12 * 4096, log2 := regField s.core 0x10018 4 0
             gen := regField s.core 0x10018 6 5, cq := regField s.core 0x10020 11 0
             stream := if regField s.core 0x10020 22 22 = 1 then some (regField s.core 0x10020 21 12) else none
             prefetch := regField s.core 0x10020 30 24 } } } }) ∧
     (kind = 1 ∨ kind = 2 ∨ kind = 3 → id < ringLimit kind → recRing s.core kind id = none → regField s.core 0x10018 18 8 ≤ 2047 →
       1 ≤ regField s.core 0x10028 7 0 → 1 ≤ regField s.core 0x10028 31 16 →
       let c := setRecRing s.core kind id
         { base := regField s.core 0x10010 63 12 * 4096, log2 := regField s.core 0x10018 4 0
           irqEn := regField s.core 0x10018 7 7 == 1, vector := regField s.core 0x10018 18 8
           count := regField s.core 0x10028 7 0, time := regField s.core 0x10028 31 16 }
       exec (.ringCreate kind id) s = .next { s with core := { c with rings := { c.rings with status := 0 } } })) ∧
  (∀ (id kind : Nat) (r : SubRing) (q : RecRing) (s : State), ready s.core = true → s.core.power.deep = false →
     s.core.rings.window = none →
     (id < 4096 → mapGet s.core.rings.subs id = some r →
       exec (.ringDestroy 0 id) s = .next { s with core := { s.core with rings := { s.core.rings with
         window := some (0, id), subs := mapSet s.core.rings.subs id { r with destroying := true } } } }) ∧
     (kind = 1 ∨ kind = 2 ∨ kind = 3 → id < ringLimit kind → recRing s.core kind id = some q → takeNeeds s.core = false →
       (s.core.rings.subs.any fun p => (kind == 1 && p.2.cq == id) || (kind == 2 && p.2.stream == some id)) = false →
       ∃ t, exec (.ringDestroy kind id) s = .next t ∧ t.core.rings.window = some (kind, id) ∧
         recRing t.core kind id = some { q with destroying := true } ∧
         (t.core.rings.queue.any fun x => x.kind == kind && x.ring == id) = false)) ∧
  ∀ (id kind : Nat) (s : State), alive s.core = true → s.core.rings.window = some (kind, id) →
     (kind = 0 → subDrained s.core id = false → exec .ringDestroyDone s = .next s) ∧
     (kind = 0 → subDrained s.core id = true →
       exec .ringDestroyDone s = .next { s with core := { s.core with rings := { s.core.rings with
         window := none, status := 0, subs := mapDel s.core.rings.subs id } } }) ∧
     (kind = 1 → exec .ringDestroyDone s = .next { s with core := { s.core with rings := { s.core.rings with
         window := none, status := 0, cqs := mapDel s.core.rings.cqs id } } }) ∧
     (kind = 2 → exec .ringDestroyDone s = .next { s with core := { s.core with rings := { s.core.rings with
         window := none, status := 0, streams := mapDel s.core.rings.streams id } } }) ∧
     (kind = 3 → exec .ringDestroyDone s = .next { s with core := { s.core with rings := { s.core.rings with
         window := none, status := 0, events := mapDel s.core.rings.events id } } })

/-- R122: an 8-byte tail write that runs at most the ring's size ahead of the fetched count sets the tail; a larger one errs the ring and is logged, and the tail stays; one to a ring that does not exist is logged and ignored. R92, R94: a CompareAndSwap at +0x0 of a doorbell page answers the tail, and of 128 bits the head of the completion ring with it, as held before; it takes the swap value as those writes would exactly when the compare value matches what is held. Any other atomic operation, any other offset and BAR0 answer Unsupported Request. -/
def Obligations.TailWrites : Prop :=
  (∀ (n : Nat) (v : Word) (s : State), ready s.core = true → s.core.power.deep = false →
     (∀ r, mapGet s.core.rings.subs n = some r → (v.toNat % 2 ^ 32 + 2 ^ 32 - r.fetched) % 2 ^ 32 ≤ 2 ^ r.log2 →
       exec (.submissionTailWrite n 8 v) s = .next { s with core := { s.core with rings := { s.core.rings with
         subs := mapSet s.core.rings.subs n { r with tail := v.toNat % 2 ^ 32 } } } }) ∧
     (∀ r, mapGet s.core.rings.subs n = some r → 2 ^ r.log2 < (v.toNat % 2 ^ 32 + 2 ^ 32 - r.fetched) % 2 ^ 32 →
       ∃ t, exec (.submissionTailWrite n 8 v) s = .next t ∧
         (mapGet t.core.rings.subs n).map (fun x => (x.errored, x.tail)) = some (true, r.tail) ∧
         t.core.errs.next = s.core.errs.next + 1) ∧
     (mapGet s.core.rings.subs n = none →
       exec (.submissionTailWrite n 8 v) s = .next { s with core := logHost s.core 0x0B (n * 4096) })) ∧
  (∀ (n : Nat) (r : SubRing) (q : RecRing) (v v1 w w1 : Word) (s : State), ready s.core = true → s.core.power.deep = false → n < 4096 →
     mapGet s.core.rings.subs n = some r →
     (v.toNat = r.tail → (w.toNat % 2 ^ 32 + 2 ^ 32 - r.fetched) % 2 ^ 32 ≤ 2 ^ r.log2 →
       exec (.doorbellCompareAndSwap .compareAndSwap 2 n 0 false [v] [w]) s = .next { s with core := { s.core with
         reply := .data (natLe 8 r.tail)
         rings := { s.core.rings with subs := mapSet s.core.rings.subs n { r with tail := w.toNat % 2 ^ 32 } } } }) ∧
     (v.toNat ≠ r.tail →
       exec (.doorbellCompareAndSwap .compareAndSwap 2 n 0 false [v] [w]) s =
         .next { s with core := { s.core with reply := .data (natLe 8 r.tail) } }) ∧
     (mapGet s.core.rings.cqs n = some q →
       (v.toNat = r.tail → v1.toNat = q.head % 2 ^ 32 → (w.toNat % 2 ^ 32 + 2 ^ 32 - r.fetched) % 2 ^ 32 ≤ 2 ^ r.log2 →
         headAdvance q (w1.toNat % 2 ^ 32) ≤ q.written - q.head →
         exec (.doorbellCompareAndSwap .compareAndSwap 2 n 0 true [v, v1] [w, w1]) s = .next { s with core := { s.core with
           reply := .data (natLe 8 r.tail ++ natLe 8 (q.head % 2 ^ 32))
           rings := { s.core.rings with
             subs := mapSet s.core.rings.subs n { r with tail := w.toNat % 2 ^ 32 }
             cqs := mapSet s.core.rings.cqs n (advanced q (w1.toNat % 2 ^ 32)) } } }) ∧
       (v.toNat ≠ r.tail ∨ v1.toNat ≠ q.head % 2 ^ 32 →
         exec (.doorbellCompareAndSwap .compareAndSwap 2 n 0 true [v, v1] [w, w1]) s =
           .next { s with core := { s.core with reply := .data (natLe 8 r.tail ++ natLe 8 (q.head % 2 ^ 32)) } })) ∧
     ∀ op bar off wide, op ≠ .compareAndSwap ∨ bar = 0 ∨ off ≠ 0 →
       exec (.doorbellCompareAndSwap op bar n off wide [v] [w]) s = .next { s with core := { s.core with reply := .ur } })

/-- R133: a head write that passes no record written frees the entries up to it; one that passes them errs the ring. The doorbell for a completion ring and the registers for stream and event rings obey one rule; accounts whose rows the stream's room makes eligible wake (R451). R131, R132, R137: a completion, stream or event record that is first of its ring in the queue, of a ring with interrupts off, is written when the ring has room and no stream of its addresses is barred: the payload first, then the record's bytes at its index with its phase; the written count goes up by one. While no other record waits for a place, and no event ring has dropped any, nothing else changes. -/
def Obligations.HeadAndRecordWrites : Prop :=
  (∀ (n : Nat) (v : Word) (q : RecRing) (s : State), ready s.core = true → s.core.power.deep = false →
     q.written - q.head < 2 ^ 32 →
     (mapGet s.core.rings.cqs n = some q →
       headAdvance q (v.toNat % 2 ^ 32) ≤ q.written - q.head →
       exec (.completionHeadWrite n 8 v) s = .next { s with core := { s.core with rings := { s.core.rings with
         cqs := mapSet s.core.rings.cqs n (advanced q (v.toNat % 2 ^ 32)) } } }) ∧
     (mapGet s.core.rings.cqs n = some q →
       q.written - q.head < headAdvance q (v.toNat % 2 ^ 32) →
       ∃ t, exec (.completionHeadWrite n 8 v) s = .next t ∧
         mapGet t.core.rings.cqs n = some { q with errored := true } ∧ (t.core.rings.queue.any fun r => r.kind == 1 && r.ring == n) = false) ∧
     (mapGet s.core.rings.streams n = some q → s.core.rings.events = [] →
       headAdvance q (v.toNat % 2 ^ 32) ≤ q.written - q.head →
       exec (.streamHeadWrite n 0 8 v) s = .next { s with core := wakingBoth s.core fun c => { c with rings := { c.rings with
         streams := mapSet c.rings.streams n (advanced q (v.toNat % 2 ^ 32)) } } }) ∧
     (s.core.rings.events = [(n, q)] → q.dropped = 0 →
       headAdvance q (v.toNat % 2 ^ 32) ≤ q.written - q.head →
       exec (.eventHeadWrite n 0 8 v) s = .next { s with core := wakingBoth s.core fun c => { c with rings := { c.rings with
         events := [(n, advanced q (v.toNat % 2 ^ 32))] } } })) ∧
  (∀ (ring : Nat) (q : RecRing) (x : Rec) (rest : List Rec) (s : State), alive s.core = true → linkHeld s.core = false →
     q.errored = false → q.destroying = false → q.written - q.head < 2 ^ q.log2 → q.irqEn = false → q.dropped = 0 →
     s.core.rings.engines = [] → recordFails s.core q x.kind = false → bytesFail s.core x = false →
     let idx := q.written % 2 ^ q.log2
     let phase := if q.written / 2 ^ q.log2 % 2 = 0 then 2 ^ 63 else 0
     let w := fun i => x.words.getD i 0
     let c := if x.payload = [] then s.core else busPayload s.core x.addr x.payload
     (takeRec s.core.rings.queue 1 ring = some (x, rest) → x.kind = 1 → mapGet s.core.rings.cqs ring = some q →
       s.core.rings.events = [] →
       exec (.completionRecordWrite ring) s = .next { s with core := { s.core with
         bus := (busWrite c (q.base + idx * 32) (wordsBytes [w 0, w 1 + phase, q.written, w 2])).bus
         rings := { s.core.rings with queue := rest, cqs := mapSet s.core.rings.cqs ring { q with written := q.written + 1 } } } }) ∧
     (takeRec s.core.rings.queue 2 ring = some (x, rest) → x.kind = 2 → mapGet s.core.rings.streams ring = some q →
       s.core.rings.events = [] →
       exec (.streamRecordWrite ring) s = .next { s with core := { s.core with
         bus := (busWrite c (q.base + idx * 16) (wordsBytes [w 0, w 1 + phase])).bus
         rings := { s.core.rings with queue := rest, streams := mapSet s.core.rings.streams ring { q with written := q.written + 1 } } } }) ∧
     (takeRec s.core.rings.queue 3 ring = some (x, rest) → x.kind = 3 → s.core.rings.events = [(ring, q)] →
       exec (.eventRecordWrite ring) s = .next { s with core := { s.core with
         bus := (busWrite c (q.base + idx * 32) (wordsBytes [w 0 + phase, q.written, w 1, w 2])).bus
         rings := { s.core.rings with queue := rest, events := [(ring, { q with written := q.written + 1 })] } } }))

/-- R125: a visit of the next ring in round-robin order reads min(credits, pending, 8, entries to the end of the ring, room of the fetch buffer) entries into the buffer, spends as many credits and counts them fetched; a read that fails errs the ring and fetches nothing. -/
def Obligations.FetchVisit : Prop :=
  ∀ (ring n : Nat) (r : SubRing) (bs : List Byte) (a : Ans) (s : State), serving s.core = true → linkHeld s.core = false →
    hostAnswers s.core → nextRing s.core = some ring → mapGet s.core.rings.subs ring = some r → 0 < n →
    n = min (min (min (r.prefetch - r.spent) ((r.tail + 2 ^ 32 - r.fetched) % 2 ^ 32)) (min 8 (2 ^ r.log2 - r.fetched % 2 ^ r.log2)))
      (1024 - fetchBuffered s.core) →
    exec (.fetchVisit ring (.data bs)) s = .next { s with core := { s.core with rings := { s.core.rings with
      lastRing := ring
      subs := mapSet s.core.rings.subs ring { r with
        fetched := (r.fetched + n) % 2 ^ 32
        spent := r.spent + n
        buffer := r.buffer ++ (List.range n).map fun i =>
          descOf ring ((r.fetched + i) % 2 ^ 32) (bytesAt bs (entryBytes r.gen * i) (entryBytes r.gen))
        opened := r.opened ++ (List.range n).map fun i => (r.fetched + i) % 2 ^ 32 } } } } ∧
    ((∀ b, a ≠ .data b) →
      ∃ t, exec (.fetchVisit ring a) s = .next t ∧
        (mapGet t.core.rings.subs ring).map (fun x => (x.errored, x.fetched, x.buffer)) = some (true, r.fetched, r.buffer))

/-- R117, R601: the first buffered descriptor of a ring that no FENCE holds, with another generation than the ring's, completes ST_INVALID_FIELD at once, its own FENCE_BEFORE ignored; it leaves the buffer, its credit returns, and nothing else happens. -/
def Obligations.WrongGenerationRefused : Prop :=
  ∀ (ring : Nat) (r : SubRing) (d : Desc) (ds : List Desc) (s : State), serving s.core = true →
    mapGet s.core.rings.subs ring = some r → fenceOpen s.core ring = false → r.buffer = d :: ds → d.ring = ring → d.generation ≠ r.gen →
    exec (.descriptorRoute ring) s = .next { s with core := complete { s.core with rings := { s.core.rings with
      subs := mapSet s.core.rings.subs ring { r with buffer := ds, spent := r.spent - 1 } } } d .invalidField 0 0 }

/-- R126, R12: the first buffered descriptor of a ring that no FENCE holds, which passes the generic checks, carries no FENCE_BEFORE and is none of NOP, FENCE, SESS_QUERY and TURN_CANCEL, joins its session's router store behind those held there, or the sequencer's queue of its ring when it names no session. -/
def Obligations.RoutedDescriptorIsHeld : Prop :=
  ∀ (ring : Nat) (r : SubRing) (d : Desc) (ds : List Desc) (s : State), serving s.core = true →
    mapGet s.core.rings.subs ring = some r → fenceOpen s.core ring = false → r.buffer = d :: ds → d.ring = ring →
    genericCheck s.core r.gen d = none →
    d.fenceBefore = false → 1 < d.opcode → d.opcode ≠ 0x12 → d.opcode ≠ 0x15 →
    (d.session = 0 → ∃ t, exec (.descriptorRoute ring) s = .next t ∧ seqHeldOf t.core ring = seqHeldOf s.core ring ++ [d] ∧
      mapGet t.core.rings.subs ring = some { r with buffer := ds, spent := r.spent - 1 } ∧
      t.core.rings.queue = s.core.rings.queue) ∧
    (d.session ≠ 0 → routerHeld s.core (sessionDie s.core d.session) < 16384 → (heldOf s.core d.session).length < 15 →
      ∃ t, exec (.descriptorRoute ring) s = .next t ∧ heldOf t.core d.session = heldOf s.core d.session ++ [d] ∧
      mapGet t.core.rings.subs ring = some { r with buffer := ds, spent := r.spent - 1 } ∧
      t.core.rings.queue = s.core.rings.queue)

/-- R12: behind a session's descriptor that is being carried out, up to 15 are held in order; a sixteenth completes ST_NO_SPACE and has no other effect; of a mirrored session the twin is told with it (R501). -/
def Obligations.FifteenHeldSixteenthRefused : Prop :=
  ∀ (d : Desc) (env : Env) (i : Instr) (s : State), serving s.core = true → sessionRow d env = some i →
    mapHas s.core.sess.inProg d.session = true →
    ((heldOf s.core d.session).length < 15 →
      ∃ t, exec i s = .next t ∧ heldOf t.core d.session = heldOf s.core d.session ++ [d] ∧
        (∀ x, x ≠ d.session → heldOf t.core x = heldOf s.core x ∧ entryOf t.core x = entryOf s.core x) ∧
        t.core.sess.inProg = s.core.sess.inProg ∧ t.core.rings = s.core.rings ∧ t.core.mem = s.core.mem ∧
        t.core.obj = s.core.obj) ∧
    ((heldOf s.core d.session).length = 15 →
      exec i s = .next { s with core := finishDesc s.core d .noSpace 0 0 } ∧
      (mirrored s.core d.session = false → finishDesc s.core d .noSpace 0 0 = complete s.core d .noSpace 0 0))

/-- R11, R126: dispatch carries out the one descriptor that a free session or ring holds exactly as the command of its row does on the state without it. -/
def Obligations.DispatchCarriesOutRow : Prop :=
  ∀ (d : Desc) (env : Env) (i : Instr) (s : State), serving s.core = true → s.core.sess.waiting = [] →
    (sessionRow d env = some i → mapHas s.core.sess.inProg d.session = false → heldOf s.core d.session = [d] →
      exec (.descriptorDispatch false d.session env) s =
        exec i { s with core := { s.core with sess := { s.core.sess with held := mapDel s.core.sess.held d.session } } }) ∧
    (sequencerRow d env = some i → mapHas s.core.sess.seqProg d.ring = false → seqHeldOf s.core d.ring = [d] →
      exec (.descriptorDispatch true d.ring env) s =
        exec i { s with core := { s.core with sess := { s.core.sess with seqHeld := mapDel s.core.sess.seqHeld d.ring } } })

/-- R95, R96, R135: when TIME runs out on a ring with records not yet signalled, its vector's message is sent, or kept pending while the vector is masked. A pending message is sent, once, when the vector is unmasked, when MSI-X Enable is set or when Function Mask is cleared and nothing else masks it: four bytes at the vector's address. All this while the link is up and no stream that the message needs is barred. -/
def Obligations.InterruptMessages : Prop :=
  ∀ (kind ring v : Nat) (q : RecRing) (s : State), ready s.core = true → s.core.power.deep = false → linkHeld s.core = false → v < 2048 →
    barredAt s.core 0 (regGet s.core (0x8000 + 16 * v)) = false →
    let told := fun (t : State) =>
      mapGet t.core.rings.msixSent v = some ((mapGet s.core.rings.msixSent v).getD 0 + 1) ∧ mapHas t.core.rings.msixPending v = false ∧
      ∀ i, i < 4 → busByte t.core ((regGet s.core (0x8000 + 16 * v) + i) % 2 ^ 64) =
        some (BitVec.ofNat 8 (regField s.core (0x8008 + 16 * v) 31 0 / 256 ^ i))
    (recRing s.core kind ring = some q → q.vector = v → q.irqEn = true → 0 < q.unsignalled → s.core.rings.msixEnable = true →
      s.core.rings.functionMask = false →
      (vectorMasked s.core v = false → ∃ t, exec (.coalesceTimerExpiry kind ring) s = .next t ∧ told t ∧
        recRing t.core kind ring = some { q with unsignalled := 0 }) ∧
      (vectorMasked s.core v = true → ∃ t, exec (.coalesceTimerExpiry kind ring) s = .next t ∧
        t.core.rings.msixSent = s.core.rings.msixSent ∧ mapHas t.core.rings.msixPending v = true ∧ t.core.bus = s.core.bus)) ∧
    (s.core.rings.msixPending = [(v, ())] →
      (s.core.rings.msixEnable = true → s.core.rings.functionMask = false →
        ∃ t, exec (.msixUnmask 0 v) s = .next t ∧ told t ∧ vectorMasked t.core v = false) ∧
      (s.core.rings.functionMask = false → vectorMasked s.core v = false →
        ∃ t, exec (.msixUnmask 1 v) s = .next t ∧ told t ∧ t.core.rings.msixEnable = true) ∧
      (s.core.rings.msixEnable = true → vectorMasked s.core v = false →
        ∃ t, exec (.msixUnmask 2 v) s = .next t ∧ told t ∧ t.core.rings.functionMask = false))

/-! ## Sessions, turns and steps (01, 09, 10) -/

/-- R33, R34, R70: SESS_OPEN of a FREE id, with its account set, its slot loaded, no grammar and no prefix, on a device that is not paired, makes the session IDLE at position 0 on the die with more free frames (its directory die when they are equal), with three frames of its own, and completes ST_OK with counts 0. No other session changes. -/
def Obligations.SessOpenMakesSession : Prop :=
  ∀ (d : Desc) (env : Env) (s : State), sessFree s.core d → plainSession s.core d.session → d.session ≠ 0 → d.account ≠ 0 →
    (entryOf s.core d.session).state = .free → mapHas s.core.acctCfg d.account = true →
    (loadedModel s.core (d.field 2 3 0 0)).isSome = true → d.field 2 16 16 0 = 0 → d.field 2 63 32 0 = 0 →
    let home := if freeOf s.core false < freeOf s.core true then true
      else if freeOf s.core true < freeOf s.core false then false else d.session % 2 == 1
    3 ≤ freeOf s.core home →
    ∃ t root, exec (.sessOpen d env) s = .next t ∧
      entryOf t.core d.session = { state := .idle, modelSlot := d.field 2 3 0 0, homeDie := home, account := d.account
                                   ckptClass := d.field 2 19 17 0, seed := BitVec.ofNat 64 (d.field 3 63 0 0)
                                   rootFrame := root, privateFrames := 3 } ∧
      freeOf t.core home = freeOf s.core home - 3 ∧ freeOf t.core (!home) = freeOf s.core (!home) ∧
      t.core.rings = (complete s.core d .ok 0 0).rings ∧ t.rot = s.rot ∧ t.core.bus = s.core.bus ∧
      ∀ x, x ≠ d.session → entryOf t.core x = entryOf s.core x

/-- R19, R20: SESS_CLOSE of an IDLE, WAITING or PARKED session, or of a LOST one without an index entry, makes its entry FREE, leaves it no warm contents and no index entry, and completes ST_OK. No other session's entry or warm contents change. On a FREE entry it completes ST_WRONG_STATE and no entry changes. -/
def Obligations.SessCloseFreesSession : Prop :=
  ∀ (d : Desc) (env : Env) (s : State), sessFree s.core d → plainSession s.core d.session → ownAccount s.core d →
    ((entryOf s.core d.session).state = .idle ∨ (entryOf s.core d.session).state = .waiting ∨
        (entryOf s.core d.session).state = .parked ∨
        ((entryOf s.core d.session).state = .lost ∧ mapGet s.core.mem.index d.session = none) →
      ∃ t, exec (.sessClose d env) s = .next t ∧ entryOf t.core d.session = {} ∧ mapGet t.core.sess.warm d.session = none ∧
        mapGet t.core.mem.index d.session = none ∧
        t.core.rings = (complete s.core d .ok 0 0).rings ∧ t.rot = s.rot ∧
        ∀ x, x ≠ d.session → entryOf t.core x = entryOf s.core x ∧ mapGet t.core.sess.warm x = mapGet s.core.sess.warm x) ∧
    (entryOf s.core d.session = {} →
      ∃ t, exec (.sessClose d env) s = .next t ∧ t.core.rings = (complete s.core d .wrongState 0 0).rings ∧
        ∀ x, entryOf t.core x = entryOf s.core x)

/-- R35: SESS_QUERY in any state, of the session's own account, completes ST_OK with the state in count0 [3:0], the end reason in [7:4] and the next position in count1; with an aligned address it first writes a copy of the entry's eight words there; with one that is not aligned to 64 B it completes ST_INVALID_FIELD. It changes nothing else, and waits for no earlier descriptor. -/
def Obligations.SessQueryAnswers : Prop :=
  ∀ (d : Desc) (s : State), serving s.core = true → ownAccount s.core d → plainSession s.core d.session →
    let e := entryOf s.core d.session
    let told := busPayload s.core (d.field 2 63 0 0) (wordsBytes (entryWords s.core e (heldBehind s.core d.session)))
    let answer := fun c => complete c d .ok (stateCode e.state % 2 ^ 4 + e.endReason % 2 ^ 4 * 2 ^ 4) e.nextPosition
    (d.field 2 63 0 0 = 0 → exec (.sessQuery d) s = .next { s with core := answer s.core }) ∧
    (d.field 2 63 0 0 ≠ 0 → d.field 2 63 0 0 % 64 = 0 → hostAnswers s.core →
      exec (.sessQuery d) s = .next { s with core := answer told }) ∧
    (d.field 2 63 0 0 % 64 ≠ 0 → exec (.sessQuery d) s = .next { s with core := complete s.core d .invalidField 0 0 })

/-- R59, R273, R275, R291: APPEND of a segment whose tokens fit, of an account whose appends are not metered, with a place in the intake queue and a tokenizer that does not stall, reads it, keeps its last token pending, and queues the rest behind the session's lane, as many ids in the token queue as it has room for; the session keeps its state and position until the prefill has run. A segment with nothing in it completes at once. -/
def Obligations.AppendQueuesPrefill : Prop :=
  ∀ (d : Desc) (bs : List Byte) (w : Warm) (s : State), sessFree s.core d → plainSession s.core d.session → ownAccount s.core d →
    hostAnswers s.core → mapGet s.core.mem.windows 0 = none → mapGet s.core.sess.warm d.session = some w →
    (entryOf s.core d.session).state = .idle ∨ (entryOf s.core d.session).state = .waiting →
    let e := entryOf s.core d.session
    let n := d.field 3 31 0 0
    let ids := bit d.flags 1
    let size := if ids then 4 * n else n
    let seg := segmentToks (vocabOfSlot s.core e.modelSlot) w.ctl d (bytesAt bs 0 size)
    let all := w.ctl.pendingTok.toList ++ seg.1
    (n = 0 → ids = true ∨ bit d.flags 0 = false → ∀ env,
      exec (.append d env) s = .next { s with core := complete (beginSession s.core d) d .ok 0 0 }) ∧
    (0 < n → n ≤ 4194304 → (ids = true → d.field 2 63 0 0 % 4 = 0) →
      (ids = true → ∀ i, i < n → leAt (bytesAt bs 0 size) (4 * i) 4 < miVocab (sessImg s.core d.session)) →
      ((mapGet s.core.acctCfg e.account).map (·.mEnable)).getD false = false →
      seg.1 ≠ [] → 2 ≤ all.length → intakeUsed s.core e.homeDie < 256 →
      tokenizerStalls s.core e.homeDie = false →
      appendShort s.core (sessImg s.core d.session) w e.homeDie e.nextPosition (all.length - 1) = false →
      ∃ t w', exec (.append d [.data bs]) s = .next t ∧ mapGet t.core.sess.warm d.session = some w' ∧
        w'.columns = w.columns ∧
        w'.lane = some { desc := d, green := true, toks := all.dropLast, done := 0
                         ready := min (all.length - 1) (65536 - tokensQueued s.core e.homeDie), ctl := { seg.2.2 with pendingTok := all.getLast? }
                         cols := w.columns, invalid := seg.2.1, taken := 0 } ∧
        (entryOf t.core d.session).state = e.state ∧ (entryOf t.core d.session).nextPosition = e.nextPosition ∧
        mapGet t.core.sess.inProg d.session = some d ∧ t.core.rings.queue = s.core.rings.queue)

/-- R38, R295: TURN_RUN of an IDLE or WAITING session with a pending token, fields in range, a stream ring, a budget, no failing page that the mark copies and room for its reservation makes it QUEUED: the turn number goes up by one, the step is 0, and the mark is taken at the present position. R17, R18, R139: TURN_CANCEL of a QUEUED or RUNNING session leaves a cancel pending, drops the turn's stream records that are not written yet and completes ST_OK at once, and accounts whose rows the stream's room makes eligible wake (R451); on a LOST one it completes ST_LOST, and in every other state ST_WRONG_STATE with no effect; another account's completes ST_INVALID_FIELD. -/
def Obligations.TurnsRunAndCancelled : Prop :=
  (∀ (d : Desc) (env : Env) (r : SubRing) (w : Warm) (s : State), sessFree s.core d → plainSession s.core d.session →
     ownAccount s.core d → mapGet s.core.rings.subs d.ring = some r → r.stream.isSome = true → turnFieldsBad d = false →
     d.field 4 63 0 0 = 0 → d.field 7 13 12 0 = 0 → mapGet s.core.sess.warm d.session = some w → w.ctl.pendingTok.isSome = true →
     let e := entryOf s.core d.session
     e.state = .idle ∨ e.state = .waiting → e.turn < 0xFFFFFFFF → e.grammarBound = false → blocked s.core e.account = false →
     regField s.core 0x500140 0 0 = 0 → markFails s.core e (pageP (sessImg s.core d.session)) w = none →
     turnShort (sessImg s.core d.session) e.homeDie e.nextPosition (d.field 3 23 0 0) ⟨s.core, w⟩ = false →
     ∃ t, exec (.turnRun d env) s = .next t ∧ (entryOf t.core d.session).state = .queued ∧
       (entryOf t.core d.session).turn = e.turn + 1 ∧ (entryOf t.core d.session).step = 0 ∧
       (entryOf t.core d.session).markValid = true ∧ (entryOf t.core d.session).markPosition = e.nextPosition ∧
       (entryOf t.core d.session).nextPosition = e.nextPosition ∧
       mapGet t.core.sess.inProg d.session = some d ∧ t.core.rings = s.core.rings ∧
       ∀ x, x ≠ d.session → entryOf t.core x = entryOf s.core x) ∧
  (∀ (d : Desc) (s : State), serving s.core = true → plainSession s.core d.session →
     let e := entryOf s.core d.session
     (e.state = .queued ∨ e.state = .running → e.account = d.account →
       ∃ t, exec (.turnCancel d) s = .next t ∧ entryOf t.core d.session = { e with cancelPending := true } ∧
         t.core.rings = (complete (queueFreed (discardTurn s.core d.session e.turn)) d .ok 0 0).rings ∧
         t.core.mem = s.core.mem ∧
         t.core.sched = (wakingBoth s.core fun c => queueFreed (discardTurn c d.session e.turn)).sched ∧
         ∀ x, x ≠ d.session → entryOf t.core x = entryOf s.core x) ∧
     (e.state = .lost → e.account = d.account →
       exec (.turnCancel d) s = .next { s with core := complete s.core d .lost 0 0 }) ∧
     (e.state ≠ .queued → e.state ≠ .running → e.state ≠ .lost → e.state = .free ∨ e.account = d.account →
       exec (.turnCancel d) s = .next { s with core := complete s.core d .wrongState 0 0 }) ∧
     (e.state ≠ .free → e.account ≠ d.account →
       exec (.turnCancel d) s = .next { s with core := complete s.core d .invalidField 0 0 }))

/-- R301, R22: the one QUEUED session of a die, of the one account there, with budget and a stream entry free, goes into the batch that is formed: it becomes RUNNING and its row stands in the step. -/
def Obligations.BatchFormPlacesSession : Prop :=
  ∀ (die : Bool) (sid a k : Nat) (x : Acct) (s : State), serving s.core = true → s.core.ckpt.running = none →
    (s.core.levels.get die).lost = false → s.core.twin.gaveUp = false → s.core.twin.ringHold = false →
    (s.core.sched.get die).rows = [] → (s.core.sched.get die).batches = [] → (s.core.sched.get die).waitMirror = [] → (s.core.sched.get die).accts = [(a, x)] →
    x.decodeQ = [sid] → x.laneQ = [] → classOf s.core die a = some k → k < 3 → decodable s.core sid = true →
    (entryOf s.core sid).account = a → (entryOf s.core sid).homeDie = die →
    (loadedModel s.core (entryOf s.core sid).modelSlot).isSome = true → stalls s.core sid = false →
    0 < regField s.core 0x500100 12 0 → 0 < regField s.core 0x500100 46 32 →
    ∃ t row, exec (.batchForm die) s = .next t ∧ (entryOf t.core sid).state = .running ∧
      (t.core.sched.get die).rows = [row] ∧ row.session = sid ∧ row.chunk = 0 ∧ row.account = a ∧
      (t.core.sched.get die).lastRows = 1

/-- R312, R444: a part of a step whose output is ready commits: its row leaves the step, its pending charge is taken, an account that this gives its only eligible row wakes (R451), and a decode row counts towards the checkpoint classes of its session. R308, R310: the one decode row of a RUNNING session with no cancel pending, whose page and control frame can be written, commits when its logits are numbers and its output finds room: the session moves on by one position, and goes on RUNNING with one step more unless the step ends its turn. R23, R22: when a fault ends a session's part of a step, its row leaves the step and its turn ends: with no cancel pending the session is IDLE with end reason 8, no mark and the position it had. -/
def Obligations.StepCommitsAndFaults : Prop :=
  (∀ (die text : Bool) (sid : Nat) (r : Row) (c' : Core) (s : State), serving s.core = true → s.core.twin.gaveUp = false →
     (s.core.sched.get die).rows = [r] → r.session = sid → sid < 2 ^ 24 → unitsBusy s.core (.step die sid) = false → r.bucket = 0 →
     r.faults = [] →
     (r.chunk = 0 → decodeCommit s.core sid text = .done c' →
       exec (.stepCommit die sid text) s =
         .next { s with core := waking s.core die fun _ => countSince (walkSession (countWalks (removeRow c' die sid true)) sid) sid } ∧
       ((removeRow c' die sid true).sched.get die).rows = (c'.sched.get die).rows.filter fun q => q.session != sid) ∧
     (r.chunk = 0 → decodeCommit s.core sid text = .done c' → (entryOf s.core sid).state = .running →
       ((entryOf c' sid).state = .running ∧ (entryOf c' sid).nextPosition = (entryOf s.core sid).nextPosition + 1 ∧
         (entryOf c' sid).step = (entryOf s.core sid).step + 1) ∨
       (entryOf c' sid).state = .idle ∨ (entryOf c' sid).state = .waiting) ∧
     (0 < r.chunk → chunkCommit s.core sid r.chunk = .done c' →
       exec (.stepCommit die sid text) s = .next { s with core := waking s.core die fun _ => walkSession (countWalks (removeRow c' die sid true)) sid })) ∧
  (∀ (die : Bool) (sid tok : Nat) (r : Row) (w : Warm) (t : Turn) (col : Column) (s : State), serving s.core = true →
     s.core.twin.gaveUp = false → plainSession s.core sid → (s.core.sched.get die).rows = [r] → r.session = sid → r.chunk = 0 →
     r.faults = [] → sid < 2 ^ 24 → unitsBusy s.core (.step die sid) = false → mapGet s.core.sess.warm sid = some w → w.turn = some t →
     w.ctl.pendingTok = some tok →
     let e := entryOf s.core sid
     let img := sessImg s.core sid
     let p := e.nextPosition
     let pass := forwardToken img (kvOfColumns s.core e img w.columns) tok p (attended w.columns (pageP img) p)
     let g := sessionGrammar s.core e
     let free := fun (l : Leaf) => l.hold = false ∧ (l.cow = true → frameCount s.core l.frame ≤ 1)
     e.state = .running → e.cancelPending = false → p < positionLimit →
     (∀ q ∈ w.columns, q.2.pooled = false) → (∀ f ∈ rangeFrames w w.columns, frameBad s.core f = false) →
     mapGet w.columns (p / pageP img) = some col → (∀ l ∈ col.leaves, free l) → free w.ctlLeaf → pass.bad = false →
     badLogits (logitsOf img pass.x) (fun i => match g with | none => true | some g => maskBit g w.ctl i)
       (fun i => w.ctl.seen.contains i) t.repPenalty t.temperature = false →
     recordRoom (dropKeep s.core sid) t = true →
     ∃ u, exec (.stepCommit die sid true) s = .next u ∧ (u.core.sched.get die).rows = [] ∧
       (entryOf u.core sid).nextPosition = p + 1 ∧
       (((entryOf u.core sid).state = .running ∧ (entryOf u.core sid).step = e.step + 1) ∨
         (entryOf u.core sid).state = .idle ∨ (entryOf u.core sid).state = .waiting)) ∧
  (∀ (die : Bool) (sid : Nat) (r : Row) (w : Warm) (t : Turn) (faults : List Status) (st : Status) (s : State),
     ready s.core = true → plainSession s.core sid → (s.core.sched.get die).rows = [r] → r.session = sid → r.chunk = 0 → r.faults = [] → sid < 2 ^ 24 →
     worstFault faults = some st → st ≠ .lost → mapGet s.core.sess.warm sid = some w → w.turn = some t →
     (entryOf s.core sid).cancelPending = false → (entryOf s.core sid).state = .running →
     ∃ u, exec (.stepFailed die sid faults) s = .next u ∧ (entryOf u.core sid).state = .idle ∧
       (entryOf u.core sid).endReason = 8 ∧ (entryOf u.core sid).markValid = false ∧
       (entryOf u.core sid).nextPosition = (entryOf s.core sid).nextPosition ∧ (u.core.sched.get die).rows = [])

/-! ## Models, vocabularies, grammars, prefixes and accounts (08, 09, 12, 13, 16) -/

/-- R265, R271, R376: unloading a loaded model slot without prefixes, a vocabulary or a grammar that nothing names returns its frames, removes it, extends MR6 or MR7, and completes ST_OK. Nothing else changes. R376: a grammar that sessions name is not unloaded: ST_WRONG_STATE with their number, and no other effect. -/
def Obligations.UnloadsRemoveObject : Prop :=
  (∀ (d : Desc) (env : Env) (s : State), seqFree s.core d → d.session = 0 →
     let b := beginSeq s.core d
     (∀ m, mapGet s.core.obj.models (d.field 4 3 0 0) = some m → m.state = 2 → slotLoading s.core d (d.field 4 3 0 0) = false →
       slotNamed s.core (d.field 4 3 0 0) = false → slotPrefixes s.core (d.field 4 3 0 0) = [] →
       exec (.modelUnload d env) s = .next { s with
         core := complete (emptySlot b (d.field 4 3 0 0)) d .ok m.frames.d0 m.frames.d1
         rot := extendMr s.rot (6, BitVec.ofNat 8 (d.field 4 3 0 0) :: List.replicate 32 0) }) ∧
     (∀ v, mapGet s.core.obj.vocabs (d.field 4 63 0 0) = some v → vocabNamed s.core d (d.field 4 63 0 0) = false →
       let c := giveBoth b v.frames v.loft
       exec (.vocabUnload d) s = .next { s with
         core := complete { c with obj := { c.obj with vocabs := mapDel c.obj.vocabs (d.field 4 63 0 0) } } d .ok 0 0
         rot := extendMr s.rot (7, 1 :: natLe 8 (d.field 4 63 0 0)) }) ∧
     (∀ g, mapGet s.core.obj.grammars (d.field 4 11 0 0) = some g → grammarUsers s.core (d.field 4 11 0 0) = 0 →
       let c := giveBoth b g.frames g.loft
       exec (.grammarUnload d) s = .next { s with
         core := complete { c with obj := { c.obj with grammars := mapDel c.obj.grammars (d.field 4 11 0 0) } } d .ok
           (g.frames + g.loft) (g.frames + g.loft)
         rot := extendMr s.rot (7, 2 :: natLe 8 (grDigest g.image)) })) ∧
  (∀ (d : Desc) (g : Grammar) (s : State), seqFree s.core d → d.session = 0 →
     mapGet s.core.obj.grammars (d.field 4 11 0 0) = some g → 0 < grammarUsers s.core (d.field 4 11 0 0) →
     exec (.grammarUnload d) s = .next { s with
       core := complete (beginSeq s.core d) d .wrongState (grammarUsers s.core (d.field 4 11 0 0)) 0 })

/-- R270, R374: VOCAB_LOAD and GRAMMAR_LOAD of an image that passes the checks in their order and fits, with what is left of object space holding the hot copies, takes its frames on both dies, keeps the image, extends MR7 with its digest and completes ST_OK. R263, R264: MODEL_LOAD into an empty slot, of an image that passes its checks in order, fits, and whose tiles pass theirs as they stream, takes the frames of each die, makes the slot loaded with its tiles in plaintext, extends MR6 with the slot, the header and the section table, and completes ST_OK with the frames taken. -/
def Obligations.LoadsFillObjects : Prop :=
  (∀ (d : Desc) (a b : List Byte) (s : State), seqFree s.core d → d.session = 0 → hostAnswers s.core →
     mapGet s.core.mem.windows 0 = none → d.field 2 63 0 0 % 65536 = 0 → d.field 3 63 0 0 ≠ 0 →
     let bytes := d.field 3 63 0 0
     let h := bytesAt a 0 64
     let img := bytesAt b 0 bytes
     let n := framesOf bytes
     hdrCheckBad h = false →
     (s.core.obj.vocabs.length + vocabLoading s.core d < 16 → vocabHeaderBad h bytes = false →
       fitsBoth s.core n (vocabLoft h) = true → checksMatch img (vocabCheckAt img) = true → vocabHeaderBad img bytes = false →
       vocabBodyBad img = false → mapHas s.core.obj.vocabs (digest8 img) = false →
       let c := takeBoth (beginSeq s.core d) n (vocabLoft h)
       let v : Vocab := ⟨img, n, vocabLoft h, runsAt s.core (vocabLoft h)⟩
       (∀ die, hotOn c die ≤ c.mem.loftFree.get die) →
       exec (.vocabLoad d [.data a, .data b]) s = .next { s with
         core := complete { c with obj := { c.obj with vocabs := mapSet c.obj.vocabs (digest8 img) v } } d .ok
           (digest8 img % 2 ^ 32) (digest8 img / 2 ^ 32)
         rot := extendMr s.rot (7, 1 :: natLe 8 (digest8 img)) }) ∧
     (∀ v, mapHas s.core.obj.grammars (d.field 4 11 0 0) = false → grLoading s.core d (d.field 4 11 0 0) = false →
       grHeaderBad h bytes = false → mapGet s.core.obj.vocabs (grammarVocab h) = some v → vocabTokens v.image = grTokens h →
       fitsBoth s.core n n = true → checksMatch img (grCheckAt img) = true → grHeaderBad img bytes = false →
       grBodyBad img = false →
       let c := takeBoth (beginSeq s.core d) n n
       let g : Grammar := ⟨img, n, n, runsAt s.core n⟩
       (∀ die, hotOn c die ≤ c.mem.loftFree.get die) →
       exec (.grammarLoad d [.data a, .data b]) s = .next { s with
         core := complete { c with obj := { c.obj with grammars := mapSet c.obj.grammars (d.field 4 11 0 0) g } } d .ok
           (2 * n) (grDigest img % 2 ^ 32)
         rot := extendMr s.rot (7, 2 :: natLe 8 (grDigest img)) })) ∧
  (∀ (d : Desc) (a b e : List Byte) (v : Vocab) (plain : List Byte) (s : State), seqFree s.core d → d.session = 0 →
     hostAnswers s.core → mapGet s.core.mem.windows 0 = none → d.field 2 63 0 0 % 65536 = 0 → d.field 3 63 0 0 ≠ 0 →
     let slot := d.field 4 3 0 0
     let bytes := d.field 3 63 0 0
     let h := bytesAt a 0 64
     let tb := bytesAt b 0 (48 * miSections h)
     let m := h ++ tb ++ List.replicate (bytes - 64 - 48 * miSections h) 0
     let key := (mapGet s.rot.sealKeys (miKeyId h)).getD []
     let n0 := miFrames h tb false
     let n1 := miFrames h tb true
     mapGet s.core.obj.models slot = none → slotLoading s.core d slot = false → miHeaderBad h bytes = false →
     hdrCheckBad h = false → miLimits h = true → sectionTableBad h tb bytes = false →
     mapGet s.core.obj.vocabs (modelVocab h) = some v → vocabTokens v.image = miVocab h →
     (miSealed h = true → mapHas s.rot.sealKeys (miKeyId h) = true) →
     fitsStack s.core false n0 = true → fitsStack s.core true n1 = true →
     streamed key e (imageTiles m) m = .ok plain →
     let c := takeFree (takeFree (beginSeq s.core d) false n0) true n1
     let x : Model := { state := 2, image := plain, frames := ⟨n0, n1⟩ }
     exec (.modelLoad d (.data a :: .data b :: tileAnswers key e (imageTiles m) m)) s = .next { s with
       core := complete { c with obj := { c.obj with models := mapSet c.obj.models slot x } } d .ok n0 n1
       rot := extendMr s.rot (6, modelMeasure slot (some plain)) })

/-- R354, R355: PREFIX_REGISTER of no tokens completes at once; one of tokens below the vocabulary, into an empty tree and with room for its frames, stands as a registration with nothing computed yet and the frames of its token list taken, on the die its field names (the freer one for both). R364, R365: PREFIX_RELEASE of a handle that no session names removes a prefix that lies in stacked frames and completes ST_OK with the frames it freed on each die; one that sessions name stays, with their number; an unknown handle is ST_UNKNOWN_HANDLE. -/
def Obligations.PrefixesRegisteredAndReleased : Prop :=
  (∀ (d : Desc) (bs : List Byte) (m : Model) (s : State), seqFree s.core d → d.session = 0 → d.field 2 63 0 0 % 4 = 0 →
     d.field 3 20 0 0 ≤ 1048576 → d.field 3 41 38 0 = 0 → d.field 3 37 36 0 ≠ 0 → mapGet s.core.obj.registering d.ring = none →
     loadedModel s.core (d.field 3 35 32 0) = some m →
     let n := d.field 3 20 0 0
     (n = 0 → exec (.prefixRegister d []) s = .next { s with core := complete (beginSeq s.core d) d .ok 0 0 }) ∧
     (0 < n → hostAnswers s.core → mapGet s.core.mem.windows 0 = none → miSpanned m.image = false →
       s.core.obj.prefixes.length + s.core.obj.registering.length < 4096 → s.core.obj.nodes = [] →
       (∀ i, i < n → leAt (bytesAt bs 0 (4 * n)) (4 * i) 4 < miVocab m.image) →
       let toks := (List.range n).map fun i => leAt (bytesAt bs 0 (4 * n)) (4 * i) 4
       regShort s.core m.image d n (cdiv n (pageP m.image)) (nodesWith s.core.obj (d.field 3 35 32 0) toks (n / 64)) = false →
       ∃ t r, exec (.prefixRegister d [.data bs]) s = .next t ∧ mapGet t.core.obj.registering d.ring = some r ∧
         r.toks = toks ∧ r.done = 0 ∧ r.listFrames = cdiv (4 * n) 65536 ∧
         r.die = (if d.field 3 37 36 0 = 3 then decide (freeOf s.core false < freeOf s.core true) else d.field 3 37 36 0 == 2) ∧
         t.core.rings = s.core.rings ∧
         t.core.mem = (takeFree s.core false (cdiv (4 * n) 65536)).mem)) ∧
  (∀ (d : Desc) (env : Env) (p : Prefix) (s : State), seqFree s.core d → d.session = 0 →
     let h := d.field 2 31 0 0
     let b := beginSeq s.core d
     (h ≠ 0 → mapGet s.core.obj.prefixes h = some p → p.dies ≠ 0 → prefixUsers s.core h = 0 →
       exec (.prefixRelease d env) s = .next { s with
         core := complete (dropPrefix b h) d .ok
           (freeOf (dropPrefix b h) false - freeOf s.core false) (freeOf (dropPrefix b h) true - freeOf s.core true) }) ∧
     (h ≠ 0 → mapGet s.core.obj.prefixes h = some p → 0 < prefixUsers s.core h →
       exec (.prefixRelease d env) s = .next { s with core := complete b d .wrongState (prefixUsers s.core h) 0 }) ∧
     (mapGet s.core.obj.prefixes h = none →
       exec (.prefixRelease d env) s = .next { s with core := complete b d .unknownHandle 0 0 }))

/-- R456, R457: ACCOUNT_SET within the credits makes the account, its committed bucket full at one second's rate (at least 1), or gives a standing one its new rate and weight; ACCOUNT_SET that would pass the credits without lowering the sum is refused with ST_REFUSED_FIT; with `delete` an account that no session names goes. R456, R458: BUCKET_SET sets an account's depths and excess rate, and leaves, fills or empties both buckets on both dies as FILL says; METER_SET sets the meter and fills its levels. Both complete ST_OK with counts 0. -/
def Obligations.AccountsAndBudgetsSet : Prop :=
  (∀ (d : Desc) (s : State), seqFree s.core d → d.session = 0 → d.account ≠ 0 →
     let a := d.account
     let cir := d.field 2 31 0 0
     let sum := sumCir s.core - ((mapGet s.core.acctCfg a).map (·.cir)).getD 0 + cir
     (d.field 2 47 32 0 ≠ 0 → mapGet s.core.acctCfg a = none → sum ≤ credits s.core →
       ∃ t, exec (.accountSet d) s = .next t ∧
         t.core.acctCfg = mapSet s.core.acctCfg a { cir := cir, weight := d.field 2 47 32 0, cbs := max cir 1 } ∧
         (acctOf t.core false a).c = (max cir 1 : Nat) ∧ (acctOf t.core true a).c = (max cir 1 : Nat) ∧
         t.core.rings = (complete s.core d .ok (sumCir t.core) (credits s.core)).rings ∧ t.core.mem = s.core.mem) ∧
     (∀ g, d.field 2 47 32 0 ≠ 0 → mapGet s.core.acctCfg a = some g → sum ≤ credits s.core →
       ∃ t, exec (.accountSet d) s = .next t ∧
         t.core.acctCfg = mapSet s.core.acctCfg a { g with cir := cir, weight := d.field 2 47 32 0 } ∧
         (acctOf t.core false a).c = (acctOf s.core false a).c ∧
         t.core.rings = (complete s.core d .ok (sumCir t.core) (credits s.core)).rings) ∧
     (d.field 2 47 32 0 ≠ 0 → credits s.core < sum → sumCir s.core ≤ sum →
       exec (.accountSet d) s = .next { s with
         core := complete (beginSeq s.core d) d .refusedFit (sumCir s.core) (credits s.core) }) ∧
     (mapHas s.core.acctCfg a = true → sessionsOfAccount s.core a = 0 →
       ∃ t, exec (.accountDelete d) s = .next t ∧ t.core.acctCfg = mapDel s.core.acctCfg a ∧
         t.core.rings = (complete s.core d .ok (sumCir t.core) (credits s.core)).rings)) ∧
  (∀ (d : Desc) (g : AcctCfg) (s : State), seqFree s.core d → d.session = 0 → d.account ≠ 0 →
     mapGet s.core.acctCfg d.account = some g →
     let a := d.account
     (d.field 2 31 0 0 ≠ 0 → d.field 2 63 32 0 ≠ 0 → bits (d.word 0) 57 56 ≠ 3 →
       ∃ t, exec (.bucketSet d) s = .next t ∧
         t.core.acctCfg = mapSet s.core.acctCfg a
           { g with cbs := d.field 2 31 0 0, ebs := d.field 2 63 32 0, eir := d.field 3 31 0 0 } ∧
         (∀ die, (acctOf t.core die a).c = (if bits (d.word 0) 57 56 = 1 then (d.field 2 31 0 0 : Int)
           else if bits (d.word 0) 57 56 = 2 then 0 else (acctOf s.core die a).c)) ∧
         (∀ die, (acctOf t.core die a).e = (if bits (d.word 0) 57 56 = 1 then (d.field 2 63 32 0 : Int)
           else if bits (d.word 0) 57 56 = 2 then 0 else (acctOf s.core die a).e)) ∧
         t.core.rings = (complete s.core d .ok 0 0).rings) ∧
     ((bit (d.word 0) 56 = true → d.field 3 31 0 0 ≠ 0 ∧ d.field 3 63 32 0 ≠ 0 ∧ d.field 2 31 0 0 ≤ d.field 2 63 32 0) →
       ∃ t, exec (.meterSet d) s = .next t ∧
         t.core.acctCfg = mapSet s.core.acctCfg a { g with
           mEnable := bit (d.word 0) 56, mCir := d.field 2 31 0 0, mPir := d.field 2 63 32 0
           mCbs := d.field 3 31 0 0, mPbs := d.field 3 63 32 0 } ∧
         (∀ die, (acctOf t.core die a).tc = d.field 3 31 0 0 ∧ (acctOf t.core die a).tp = d.field 3 63 32 0) ∧
         t.core.rings = (complete s.core d .ok 0 0).rings))

/-! ## Translation, tiers and retrieval (05, 06, 15) -/

/-- R168, R169, R170: XLT_MAP of aligned pages of the host-managed half that meet no mapping maps each page on each die it names: outbound pages to consecutive physical addresses; pages in the loft or the stacks at an aligned place, with the frames taken. Stacked frames, where an aligned block of them is free (the model's choice, log entry 164), are zeroed by FILL commands first: the request stays in progress (no stack fenced). A request of no pages completes and changes nothing. R171: XLT_UNMAP while no request waits and no job runs removes the mappings of its range and size, gives their frames back, and completes with their number, a page of both dies counted once (the model's choice, log entry 137). R181 to R183: TILE_COPY of one tile without check arrays, whose source and destination walks find valid entries and no forwarded frame, puts the source's 65,536 bytes at the destination, in device memory with sound check blocks or over the host link, and completes with count0 1; every other page stays. -/
def Obligations.MappingsAndTiles : Prop :=
  (∀ (d : Desc) (s : State), seqFree s.core d → d.session = 0 →
     let va := xVa d
     let n := sizeFrames (xSize d)
     let pages := xPages d
     let allocated := fun (t : State) (kind : Nat) => ∀ die i, onDie (xDies d) die = true → i < pages →
       ∃ x, mapGet (t.core.mem.xmap.get die) (va / 65536 + n * i) = some x ∧ x.size = xSize d ∧
         x.write = (d.field 4 34 34 0 == 1) ∧ x.kind = kind ∧ x.pa % (n * 65536) = 0
     xSize d ≠ 3 → xDies d ≠ 0 → d.field 4 37 36 0 < 2 →
     hostHalf ≤ va → va < globalEnd → va % (n * 65536) = 0 → va + pages * (n * 65536) ≤ globalEnd →
     (pages = 0 → exec (.xltMap d) s = .next { s with core := complete (beginSeq s.core d) d .ok 0 0 } ∧
       exec (.xltUnmap d) s = .next { s with core := complete (beginSeq s.core d) d .ok 0 0 }) ∧
     (0 < pages → (∀ die, onDie (xDies d) die = true → xOverlaps (s.core.mem.xmap.get die) (va / 65536) (pages * n) = false) →
       (d.field 4 35 35 0 = 0 → outboundBase ≤ d.field 3 63 0 0 → d.field 3 63 0 0 % (65536 * n) = 0 →
         d.field 3 63 0 0 + pages * n * 65536 ≤ outboundEnd →
         ∃ t, exec (.xltMap d) s = .next t ∧
           (∀ die i, onDie (xDies d) die = true → i < pages → mapGet (t.core.mem.xmap.get die) (va / 65536 + n * i) =
             some { size := xSize d, write := d.field 4 34 34 0 == 1, kind := 0, pa := d.field 3 63 0 0 + 65536 * n * i }) ∧
           (∀ die, onDie (xDies d) die = false → t.core.mem.xmap.get die = s.core.mem.xmap.get die) ∧
           t.core.mem.free = s.core.mem.free ∧ t.core.mem.loftFree = s.core.mem.loftFree ∧
           t.core.rings = (complete s.core d .ok pages 0).rings ∧ t.core.sess.dir = s.core.sess.dir ∧ t.core.obj = s.core.obj) ∧
       (d.field 4 35 35 0 = 1 → d.field 4 37 36 0 = 1 →
         (∀ die, onDie (xDies d) die = true → pages * n ≤ s.core.mem.loftFree.get die ∧
           (stepRuns s.core die = true → hotOn s.core die + pages * n ≤ s.core.mem.loftFree.get die)) →
         ∃ t, exec (.xltMap d) s = .next t ∧ allocated t 2 ∧
           (∀ die, t.core.mem.loftFree.get die =
             s.core.mem.loftFree.get die - if onDie (xDies d) die = true then pages * n else 0) ∧
           t.core.rings = (complete s.core d .ok pages 0).rings ∧ t.core.sess.dir = s.core.sess.dir) ∧
       (d.field 4 35 35 0 = 1 → d.field 4 37 36 0 = 0 →
         (∀ die, onDie (xDies d) die = true → pages * n ≤ s.core.mem.free.get die) → (∀ k, (stackOf s.core k).state ≠ 2) →
         ((diesOf d).foldl (fun c die => c.bind (enterStack d · die)) (some (beginSeq s.core d))).isSome = true →
         ∃ t, exec (.xltMap d) s = .next t ∧ allocated t 1 ∧ mapGet t.core.obj.jobs d.ring = some { desc := d } ∧
           (∀ die, t.core.mem.free.get die = s.core.mem.free.get die - if onDie (xDies d) die = true then pages * n else 0) ∧
           t.core.rings = s.core.rings)) ∧
     (0 < pages → s.core.sess.waiting = [] → s.core.obj.jobs = [] →
       let found := (diesOf d).map fun die => (die, xMapped s.core d die)
       exec (.xltUnmap d) s = .next { s with
         core := complete (found.foldl (fun c p => p.2.foldl (fun c e => xRemove c p.1 e.1 e.2) c) (beginSeq s.core d)) d .ok
           ((found.flatMap fun p => p.2.map (·.1)).eraseDups.length) 0 })) ∧
  (∀ (d : Desc) (a : List Byte) (x y : XPage) (s : State), seqFree s.core d → d.session = 0 → s.core.sess.waiting = [] →
     let src := tcSrc d / 65536
     let dst := tcDst d / 65536
     badHostVa (tcSrc d) 65536 65536 = false → badHostVa (tcDst d) 65536 65536 = false → src ≠ dst → tcTiles d = 1 →
     d.field 5 63 0 0 = 0 → d.field 6 63 0 0 = 0 →
     mapGet (s.core.mem.xmap.get (tcDie d)) src = some x → mapGet (s.core.mem.xmap.get (tcDie d)) dst = some y →
     s.core.mem.forward.get (tcDie d) = [] → x.size = 0 → y.size = 0 → x.kind < 3 → y.kind < 3 → y.write = true → x.bad = [] →
     (walkEntry (pageWord x) false false).isOk = true → (walkEntry (pageWord y) false true).isOk = true →
     (x.kind = 0 ∨ y.kind = 0 → hostAnswers s.core ∧ mapGet s.core.mem.windows 0 = none) →
     let bytes := if x.kind = 0 then bytesAt a 0 65536 else cellsRead x.bytes 0 65536
     ∃ t, exec (.tileCopy d (if x.kind = 0 then [.data a] else [])) s = .next t ∧
       (y.kind = 0 → t.core.mem.xmap = s.core.mem.xmap ∧ t.core.bus = (busPayload s.core (outBus s.core y.pa) bytes).bus) ∧
       (y.kind ≠ 0 → t.core.bus = s.core.bus ∧ ∃ y', mapGet (t.core.mem.xmap.get (tcDie d)) dst = some y' ∧
         y'.bytes = cellsWrite y.bytes 0 bytes ∧ ∀ b, b < 256 → ¬ b ∈ y'.bad) ∧
       (∀ p, p ≠ dst → mapGet (t.core.mem.xmap.get (tcDie d)) p = mapGet (s.core.mem.xmap.get (tcDie d)) p) ∧
       t.core.mem.xmap.get (!tcDie d) = s.core.mem.xmap.get (!tcDie d) ∧
       t.core.rings = (complete s.core d .ok 1 0).rings)

/-- R428, R429, R431, R438, R440: INDEX_CREATE takes the frames of the index and of its loft copy and makes it, empty, with its centroids converted; TABLE_LOAD makes a table of the rows it reads, in frames it takes and places in pairs. A table bound to mapped, writable outbound pages takes only its accumulators' frames and reads nothing. Destroying or unloading an object that nothing uses returns its frames and removes it. -/
def Obligations.IndexAndTableObjects : Prop :=
  ∀ (d : Desc) (bs : List Byte) (s : State), seqFree s.core d → d.session = 0 → s.core.sess.waiting = [] → s.core.obj.jobs = [] →
    let b := beginSeq s.core d
    (bit d.flags 0 = false → hostAnswers s.core → mapGet s.core.mem.windows 0 = none → d.field 2 63 0 0 % 4 = 0 →
      d.opcode = 0x60 →
      let id := d.field 3 7 0 0
      let dim := d.field 3 20 8 0
      let metric := d.field 3 22 21 0
      let fmt := d.field 3 26 23 0
      let die := d.field 3 27 27 0 == 1
      let ncent := d.field 3 44 28 0
      let cap := d.field 4 28 0 0
      let need := indexNeeds ncent dim fmt metric cap
      let cents := (List.range ncent).map fun i => converted metric fmt (f32s (bytesAt bs 0 (4 * ncent * dim)) (4 * dim * i) dim)
      1 ≤ dim → dim ≤ 4096 → 1 ≤ ncent → ncent ≤ 65536 → 1 ≤ cap → cap ≤ 268435456 → metric ≠ 3 → fmt = 6 ∨ fmt = 8 →
      mapGet s.core.obj.indexes id = none → fitsStack s.core die need.1 = true → fitsLoft s.core die need.2 = true →
      (stepRuns s.core die = true → hotOn s.core die + need.2 ≤ s.core.mem.loftFree.get die) →
      (cents.any (·.isNone)) = false →
      let c := takeLoft (takeFree b die need.1) die need.2
      let x : Index :=
        { die := die, metric := metric, format := fmt, dim := dim, capacity := cap, centroids := cents.map (·.getD []),
          fixed := need.1, loft := need.2
          run := if need.2 = 0 then {} else { first := s.core.mem.loftNext.get die, frames := need.2, slices := sliceList s.core die } }
      exec (.indexCreate d [.data bs]) s = .next { s with core := complete (setIndexObj c id x) d .ok need.1 need.2 }) ∧
    (∀ x, mapGet s.core.obj.indexes (indexIdOf d) = some x →
      let c := giveLoft (giveFree (dropListFrames b x) x.die x.fixed) x.die x.loft
      exec (.indexDestroy d) s = .next { s with
        core := complete { c with obj := { c.obj with indexes := mapDel c.obj.indexes (indexIdOf d) } } d .ok x.frames 0 }) ∧
    (bit d.flags 0 = false → d.field 2 63 0 0 % 65536 = 0 →
      let rows := d.field 3 32 0 0
      let w := d.field 4 13 0 0
      let fmt := d.field 4 17 14 0
      let die := d.field 4 18 18 0 == 1
      let pages := cdiv rows (rowsPerFrame w)
      let extra := if bit d.flags 2 then framesOf (4 * rows) else 0
      let x : Table := { die := die, format := fmt, width := w, rows := rows, bound := false, adaptive := bit d.flags 2, va := 0, frames := 0 }
      let placed := fun n => takePlaces (giveFree (takeFree b die n) die n) die n
      1 ≤ rows → rows ≤ 2 ^ 32 → 32 ≤ w → w ≤ 8192 → w % 32 = 0 → fmt = 6 ∨ fmt = 8 ∨ fmt = 9 →
      mapGet s.core.obj.tables (tableIdOf d) = none →
      (bit d.flags 1 = false → hostAnswers s.core → mapGet s.core.mem.windows 0 = none → fitsStack s.core die (pages + extra) = true →
        exec (.tableLoad d [.data bs]) s = .next { s with
          core := complete (setTable (placed (pages + extra)).2 (tableIdOf d)
            { x with frames := pages + extra, place := (placed (pages + extra)).1
                     bytes := cellsWrite [] 0 (bytesAt bs 0 (rows * w)) }) d .ok (pages + extra) 0 }) ∧
      (bit d.flags 1 = true → hostHalf ≤ d.field 2 63 0 0 → d.field 2 63 0 0 + 65536 * pages ≤ globalEnd →
        (∀ i, i < pages → ∃ h, xFind (s.core.mem.xmap.get die) (d.field 2 63 0 0 / 65536 + i) = some h ∧ h.2.kind = 0 ∧ h.2.write = true) →
        (extra ≠ 0 → fitsStack s.core die extra = true) →
        exec (.tableLoad d []) s = .next { s with
          core := complete (setTable (placed extra).2 (tableIdOf d)
            { x with bound := true, va := d.field 2 63 0 0, frames := extra, place := (placed extra).1
                     bytes := cellsWrite [] 0 [] }) d .ok extra 0 })) ∧
    (∀ x, mapGet s.core.obj.tables (tableIdOf d) = some x →
      let c := freePlaces b x.die x.place
      exec (.tableUnload d) s = .next { s with
        core := complete { c with obj := { c.obj with tables := mapDel c.obj.tables (tableIdOf d) } } d .ok x.frames 0 })

/-- R418: VEC_INSERT of vectors that convert, into an index with an id and a frame for each, takes them in order, one insertion and one id written to host memory after the other, and completes with their number; a single vector goes to the end of its nearest centroid's list under the lowest free id, with its norm and attribute, and that id goes out. R421: VEC_DELETE reads its ids one by one, turns live records of them into tombstones and counts those it found and those it did not. R422: INDEX_COMPACT rewrites the lists in ascending order without their tombstones until frames run short, and counts the tombstones and the frames freed. -/
def Obligations.VectorEdits : Prop :=
  ∀ (d : Desc) (ids : Nat → List Byte) (x : Index) (s : State), seqFree s.core d → d.session = 0 → s.core.sess.waiting = [] →
    mapGet s.core.obj.indexes (indexIdOf d) = some x →
    let b := beginSeq s.core d
    (∀ vs as : Nat → List Byte, hostAnswers s.core → mapGet s.core.mem.windows 0 = none →
      d.field 2 63 0 0 % 4 = 0 → d.field 3 63 0 0 % 8 = 0 → d.field 4 63 0 0 % 4 = 0 →
      let n := d.field 5 24 8 0
      let plain := d.field 3 63 0 0 = 0
      let v := fun i => f32s (bytesAt (vs i) 0 (4 * x.dim)) 0 x.dim
      let attr := fun i => if plain then 0 else leAt (bytesAt (as i) 0 8) 0 8
      let answers := (List.range n).flatMap fun i => Ans.data (vs i) :: if plain then [] else [.data (as i)]
      let out := fun i => d.field 4 63 0 0 + 4 * i
      1 ≤ n → n ≤ 65536 → n ≤ x.capacity - x.taken.length → x.capacity ≤ 268435456 → n ≤ freeOf s.core x.die →
      (∀ i, i < n → (converted x.metric x.format (v i)).isSome = true) →
      exec (.vecInsert d answers) s = .next { s with
        core := complete ((List.range n).foldl (fun c i => (insertItem (indexIdOf d) (out i) (v i) (attr i) c).2) b) d .ok n 0 } ∧
      ∀ e id, n = 1 → converted x.metric x.format (v 0) = some e → x.freeId = some id →
        let vals := elemVals x.format e
        let i := (bestCentroids x.metric x.format x.centroids vals 1).headD 0
        ∃ t y, exec (.vecInsert d answers) s = .next t ∧ mapGet t.core.obj.indexes (indexIdOf d) = some y ∧
          mapGet y.lists i = some (x.list i ++ [{ vid := id, live := true, norm2 := norm2Of x.metric vals, attr := attr 0, elems := e }]) ∧
          (∀ k, k ≠ i → mapGet y.lists k = mapGet x.lists k) ∧ y.centroids = x.centroids ∧
          t.core.bus = (busPayload s.core (out 0) (natLe 4 id)).bus) ∧
    (hostAnswers s.core → mapGet s.core.mem.windows 0 = none → d.field 2 63 0 0 % 4 = 0 →
      let n := d.field 3 28 8 0
      let gone := (List.range n).foldl (fun (a : Nat × Core) i =>
        let q := buryItem (indexIdOf d) (leAt (bytesAt (ids i) 0 4) 0 4) a.2
        (a.1 + q.1, q.2)) (0, b)
      1 ≤ n → n ≤ 1048576 →
      exec (.vecDelete d ((List.range n).map fun i => .data (ids i))) s = .next { s with
        core := complete gone.2 d .ok gone.1 (n - gone.1) }) ∧
    (let k := compactLists (indexIdOf d) (x.lists.map (·.1)) { core := b, index := x }
     exec (.indexCompact d) s = .next { s with
       core := complete (setIndexObj k.1.core (indexIdOf d) k.1.index) d (if k.2 then .ok else .noSpace) k.1.tombs k.1.freed })

/-- R423, R426: SEARCH without a filter issues the scans of the lists it probes and stays in progress while units hold them. When its commands are back, its dispatch (or the search itself, when nothing was issued) ends the job, writes the best K hits whose records' headers are sound and that pass the filter (each failing header is counted and logged), and completes ST_OK or ST_FEWER with their number and the records skipped. R432, R434: ROW_POOL on a loaded table with bags in range takes its output's staging frames and issues the gathers of its rows likewise; when they are back the bags' rows go out together. -/
def Obligations.SearchAndPool : Prop :=
  ∀ (d : Desc) (a e : List Byte) (s : State), seqFree s.core d → d.session = 0 → s.core.sess.waiting = [] → hostAnswers s.core →
    mapGet s.core.mem.windows 0 = none →
    let b := beginSeq s.core d
    let started := fun (c : Core) (j : Job) => { c with obj := { c.obj with jobs := mapSet c.obj.jobs d.ring j } }
    let searched := fun (c : Core) (j : Job) (t : State) =>
      ∀ x, mapGet (endJob c d).obj.indexes (indexIdOf d) = some x →
        let best := (sortBy (fun u v : Hit => hitBefore x.metric u v) j.hits).take (searchK d)
        let lost := best.filter fun h : Hit => x.records.any fun r => r.vid == h.item.vid && r.bad
        let out := best.filter fun h => !lost.contains h && filterPasses j.filter h.item
        let noted := lost.foldl (noteHeader x (indexIdOf d)) (regCount (endJob c d) 0x430000 63 32 lost.length)
        t.core.obj = noted.obj ∧
        t.core.bus = (if out = [] then noted else busPayload noted (d.field 3 63 0 0) (out.flatMap hitBytes)).bus ∧
        t.core.rings = (complete noted d (if out.length < searchK d then .fewer else .ok) out.length (j.skipped + lost.length)).rings
    let pooled := fun (c : Core) (x : Table) (j : Job) (t : State) =>
      let n := d.field 5 20 10 0
      t.core.obj = (endJob c d).obj ∧
      t.core.bus = (busPayload s.core (d.field 4 63 0 0) ((List.range n).flatMap fun i =>
        maxRows x.format x.width ((j.rows.filter fun p => p.1 == i).map (·.2)))).bus ∧
      t.core.rings = (complete s.core d .ok n 0).rings
    (∀ x q, mapGet s.core.obj.indexes (indexIdOf d) = some x → d.opcode = 0x64 →
      d.field 2 63 0 0 % 4 = 0 → d.field 3 63 0 0 % 16 = 0 → d.field 5 63 0 0 = 0 → 1 ≤ searchK d → searchK d ≤ 1024 →
      1 ≤ d.field 4 27 19 0 → d.field 4 27 19 0 ≤ 256 → d.field 4 27 19 0 ≤ x.centroids.length →
      converted x.metric 8 (f32s (bytesAt a 0 (4 * x.dim)) 0 x.dim) = some q →
      let lists := bestCentroids x.metric x.format x.centroids (elemVals 8 q) (d.field 4 27 19 0)
      let c := ((List.range lists.length).zip lists).foldl (scanList x (indexIdOf d) d.ring (searchK d) q) (started b { desc := d, filter := [] })
      (unitsBusy c (.job d.ring) = true → exec (.search d [.data a]) s = .next { s with core := c }) ∧
      ∀ j, unitsBusy c (.job d.ring) = false → mapGet c.obj.jobs d.ring = some j → j.failed = none →
        ∃ t, exec (.search d [.data a]) s = .next t ∧ searched c j t) ∧
    (∀ x, mapGet s.core.obj.tables (tableIdOf d) = some x → x.bound = false → d.opcode = 0x6A →
      d.field 2 63 0 0 % 4 = 0 → d.field 3 63 0 0 % 8 = 0 → d.field 4 63 0 0 % 32 = 0 →
      let nbags := d.field 5 20 10 0
      let nids := d.field 5 52 32 0
      1 ≤ nbags → nbags ≤ 1024 → nids ≤ 1048576 → poolStage x nbags ≤ s.core.mem.stagingFree.get x.die →
      let rows := (List.range nbags).map (bagRows x (bytesAt a 0 (4 * nids)) (bytesAt e 0 (8 * nbags)) nids)
      (rows.any (·.isNone)) = false →
      let answers := (if nids = 0 then [] else [Ans.data a]) ++ [.data e]
      let staged := rows.map fun _ => ([] : List (List Byte))
      let c := ((List.range nbags).zip ((rows.map (·.getD [])).zip staged)).foldl (gatherBag (tableIdOf d) x d.ring)
        (started (takeStaging b x.die (poolStage x nbags)) { desc := d })
      (unitsBusy c (.job d.ring) = true → exec (.rowPool d answers) s = .next { s with core := c }) ∧
      ∀ j, unitsBusy c (.job d.ring) = false → mapGet c.obj.jobs d.ring = some j → j.failed = none →
        ∃ t, exec (.rowPool d answers) s = .next t ∧ pooled c x j t) ∧
    ∀ j, mapGet s.core.obj.jobs d.ring = some j → j.desc = d → j.failed = none → unitsBusy s.core (.job d.ring) = false →
      let run : State := { s with core := beginSeq s.core d }
      (d.opcode = 0x64 → mapHas s.core.obj.indexes (indexIdOf d) = true →
        ∃ t, exec (.descriptorDispatch true d.ring []) run = .next t ∧ searched run.core j t) ∧
      (d.opcode = 0x6A → ∀ x, mapGet s.core.obj.tables (tableIdOf d) = some x →
        ∃ t, exec (.descriptorDispatch true d.ring []) run = .next t ∧ pooled s.core x j t)

/-- R435, R436, R437: ROW_REPLACE of one row writes the row it names whole, in a loaded table or, of a bound one, at the outside address that its page maps. ROW_UPDATE of one row of a loaded table writes the row that its rule gives for the old row, the gradient and the rate; the adaptive rule also replaces the row's accumulator. Each completes with the one row written, and leaves every other byte of the table as it was. -/
def Obligations.RowWrites : Prop :=
  ∀ (d : Desc) (a e : List Byte) (x : Table) (s : State), seqFree s.core d → d.session = 0 → s.core.sess.waiting = [] →
    hostAnswers s.core → mapGet s.core.mem.windows 0 = none → mapGet s.core.obj.tables (tableIdOf d) = some x →
    d.field 4 26 10 0 = 1 → d.field 2 63 0 0 % 4 = 0 →
    let row := leAt (bytesAt a 0 4) 0 4
    row < x.rows →
    let table := fun (y : Table) => { s.core.obj with tables := mapSet s.core.obj.tables (tableIdOf d) y }
    let written := fun (bs : List Byte) => { x with bytes := cellsWrite x.bytes (row * x.width) bs }
    (d.field 3 63 0 0 % 32 = 0 →
      (x.bound = false → x.bad = [] →
        ∃ t, exec (.rowReplace d [.data a, .data e]) s = .next t ∧ t.core.obj = table (written (bytesAt e 0 x.width)) ∧
          t.core.mem = s.core.mem ∧ t.core.bus = s.core.bus ∧ t.core.rings = (complete s.core d .ok 1 0).rings) ∧
      ∀ k pg, x.bound = true →
        let va := x.va + row / rowsPerFrame x.width * 65536 + row % rowsPerFrame x.width * x.width
        hostHalf ≤ va → va < 2 ^ 48 → s.core.mem.forward.get x.die = [] → xFind (s.core.mem.xmap.get x.die) (va / 65536) = some (k, pg) → pg.kind = 0 →
        (walkEntry (pageWord pg) (pg.size == 2) true).isOk = true →
        ∃ t, exec (.rowReplace d [.data a, .data e]) s = .next t ∧ t.core.obj = table x ∧ t.core.mem = s.core.mem ∧
          t.core.bus = (busPayload s.core (outBus s.core (pg.pa + (va - 65536 * k))) (bytesAt e 0 x.width)).bus ∧
          t.core.rings = (complete s.core d .ok 1 0).rings) ∧
    (x.bound = false → x.bad = [] → d.field 3 63 0 0 % 4 = 0 →
      let n := x.width / elemBytes x.format
      let g := f32s (bytesAt e 0 (4 * n)) 0 n
      let alpha := BitVec.ofNat 32 (d.field 5 31 0 0)
      let eps := BitVec.ofNat 32 (d.field 5 63 32 0)
      let old := rowToF32 x.format (cellsRead x.bytes (row * x.width) x.width)
      (d.field 4 27 27 0 = 0 →
        ∃ t, exec (.rowUpdate d [.data a, .data e]) s = .next t ∧
          t.core.obj = table (written (rowOfF32 x.format (old.zipWith (fun v h => fma alpha h v) g))) ∧
          t.core.mem = s.core.mem ∧ t.core.rings = (complete s.core d .ok 1 0).rings) ∧
      (d.field 4 27 27 0 = 1 → x.adaptive = true →
        let acc := fadd ((mapGet x.adapt row).getD 0) (fdiv (freduce (g.map fun v => fmul v v)) (fOfNat old.length))
        let rate := fneg (fdiv alpha (fadd (fsqrt acc) eps))
        ∃ t, exec (.rowUpdate d [.data a, .data e]) s = .next t ∧
          t.core.obj = table { written (rowOfF32 x.format (old.zipWith (fun v h => fma rate h v) g)) with
            adapt := if acc = 0 then mapDel x.adapt row else mapSet x.adapt row acc } ∧
          t.core.mem = s.core.mem ∧ t.core.rings = (complete s.core d .ok 1 0).rings))

/-! ## Parking, hand-over and checkpoints (01, 14, 19) -/

/-- R393, R203, R22: PARK of an IDLE or WAITING session whose sheaf fits its home die's barn, and the policy park of one whose age has come, put the sheaf there, name it in the sheaf index, take the session's frames away and make its entry PARKED with its position as it was. PARK completes ST_OK with the sheaf's size and place; the policy park issues a PARKED event. PARK of a session already packed completes ST_OK and changes nothing; of a FREE one ST_WRONG_STATE, of a LOST one ST_LOST (R392). -/
def Obligations.ParkPutsSessionInBarn : Prop :=
  (∀ (d : Desc) (env : Env) (s : State), sessFree s.core d → ownAccount s.core d → plainSession s.core d.session →
    d.field 2 3 0 0 = 0 ∨ bit d.flags 0 = true →
    let st := (entryOf s.core d.session).state
    let ends := fun (x : Status) => exec (.park d env) s = .next { s with core := complete (beginSession s.core d) d x 0 0 }
    (st = .parked ∨ st = .pooled → ends .ok) ∧ (st = .free → ends .wrongState) ∧ (st = .lost → ends .lost)) ∧
  ∀ (sid : Nat) (d : Desc) (env : Env) (w : Warm) (s : State), plainSession s.core sid → mapGet s.core.sess.warm sid = some w →
    let e := entryOf s.core sid
    let room := unpackedSize s.core e w + 65536
    e.state = .idle ∨ e.state = .waiting → inStep (s.core.sched.get e.homeDie) = [] →
    indexNeed s.core sid ≤ freeOf s.core (dirDie sid) → framesOf room ≤ s.core.mem.barnFree.get e.homeDie →
    (∀ f ∈ rangeFrames w w.columns, frameBad s.core f = false) → (w.columns.any fun p => p.2.pooled) = false →
    (∀ stamp lens, (packSession s.core e w stamp lens 0).length ≤ room) →
    let parked := fun (t : State) (ix : SheafIx) =>
      mapGet t.core.mem.index sid = some ix ∧ ix.place = 1 ∧ ix.die = e.homeDie ∧
      (∃ sheaf, mapGet t.core.mem.barn (barnKey e.homeDie ix.locator) = some sheaf ∧ sheaf.die = e.homeDie ∧ sheaf.bytes.length = 256 * ix.size) ∧
      mapGet t.core.sess.warm sid = none ∧ (entryOf t.core sid).state = .parked ∧ (entryOf t.core sid).imagePlace = 1 ∧
      (entryOf t.core sid).privateFrames = 0 ∧ (entryOf t.core sid).nextPosition = e.nextPosition ∧
      (entryOf t.core sid).account = e.account ∧ ∀ x, x ≠ sid → entryOf t.core x = entryOf s.core x
    (sessFree s.core d → ownAccount s.core d → d.session = sid → bit d.flags 0 = false → d.field 2 3 0 0 = 0 →
      ∃ t ix, exec (.park d env) s = .next t ∧ parked t ix ∧ t.core.rings = (complete s.core d .ok ix.size 1).rings) ∧
    (serving s.core = true → policyDue s.core sid = true →
      ∃ t ix, exec (.policyPark sid env) s = .next t ∧ parked t ix ∧
        t.core.rings = (issueEvent s.core 1 e.homeDie sid e.account (stateCode .parked + 16) (256 * ix.size)).rings)

/-- R394, R70: REVIVE of a PARKED session whose barn sheaf reads well, under a loaded model of its digest, makes it warm again on the die that placing chooses: state, position and private_frames are the sheaf's, its columns those that the placing gives, the account stays, its index entry goes, and it completes ST_OK with the frames it takes. -/
def Obligations.ReviveBringsBack : Prop :=
  ∀ (d : Desc) (env : Env) (ix : SheafIx) (bs : List Byte) (sf : Sheaf) (sh : SheafRead) (m : Model) (home : Bool)
    (p : Option Prefix) (x : Range) (s : State), sessFree s.core d → plainSession s.core d.session → ownAccount s.core d →
    let sid := d.session
    (entryOf s.core sid).state = .parked → mapHas s.core.twin.leases sid = false →
    mapGet s.core.mem.index sid = some ix → ix.place = 1 → mapGet s.core.mem.barn (barnKey ix.die ix.locator) = some sf → sf.bytes = bs →
    readSheaf bs = some sh → sh.head.stamp = ix.stamp.toNat → loadedModel s.core sh.head.entry.modelSlot = some m →
    modelDigest m.image = sh.head.digest → sh.head.entry.grammarBound = false →
    placeRevival (beginSession s.core d) sid sh = some (home, p, x) →
    inStep (s.core.sched.get home) = [] →
    ∃ t w, exec (.revive d env) s = .next t ∧ (entryOf t.core sid).state = sh.head.entry.state ∧
      (entryOf t.core sid).state ≠ .parked ∧ (entryOf t.core sid).homeDie = home ∧
      (entryOf t.core sid).nextPosition = sh.head.entry.nextPosition ∧
      (entryOf t.core sid).account = (entryOf s.core sid).account ∧
      (entryOf t.core sid).privateFrames = sh.head.entry.privateFrames ∧
      mapGet t.core.sess.warm sid = some w ∧ w.columns = x.warm.columns ∧ mapGet t.core.mem.index sid = none ∧
      t.core.rings = (complete s.core d .ok (framesOn x.core x.warm home home) (b2n home + 2 * b2n p.isSome)).rings ∧
      ∀ y, y ≠ sid → entryOf t.core y = entryOf s.core y

/-- R405 to R408: HANDOVER_OUT of a POOLED session whose swap finds the lease held by this device writes the ticket, leaves the lease word offered to the device it names, makes the entry FREE and completes ST_OK. HANDOVER_IN of a ticket whose sheaf is offered to this device swaps the word to held and makes the FREE entry POOLED, named in the sheaf index under the new generation. -/
def Obligations.HandOverMovesSession : Prop :=
  ∀ (d : Desc) (w : Nat) (x : Window) (s : State), sessFree s.core d → plainSession s.core d.session → hostAnswers s.core →
    mapGet s.core.mem.windows 0 = none →
    mapGet s.core.mem.windows w = some x → slotBarred s.core w = false → d.session ≠ 0 → w ≠ 0 →
    let sid := d.session
    (∀ ix, ownAccount s.core d → (entryOf s.core sid).state = .pooled → mapHas s.core.twin.leases sid = false →
      d.field 3 63 0 0 % 32 = 0 → mapGet s.core.mem.index sid = some ix → ix.window = w →
      let a := winAddr s.core w (sheafOff s.core ix)
      let held := heldWord s.core ix.generation
      ∃ t, exec (.handoverOut d [.data (natLe 16 held)]) s = .next t ∧ entryOf t.core sid = {} ∧
        mapGet t.core.mem.index sid = none ∧
        t.core.bus = (busWrite
          (busPayload s.core (d.field 3 63 0 0) (ticketBytes a ix.stamp.toNat (ix.generation + 1) (deviceNo s.core) ix.size sid))
          a (natLe 16 (leaseWord (d.field 2 31 0 0) 2 (ix.generation + 1) (deviceNo s.core)))).bus ∧
        t.core.rings = (complete s.core d .ok 0 0).rings ∧ ∀ y, y ≠ sid → entryOf t.core y = entryOf s.core y) ∧
    (∀ tk hd unit, (entryOf s.core sid).state = .free → mapHas s.core.acctCfg d.account = true → d.field 2 63 0 0 % 32 = 0 →
      let t32 := bytesAt tk 0 32
      let h := bytesAt hd 0 512
      let v := leAt h 0 16
      ticketPlace s.core (leAt t32 0 8) (leAt t32 24 4) = some (w, unit) → leAt h 256 4 = 0x4F565348 →
      leAt h 288 8 = leAt t32 8 8 → mayTake s.core v = true →
      ∃ t, exec (.handoverIn d [.data tk, .data hd, .data (natLe 16 v)]) s = .next t ∧
        entryOf t.core sid = { state := .pooled, imagePlace := 2, account := d.account } ∧
        mapGet t.core.mem.index sid = some { place := 2, window := w, locator := unit, generation := (leaseGen v + 1) % 2 ^ 32
                                             stamp := BitVec.ofNat 64 (leAt t32 8 8), size := leAt t32 24 4 } ∧
        t.core.bus = (busWrite s.core (winAddr s.core w (unitOff x unit)) (natLe 16 (heldWord s.core (leaseGen v + 1)))).bus ∧
        t.core.rings = (complete s.core d .ok 0 0).rings ∧ ∀ y, y ≠ sid → entryOf t.core y = entryOf s.core y)

/-- R586: each 2^20 aon cycles the age of every IDLE or WAITING session of a die goes up by one, saturating, while it has no descriptor. R25, R26: a warm session lost to damage has no range, keeps its id and account, and is LOST; an error log entry and an event record tell. -/
def Obligations.AgesAndLosses : Prop :=
  ∀ (sid : Nat) (s : State),
    (∀ die, serving s.core = true → (entryOf s.core sid).homeDie = die →
      (entryOf s.core sid).state = .idle ∨ (entryOf s.core sid).state = .waiting →
      mapHas s.core.sess.inProg sid = false → heldOf s.core sid = [] →
      ∃ t, exec (.idleAgeTick die) s = .next t ∧
        entryOf t.core sid = { entryOf s.core sid with idleAge := satAdd 32 (entryOf s.core sid).idleAge 1 } ∧
        t.core.rings = s.core.rings ∧ t.core.mem = s.core.mem) ∧
    (ready s.core = true → plainSession s.core sid → (entryOf s.core sid).state = .idle → mapGet s.core.sess.inProg sid = none →
      mapGet s.core.mem.index sid = none →
      ∃ t, exec (.sessionLost sid 1) s = .next t ∧
        entryOf t.core sid = lostEntry (entryOf s.core sid) false ∧ mapGet t.core.sess.warm sid = none ∧
        (s.core.levels.d0.lost = false → t.core.errs.next = s.core.errs.next + 1) ∧
        (∀ y, y ≠ sid → entryOf t.core y = entryOf s.core y))

/-- R517, R518: a trigger of a class, while no epoch and no RESTORE runs, starts the class's epoch under the next number and the class's next sequence: its timer, its step count, CKPT_START, or a start that was pending. While one runs, the timer leaves one start pending. R519, R520: CKPT_CLASS_SET of a host area replaces the class and keeps its sequence. -/
def Obligations.CheckpointsStart : Prop :=
  ∀ (cls : Nat) (d : Desc) (env : Env) (s : State),
    (∀ k, serving s.core = true → mapGet s.core.ckpt.classes cls = some k →
      let n := s.core.ckpt.next.getD (regGet s.core 0x710000)
      let started := fun (t : State) (owner : Option Desc) =>
        t.core.ckpt.running = some { cls := cls, number := n, seq := k.seq, desc := owner } ∧
        t.core.ckpt.next = some (n % (2 ^ 64 - 1) + 1) ∧
        t.core.ckpt.classes = mapSet s.core.ckpt.classes cls { k with seq := k.seq + 1 } ∧
        t.core.rings = s.core.rings ∧ t.core.mem = s.core.mem ∧ t.core.sess.dir = s.core.sess.dir
      (ckptBusy s.core = false →
        (k.enable = true → k.timerEn = true → ∃ t, exec (.ckptTimerExpiry cls) s = .next t ∧ started t none) ∧
        (k.enable = true → 0 < k.steps → k.steps ≤ k.since → ∃ t, exec (.ckptStepTrigger cls) s = .next t ∧ started t none) ∧
        (∀ rest, s.core.ckpt.pending = (cls, ()) :: rest → (∀ p ∈ rest, cls ≤ p.1) → s.core.sess.waiting = [] →
          ∃ t, exec .ckptPendingStart s = .next t ∧ started t none ∧ t.core.ckpt.pending = rest) ∧
        (seqFree s.core d → d.session = 0 → d.field 2 2 0 0 = cls → earlierStart s.core cls = false →
          ∃ t, exec (.ckptStart d) s = .next t ∧ started t (some d))) ∧
      (ckptBusy s.core = true → k.enable = true → k.timerEn = true →
        ∃ t, exec (.ckptTimerExpiry cls) s = .next t ∧
          t.core.ckpt = { s.core.ckpt with pending := mapSet s.core.ckpt.pending cls () } ∧
          t.core.rings = s.core.rings ∧ t.core.mem = s.core.mem ∧ t.core.sess = s.core.sess)) ∧
    (seqFree s.core d → d.session = 0 → classBad (classOf0 d) = false → (classOf0 d).dest = false →
      (s.core.ckpt.running.map (·.cls)) ≠ some (d.field 2 2 0 0) →
      (∀ o, mapGet s.core.ckpt.classes (d.field 2 2 0 0) = some o → o.run = none) →
      let old := mapGet s.core.ckpt.classes (d.field 2 2 0 0)
      let b := beginSeq s.core d
      let k := { classOf0 d with
        run := none, attached := d.field 2 21 21 0 == 1, seq := (old.map (·.seq)).getD 0, since := (old.map (·.since)).getD 0 }
      exec (.ckptClassSet d env) s = .next { s with core := complete { b with ckpt := { b.ckpt with
        classes := mapSet b.ckpt.classes (d.field 2 2 0 0) k } } d .ok 0 0 })

/-- R521, R522, R526, R528, R529: the second die's cut fixes the sessions in scope and marks the warm ones; a marked session gets its hasps once; while nothing waits for another and no shard is being written, a session recorded by its entry joins its directory die's shard, whose records pass to the area behind the place of its header, and leaves the list; with nothing left the manifest of an epoch into host memory is written, its records and check array before its header, and its confirmation makes the epoch the class's last, issues the event and completes the CKPT_START that named it. -/
def Obligations.EpochIsWritten : Prop :=
  ∀ (ep : Epoch) (s : State), s.core.ckpt.running = some ep →
    (∀ die k, serving s.core = true → ep.cut.get die = false → inStep (s.core.sched.get die) = [] →
      mapGet s.core.ckpt.classes ep.cls = some k →
      (ep.cut.get (!die) = false → ∃ t, exec (.ckptCut die) s = .next t ∧
        t.core.ckpt.running = some { ep with cut := ep.cut.set die true } ∧ t.core.mem = s.core.mem) ∧
      (ep.cut.get (!die) = true → ∃ t ep', exec (.ckptCut die) s = .next t ∧ t.core.ckpt.running = some ep' ∧
        ep'.cut = ⟨true, true⟩ ∧
        ep'.items = ((s.core.sess.dir.filter fun p => bit k.scope p.2.ckptClass).filterMap fun p => cutItem s.core p.1 p.2) ∧
        mapGet t.core.ckpt.classes ep.cls = some { k with since := 0 } ∧ t.core.sess.dir = s.core.sess.dir)) ∧
    (∀ sid w, mapHas ep.marked sid = true → mapGet s.core.sess.warm sid = some w →
      ∃ t, exec (.haspSet sid) s = .next t ∧ t.core.ckpt.running = some { ep with marked := mapDel ep.marked sid } ∧
        mapGet t.core.sess.warm sid = some (haspWarm w)) ∧
    (alive s.core = true → cutDue s.core = false → ep.failed = none → ep.writing = none → hostAnswers s.core →
      mapGet s.core.mem.windows 0 = none → ∀ k, mapGet s.core.ckpt.classes ep.cls = some k → k.dest = false →
      let at0 := areaAt s.core k (ep.seq % k.keep) + ep.offset
      (∀ e sid rest, (∀ i ∈ ep.items, waitedOn s.core i = false) → (∀ p ∈ ep.prefixes, p.handle ≠ e.prefixHandle) →
        ep.items = { session := sid, entry := e } :: rest → (∀ i ∈ rest, i.session ≠ sid) →
        ep.filling.get (dirDie sid) = [] → ep.passed.get (dirDie sid) = 0 → ∀ env,
        let record := ckptRecord 2 sid 0 (wordsBytes (entryWords {} e 0))
        ep.offset + 256 + record.length ≤ k.areaSize →
        ∃ t ep', exec (.epochWrite sid env) s = .next t ∧ t.core.ckpt.running = some ep' ∧ ep'.items = rest ∧
          ep'.filling = ep.filling.set (dirDie sid) [record] ∧ ep'.passed = ep.passed.set (dirDie sid) record.length ∧
          ep'.writing = some (dirDie sid) ∧ t.core.bus = (busPayload s.core (at0 + 256) record).bus ∧ t.core.rings = s.core.rings) ∧
      (∀ d bs, ep.items = [] → ep.prefixes = [] → ep.filling = ⟨[], []⟩ → ep.desc = some d →
        let recs := [ckptRecord 4 0 0 (shardList ep.shards), ckptRecord 5 0 0 (needList ep.needs)]
        let manifest := shardBytes s.core ep false 0 recs
        let body := recs.flatten
        ep.offset + manifest.length ≤ k.areaSize →
        let n := ep.shards.length + 1
        ∃ t, exec (.epochEnd [.data bs]) s = .next t ∧ t.core.ckpt.running = none ∧
          mapGet t.core.ckpt.last ep.cls = some ep.number ∧
          t.core.bus = (busPayload (busPayload (busPayload s.core (at0 + 256) body)
            (at0 + (256 + body.length)) (manifest.drop (256 + body.length))) at0 (manifest.take 256)).bus ∧
          t.core.rings = (complete (issueEvent s.core 8 false 0 0 (ep.number % 2 ^ 64)
            (fieldAt 0 3 ep.cls + fieldAt 16 32 n)) d .ok (ep.number % 2 ^ 32) n).rings))

/-- R530 to R532: RESTORE, from what the areas of its class answer: when an epoch verifies whose needs are met, whose sessions are recorded by their entries alone and are FREE here, each comes back LOST with its entry, and it completes ST_OK with their number. -/
def Obligations.RestoreBringsBack : Prop :=
  ∀ (d : Desc) (env : Env) (k : CkClass) (all : List ShardRef) (x : Chosen) (r1 r2 r3 : Run0) (s : State),
    seqFree s.core d → d.session = 0 → mapGet s.core.ckpt.classes (d.field 2 2 0 0) = some k → ckptBusy s.core = false →
    d.field 3 63 0 0 = 0 → s.core.twin.state ≠ 2 → s.core.twin.state ≠ 3 →
    let b := beginSeq s.core d
    let c := { b with ckpt := { b.ckpt with skipped := 0, candidates := 0 } }
    scanAreas k (List.range k.keep) { descRun { s with core := b } d env none with core := c } = .ok (all, r1) →
    let hs := all.filter fun h => h.cls == d.field 2 2 0 0
    choose k hs (manifests hs) r1 = .ok (some x, r2) → (x.needs.any (needMissing r2.core)) = false →
    (∀ r ∈ x.records, r.kind = 2 ∧ idBusy s.core r.session = false) → (x.records.map (·.session)).Nodup →
    newerSessions k (hs.filter fun h => x.epoch < h.epoch) r2 = .ok ([], r3) →
    ∃ t, exec (.restore d env) s = .next t ∧
      (∀ r ∈ x.records, entryOf t.core r.session =
        lostEntry (entryOfWords ((List.range 8).map fun i => leAt r.body (8 * i) 8)) false) ∧
      (∀ sid, (∀ r ∈ x.records, r.session ≠ sid) → entryOf t.core sid = entryOf s.core sid) ∧
      t.core.rings = (complete (issueEvent s.core 8 false 0 0 (x.epoch % 2 ^ 64) (fieldAt 0 3 (d.field 2 2 0 0))) d .ok
        x.records.length 0).rings

/-! ## Security, set-up and registers (20, 22) -/

/-- R101, R542: the mailbox, while no object waits in it and no unseal runs, answers DOE discovery for an index with type and next index, CERT with the chain as stored, and KEM_KEY with the 1,568 bytes of the tenant epoch's key; each changes the reply alone. R539: a well-formed record of the twin's raises the reservation that its log keeps, and never lowers it. -/
def Obligations.MailboxAnswers : Prop :=
  ∀ (s : State),
    let told := fun (bs : List Byte) => ({ s with core := { s.core with reply := .data bs } } : State)
    (mailboxFree s.core = true →
      (∀ i, i < 256 → exec (.doeDiscovery i) s = .next (told (natLe 4 (discoveryWord i)))) ∧
      exec (.cert []) s = .next (told (natLe 4 (stCode .ok) ++ Config.certChain)) ∧
      exec (.kemKey []) s = .next (told (natLe 4 (stCode .ok) ++ kemKeyBytes s.rot)) ∧
      (∀ b, b ≠ [] → exec (.cert b) s = .next (told (natLe 4 (stCode .invalidField))) ∧
        exec (.kemKey b) s = .next (told (natLe 4 (stCode .invalidField))))) ∧
    (∀ bs n, alive s.core = true → s.core.twin.linkUp = true → s.core.twin.state = 3 → twinRecord bs = some n →
      exec (.signingRecord bs) s = .next { s with rot := { s.rot with twinLog := max s.rot.twinLog n } })

/-- R539 to R541, R543: a QUOTE of 36 bytes below the last leaf, whose reservation the twin of a paired device has acknowledged, is signed with the next leaf, which no later one uses: the leaf goes up by one, a reservation above it has been recorded first, and the reply is the status, the quoted words and the signature. No measurement register and no key changes. On a paired device whose reservation is not above the leaf, the record of the new one goes to the twin, and the QUOTE waits in the mailbox (that the link's acknowledgement is the twin's is the model's choice, log entry 168). -/
def Obligations.QuoteSpendsLeaf : Prop :=
  ∀ (body : List Byte) (s : State), mailboxFree s.core = true → body.length = 36 → leAt body 34 2 = 0 →
    let r := resumeLeaf s.rot s.rot.twinKnows
    let q := r.leaf.getD 0
    q < leafMax →
    (paired s.core = false ∨ (q < r.reserved ∧ signatureWaits s.core r = false) →
      ∃ t, exec (.quote body) s = .next t ∧ t.rot.leaf = some (q + 1) ∧ q < t.rot.reserved ∧ s.rot.reserved ≤ t.rot.reserved ∧
        t.rot.mrs = s.rot.mrs ∧ t.rot.sealKeys = s.rot.sealKeys ∧ t.rot.ideKeys = s.rot.ideKeys ∧
        (let m := quoteBody s.core s.rot (bytesAt body 0 32) (leAt body 32 2)
         t.core = { s.core with reply := .data (natLe 4 (stCode .ok) ++ (m ++ hssSign hssSeed q m)) })) ∧
    (paired s.core = true → r.reserved ≤ q →
      ∃ t, exec (.quote body) s = .next t ∧ t.core.doe.queue = [{ kind := some 1, body := body }] ∧ t.rot.leaf = some q ∧
        q < t.rot.reserved ∧ t.core.twin.ctl.contains (.reservation t.rot.record) = true ∧ t.core.reply = s.core.reply ∧
        t.rot.mrs = s.rot.mrs ∧ t.core.sess = s.core.sess ∧ t.core.rings = s.core.rings)

/-- R544 to R546: KEY_LOAD of a body that passes its checks stores the unwrapped key under its purpose and extends MR8 with its id and purpose, or answers ST_CHECK_MISMATCH when the tag does not verify. KEY_DESTROY of a key that no model slot names erases it and extends MR8 likewise. -/
def Obligations.KeysLoadedAndDestroyed : Prop :=
  ∀ (body : List Byte) (s : State), mailboxFree s.core = true →
    let id := leAt body 0 4
    let purpose := leAt body 4 1
    let key := unwrapKey s.rot body
    let answer := fun (st : Status) => ({ s.core with reply := .data (natLe 4 (stCode st)) } : Core)
    (body.length = 1636 → leAt body 5 3 = 0 → s.rot.debug = false →
      (purpose = 1 → id ≠ 0 → mapHas s.rot.sealKeys id = false → s.rot.sealKeys.length < 64 →
        ∃ t, exec (.keyLoad body) s = .next t ∧
          (∀ k, key = some k → t = { s with
            core := answer .ok
            rot := extendMr { s.rot with sealKeys := mapSet s.rot.sealKeys id k } (8, natLe 4 id ++ natLe 1 1) }) ∧
          (key = none → t = { s with core := answer .checkMismatch })) ∧
      (purpose = 2 → id < 64 →
        ∃ t, exec (.keyLoad body) s = .next t ∧
          (∀ k, key = some k → t = { s with
            core := answer .ok
            rot := extendMr { s.rot with ideKeys := mapSet s.rot.ideKeys id k } (8, natLe 4 id ++ natLe 1 2) }) ∧
          (key = none → t = { s with core := answer .checkMismatch }))) ∧
    (body.length = 4 →
      (mapHas s.rot.sealKeys id = true → keyInUse s.core id = false →
        exec (.keyDestroy body) s = .next { s with
          core := answer .ok
          rot := extendMr { s.rot with sealKeys := mapDel s.rot.sealKeys id } (8, natLe 4 id ++ natLe 1 1) }) ∧
      (mapHas s.rot.sealKeys id = true → keyInUse s.core id = true →
        exec (.keyDestroy body) s = .next { s with core := answer .wrongState }) ∧
      (mapHas s.rot.sealKeys id = false → mapHas s.rot.ideKeys id = false →
        exec (.keyDestroy body) s = .next { s with core := answer .unknownHandle }))

/-- R550, R551, R555, R556: a tenant change, while no unseal runs and no pair trains, syncs or is paired, advances the tenant epoch, erases every key, and leaves no session, object, account or ring and the set-up lock open; otherwise it sets ST_WRONG_STATE and changes nothing else. An unseal does the same first and then opens the debug lands, when its token names the device's public key and the nonce and verifies; else it sets ST_INVALID_FIELD. -/
def Obligations.TenantChangeErases : Prop :=
  ∀ (s : State), barReady s.core = true → s.core.doe.token = none →
    let fresh := fun (t : State) =>
      t.rot.tenantEpoch = (s.rot.tenantEpoch + 1) % 2 ^ 32 ∧ t.rot.sealKeys = [] ∧ t.rot.ideKeys = [] ∧
      t.core.sess.dir = [] ∧ t.core.sess.warm = [] ∧ t.core.obj.models = [] ∧ t.core.obj.prefixes = [] ∧ t.core.acctCfg = [] ∧
      t.core.rings.subs = [] ∧ t.core.mem.frames = [] ∧ t.core.regs = [] ∧ t.core.setupDone = false ∧ t.core.link.secure = 0 ∧
      t.core.errs.fatal = s.core.errs.fatal ∧ t.core.bus = s.core.bus
    let barred := s.core.twin.state = 1 ∨ s.core.twin.state = 2 ∨ s.core.twin.state = 3
    (barred → exec .tenantChange s = .next { s with rot := { s.rot with status := stCode .wrongState } } ∧
      ∀ env, exec (.debugUnseal env) s = .next { s with rot := { s.rot with status := stCode .wrongState } }) ∧
    (¬ barred → ∃ t, exec .tenantChange s = .next t ∧ fresh t ∧ t.rot.debug = s.rot.debug) ∧
    (¬ barred → hostAnswers s.core → mapGet s.core.mem.windows 0 = none → ∀ bs,
      let tok := bytesAt bs 0 5460
      let good := bytesAt tok 32 32 = (s.rot.nonce.flatMap fun w => natLe 8 w.toNat) ∧
        bytesAt tok 0 32 = sha256 (hssPublic hssSeed) ∧
        hssVerify Config.debugRoot (bytesAt tok 64 5396) (bytesAt tok 0 64) = true
      ∃ t, exec (.debugUnseal [.data bs]) s = .next t ∧ (good → fresh t ∧ t.rot.debug = true) ∧
        (¬ good → t = { s with rot := { s.rot with status := stCode .invalidField } }))

/-- R588 to R590, R189: DONE starts the lock sequence; when the carve fits both dies, its end sets DONE, extends MR5 with the thirteen registers, leaves each die its free frames and changes no register but the stacks' command counts (R574); when it does not fit, REFUSED is set and an entry logged. R193: enabling a window whose header passes puts it in service with the header's geometry; a bad header, and no answer, leave it refused or failed. -/
def Obligations.SetUpLocks : Prop :=
  ∀ (s : State), s.core.power.deep = false →
    (barReady s.core = true → s.core.setupBusy = false → s.core.setupDone = false →
      exec .setupDoneWrite s = .next { s with core := { s.core with setupBusy := true, setupRefused := false } }) ∧
    (ready s.core = true → s.core.setupBusy = true →
      ((∀ die, carveNeed s.core + floorOf s.core ≤ carvable s.core die) →
        ∃ t, exec .setupLockDone s = .next t ∧ t.core.setupDone = true ∧ t.core.setupBusy = false ∧
          (∀ die, freeOf t.core die = carvable s.core die - carveNeed s.core) ∧
          t.rot = extendMr s.rot (5, rwsString s.core) ∧
          (∀ o, (∀ k, k < 8 → o ≠ hbcStat k) → regGet t.core o = regGet s.core o) ∧ t.core.rings = s.core.rings) ∧
      (∀ die, carvable s.core die < carveNeed s.core + floorOf s.core →
        exec .setupLockDone s = .next { s with
          core := logHost { s.core with setupBusy := false, setupRefused := true } 0x0C 0x8 })) ∧
    (∀ w, barReady s.core = true → 1 ≤ w → w ≤ 15 → regField s.core (poolCfg w) 0 0 = 0 → mapGet s.core.mem.windows w = none →
      slotBarred s.core w = false → s.core.link.up = true → 0 < tagsFree s.core →
      (∀ h lg units data, headerOk s.core w h = some (lg, units, data) →
        ∃ t x, exec (.poolWindowEnable w 0 8 1 [.data h]) s = .next t ∧ regField t.core (poolCfg w) 0 0 = 1 ∧
          mapGet t.core.mem.windows w = some x ∧ x.state = 1 ∧ x.unitLog2 = lg ∧ x.units = units ∧ x.dataOffset = data ∧
          t.core.rings = s.core.rings ∧ t.core.sess = s.core.sess) ∧
      (∀ h, headerOk s.core w h = none →
        ∃ t x, exec (.poolWindowEnable w 0 8 1 [.data h]) s = .next t ∧ mapGet t.core.mem.windows w = some x ∧ x.state = 3) ∧
      (∃ t x, exec (.poolWindowEnable w 0 8 1 [.refused]) s = .next t ∧ mapGet t.core.mem.windows w = some x ∧ x.state = 2))

/-- R6, R86, R579, R580, R583, R584: an aligned 8-byte write of a threshold, of HIF_IDE_REQUIRE or of HIF_LINK_HOLD stores its field and nothing else; an unaligned one is logged and ignored; a locked RWS field keeps its value and an entry is logged. A read of counts answers with them and starts them again from 0. -/
def Obligations.RegisterAccess : Prop :=
  ∀ (v : Word) (s : State), barReady s.core = true → s.core.power.deep = false →
    (∀ k, k < 8 → ∃ t, exec (.registerWrite 0 (0x600080 + 8 * k) 8 v) s = .next t ∧
      regField t.core (0x600080 + 8 * k) 31 0 = v.toNat % 2 ^ 32 ∧
      (∀ o, o ≠ 0x600080 + 8 * k → regGet t.core o = regGet s.core o) ∧ t.core.errs = s.core.errs ∧ t.core.rings = s.core.rings) ∧
    (∀ off size, alignedAccess off size = false →
      exec (.registerWrite 0 off size v) s = .next { s with core := logHost s.core 0x0B off }) ∧
    (s.core.setupDone = true → v.toNat % 2 ^ 32 ≠ regGet s.core 0x500208 → regGet s.core 0x500208 < 2 ^ 32 →
      ∃ t, exec (.registerWrite 0 0x500208 8 v) s = .next t ∧ regGet t.core 0x500208 = regGet s.core 0x500208 ∧
        t.core.errs.next = s.core.errs.next + 1) ∧
    (∃ t, exec (.ideRequireWrite 0 8 v) s = .next t ∧ regField t.core 0x10 15 0 = v.toNat % 2 ^ 16 ∧
      (∀ o, o ≠ 0x10 → regGet t.core o = regGet s.core o)) ∧
    (s.core.link.up = true → ∃ t, exec (.linkHoldWrite 0 8 v) s = .next t ∧ regField t.core 0x20 31 0 = v.toNat % 2 ^ 32 ∧
      (∀ o, o ≠ 0x20 → regGet t.core o = regGet s.core o)) ∧
    (regGet s.core 0x420008 < 2 ^ 64 → ∃ t, exec (.readClearCounter 0 0x420008 8) s = .next t ∧
      t.core.reply = .data (natLe 8 (regGet s.core 0x420008)) ∧ regGet t.core 0x420008 = 0 ∧
      (∀ o, o ≠ 0x420008 → regGet t.core o = regGet s.core o) ∧ t.core.rings = s.core.rings)

/-! ## The host link and its requests (03, 06) -/

/-- R102 to R105, R107, R598: a link that goes down loses the requests sent, starts the down time and lets RUNNING sessions without a row be QUEUED; its return lets go what it held, and its return, a retrain and its loss each issue a LINK event; a retrain after a lane failed goes to the widest width that the good lanes support from lane 0, no wider and no faster than before, and to less sets DEGRADED (with lane 0 gone the link goes down: the model's choice, log entry 130). A down time that reaches HIF_LINK_HOLD holds the device and logs it. A surprise removal leaves nothing but what lies outside. R97 to R100: a stream with a key for each direction becomes Secure on the lower key set it holds; a direction of a Secure stream goes over to the other set it holds a key of; an integrity failure makes a Secure stream Insecure, logs it and issues a LINK event. No other slot's state changes. -/
def Obligations.LinkAndStreams : Prop :=
  (∀ (speed width lane : Nat) (flit : Bool) (s : State),
     (ready s.core = true → s.core.link.up = true →
       ∃ t, exec .linkDown s = .next t ∧ t.core.link = { s.core.link with up := false, downTime := 0 } ∧
         t.core.sess.waiting = (s.core.sess.waiting.map fun w => if 0 < w.tags then { w with lost := true } else w) ∧
         (∀ sid, (entryOf s.core sid).state ≠ .running → entryOf t.core sid = entryOf s.core sid) ∧
         t.core.rings = (issueEvent s.core 4 false 0 0 (2 * 2 ^ 16) 0).rings) ∧
     (ready s.core = true → supplied s.core = true → s.core.power.perst = false → s.core.link.up = false →
       trains speed width flit = true → lanesGood s.core.link.badLanes width = true →
       let l := { s.core.link with up := true, speed := speed, width := width, flit := flit }
       exec (.linkReturn speed width flit) s = .next { s with
         core := issueEvent (wakingBoth s.core fun c => releaseHost { c with link := l }) 4 false 0 0
           (fieldAt 0 8 speed + fieldAt 8 5 width + 3 * 2 ^ 16) s.core.link.downTime }) ∧
     (ready s.core = true → s.core.link.up = true → lane < 16 → speed ≤ s.core.link.speed →
       trains speed s.core.link.width s.core.link.flit = true →
       let bad := s.core.link.badLanes ||| 2 ^ lane
       let w := min s.core.link.width (goodWidth bad)
       (w ≠ 0 → ∃ t, exec (.linkLaneRetrain lane speed) s = .next t ∧
         t.core.link = { s.core.link with badLanes := bad, speed := speed, width := w } ∧
         (speed < s.core.link.speed ∨ w < s.core.link.width → regField t.core 0x18 14 14 = 1) ∧
         (s.core.link.speed ≤ speed → s.core.link.width ≤ w → regGet t.core 0x18 = regGet s.core 0x18) ∧
         t.core.rings = (issueEvent s.core 4 false 0 0 (fieldAt 0 8 speed + fieldAt 8 5 w + 1 * 2 ^ 16) 0).rings) ∧
       (w = 0 → ∃ t, exec (.linkLaneRetrain lane speed) s = .next t ∧ t.core.link.up = false ∧ t.core.link.badLanes = bad)) ∧
     (ready s.core = true → s.core.link.up = false → regField s.core 0x20 31 0 ≠ 0 → s.core.link.holdOut = false →
       ∃ t, exec .linkHoldExpiry s = .next t ∧ t.core.power.held = true ∧ ready t.core = false ∧
         t.core.link.holdOut = true ∧ regField s.core 0x20 31 0 ≤ t.core.link.downTime ∧
         t.core.errs.next = s.core.errs.next + 1 ∧ t.core.sess = s.core.sess ∧ t.core.mem = s.core.mem) ∧
     exec .surpriseRemoval s = .next { s with
       core := { draws := s.core.draws, bus := s.core.bus }, rot := { twinLog := s.rot.twinLog, flashEpoch := s.rot.flashEpoch } }) ∧
  (∀ (slot : Nat) (s : State), slot < 16 → s.core.link.secure < 2 ^ 16 → s.core.link.insecure < 2 ^ 16 →
     (∀ a b, portUp s.core = true → bit s.core.link.secure slot = false → firstKeySet s.rot slot 0 = some a →
       firstKeySet s.rot slot 1 = some b →
       ∃ t, exec (.ideStreamSecure slot) s = .next t ∧ bit t.core.link.secure slot = true ∧
         bit t.core.link.insecure slot = false ∧ mapGet t.core.link.keySet (2 * slot) = some a ∧
         mapGet t.core.link.keySet (2 * slot + 1) = some b ∧
         (∀ x, x ≠ slot → bit t.core.link.secure x = bit s.core.link.secure x ∧
           bit t.core.link.insecure x = bit s.core.link.insecure x) ∧
         (s.core.rings.msixPending = [] → t.core.rings = s.core.rings) ∧ t.rot = s.rot) ∧
     (∀ (dir : Bool) k, alive s.core = true → bit s.core.link.secure slot = true →
       mapGet s.core.link.keySet (2 * slot + b2n dir) = some k → k ≤ 1 → hasIdeKey s.rot slot (b2n dir) (1 - k) = true →
       ∃ t, exec (.ideKeySetSwitch slot dir) s = .next t ∧ mapGet t.core.link.keySet (2 * slot + b2n dir) = some (1 - k) ∧
         t.core.link.secure = s.core.link.secure) ∧
     (alive s.core = true → s.core.link.up = true → bit s.core.link.secure slot = true → s.core.sess.waiting = [] →
       ∃ t, exec (.ideIntegrityFailure slot) s = .next t ∧ bit t.core.link.secure slot = false ∧
         bit t.core.link.insecure slot = true ∧ slotBarred t.core slot = true ∧
         (∀ x, x ≠ slot → bit t.core.link.secure x = bit s.core.link.secure x) ∧ t.core.errs.next = s.core.errs.next + 1 ∧
         t.core.rings = (linkEvent s.core 4 slot 0).rings))

/-- R91, R201, R598: a read of a waiting VEC_DELETE that gets no completion within TIER_TIMEOUT (unless that is 0), or, once it has been sent, within the PCIe completion timeout, ends it with ST_TIER_TIMEOUT and an error log entry, and changes nothing else; the latter is also logged under Advanced Error Reporting. A completion after its timeout is discarded and logged. R195, R199: a window in service gets the one run of its release list, within one map word, cleared in its allocation map. -/
def Obligations.RequestsEnd : Prop :=
  (∀ (d : Desc) (w : Waiting) (x : Index) (s : State), serving s.core = true → s.core.sess.waiting = [w] → w.desc = d → w.env = [] →
    w.memo = [] → w.slot = 0 → d.session = 0 → d.opcode = 0x62 → s.core.obj.jobs = [] → d.field 2 63 0 0 % 4 = 0 →
    1 ≤ d.field 3 28 8 0 → d.field 3 28 8 0 ≤ 1048576 → mapGet s.core.obj.indexes (indexIdOf d) = some x →
    mapGet s.core.mem.windows 0 = none → barredAt s.core 0 (d.field 2 63 0 0) = false →
    let ended := fun (t : State) => t.core.sess.waiting = [] ∧ t.core.errs.next = s.core.errs.next + 1 ∧
      t.core.rings = (complete s.core d .tierTimeout 0 0).rings ∧ t.core.obj = s.core.obj ∧ t.core.mem = s.core.mem
    (regField s.core 0x200110 63 32 ≠ 0 → ∃ t, exec (.tierTimeout true d.ring) s = .next t ∧ ended t) ∧
    (regField s.core 0x200110 63 32 = 0 → exec (.tierTimeout true d.ring) s = .next s) ∧
    (wasSent w = true → ∃ t, exec (.pcieCompletionTimeout false true d.ring) s = .next t ∧ ended t ∧ bit t.core.cfg.aer 14 = true) ∧
    (wasSent w = false → exec (.pcieCompletionTimeout false true d.ring) s = .next s)) ∧
  (∀ (slot : Nat) (s : State), ready s.core = true → slot < 16 → s.core.link.up = true →
    exec (.lateCompletion slot) s = .next { s with core := logErr s.core { kind := 0x0A, severity := 1 } }) ∧
  ∀ (w m : Nat) (r : Run) (x : Window) (a b : List Byte) (s : State), ready s.core = true → s.core.link.up = true →
    slotBarred s.core (streamAt s.core w (winAddr s.core w (mapWordOff m))) = false → 0 < tagsFree s.core →
    mapGet s.core.mem.windows w = some x → x.state = 1 → x.releases = [.run r] → 0 < r.units →
    runWords r = [m] → leAt a 0 8 = leAt b 0 8 →
    ∃ t y, exec (.releaseListRetry w [.data a, .data b]) s = .next t ∧ mapGet t.core.mem.windows w = some y ∧
      y.releases = [] ∧ y.state = 1 ∧ y.units = x.units ∧
      t.core.bus = (busWrite s.core (winAddr s.core w (mapWordOff m))
        (natLe 8 (leAt a 0 8 - (leAt a 0 8 &&& runBits r m)))).bus ∧
      t.core.rings = s.core.rings

/-! ## Power and resets (21, 23) -/

/-- R535 to R537, R553, R570 to R573, R592: the always-on supply brings a device up with MR0 to MR4 and MR9 extended, the tenant epoch that this device wrote last and nothing set up, failed when no image or no die 1 part verifies; supplies count in their order; a PLL locks; with all of them locked, training fixes the state of each stack unless a sensor is too cold; PERST# released trains the link, and with all the rest in place the device is READY. -/
def Obligations.PowerUp : Prop :=
  ∀ (s : State),
    (∀ b, s.core.power.on = false → ∃ t, exec (.powerOnReset b) s = .next t ∧ t.core.power.on = true ∧ t.core.power.rails = 1 ∧
      t.core.power.ready = false ∧ t.core.power.failed = !((b.imageAOk || b.imageBOk) && b.die1Ok) ∧
      t.core.sess.dir = [] ∧ t.core.setupDone = false ∧ t.core.regs = [] ∧ t.rot.tenantEpoch = s.rot.flashEpoch.getD b.tenantEpoch ∧
      t.rot.reserved = b.leafF ∧ t.rot.leaf = none ∧ t.rot.debug = false ∧
      (b.imageAOk = true → t.rot.mrs = (extendAll {} (bootMeasures { b with tenantEpoch := s.rot.flashEpoch.getD b.tenantEpoch })).mrs ∧ t.rot.imageB = false)) ∧
    (∀ r, s.core.power.on = true →
      (s.core.power.rails &&& railsBefore r = railsBefore r →
        ∃ t, exec (.supplyGoodAssert r) s = .next t ∧ t.core.power.rails = s.core.power.rails ||| 2 ^ railBit r ∧
          t.core.sess = s.core.sess ∧ t.core.mem = s.core.mem ∧ t.core.link = s.core.link) ∧
      (s.core.power.rails &&& railsBefore r ≠ railsBefore r → exec (.supplyGoodAssert r) s = .next s)) ∧
    (∀ (die : Bool) pll, supplied s.core = true → pll < 3 → s.core.power.deep = false → s.core.power.tripped = false →
      ∃ t, exec (.pllLock die pll) s = .next t ∧ t.core.power.locks = s.core.power.locks ||| 2 ^ (pll + if die then 4 else 0)) ∧
    (∀ coldest ok rows, supplied s.core = true → s.core.power.locks = 0x77 → s.core.power.trained = false → s.core.power.failed = false →
      s.core.power.tripped = false →
      (0 ≤ coldest → ∃ t, exec (.stackTraining coldest ok rows) s = .next t ∧ t.core.power.trained = true ∧
        (∀ k, k < 8 → (stackOf t.core k).state = (if ok.getD k false then 1 else 2) ∧
          (stackOf t.core k).trained = ok.getD k false) ∧
        (t.core.power.failed = true ↔ (∀ k, k < 4 → ok.getD k false = false) ∨ (∀ k, 4 ≤ k → k < 8 → ok.getD k false = false))) ∧
      (coldest < 0 → exec (.stackTraining coldest ok rows) s = .next { s with core := { s.core with
        power := { s.core.power with cold := true } } })) ∧
    (∀ speed width flit, supplied s.core = true → s.core.power.perst = true → s.core.power.failed = false →
      trains speed width flit = true →
      ∃ t, exec (.perstRelease speed width flit) s = .next t ∧ t.core.power.perst = false ∧ t.core.link.up = true ∧
        t.core.link.speed = speed ∧ t.core.link.width = width ∧
        (s.core.power.locks = 0x77 → s.core.power.trained = true → s.core.power.tripped = false → s.core.power.held = false →
          t.core.power.ready = true))

/-- R565 to R568, R571, R576, R593: a host reset and a fundamental reset count themselves, name their cause, erase the keys and leave no session, object, account, ring or register value, and the measurement registers, the tenant epoch and INT_FATAL as they were (while no entry of die 1 waits for a lost die 0); one that a BAR0 write asks for needs a device that is READY. A fundamental one trains again, and a die whose reloaded firmware does not verify fails the device. The trip at 105 °C stops the device until a fundamental reset, which waits until the parts read below 95 °C. A lost supply holds the device, and a lost always-on supply leaves nothing but what lies outside and in flash. -/
def Obligations.ResetsAndTrips : Prop :=
  ∀ (k : ResetCause) (s : State), s.core.power.on = true →
    let cleared := fun (t : State) =>
      t.core.sess.dir = [] ∧ t.core.obj.models = [] ∧ t.core.acctCfg = [] ∧ t.core.rings.subs = [] ∧ t.core.mem.frames = [] ∧
      t.core.regs = [] ∧ t.core.setupDone = false ∧ t.rot.sealKeys = [] ∧ t.rot.ideKeys = [] ∧ t.rot.mrs = s.rot.mrs ∧
      t.rot.tenantEpoch = s.rot.tenantEpoch ∧ (s.core.errs.held1 = [] → t.core.errs.fatal = s.core.errs.fatal) ∧
      t.core.bus = s.core.bus ∧ t.core.power.cause = causeCode k ∧ t.core.power.resets = satAdd 16 s.core.power.resets 1
    let asked := k = .rstHost ∨ k = .rstFundamental → barReady s.core = true
    let verified := firmwareBad s.rot true = none
    (isFundamental k = false → asked → ∃ t, exec (.hostReset k) s = .next t ∧ cleared t ∧
      t.core.power.trained = s.core.power.trained ∧
      t.core.link.up = (s.core.link.up && (k == .functionLevel || k == .rstHost))) ∧
    (isFundamental k = true → asked → s.core.power.tripped = false →
      (verified → s.core.power.unverified = ⟨false, false⟩ →
        ∃ t, exec (.fundamentalReset k true) s = .next t ∧ cleared t ∧ t.core.power.trained = false ∧ t.core.power.ready = false ∧
          t.core.power.failed = false ∧ t.core.power.held = false ∧ t.core.link.up = false) ∧
      ∀ same die, firmwareBad s.rot same = some die →
        ∃ t, exec (.fundamentalReset k same) s = .next t ∧ t.core.power.failed = true ∧ t.core.power.ready = false ∧
          (t.core.levels.get die).lost = true ∧ t.core.sess.dir = [] ∧ t.rot.mrs = s.rot.mrs) ∧
    (isFundamental k = true → k ≠ .rstFundamental → s.core.power.tripped = true → s.core.power.cooled = false →
      exec (.fundamentalReset k true) s = .next { s with core := { s.core with
        power := { s.core.power with resetHeld := some (k, true) } } }) ∧
    (∀ h, s.core.power.tripped = false → 105 ≤ h →
      ∃ t, exec (.thermalTrip h) s = .next t ∧ t.core.power.tripped = true ∧ t.core.power.thermtrip = true ∧
        ready t.core = false ∧ t.core.errs.next = s.core.errs.next + 1 ∧ t.core.sess = s.core.sess) ∧
    (∀ h, s.core.power.tripped = true → h < 95 →
      (s.core.power.resetHeld = none → exec (.thermalTripCooled h) s = .next { s with core := { s.core with
        power := { s.core.power with cooled := true } } }) ∧
      (s.core.power.resetHeld = some (k, true) → verified → ∃ t, exec (.thermalTripCooled h) s = .next t ∧ cleared t ∧
        t.core.power.tripped = false)) ∧
    exec (.supplyLost .vaon) s = .next { s with
      core := { draws := s.core.draws, bus := s.core.bus }
      rot := { twinLog := s.rot.twinLog, flashEpoch := s.rot.flashEpoch } } ∧
    (∀ r, r ≠ .vaon → s.core.power.ready = true → ∃ t, exec (.supplyLost r) s = .next t ∧ t.core.power.held = true ∧
      t.core.power.supplyLost = true ∧ t.core.power.rails = s.core.power.rails - (s.core.power.rails &&& 2 ^ railBit r) ∧
      t.core.levels.d0.lost = (s.core.levels.d0.lost || r == .vlogic0) ∧
      t.core.levels.d1.lost = (s.core.levels.d1.lost || r == .vlogic1) ∧ t.core.sess = s.core.sess)

/-- R558, R560 to R563: a domain of a device that is ready whose blocks have no work powers off, a stack controller's with its bank-unit group, and the PLLs that no powered domain needs stop; a wake powers a domain and its parents, locks the PLLs that clock them, and ends deep idle; no other domain changes. A cluster waits (R561) until its region may start: at once when none of its die waits and no other region of it started in the last microsecond (25 aon cycles); while another region started less than that ago, it joins those that wait. With nothing powered, waiting or queued the package enters deep idle and its PLLs stop; a wake source ends it, counts the exit, and powers both step schedulers with their PLLs (that DEEP_IDLE_WAKE, which names no source, wakes both is the model's choice, log entry 165; which PLL clocks a domain, log entry 166). -/
def Obligations.DomainsAndDeepIdle : Prop :=
  ∀ (n : Nat) (s : State), ready s.core = true →
    (regField s.core 0x900000 31 0 ≠ 0 → domainOn s.core n = true → mayPowerOff s.core n = true →
      ∃ t, exec (.domainPowerOff n) s = .next t ∧ domainOn t.core n = false ∧
        (72 ≤ n → n < 80 → domainOn t.core (n + 8) = false) ∧
        (∀ x, x ≠ n → (72 ≤ n ∧ n < 80 → x ≠ n + 8) → domainOn t.core x = domainOn s.core x) ∧
        t.core.power.locks = s.core.power.locks &&& pllsOf t.core.power.domains ∧
        t.core.sess = s.core.sess ∧ t.core.rings = s.core.rings) ∧
    (64 ≤ n → n < 112 →
      ∃ t, exec (.domainWake n) s = .next t ∧ (∀ x, domainOn t.core x = (domainOn s.core x || x == n || bit (parentsOf n) x)) ∧
        t.core.power.deep = false ∧ t.core.power.locks = s.core.power.locks ||| pllsOf (2 ^ n ||| parentsOf n) ∧
        t.core.sess = s.core.sess ∧ t.core.rings = s.core.rings) ∧
    (n < 64 →
      let die := decide (32 ≤ n)
      let region := n % 32 / 8
      let waits := s.core.power.waking.get die
      (domainOn s.core n = false → waits = [] → mayStart s.core die region = true →
        ∃ t, exec (.domainWake n) s = .next t ∧
          (∀ x, domainOn t.core x = (domainOn s.core x || x == n || bit (parentsOf n) x)) ∧
          t.core.power.deep = false ∧ t.core.power.locks = s.core.power.locks ||| pllsOf (2 ^ n ||| parentsOf n) ∧
          t.core.power.waking.get die = [] ∧ t.core.power.started.get die = some (region, s.core.aon) ∧ t.core.sess = s.core.sess) ∧
      (s.core.power.deep = false → domainOn s.core n = true → exec (.domainWake n) s = .next s) ∧
      ∀ r at_, s.core.power.deep = false → domainOn s.core n = false → s.core.power.started.get die = some (r, at_) →
        s.core.aon < at_ + 25 → (∀ k ∈ waits ++ [n % 32], k / 8 ≠ r) →
        exec (.domainWake n) s = .next { s with core := { s.core with
          power := { s.core.power with waking := s.core.power.waking.set die (waits ++ [n % 32]) } } }) ∧
    (s.core.power.deep = false → regField s.core 0x900000 63 32 ≠ 0 → allOff s.core = true → s.core.power.waking = ⟨[], []⟩ →
      queuesEmpty s.core = true →
      exec .deepIdleEntry s = .next { s with core := { s.core with power := { s.core.power with deep := true, locks := 0 } } }) ∧
    (s.core.power.deep = true →
      ∃ t, exec .deepIdleWake s = .next t ∧ t.core.power.deep = false ∧
        (∀ x, domainOn t.core x = (domainOn s.core x || x == 92 || x == 100)) ∧ bit t.core.power.locks 1 = true ∧
        (domainOn s.core 100 = false → bit t.core.power.locks 5 = true) ∧
        regField t.core 0x900020 63 32 = satAdd 32 (regField s.core 0x900020 63 32) 1 ∧ t.core.sess = s.core.sess)

/-! ## Bank-pair units (07) -/

/-- R213 to R222, R232, R233: the command at the front of a pair's queue issues when R222 lets it, is charged and takes its places of the partial queue and the staging frames that do not hold its pages already; commands that waited for the stack's queue may join it. The report of a command that is done leaves its result bytes and gives its result to its work: scan hits, a pooled row, filled frames. A check failure of GATHER_MAX fails its job and drains the pair; a fault leaves the command for its second try, an issue like the first, which runs it on and counts an error of the pair, or fences the unit and drains the pair. -/
def Obligations.UnitCommands : Prop :=
  ∀ (stack pair : Nat) (x : BankCmd) (xs : List BankCmd) (s : State), stack < 8 → pair < 512 → alive s.core = true →
    let p := 512 * stack + pair
    let old := pairOf s.core p
    let d := stackDie stack
    (old.queue = x :: xs → ownerLives s.core x = true → mayIssue s.core p x = true →
      cmdPlace s.core x = .at p ∨ (cmdPlace s.core x = .own ∧ old.state ≠ 2) →
      ∃ t ys, exec (.bankCommandIssue stack pair) s = .next t ∧
        pairOf t.core p = { old with
          queue := xs ++ ys, clock := 0, issued := [{ x with doubled := (stackOf s.core stack).doubled }]
          staged := old.staged ++ (x.pages.toList.filter fun _ => stageNeed old x != 0).map fun k => (k, stageNeed old x) } ∧
        ((stackOf s.core stack).delayed = [] → ys = []) ∧
        (stackOf t.core stack).partials = (stackOf s.core stack).partials + x.parts ∧
        t.core.mem.stagingFree.get d = s.core.mem.stagingFree.get d - stageNeed old x ∧
        (t.core.gov.get d).allow = (s.core.gov.get d).allow - ((x.n * x.w : Nat) : Int) ∧
        t.core.gov.get (!d) = s.core.gov.get (!d) ∧ t.core.rings = s.core.rings ∧ t.core.obj = s.core.obj) ∧
    (old.issued = x :: xs → x.faulted = false →
      let reported := fun (t : State) => (pairOf t.core p).issued = xs ∧ (pairOf t.core p).queue = old.queue ∧
        (pairOf t.core p).result = cmdBytes s.core x ∧
        (stackOf t.core stack).partials = (stackOf s.core stack).partials - x.parts ∧
        (x.pages = none → old.staged = [] → t.core.mem.stagingFree.get d = s.core.mem.stagingFree.get d + x.stage) ∧
        t.core.rings = s.core.rings
      (unitCode x.op = 1 → cmdBad s.core x = false → ∃ t, exec (.scorePartial stack pair .done) s = .next t ∧ reported t ∧
        t.core.obj = s.core.obj ∧ t.core.mem.frames = s.core.mem.frames) ∧
      (∀ o ring j, x.op = .scan o → x.owner = .job ring → mapGet s.core.obj.jobs ring = some j →
        ∃ t, exec (.distScan stack pair .done) s = .next t ∧ reported t ∧ mapGet t.core.obj.jobs ring =
          some { j with hits := j.hits ++ scanHits o, skipped := j.skipped + scanSkipped o }) ∧
      (∀ o ring j tb, x.op = .gather o → x.owner = .job ring → mapGet s.core.obj.jobs ring = some j → cmdBad s.core x = false →
        mapGet s.core.obj.tables o.table = some tb →
        ∃ t, exec (.gatherMax stack pair .done) s = .next t ∧ reported t ∧ mapGet t.core.obj.jobs ring = some { j with
          rows := j.rows ++ [(o.bag, maxRows tb.format tb.width ((List.range o.rows.length).map (gatherRow tb o)))] }) ∧
      (∀ o pg, x.op = .fill o → o.test = false → mapGet (s.core.mem.xmap.get o.die) o.page = some pg →
        ∃ t pg', exec (.fill stack pair .done) s = .next t ∧ reported t ∧ mapGet (t.core.mem.xmap.get o.die) o.page = some pg' ∧
          (∀ i, i < 65536 * x.n → cellGet pg'.bytes (65536 * o.first + i) = nth (natLe 8 o.pattern.toNat) (i % 8) 0) ∧
          (∀ a, a < 65536 * o.first ∨ 65536 * (o.first + x.n) ≤ a → cellGet pg'.bytes a = cellGet pg.bytes a)) ∧
      (∀ ring j o, x.op = .gather o → x.owner = .job ring → mapGet s.core.obj.jobs ring = some j → x.frames = [] →
        ∃ t, exec (.gatherMax stack pair .checkFailure) s = .next t ∧
          mapGet t.core.obj.jobs ring = some { j with failed := some .partFailed } ∧ (pairOf t.core p).issued = xs ∧
          (pairOf t.core p).errors = (if old.state = 0 then 0 else old.errors + 1) ∧
          (pairOf t.core p).state = (if old.state = 0 then 1 else old.state)) ∧
      (unitCode x.op = 4 → ∃ t, exec (.fill stack pair .unitFault) s = .next t ∧
        pairOf t.core p = { old with issued := { x with faulted := true } :: xs, result := resultBytes [] 2 0 } ∧
        t.core.obj = s.core.obj)) ∧
    (old.issued = x :: xs → x.faulted = true → mayStartCmd s.core p 0 = true →
      (∃ t, exec (.unitFaultRetry stack pair false) s = .next t ∧
        (t.core.gov.get d).allow = (s.core.gov.get d).allow - ((x.n * x.w : Nat) : Int) ∧
        (old.errors + 1 < regField s.core 0x600108 31 16 → pairOf t.core p = { old with
          issued := { x with faulted := false, doubled := (stackOf s.core stack).doubled } :: xs
          clock := 0, errors := old.errors + 1 }) ∧
        (regField s.core 0x600108 31 16 ≤ old.errors + 1 → (pairOf t.core p).state = (if old.state = 0 then 1 else old.state))) ∧
      (∃ t, exec (.unitFaultRetry stack pair true) s = .next t ∧ (pairOf t.core p).unitFenced = true ∧
        (pairOf t.core p).state = (if old.state = 0 then 1 else old.state) ∧
        (pairOf t.core p).issued = xs.filter fun y => unitCode y.op != 1))

/-- R165 to R167, R234, R235, R58: a pair whose errors reach the threshold, or whose unit is fenced, drains: its free frames leave service, and its count of errors is cleared. A sound frame of a draining pair moves to another pair and its old place enters the forward table with the sessions that name it; a copy that does not verify stays and is known bad, and a session that names it and has no shadow is LOST (R25). The sweep empties a die's table. An empty draining pair is fenced; where spare rows can repair it, at most two of each of its banks, it is filled with the test patterns, and comes back with its frames when it passes, or stays fenced. A stack with more than 64 fenced pairs is fenced. -/
def Obligations.PairsDrainAndRepair : Prop :=
  ∀ (stack pair : Nat) (s : State), stack < 8 → pair < 512 → alive s.core = true →
    let p := 512 * stack + pair
    let old := pairOf s.core p
    let d := stackDie stack
    (old.state = 0 → old.unitFenced = true ∨ regField s.core 0x600108 31 16 ≤ old.errors → framesIn s.core p = [] →
      pairBulk s.core p = 0 → placedIn s.core p = 0 → nth (s.core.mem.stagePairs.get d) (p % 2048) 0 = 0 →
      ∃ t, exec (.pairDrain stack pair) s = .next t ∧ pairOf t.core p = { old with state := 1, errors := 0 } ∧
        freeOf t.core d = freeOf s.core d - pairRoom s.core p ∧ freeOf t.core (!d) = freeOf s.core (!d) ∧
        t.core.mem.frames = s.core.mem.frames) ∧
    (∀ f x, mapGet s.core.mem.frames f = some x → x.pair = p → x.die = d → pairInService s.core p = false →
      (x.bad = [] → (s.core.mem.forward.get d).length < 4096 → 0 < freeOf s.core d →
        ∃ t q, exec (.frameMigration f true) s = .next t ∧ mapGet t.core.mem.frames f = some { x with pair := q, migrating := false } ∧
          freeOf t.core d = freeOf s.core d - 1 ∧
          mapGet (t.core.mem.forward.get d) s.core.mem.nextFwd =
            some { frame := f, pair := p, count := x.count, entries := frameHolders s.core f } ∧
          ∀ g, g ≠ f → mapGet t.core.mem.frames g = mapGet s.core.mem.frames g) ∧
      ((∀ q ∈ s.core.obj.prefixes, ¬ f ∈ (q.2.pages.d0 ++ q.2.pages.d1).flatten) →
        (frameHolders s.core f = [] →
          ∃ t y, exec (.frameMigration f false) s = .next t ∧ mapGet t.core.mem.frames f = some y ∧ y.pair = p ∧ y.bad ≠ [] ∧
            y.bytes = x.bytes ∧ freeOf t.core d = freeOf s.core d) ∧
        ∀ sid, frameHolders s.core f = [sid] → shadowed s.core sid = false →
          ∃ t, exec (.frameMigration f false) s = .next t ∧ (entryOf t.core sid).state = .lost ∧
            mapGet t.core.sess.warm sid = none)) ∧
    (∀ (die : Bool) k e, (s.core.levels.get die).lost = false → s.core.mem.forward.get die = [(k, e)] → e.pair = p → e.loft = false →
      p % 2048 < (s.core.mem.pairFree.get d).length →
      ∃ t, exec (.forwardSweep die) s = .next t ∧ t.core.mem.forward.get die = [] ∧
        t.core.mem.forward.get (!die) = s.core.mem.forward.get (!die) ∧ pairRoom t.core p = pairRoom s.core p + 1) ∧
    ((stackOf s.core stack).state ≠ 2 → old.state = 1 → pairEmpty s.core p = true →
      (fencedPairs s.core stack < 64 →
        (∀ passes, ∃ t, exec (.pairFenceRepair stack pair 0 passes) s = .next t ∧ pairOf t.core p = { old with state := 2 } ∧
          freeOf t.core d = freeOf s.core d) ∧
        (∀ even odd passes, 0 < even + odd → old.unitFenced = false → even + odd ≤ (stackOf s.core stack).spareRows →
          old.spared0 + even ≤ 2 → old.spared1 + odd ≤ 2 →
          (stackOf s.core stack).delayed = [] → stackQueued (stackOf s.core stack) + 128 ≤ 1024 →
          ∃ t, exec (.pairFenceRepair stack pair (even + 65536 * odd) passes) s = .next t ∧
            pairOf t.core p = { old with
              state := 3, spared0 := old.spared0 + even, spared1 := old.spared1 + odd, queue := testFills p } ∧
            (stackOf t.core stack).spareRows = (stackOf s.core stack).spareRows - (even + odd) ∧ freeOf t.core d = freeOf s.core d)) ∧
      (fencedPairs s.core stack = 64 → ∀ passes, ∃ t, exec (.pairFenceRepair stack pair 0 passes) s = .next t ∧
        (stackOf t.core stack).state = 2)) ∧
    ((stackOf s.core stack).state ≠ 2 → old.state = 3 → old.queue = [] → old.issued = [] → (stackOf s.core stack).delayed = [] →
      (∀ rows, ∃ t, exec (.pairFenceRepair stack pair rows true) s = .next t ∧
        pairOf t.core p = { old with state := 0, errors := 0 } ∧ freeOf t.core d = freeOf s.core d + pairRoom s.core p) ∧
      (∀ rows, ∃ t, exec (.pairFenceRepair stack pair rows false) s = .next t ∧ pairOf t.core p = { old with state := 2 } ∧
        freeOf t.core d = freeOf s.core d))

/-- R224, R227 to R231, R554: a refresh tick clears the debts of an idle pair's banks; those of a pair that runs a command rise by one, less one for each refresh slot of the command that has come since the last tick, up to 8. A stack doubles its refresh from 85 °C on and returns below 80 °C. A governor period raises or lowers the level by its power and temperature and gives the die the share of its level; the power joins the average that is reported every 2^24 aon cycles; a loan adds to the allowance of the die it reaches, once. -/
def Obligations.RefreshAndGovernor : Prop :=
  ∀ (s : State), alive s.core = true →
    (∀ k q p, k < 8 → (stackOf s.core k).state ≠ 2 → mapGet (stackOf s.core k).pairs q = some p →
      let now := p.clock + if (stackOf s.core k).doubled then 1560 else 3120
      ∃ t y, exec (.refreshTick k) s = .next t ∧ mapGet (stackOf t.core k).pairs q = some y ∧
        (p.issued = [] → y = { p with debt0 := 0, debt1 := 0, clock := 0 }) ∧
        (∀ x xs, p.issued = x :: xs →
          let slots := slotsBy s.core x now - slotsBy s.core x p.clock
          y = { p with clock := now, debt0 := min 8 (p.debt0 - slots + 1), debt1 := min 8 (p.debt1 - slots + 1) }) ∧
        (∀ j, j ≠ k → stackOf t.core j = stackOf s.core j) ∧ t.core.rings = s.core.rings) ∧
    (∀ k h, k < 8 → ∃ t, exec (.refreshModeChange k h) s = .next t ∧
      (stackOf t.core k).doubled = (if 85 ≤ h then true else if h < 80 then false else (stackOf s.core k).doubled) ∧
      (stackOf t.core k).pairs = (stackOf s.core k).pairs ∧ ∀ j, j ≠ k → stackOf t.core j = stackOf s.core j) ∧
    (∀ (die : Bool) power h, (s.core.levels.get die).lost = false → (s.core.gov.get die).level ≤ 7 →
      ∃ t, exec (.governorPeriod die power h) s = .next t ∧
        (1400 < power ∨ 90 ≤ h → (t.core.gov.get die).level = min ((s.core.gov.get die).level + 1) 7) ∧
        (power < 1330 → h < 85 → (t.core.gov.get die).level =
          if (s.core.gov.get die).calm + 1 = 4 then (s.core.gov.get die).level - 1 else (s.core.gov.get die).level) ∧
        (t.core.gov.get die).allow = min (s.core.gov.get die).allow 0 +
          ((225000000 * regField s.core 0x300200 6 0 / 100 * (8 - (t.core.gov.get die).level) / 8 : Nat) : Int) ∧
        t.core.gov.get (!die) = s.core.gov.get (!die) ∧
        t.core.power.watts = if s.core.power.wattFrom + 2 ^ 24 ≤ s.core.aon
          then (s.core.power.wattSum + power) / (s.core.power.wattReads + 1) else s.core.power.watts) ∧
    (∀ (die : Bool) bytes, 0 < bytes → (s.core.gov.get (!die)).lent = bytes →
      ∃ t, exec (.governorLoan die bytes) s = .next t ∧
        (t.core.gov.get die).allow = (s.core.gov.get die).allow + (bytes : Int) ∧ (t.core.gov.get (!die)).lent = 0 ∧
        t.core.stackTab = s.core.stackTab)

/-! ## Levels, errors and budgets (02, 06, 16, 17) -/

/-- R54 to R58, R179, R467: the first core fault of a cluster swaps in its spare; a fenced cluster, region or stack is marked so, and a stack's commands are gone; a lost die holds the device; a retired loft frame leaves object space. Each is logged, and a repair told by an event record. A word that four replays do not bring with good parity at a core takes the same way as a core fault. -/
def Obligations.LevelsFenced : Prop :=
  ∀ (die : Bool) (region cluster core : Nat) (s : State), dieServes s.core die = true → s.core.levels.d0.lost = false →
    let n := 8 * region + cluster
    let lv := s.core.levels.get die
    (region < 4 → cluster < 8 → mapHas lv.clusters n = false →
      (core < 9 → mapHas lv.cores n = false →
        let swapped := fun (t : State) => t.core.levels.get die = { lv with cores := mapSet lv.cores n core } ∧
          t.core.levels.get (!die) = s.core.levels.get (!die) ∧
          t.core.rings = (issueEvent s.core 6 die 0 0 1 (fieldAt 0 3 region + fieldAt 3 3 cluster + fieldAt 6 10 core)).rings ∧
          t.core.sess = s.core.sess
        (∃ t, exec (.coreSwap die region cluster core) s = .next t ∧ swapped t ∧ t.core.errs.next = s.core.errs.next + 1) ∧
        (∀ reads wh sid va, 4 ≤ reads.length → (∀ w ∈ reads.take 4, parityGood w = false) → wh.region = region → wh.cluster = cluster → wh.core = core →
          ∃ t, exec (.parityReplay die .coreQueue wh reads sid va) s = .next t ∧ swapped t ∧
            t.core.errs.next = s.core.errs.next + 2)) ∧
      (∃ t, exec (.clusterFence die region cluster) s = .next t ∧ mapHas (t.core.levels.get die).clusters n = true ∧
        t.core.levels.get (!die) = s.core.levels.get (!die))) ∧
    (region < 4 → mapHas lv.regions region = false →
      ∃ t, exec (.regionFence die region) s = .next t ∧ mapHas (t.core.levels.get die).regions region = true ∧
        ∀ k, k < 8 → mapHas (t.core.levels.get die).clusters (8 * region + k) = true) ∧
    (∀ k, k < 8 → dieServes s.core (stackDie k) = true → (stackOf s.core k).state ≠ 2 →
      ∃ t, exec (.stackFence k) s = .next t ∧ (stackOf t.core k).state = 2 ∧ (stackOf t.core k).partials = 0 ∧
        ∀ q p, mapGet (stackOf t.core k).pairs q = some p → p.queue = [] ∧ p.issued = []) ∧
    (∃ t, exec (.dieLost die) s = .next t ∧ (t.core.levels.get die).lost = true ∧ t.core.power.held = true ∧
      t.core.errs.next = s.core.errs.next + 1 ∧ t.core.sess = s.core.sess ∧ t.core.mem = s.core.mem) ∧
    (∀ f, f < 32768 → mapHas (s.core.mem.loftRetired.get die) f = false → mapHas lv.clusters (f / 1024) = false → retireWaits s.core die f = false →
      ((loftMapping s.core die f).any fun m => loftBad m.2.1 m.2.2) = false →
      ∃ t, exec (.loftFrameRetire die f) s = .next t ∧ mapHas (t.core.mem.loftRetired.get die) f = true ∧
        t.core.mem.loftFree.get die = s.core.mem.loftFree.get die - 1 ∧ t.core.levels = s.core.levels)

/-- R466, R467: p0 is the XOR of a word's even-numbered bits and p1 that of its odd-numbered bits; so a word with one bit flipped, or with two that lie in different halves, fails its parity. A good word that a replay brings within the limit repairs the error: the repair counts in the class of its place, and nothing is taken out of service. -/
def Obligations.ParityDetects : Prop :=
  (∀ (w : Word) (i j : Nat), i < 64 → j < 64 →
    let ones := fun r => ((List.range 64).filter fun k => k % 2 == r && w.getLsbD k).length % 2 == 1
    let p := parityBits w
    p = (ones 0, ones 1) ∧ parityGood ⟨w, p.1, p.2⟩ = true ∧ parityGood ⟨w ^^^ BitVec.twoPow 64 i, p.1, p.2⟩ = false ∧
    (i % 2 ≠ j % 2 → parityGood ⟨w ^^^ BitVec.twoPow 64 i ^^^ BitVec.twoPow 64 j, p.1, p.2⟩ = false)) ∧
  ∀ (die : Bool) (w : Word) (lost : List Fetched) (wh : Where) (sid pa : Nat) (s : State), dieServes s.core die = true →
    lost.length < 4 → (∀ f ∈ lost, parityGood f = false) →
    ∃ t, exec (.parityReplay die .clusterSwitch wh (lost ++ [⟨w, (parityBits w).1, (parityBits w).2⟩]) sid pa) s = .next t ∧
      mapGet (t.core.errs.rates.get die).now 1 = some (satAdd 32 ((mapGet (s.core.errs.rates.get die).now 1).getD 0) 1) ∧
      t.core.levels = s.core.levels ∧ t.core.mem = s.core.mem ∧ t.core.sess = s.core.sess

/-- R479 to R487, R516: a repaired error raises its class's count of the window, and the first above the threshold issues an ERROR_RATE record; a window's end makes its counts the last ones; a period's end clears the counts of units; a unit below its threshold counts one more error; a watch sum above its threshold starts the watch class's checkpoint. An entry takes the next sequence number and its slot, and the first of severity 3 is kept in INT_FATAL. -/
def Obligations.ErrorsCountedAndLogged : Prop :=
  ∀ (die : Bool) (s : State),
    let r := s.core.errs.rates.get die
    (∀ cls, ready s.core = true → 1 ≤ cls → cls ≤ 8 →
      let n := satAdd 32 ((mapGet r.now cls).getD 0) 1
      ∃ t, exec (.errorRateRecord die cls) s = .next t ∧ mapGet (t.core.errs.rates.get die).now cls = some n ∧
        (∀ k, k ≠ cls → mapGet (t.core.errs.rates.get die).now k = mapGet r.now k) ∧
        (n ≤ rateThresh s.core cls → t.core.rings = s.core.rings) ∧
        (0 < rateThresh s.core cls → rateThresh s.core cls < n → mapHas r.told cls = false →
          t.core.rings = (issueEvent s.core 7 die 0 0 cls n).rings)) ∧
    (ready s.core = true → ∃ t, exec (.errorRateWindowEnd die) s = .next t ∧
      t.core.errs.rates.get die = { r with last := r.now, now := [], told := [], watched := [], logged := [] } ∧
      t.core.errs.rates.get (!die) = s.core.errs.rates.get (!die) ∧ t.core.rings = s.core.rings) ∧
    (ready s.core = true → ∃ t, exec (.unitPeriodEnd die) s = .next t ∧ (t.core.errs.rates.get die).cores = [] ∧
      (t.core.errs.rates.get die).frames = [] ∧ (t.core.errs.rates.get die).now = r.now ∧
      ∀ k q, stackDie k = die → (pairOf t.core (512 * k + q % 512)).errors = 0) ∧
    (∀ stack pair, serving s.core = true → stack < 8 → pair < 512 →
      (pairOf s.core (512 * stack + pair)).errors + 1 < regField s.core 0x600108 31 16 →
      ∃ t, exec (.unitThresholdAction (.bankPair stack pair)) s = .next t ∧
        pairOf t.core (512 * stack + pair) = { pairOf s.core (512 * stack + pair) with
          errors := (pairOf s.core (512 * stack + pair)).errors + 1 } ∧ t.core.rings = s.core.rings) ∧
    (∀ k, serving s.core = true → mapGet s.core.ckpt.classes 6 = some k → k.enable = true → 0 < regField s.core 0x600100 31 0 →
      regField s.core 0x600100 31 0 < watchSum s.core die → mapHas r.watched 6 = false → mapHas s.core.ckpt.classes 7 = false →
      ckptBusy s.core = false →
      ∃ t ep, exec (.watchTrigger die) s = .next t ∧ t.core.ckpt.running = some ep ∧ ep.cls = 6 ∧ ep.seq = k.seq ∧
        mapHas (t.core.errs.rates.get die).watched 6 = true) ∧
    (∀ kind severity host wh session status opcode addr, s.core.power.on = true → s.core.levels.d0.lost = false →
      repairedKind kind = false → severity < 4 → kind < 256 →
      ∃ t ws, exec (.errorLogEntry die 0 kind severity host wh session status opcode addr) s = .next t ∧
        t.core.errs.next = s.core.errs.next + 1 ∧ mapGet t.core.errs.log (s.core.errs.next % 1024) = some ws ∧
        nth ws 0 0 % 2 ^ 32 = s.core.errs.next % 2 ^ 32 ∧ bits (nth ws 0 0) 47 40 = kind ∧ bits (nth ws 0 0) 50 49 = severity ∧
        (t.core.errs.fatal = if severity = 3 ∧ s.core.errs.fatal = none then some ws else s.core.errs.fatal) ∧
        t.core.sess = s.core.sess ∧ t.core.rings = s.core.rings)

/-- R446, R453, R564, R176: refills that fall due while a die's step scheduler is off are held; otherwise they raise an account's committed level by its scaled rate up to its depth, its excess level only at full capacity, and its meter's levels by their rates up to their depths. Free object space fills with hot copies of the tiles of loaded models, and never more than it holds. -/
def Obligations.RefillsAndHotCopies : Prop :=
  ∀ (die : Bool) (s : State),
    (∀ n, ready s.core = true → domainOn s.core (schedDomain die) = false →
      (∃ t, exec (.bucketRefill die n) s = .next t ∧ (t.core.sched.get die).dueBuckets = (s.core.sched.get die).dueBuckets + n ∧
        ∀ a, acctOf t.core die a = acctOf s.core die a) ∧
      (∃ t, exec (.meterRefill die n) s = .next t ∧ (t.core.sched.get die).dueMeters = (s.core.sched.get die).dueMeters + n ∧
        ∀ a, acctOf t.core die a = acctOf s.core die a)) ∧
    (∀ n a g, ready s.core = true → domainOn s.core (schedDomain die) = true → 0 < n → s.core.acctCfg = [(a, g)] →
      let x := acctOf s.core die a
      let scale := (s.core.sched.get die).scale
      (∃ t, exec (.bucketRefill die n) s = .next t ∧
        (acctOf t.core die a).c = min (x.c + ((n * (g.cir * scale / 65536) : Nat) : Int)) (g.cbs : Int) ∧
        (acctOf t.core die a).e = (if scale = 65536 then min (x.e + ((n * g.eir : Nat) : Int)) (g.ebs : Int) else x.e) ∧
        (acctOf t.core die a).tc = x.tc ∧ acctOf t.core (!die) a = acctOf s.core (!die) a ∧ t.core.rings = s.core.rings) ∧
      (∃ t, exec (.meterRefill die n) s = .next t ∧
        (acctOf t.core die a).tc = min (x.tc + n * g.mCir) g.mCbs ∧ (acctOf t.core die a).tp = min (x.tp + n * g.mPir) g.mPbs ∧
        (acctOf t.core die a).c = x.c ∧ acctOf t.core (!die) a = acctOf s.core (!die) a ∧ t.core.rings = s.core.rings)) ∧
    (∀ slot m, serving s.core = true → s.core.obj.models = [(slot, m)] → m.state = 2 → m.available = true → slot < 16 →
      s.core.mem.hot = [] →
      ∃ t, exec (.hotCopyFill die) s = .next t ∧ hotOn t.core die = min (s.core.mem.loftFree.get die) (hotTiles m die) ∧
        t.core.mem.loftFree = s.core.mem.loftFree ∧ t.core.obj = s.core.obj)

/-! ## Twin pairing (18) -/

/-- R494 to R499, R505, R540: setting EN trains the link, and HELLO goes to the twin over a link that trained; HELLO is answered by a refusal with its cause or by synchronising, and the leaf resumes; a session leaves the list of those to send as its copy joins those that go: its contents, with the chunks that a running APPEND has committed after it, its index entry, or its barn sheaf; when both devices hold complete shadows the pair is paired. Clearing EN, or the twin's UNPAIR, ends the pairing: at once where nothing is paired; else the mirror's records go first, then UNPAIR, and then the shadows go, the granted frames return and a TWIN record of kind 2 says so. Grants move blocks of 1,024 frames. -/
def Obligations.PairingStates : Prop :=
  ∀ (s : State),
    let c := s.core
    let w := c.twin
    let linked := w.linkUp = true ∧ (w.state = 2 ∨ w.state = 3)
    let unpaired := fun (t : Core) => t.twin.linkUp = false ∧ t.twin.shadows = [] ∧ t.twin.mirror = [] ∧ t.twin.granted = ⟨0, 0⟩ ∧
      t.twin.lent = ⟨0, 0⟩ ∧ t.sess = c.sess ∧ t.obj = c.obj ∧
      freeOf t false = freeOf c false + w.lent.d0 ∧ freeOf t true = freeOf c true + w.lent.d1
    let ending := fun (t : State) => t.core.twin = { w with unpairing := true } ∧ t.core.sess = c.sess ∧ t.core.obj = c.obj ∧
      t.core.mem = c.mem ∧ t.core.rings = c.rings
    (∀ trained, barReady c = true → c.power.deep = false → w.taking = false → w.state ≠ 2 → w.state ≠ 3 → w.state ≠ 5 →
      (pairEn c = false ∨ w.state ≠ 1) →
      ∃ t, exec (.pairEnable trained) s = .next t ∧ t.core.twin.state = 1 ∧ t.core.twin.cause = 0 ∧
        t.core.twin.linkUp = trained ∧ bit (regGet t.core 0x700000) 0 = true ∧ t.core.sess = c.sess ∧ t.core.rings = c.rings ∧
        t.core.twin.ctl = if trained then [.hello (ownHello t.core s.rot)] else []) ∧
    (barReady c = true → c.power.deep = false → w.taking = false → w.state ≠ 5 →
      (¬linked → w.shadows = [] →
        ∃ t, exec .unpair s = .next t ∧ t.core.twin.state = 0 ∧ unpaired t.core ∧ bit (regGet t.core 0x700000) 0 = false) ∧
      (linked → ∃ t, exec .unpair s = .next t ∧ ending t ∧ bit (regGet t.core 0x700000) 0 = false)) ∧
    (ready c = true → linked → w.unpairing = false → ∃ t, exec .unpairReceived s = .next t ∧ ending t) ∧
    (linked → w.unpairing = true →
      (w.mirror ≠ [] → finishUnpair c = c) ∧
      (w.mirror = [] → w.saidUnpair = false → w.ctl = [] →
        finishUnpair c = { c with twin := { w with saidUnpair := true, ctl := [.unpair] } }) ∧
      (w.mirror = [] → w.saidUnpair = true → w.ctl = [] → w.shadows = [] →
        unpaired (finishUnpair c) ∧ (finishUnpair c).twin.state = (if pairEn c then 1 else 0) ∧
          (finishUnpair c).rings = (issueEvent c 9 true 0 0 2 0).rings)) ∧
    (∀ h, ready c = true → w.linkUp = true → w.state = 1 →
      ∃ t, exec (.hello h) s = .next t ∧ t.rot = resumeLeaf { s.rot with twinKnows := some h.leafT } (some h.leafT) ∧
        t.core.sess = c.sess ∧ t.core.twin.twinNo = h.deviceNo ∧ t.core.twin.cause = helloCause c h ∧
        (if helloCause c h = 0 then
          t.core.twin.state = 2 ∧ t.core.twin.toSend = sessionsToSend c ∧
            t.core.twin.toRecv = h.ids.filter (fun i => !h.lost.contains i)
        else t.core.twin.state = 6)) ∧
    (∀ x, ready c = true → w.linkUp = true → w.state = 2 → w.unpairing = false → (stillToSend c).head? = some x → w.bulk = [] →
      (∀ row ∈ c.sched.d0.placed ++ c.sched.d1.placed, row.session ≠ x) →
      let e := entryOf c x
      let copied := fun (body : MBody) => ({ c with twin := { w with
        toSend := (stillToSend c).tail, copies := w.copies ++ [mirrorRec c x body], bulk := [.copy (mirrorRec c x body)] } } : Core)
      (∀ wm env, mapGet c.sess.warm x = some wm →
        let c' := copied (warmCopy c x e wm)
        exec (.sessionSync x env) s = .next { s with core := match laneChunks c e wm with | some b => mirror c' x b | none => c' }) ∧
      (∀ ix env, mapGet c.sess.warm x = none → mapGet c.mem.index x = some ix →
        (ix.place = 2 → exec (.sessionSync x env) s = .next { s with core := copied (.copy e none [] (some ix) none none) }) ∧
        (ix.place = 1 → exec (.sessionSync x env) s = .next { s with core := copied (.copy e none (barnBytes c ix) none none none) })) ∧
      (∀ env, mapGet c.sess.warm x = none → mapGet c.mem.index x = none →
        exec (.sessionSync x env) s = .next { s with core := copied (.copy e none [] none none none) })) ∧
    (∀ env, ready c = true → w.linkUp = true → w.state = 2 → w.toRecv = [] → stillToSend c = [] → w.bulk = [] →
      w.taken = false → regField c 0x700018 3 0 = 0 →
      ∃ t, exec (.twinSyncDone true env) s = .next t ∧ t.core.twin.state = 3 ∧ t.core.twin.recvDone = true ∧
        t.core.sess = c.sess ∧ t.core.twin.shadows = w.shadows ∧
        (w.recvDone = true → t.core.rings = (issueEvent c 9 true 0 0 1 0).rings) ∧
        (w.recvDone = false → t.core.twin.ctl = w.ctl ++ [.complete])) ∧
    (∀ die, ready c = true → w.linkUp = true → (w.state = 2 ∨ w.state = 3) →
      (regField c 0x200108 20 0 + 1024 < freeOf c die →
        ∃ t, exec (.frameGrant die .asked) s = .next t ∧ freeOf t.core die + 1024 = freeOf c die ∧
          t.core.twin.lent.get die = w.lent.get die + 1024 ∧ t.core.twin.granted = w.granted ∧
          t.core.twin.ctl = w.ctl ++ [.grant die .received] ∧ t.core.sess = c.sess) ∧
      (1024 ≤ w.lent.get die →
        ∃ t, exec (.frameGrant die .returned) s = .next t ∧ freeOf t.core die = freeOf c die + 1024 ∧
          t.core.twin.lent.get die + 1024 = w.lent.get die ∧ t.core.sess = c.sess) ∧
      (grantLeft c die < 4096 →
        ∃ t, exec (.frameGrant die .received) s = .next t ∧ t.core.twin.granted.get die = w.granted.get die + 1024 ∧
          t.core.twin.asked.get die = false ∧ t.core.mem = c.mem ∧ t.core.sess = c.sess) ∧
      (16384 < grantLeft c die →
        ∃ t, exec (.frameGrant die .gaveBack) s = .next t ∧ t.core.twin.granted.get die + 1024 = w.granted.get die ∧
          t.core.twin.ctl = w.ctl ++ [.grant die .returned] ∧ t.core.mem = c.mem ∧ t.core.sess = c.sess))

/-- R488 to R492: a good frame with the next sequence number is taken, acknowledges the retry buffer and returns credits; any other asks for a replay and changes nothing else. A frame as one device lays it out is taken by the other that expects it: its acknowledgement, its request for a replay and its credits arrive, and its own credit is owed. A replay counts a resend of every kept frame and a link error of class 8. A failed lane gives way to a spare, of which there are two; the third failed lane halves the width. Heartbeats are counted. -/
def Obligations.TwinLinkFrames : Prop :=
  ∀ (s : State),
    let c := s.core
    let w := c.twin
    (∀ frame, c.power.on = true → c.power.deep = false → w.linkUp = true →
      let good := frame.length = 512 ∧ (crc32c (bytesAt frame 0 496)).toNat = leAt frame 496 4 ∧ leAt frame 0 4 = w.rxNext
      (good → ∃ t, exec (.twinFrameReceive frame) s = .next t ∧ t.core.twin.rxNext = (w.rxNext + 1) % 2 ^ 32 ∧
        t.core.twin.nak = false ∧ t.core.twin.retry = ackFrames w.retry (leAt frame 4 4) ∧
        t.core.twin.txSeq = w.txSeq ∧ t.core.sess = c.sess ∧ t.core.rings = c.rings) ∧
      (¬ good → exec (.twinFrameReceive frame) s = .next { s with core := { c with twin := { w with nak := true } } })) ∧
    (∀ (f : TxFrame), c.power.on = true → c.power.deep = false → w.linkUp = true → f.seq = w.rxNext → f.seq < 2 ^ 32 → f.ack < 2 ^ 32 → f.cls < 4 →
      f.creditCls < 4 → f.credits < 2 ^ 16 →
      ∃ t, exec (.twinFrameReceive (wireFrame f)) s = .next t ∧ t.core.twin.rxNext = (w.rxNext + 1) % 2 ^ 32 ∧
        t.core.twin.nak = false ∧ t.core.twin.retry = ackFrames w.retry f.ack ∧ t.core.twin.replay = (w.replay || f.nak) ∧
        (f.cls < 3 → mapGet t.core.twin.owed f.cls = some ((mapGet w.owed f.cls).getD 0 + 1)) ∧
        (f.creditCls < 3 → mapGet t.core.twin.credits f.creditCls =
          some (min (creditMax f.creditCls) ((mapGet w.credits f.creditCls).getD 0 + f.credits)))) ∧
    (∀ arriving f fs, alive c = true → w.linkUp = true → w.replay = true → w.retry = f :: fs → (∀ g ∈ w.retry, g.resends < 15) →
      ∃ t, exec (.twinFrameReplay arriving) s = .next t ∧ t.core.twin.linkUp = true ∧ t.core.twin.replay = false ∧
        t.core.twin.retry = w.retry.map (fun g => { g with resends := g.resends + 1 }) ∧
        mapGet (t.core.errs.rates.get true).now 8 = some (satAdd 32 ((mapGet (c.errs.rates.get true).now 8).getD 0) 1) ∧
        t.core.sess = c.sess) ∧
    (∀ lane arriving, alive c = true → w.linkUp = true → lane < 32 → mapHas w.badLanes lane = false →
      (w.badLanes = [] →
        let one := fun (t : State) => t.core.twin.linkUp = true ∧ t.core.twin.half = w.half ∧ t.core.twin.sparesUsed = 1 ∧
          mapHas t.core.twin.badLanes lane = true ∧ t.core.sess = c.sess ∧
          t.core.rings = (issueEvent c 6 true 0 0 5 (fieldAt 6 10 lane)).rings
        (∃ t, exec (.twinLaneSpare lane arriving) s = .next t ∧ one t) ∧ (∃ t, exec (.eyeCheck [lane] arriving) s = .next t ∧ one t)) ∧
      (w.badLanes.length = 2 →
        let half := fun (t : State) => t.core.twin.linkUp = true ∧ t.core.twin.half = true ∧ t.core.sess = c.sess ∧
          t.core.rings = c.rings
        (∃ t, exec (.twinLaneSpare lane arriving) s = .next t ∧ half t) ∧ (∃ t, exec (.eyeCheck [lane] arriving) s = .next t ∧ half t))) ∧
    (c.power.on = true → c.power.ready = true →
      exec .heartbeatSend s = .next { s with core := { c with twin := { w with beats := w.beats + 1 } } })

/-- R504 to R511: silence on a paired device with its link up is noted; with the link down a takeover starts at once where no witness is set, and GIVE_UP starts one; a witness that names the twin as the holder makes the device hold (R506). A takeover ends the pair, returns the granted frames, and makes each shadow a session: one packed at this device is PARKED and keeps its sheaf, one whose contents have not come to this device is LOST. Completions that need the rings of HNG_TAKE_CFG while those do not work begin a hold, and a taken-over session without an index entry needs no lease swap. A record that opens a session gives it an empty shadow, and a request for a shadow's pages is answered with them. -/
def Obligations.TakeoverKeepsSessions : Prop :=
  ∀ (s : State),
    let c := s.core
    let w := c.twin
    let starts := fun (t : State) => t.core.twin.taking = true ∧ t.core.sess = c.sess ∧ t.core.twin.shadows = w.shadows ∧
      t.core.rings = (issueEvent c 9 true 0 0 3 0).rings
    (∀ env, alive c = true → c.power.deep = false → w.state = 3 → w.taking = false → w.unpairing = false →
      (w.linkUp = true → exec (.heartbeatSilence env) s = .next { s with core := { c with twin := { w with silent := true } } }) ∧
      (w.linkUp = false → regField c 0x700018 3 0 = 0 → ∃ t, exec (.heartbeatSilence env) s = .next t ∧ starts t)) ∧
    (alive c = true → w.state = 3 → w.taking = false → w.unpairing = false → ∃ t, exec .giveUpReceived s = .next t ∧ starts t) ∧
    (∀ word env, alive c = true → w.seeking = true → regField c 0x700018 3 0 ≠ 0 → c.link.up = true →
      slotBarred c (streamAt c (witnessWindow c) (winAddr c (witnessWindow c) (witnessOff c))) = false → 0 < tagsFree c → word < 2 ^ 128 → bits word 31 0 = w.twinNo → bits word 33 32 = 2 →
      ∃ t, exec (.witnessSwap (.data (natLe 16 word) :: env)) s = .next t ∧ t.core.twin.state = 5 ∧ t.core.power.held = true ∧
        t.core.sess = c.sess) ∧
    (∀ env, alive c = true → w.seeking = true → regField c 0x700018 3 0 = 0 →
      ∃ t, exec (.witnessSwap env) s = .next t ∧ starts t ∧ t.core.twin.seeking = false) ∧
    (alive c = true → w.taking = true →
      let ended := fun (t : State) => t.core.twin.state = 4 ∧ t.core.twin.taken = true ∧ t.core.twin.taking = false ∧
        t.core.twin.shadows = [] ∧ t.core.twin.lent = ⟨0, 0⟩ ∧ t.core.twin.takeovers = satAdd 16 w.takeovers 1
      (w.shadows = [] → ∃ t, exec .takeover s = .next t ∧ ended t ∧ t.core.sess.dir = c.sess.dir ∧
        freeOf t.core false = freeOf c false + w.lent.d0 ∧ freeOf t.core true = freeOf c true + w.lent.d1) ∧
      (∀ sid sh, w.shadows = [(sid, sh)] → w.lent = ⟨0, 0⟩ → sh.turn = none → sh.fin = none →
        (∀ ix, sh.ix = some ix → ix.place = 1 → sh.entry.state = .parked → indexNeed c sid ≤ freeOf c (dirDie sid) →
          ∃ t, exec .takeover s = .next t ∧ ended t ∧ (entryOf t.core sid).state = .parked ∧
            mapGet t.core.mem.index sid = some ix ∧ ∀ i, i ≠ sid → entryOf t.core i = entryOf c i) ∧
        (sh.ix = none → sh.entry.state = .parked → sh.bare = true →
          ∃ t, exec .takeover s = .next t ∧ ended t ∧ (entryOf t.core sid).state = .lost ∧
            ∀ i, i ≠ sid → entryOf t.core i = entryOf c i))) ∧
    (ready c = true → w.ringHold = false → takeRingsWork c = false → w.kept ≠ [] →
      ∃ t, exec .takeoverRingHold s = .next t ∧ t.core.twin.ringHold = true ∧ t.core.twin.kept = w.kept ∧ t.core.sess = c.sess) ∧
    (∀ sid env, serving c = true → mapHas w.leases sid = true → mapGet c.mem.index sid = none →
      ∃ t, exec (.takeoverLeaseSwap sid env) s = .next t ∧ mapHas t.core.twin.leases sid = false ∧ t.core.sess = c.sess ∧
        t.core.mem = c.mem) ∧
    (∀ r e env, alive c = true → c.power.deep = false → (w.state = 2 ∨ w.state = 3) → r.body = .opened e none → e.state ≠ .lost →
      ∃ t sh, exec (.mirrorRecordApply r env) s = .next t ∧ mapGet t.core.twin.shadows r.session = some sh ∧
        sh.entry = { e with prefixHandle := 0, prefixAttached := false } ∧ sh.cols = [] ∧ sh.ctl = openedCtl c e ∧ t.core.sess = c.sess ∧ t.core.rings = c.rings) ∧
    (∀ sid sh env, ready c = true → w.linkUp = true → w.state = 3 → mapGet w.shadows sid = some sh →
      ∃ t, exec (.twinRequest (.pages sid) env) s = .next t ∧ t.core.sess = c.sess ∧ t.core.twin.shadows = w.shadows ∧
        t.core.twin.answers = w.answers ++ [(.pages sid, imageStream
          ({ entry := sh.entry, ctl := sh.ctl, mapCount := sh.mapCount, cols := sh.cols, cleared := sh.cleared } : Image))])
end

