-- ==== Sys2Proof/Laws/Map.lean ====
section
/-! SUPPORT. Key-sorted maps and byte memories: reading after a write, and the canonical form that every operation keeps. -/

namespace Sys2Proof.Machine

variable {α : Type}

/-- Every key of a map is above `b`. -/
def keysAbove (b : Nat) (m : Map α) : Prop := ∀ p ∈ m, b < p.1

theorem mapWf_cons (k : Nat) (a : α) (m : Map α) : mapWf ((k, a) :: m) = true ↔ keysAbove k m ∧ mapWf m = true := by
  induction m generalizing k a with
  | nil => simp [mapWf, keysAbove]
  | cons p m ih =>
    obtain ⟨k', a'⟩ := p
    simp only [mapWf, Bool.and_eq_true, decide_eq_true_eq]
    constructor
    · intro ⟨h1, h2⟩
      refine ⟨fun q hq => ?_, h2⟩
      rcases List.mem_cons.mp hq with rfl | hq
      · exact h1
      · exact Nat.lt_trans h1 (((ih k' a').mp h2).1 q hq)
    · intro ⟨h1, h2⟩
      exact ⟨h1 (k', a') (List.mem_cons_self ..), h2⟩

/-- Reading back what was written under a key. -/
@[simp] theorem mapGet_set_same (m : Map α) (i : Nat) (a : α) : mapGet (mapSet m i a) i = some a := by
  induction m with
  | nil => simp [mapSet, mapGet]
  | cons p m ih =>
    obtain ⟨k, b⟩ := p
    simp only [mapSet]
    split
    · simp [mapGet]
    · split
      · simp [mapGet]
      · rename_i h
        simp [mapGet, Ne.symm h, ih]

/-- A write leaves every other key alone. -/
theorem mapGet_set_other (m : Map α) (i j : Nat) (a : α) (h : j ≠ i) : mapGet (mapSet m i a) j = mapGet m j := by
  induction m with
  | nil => simp [mapSet, mapGet, Ne.symm h]
  | cons p m ih =>
    obtain ⟨k, b⟩ := p
    simp only [mapSet]
    split
    · simp [mapGet, Ne.symm h]
    · split
      · rename_i h2; subst h2
        simp [mapGet, Ne.symm h]
      · simp [mapGet, ih]

theorem keysAbove_set (b : Nat) (m : Map α) (i : Nat) (a : α) (hb : b < i) (h : keysAbove b m) : keysAbove b (mapSet m i a) := by
  induction m with
  | nil => intro p hp; simp [mapSet] at hp; subst hp; exact hb
  | cons p m ih =>
    obtain ⟨k, c⟩ := p
    have hk : b < k := h (k, c) (List.mem_cons_self ..)
    have hm : keysAbove b m := fun q hq => h q (List.mem_cons_of_mem _ hq)
    simp only [mapSet]
    split
    · intro q hq
      rcases List.mem_cons.mp hq with rfl | hq
      · exact hb
      · exact h q hq
    · split
      · intro q hq
        rcases List.mem_cons.mp hq with rfl | hq
        · exact hb
        · exact hm q hq
      · intro q hq
        rcases List.mem_cons.mp hq with rfl | hq
        · exact hk
        · exact ih hm q hq

/-- A write keeps the canonical form. -/
theorem mapWf_set (m : Map α) (i : Nat) (a : α) (h : mapWf m = true) : mapWf (mapSet m i a) = true := by
  induction m with
  | nil => rfl
  | cons p m ih =>
    obtain ⟨k, b⟩ := p
    have hw := (mapWf_cons k b m).mp h
    simp only [mapSet]
    split
    · rename_i hlt
      refine (mapWf_cons ..).mpr ⟨fun q hq => ?_, h⟩
      rcases List.mem_cons.mp hq with rfl | hq
      · exact hlt
      · exact Nat.lt_trans hlt (hw.1 q hq)
    · split
      · rename_i he; subst he
        exact (mapWf_cons ..).mpr hw
      · rename_i h1 h2
        exact (mapWf_cons ..).mpr ⟨keysAbove_set k m i a (by omega) hw.1, ih hw.2⟩

theorem mem_mapDel (m : Map α) (i : Nat) (q : Nat × α) (h : q ∈ mapDel m i) : q ∈ m := by
  induction m with
  | nil => simp [mapDel] at h
  | cons p m ih =>
    obtain ⟨k, b⟩ := p
    simp only [mapDel] at h
    split at h
    · exact List.mem_cons_of_mem _ (ih h)
    · rcases List.mem_cons.mp h with rfl | h
      · exact List.mem_cons_self ..
      · exact List.mem_cons_of_mem _ (ih h)

/-- A removal keeps the canonical form. -/
theorem mapWf_del (m : Map α) (i : Nat) (h : mapWf m = true) : mapWf (mapDel m i) = true := by
  induction m with
  | nil => rfl
  | cons p m ih =>
    obtain ⟨k, b⟩ := p
    have hw := (mapWf_cons k b m).mp h
    simp only [mapDel]
    split
    · exact ih hw.2
    · exact (mapWf_cons ..).mpr ⟨fun q hq => hw.1 q (mem_mapDel m i q hq), ih hw.2⟩

/-- A removed key is gone. -/
@[simp] theorem mapGet_del_same (m : Map α) (i : Nat) : mapGet (mapDel m i) i = none := by
  induction m with
  | nil => rfl
  | cons p m ih =>
    obtain ⟨k, b⟩ := p
    simp only [mapDel]
    split
    · exact ih
    · rename_i hk
      simp [mapGet, hk, ih]

/-- A removal leaves every other key alone. -/
theorem mapGet_del_other (m : Map α) (i j : Nat) (h : j ≠ i) : mapGet (mapDel m i) j = mapGet m j := by
  induction m with
  | nil => rfl
  | cons p m ih =>
    obtain ⟨k, b⟩ := p
    simp only [mapDel]
    split
    · rename_i hk; subst hk
      simp [mapGet, Ne.symm h, ih]
    · simp [mapGet, ih]

/-- Removing a key that has no entry changes nothing. -/
theorem mapDel_absent (m : Map α) (i : Nat) (h : mapGet m i = none) : mapDel m i = m := by
  induction m with
  | nil => rfl
  | cons p m ih =>
    obtain ⟨k, b⟩ := p
    have hk : ¬ k = i := by intro e; subst e; simp [mapGet] at h
    have hm : mapGet m i = none := by simpa [mapGet, hk] using h
    simp [mapDel, hk, ih hm]

/-- Writing under a key and removing it again leaves the map as it was without the key. -/
theorem mapDel_set (m : Map α) (i : Nat) (a : α) (h : mapGet m i = none) : mapDel (mapSet m i a) i = m := by
  induction m with
  | nil => simp [mapSet, mapDel]
  | cons p m ih =>
    obtain ⟨k, b⟩ := p
    have hk : ¬ k = i := by intro e; subst e; simp [mapGet] at h
    have hm : mapGet m i = none := by simpa [mapGet, hk] using h
    simp only [mapSet]
    split
    · simp [mapDel, hk, mapDel_absent m i hm]
    · split
      · rename_i he; exact absurd he.symm hk
      · simp [mapDel, hk, ih hm]

theorem mapGet_mod_other (m : Map α) (i j : Nat) (f : α → α) (h : j ≠ i) : mapGet (mapMod m i f) j = mapGet m j := by
  unfold mapMod
  cases mapGet m i with
  | none => rfl
  | some a => exact mapGet_set_other m i j (f a) h

theorem mapGet_mod_same (m : Map α) (i : Nat) (f : α → α) : mapGet (mapMod m i f) i = (mapGet m i).map f := by
  unfold mapMod
  cases h : mapGet m i with
  | none => simp [h]
  | some a => simp

theorem mapWf_mod (m : Map α) (i : Nat) (f : α → α) (h : mapWf m = true) : mapWf (mapMod m i f) = true := by
  unfold mapMod
  cases mapGet m i with
  | none => exact h
  | some a => exact mapWf_set m i (f a) h

/-! ## Byte memories -/

/-- A byte reads back as written. -/
theorem cellGet_set_same (m : Cells) (a : Nat) (b : Byte) : cellGet (cellSet m a b) a = b := by
  unfold cellGet cellSet
  split
  · rename_i hb; subst hb
    simp
  · simp

/-- A write to one address leaves every other byte alone. -/
theorem cellGet_set_other (m : Cells) (a x : Nat) (b : Byte) (h : x ≠ a) : cellGet (cellSet m a b) x = cellGet m x := by
  unfold cellGet cellSet
  split
  · rw [mapGet_del_other m a x h]
  · rw [mapGet_set_other m a x b h]

theorem mem_mapSet (m : Map α) (i : Nat) (a : α) (q : Nat × α) (h : q ∈ mapSet m i a) : q = (i, a) ∨ q ∈ m := by
  induction m with
  | nil => simp [mapSet] at h; exact .inl h
  | cons p m ih =>
    obtain ⟨k, b⟩ := p
    simp only [mapSet] at h
    split at h
    · rcases List.mem_cons.mp h with rfl | h
      · exact .inl rfl
      · exact .inr h
    · split at h
      · rcases List.mem_cons.mp h with rfl | h
        · exact .inl rfl
        · exact .inr (List.mem_cons_of_mem _ h)
      · rcases List.mem_cons.mp h with rfl | h
        · exact .inr (List.mem_cons_self ..)
        · rcases ih h with h | h
          · exact .inl h
          · exact .inr (List.mem_cons_of_mem _ h)

/-- A write of one byte keeps the canonical form: writing 0 lists nothing. -/
theorem cellsWf_set (m : Cells) (a : Nat) (b : Byte) (h : cellsWf m = true) : cellsWf (cellSet m a b) = true := by
  simp only [cellsWf, Bool.and_eq_true, List.all_eq_true, decide_eq_true_eq] at h ⊢
  unfold cellSet
  split
  · exact ⟨mapWf_del m a h.1, fun q hq => h.2 q (mem_mapDel m a q hq)⟩
  · rename_i hb
    refine ⟨mapWf_set m a b h.1, fun q hq => ?_⟩
    rcases mem_mapSet m a b q hq with rfl | hq
    · exact hb
    · exact h.2 q hq

/-- A write of bytes keeps the canonical form. -/
theorem cellsWf_write (m : Cells) (a : Nat) (bs : List Byte) (h : cellsWf m = true) : cellsWf (cellsWrite m a bs) = true := by
  induction bs generalizing m a with
  | nil => exact h
  | cons b bs ih => exact ih _ _ (cellsWf_set m a b h)

/-- A write of bytes leaves every address outside them alone. -/
theorem cellGet_write_other (m : Cells) (a x : Nat) (bs : List Byte) (h : x < a ∨ a + bs.length ≤ x) :
    cellGet (cellsWrite m a bs) x = cellGet m x := by
  induction bs generalizing m a with
  | nil => rfl
  | cons b bs ih =>
    simp only [List.length_cons] at h
    rw [cellsWrite, ih _ _ (by omega), cellGet_set_other _ _ _ _ (by omega)]

end Sys2Proof.Machine
end

