-- ==== Sys2Proof/Laws/State.lean ====
section
/-! SUPPORT. What each named update of the state leaves: one lemma per field, true by definition, so that no later proof unfolds a record update. -/

namespace Sys2Proof.Machine

/-! ## Values held per die -/

@[simp] theorem PerDie.get_set {α : Type} (p : PerDie α) (d : Bool) (a : α) : (p.set d a).get d = a := by cases d <;> rfl
@[simp] theorem PerDie.get_set_not {α : Type} (p : PerDie α) (d : Bool) (a : α) : (p.set d a).get (!d) = p.get (!d) := by cases d <;> rfl
@[simp] theorem PerDie.get_mod {α : Type} (p : PerDie α) (d : Bool) (f : α → α) : (p.mod d f).get d = f (p.get d) := by cases d <;> rfl
@[simp] theorem PerDie.get_mod_not {α : Type} (p : PerDie α) (d : Bool) (f : α → α) : (p.mod d f).get (!d) = p.get (!d) := by
  cases d <;> rfl

/-! ## setEntry -/

/-- A directory entry that is written touches the sessions alone. -/
theorem setEntry_frame (c : Core) (sid : Nat) (e : Entry) : setEntry c sid e = { c with sess := (setEntry c sid e).sess } := by
  simp only [setEntry, noteChanged, writeBack]
  repeat' split
  all_goals rfl

/-- Of the sessions, it touches the directory and the changed entries that the directory cache holds (R175). -/
theorem setEntry_sess (c : Core) (sid : Nat) (e : Entry) :
    (setEntry c sid e).sess = { c.sess with dir := (if e.state = .free then mapDel c.sess.dir sid else mapSet c.sess.dir sid e)
                                            changed := (setEntry c sid e).sess.changed } := by
  simp only [setEntry, noteChanged, writeBack]
  repeat' split
  all_goals rfl

/-- The directory after a written entry. -/
@[simp] theorem setEntry_dir (c : Core) (sid : Nat) (e : Entry) :
    (setEntry c sid e).sess.dir = if e.state = .free then mapDel c.sess.dir sid else mapSet c.sess.dir sid e := by
  rw [setEntry_sess]

@[simp] theorem setEntry_draws (c : Core) (sid : Nat) (e : Entry) : (setEntry c sid e).draws = c.draws := by rw [setEntry_frame]
@[simp] theorem setEntry_aon (c : Core) (sid : Nat) (e : Entry) : (setEntry c sid e).aon = c.aon := by rw [setEntry_frame]
@[simp] theorem setEntry_bus (c : Core) (sid : Nat) (e : Entry) : (setEntry c sid e).bus = c.bus := by rw [setEntry_frame]
@[simp] theorem setEntry_cfg (c : Core) (sid : Nat) (e : Entry) : (setEntry c sid e).cfg = c.cfg := by rw [setEntry_frame]
@[simp] theorem setEntry_reply (c : Core) (sid : Nat) (e : Entry) : (setEntry c sid e).reply = c.reply := by rw [setEntry_frame]
@[simp] theorem setEntry_regs (c : Core) (sid : Nat) (e : Entry) : (setEntry c sid e).regs = c.regs := by rw [setEntry_frame]
@[simp] theorem setEntry_setupBusy (c : Core) (sid : Nat) (e : Entry) : (setEntry c sid e).setupBusy = c.setupBusy := by rw [setEntry_frame]
@[simp] theorem setEntry_setupDone (c : Core) (sid : Nat) (e : Entry) : (setEntry c sid e).setupDone = c.setupDone := by rw [setEntry_frame]
@[simp] theorem setEntry_setupRefused (c : Core) (sid : Nat) (e : Entry) : (setEntry c sid e).setupRefused = c.setupRefused := by rw [setEntry_frame]
@[simp] theorem setEntry_link (c : Core) (sid : Nat) (e : Entry) : (setEntry c sid e).link = c.link := by rw [setEntry_frame]
@[simp] theorem setEntry_rings (c : Core) (sid : Nat) (e : Entry) : (setEntry c sid e).rings = c.rings := by rw [setEntry_frame]
@[simp] theorem setEntry_mem (c : Core) (sid : Nat) (e : Entry) : (setEntry c sid e).mem = c.mem := by rw [setEntry_frame]
@[simp] theorem setEntry_obj (c : Core) (sid : Nat) (e : Entry) : (setEntry c sid e).obj = c.obj := by rw [setEntry_frame]
@[simp] theorem setEntry_tokRest (c : Core) (sid : Nat) (e : Entry) : (setEntry c sid e).tokRest = c.tokRest := by rw [setEntry_frame]
@[simp] theorem setEntry_acctCfg (c : Core) (sid : Nat) (e : Entry) : (setEntry c sid e).acctCfg = c.acctCfg := by rw [setEntry_frame]
@[simp] theorem setEntry_sched (c : Core) (sid : Nat) (e : Entry) : (setEntry c sid e).sched = c.sched := by rw [setEntry_frame]
@[simp] theorem setEntry_stackTab (c : Core) (sid : Nat) (e : Entry) : (setEntry c sid e).stackTab = c.stackTab := by rw [setEntry_frame]
@[simp] theorem setEntry_gov (c : Core) (sid : Nat) (e : Entry) : (setEntry c sid e).gov = c.gov := by rw [setEntry_frame]
@[simp] theorem setEntry_levels (c : Core) (sid : Nat) (e : Entry) : (setEntry c sid e).levels = c.levels := by rw [setEntry_frame]
@[simp] theorem setEntry_errs (c : Core) (sid : Nat) (e : Entry) : (setEntry c sid e).errs = c.errs := by rw [setEntry_frame]
@[simp] theorem setEntry_twin (c : Core) (sid : Nat) (e : Entry) : (setEntry c sid e).twin = c.twin := by rw [setEntry_frame]
@[simp] theorem setEntry_ckpt (c : Core) (sid : Nat) (e : Entry) : (setEntry c sid e).ckpt = c.ckpt := by rw [setEntry_frame]
@[simp] theorem setEntry_power (c : Core) (sid : Nat) (e : Entry) : (setEntry c sid e).power = c.power := by rw [setEntry_frame]
@[simp] theorem setEntry_doe (c : Core) (sid : Nat) (e : Entry) : (setEntry c sid e).doe = c.doe := by rw [setEntry_frame]

/-! ## setWarm -/

@[simp] theorem setWarm_draws (c : Core) (sid : Nat) (w : Warm) : (setWarm c sid w).draws = c.draws := rfl
@[simp] theorem setWarm_aon (c : Core) (sid : Nat) (w : Warm) : (setWarm c sid w).aon = c.aon := rfl
@[simp] theorem setWarm_bus (c : Core) (sid : Nat) (w : Warm) : (setWarm c sid w).bus = c.bus := rfl
@[simp] theorem setWarm_cfg (c : Core) (sid : Nat) (w : Warm) : (setWarm c sid w).cfg = c.cfg := rfl
@[simp] theorem setWarm_reply (c : Core) (sid : Nat) (w : Warm) : (setWarm c sid w).reply = c.reply := rfl
@[simp] theorem setWarm_regs (c : Core) (sid : Nat) (w : Warm) : (setWarm c sid w).regs = c.regs := rfl
@[simp] theorem setWarm_setupBusy (c : Core) (sid : Nat) (w : Warm) : (setWarm c sid w).setupBusy = c.setupBusy := rfl
@[simp] theorem setWarm_setupDone (c : Core) (sid : Nat) (w : Warm) : (setWarm c sid w).setupDone = c.setupDone := rfl
@[simp] theorem setWarm_setupRefused (c : Core) (sid : Nat) (w : Warm) : (setWarm c sid w).setupRefused = c.setupRefused := rfl
@[simp] theorem setWarm_link (c : Core) (sid : Nat) (w : Warm) : (setWarm c sid w).link = c.link := rfl
@[simp] theorem setWarm_rings (c : Core) (sid : Nat) (w : Warm) : (setWarm c sid w).rings = c.rings := rfl
@[simp] theorem setWarm_mem (c : Core) (sid : Nat) (w : Warm) : (setWarm c sid w).mem = c.mem := rfl
@[simp] theorem setWarm_obj (c : Core) (sid : Nat) (w : Warm) : (setWarm c sid w).obj = c.obj := rfl
@[simp] theorem setWarm_tokRest (c : Core) (sid : Nat) (w : Warm) : (setWarm c sid w).tokRest = c.tokRest := rfl
@[simp] theorem setWarm_acctCfg (c : Core) (sid : Nat) (w : Warm) : (setWarm c sid w).acctCfg = c.acctCfg := rfl
@[simp] theorem setWarm_sched (c : Core) (sid : Nat) (w : Warm) : (setWarm c sid w).sched = c.sched := rfl
@[simp] theorem setWarm_stackTab (c : Core) (sid : Nat) (w : Warm) : (setWarm c sid w).stackTab = c.stackTab := rfl
@[simp] theorem setWarm_gov (c : Core) (sid : Nat) (w : Warm) : (setWarm c sid w).gov = c.gov := rfl
@[simp] theorem setWarm_levels (c : Core) (sid : Nat) (w : Warm) : (setWarm c sid w).levels = c.levels := rfl
@[simp] theorem setWarm_errs (c : Core) (sid : Nat) (w : Warm) : (setWarm c sid w).errs = c.errs := rfl
@[simp] theorem setWarm_twin (c : Core) (sid : Nat) (w : Warm) : (setWarm c sid w).twin = c.twin := rfl
@[simp] theorem setWarm_ckpt (c : Core) (sid : Nat) (w : Warm) : (setWarm c sid w).ckpt = c.ckpt := rfl
@[simp] theorem setWarm_power (c : Core) (sid : Nat) (w : Warm) : (setWarm c sid w).power = c.power := rfl
@[simp] theorem setWarm_doe (c : Core) (sid : Nat) (w : Warm) : (setWarm c sid w).doe = c.doe := rfl

/-! ## modPair -/

@[simp] theorem modPair_draws (c : Core) (p : Nat) (f : Pair → Pair) : (modPair c p f).draws = c.draws := rfl
@[simp] theorem modPair_aon (c : Core) (p : Nat) (f : Pair → Pair) : (modPair c p f).aon = c.aon := rfl
@[simp] theorem modPair_bus (c : Core) (p : Nat) (f : Pair → Pair) : (modPair c p f).bus = c.bus := rfl
@[simp] theorem modPair_cfg (c : Core) (p : Nat) (f : Pair → Pair) : (modPair c p f).cfg = c.cfg := rfl
@[simp] theorem modPair_reply (c : Core) (p : Nat) (f : Pair → Pair) : (modPair c p f).reply = c.reply := rfl
@[simp] theorem modPair_regs (c : Core) (p : Nat) (f : Pair → Pair) : (modPair c p f).regs = c.regs := rfl
@[simp] theorem modPair_setupBusy (c : Core) (p : Nat) (f : Pair → Pair) : (modPair c p f).setupBusy = c.setupBusy := rfl
@[simp] theorem modPair_setupDone (c : Core) (p : Nat) (f : Pair → Pair) : (modPair c p f).setupDone = c.setupDone := rfl
@[simp] theorem modPair_setupRefused (c : Core) (p : Nat) (f : Pair → Pair) : (modPair c p f).setupRefused = c.setupRefused := rfl
@[simp] theorem modPair_link (c : Core) (p : Nat) (f : Pair → Pair) : (modPair c p f).link = c.link := rfl
@[simp] theorem modPair_rings (c : Core) (p : Nat) (f : Pair → Pair) : (modPair c p f).rings = c.rings := rfl
@[simp] theorem modPair_sess (c : Core) (p : Nat) (f : Pair → Pair) : (modPair c p f).sess = c.sess := rfl
@[simp] theorem modPair_mem (c : Core) (p : Nat) (f : Pair → Pair) : (modPair c p f).mem = c.mem := rfl
@[simp] theorem modPair_obj (c : Core) (p : Nat) (f : Pair → Pair) : (modPair c p f).obj = c.obj := rfl
@[simp] theorem modPair_tokRest (c : Core) (p : Nat) (f : Pair → Pair) : (modPair c p f).tokRest = c.tokRest := rfl
@[simp] theorem modPair_acctCfg (c : Core) (p : Nat) (f : Pair → Pair) : (modPair c p f).acctCfg = c.acctCfg := rfl
@[simp] theorem modPair_sched (c : Core) (p : Nat) (f : Pair → Pair) : (modPair c p f).sched = c.sched := rfl
@[simp] theorem modPair_gov (c : Core) (p : Nat) (f : Pair → Pair) : (modPair c p f).gov = c.gov := rfl
@[simp] theorem modPair_levels (c : Core) (p : Nat) (f : Pair → Pair) : (modPair c p f).levels = c.levels := rfl
@[simp] theorem modPair_errs (c : Core) (p : Nat) (f : Pair → Pair) : (modPair c p f).errs = c.errs := rfl
@[simp] theorem modPair_twin (c : Core) (p : Nat) (f : Pair → Pair) : (modPair c p f).twin = c.twin := rfl
@[simp] theorem modPair_ckpt (c : Core) (p : Nat) (f : Pair → Pair) : (modPair c p f).ckpt = c.ckpt := rfl
@[simp] theorem modPair_power (c : Core) (p : Nat) (f : Pair → Pair) : (modPair c p f).power = c.power := rfl
@[simp] theorem modPair_doe (c : Core) (p : Nat) (f : Pair → Pair) : (modPair c p f).doe = c.doe := rfl

/-! ## modRates -/

@[simp] theorem modRates_draws (c : Core) (die : Bool) (f : Rates → Rates) : (modRates c die f).draws = c.draws := rfl
@[simp] theorem modRates_aon (c : Core) (die : Bool) (f : Rates → Rates) : (modRates c die f).aon = c.aon := rfl
@[simp] theorem modRates_bus (c : Core) (die : Bool) (f : Rates → Rates) : (modRates c die f).bus = c.bus := rfl
@[simp] theorem modRates_cfg (c : Core) (die : Bool) (f : Rates → Rates) : (modRates c die f).cfg = c.cfg := rfl
@[simp] theorem modRates_reply (c : Core) (die : Bool) (f : Rates → Rates) : (modRates c die f).reply = c.reply := rfl
@[simp] theorem modRates_regs (c : Core) (die : Bool) (f : Rates → Rates) : (modRates c die f).regs = c.regs := rfl
@[simp] theorem modRates_setupBusy (c : Core) (die : Bool) (f : Rates → Rates) : (modRates c die f).setupBusy = c.setupBusy := rfl
@[simp] theorem modRates_setupDone (c : Core) (die : Bool) (f : Rates → Rates) : (modRates c die f).setupDone = c.setupDone := rfl
@[simp] theorem modRates_setupRefused (c : Core) (die : Bool) (f : Rates → Rates) : (modRates c die f).setupRefused = c.setupRefused := rfl
@[simp] theorem modRates_link (c : Core) (die : Bool) (f : Rates → Rates) : (modRates c die f).link = c.link := rfl
@[simp] theorem modRates_rings (c : Core) (die : Bool) (f : Rates → Rates) : (modRates c die f).rings = c.rings := rfl
@[simp] theorem modRates_sess (c : Core) (die : Bool) (f : Rates → Rates) : (modRates c die f).sess = c.sess := rfl
@[simp] theorem modRates_mem (c : Core) (die : Bool) (f : Rates → Rates) : (modRates c die f).mem = c.mem := rfl
@[simp] theorem modRates_obj (c : Core) (die : Bool) (f : Rates → Rates) : (modRates c die f).obj = c.obj := rfl
@[simp] theorem modRates_tokRest (c : Core) (die : Bool) (f : Rates → Rates) : (modRates c die f).tokRest = c.tokRest := rfl
@[simp] theorem modRates_acctCfg (c : Core) (die : Bool) (f : Rates → Rates) : (modRates c die f).acctCfg = c.acctCfg := rfl
@[simp] theorem modRates_sched (c : Core) (die : Bool) (f : Rates → Rates) : (modRates c die f).sched = c.sched := rfl
@[simp] theorem modRates_stackTab (c : Core) (die : Bool) (f : Rates → Rates) : (modRates c die f).stackTab = c.stackTab := rfl
@[simp] theorem modRates_gov (c : Core) (die : Bool) (f : Rates → Rates) : (modRates c die f).gov = c.gov := rfl
@[simp] theorem modRates_levels (c : Core) (die : Bool) (f : Rates → Rates) : (modRates c die f).levels = c.levels := rfl
@[simp] theorem modRates_twin (c : Core) (die : Bool) (f : Rates → Rates) : (modRates c die f).twin = c.twin := rfl
@[simp] theorem modRates_ckpt (c : Core) (die : Bool) (f : Rates → Rates) : (modRates c die f).ckpt = c.ckpt := rfl
@[simp] theorem modRates_power (c : Core) (die : Bool) (f : Rates → Rates) : (modRates c die f).power = c.power := rfl
@[simp] theorem modRates_doe (c : Core) (die : Bool) (f : Rates → Rates) : (modRates c die f).doe = c.doe := rfl

/-! ## modLink -/

@[simp] theorem modLink_draws (c : Core) (f : Link → Link) : (modLink c f).draws = c.draws := rfl
@[simp] theorem modLink_aon (c : Core) (f : Link → Link) : (modLink c f).aon = c.aon := rfl
@[simp] theorem modLink_bus (c : Core) (f : Link → Link) : (modLink c f).bus = c.bus := rfl
@[simp] theorem modLink_cfg (c : Core) (f : Link → Link) : (modLink c f).cfg = c.cfg := rfl
@[simp] theorem modLink_reply (c : Core) (f : Link → Link) : (modLink c f).reply = c.reply := rfl
@[simp] theorem modLink_regs (c : Core) (f : Link → Link) : (modLink c f).regs = c.regs := rfl
@[simp] theorem modLink_setupBusy (c : Core) (f : Link → Link) : (modLink c f).setupBusy = c.setupBusy := rfl
@[simp] theorem modLink_setupDone (c : Core) (f : Link → Link) : (modLink c f).setupDone = c.setupDone := rfl
@[simp] theorem modLink_setupRefused (c : Core) (f : Link → Link) : (modLink c f).setupRefused = c.setupRefused := rfl
@[simp] theorem modLink_rings (c : Core) (f : Link → Link) : (modLink c f).rings = c.rings := rfl
@[simp] theorem modLink_sess (c : Core) (f : Link → Link) : (modLink c f).sess = c.sess := rfl
@[simp] theorem modLink_mem (c : Core) (f : Link → Link) : (modLink c f).mem = c.mem := rfl
@[simp] theorem modLink_obj (c : Core) (f : Link → Link) : (modLink c f).obj = c.obj := rfl
@[simp] theorem modLink_tokRest (c : Core) (f : Link → Link) : (modLink c f).tokRest = c.tokRest := rfl
@[simp] theorem modLink_acctCfg (c : Core) (f : Link → Link) : (modLink c f).acctCfg = c.acctCfg := rfl
@[simp] theorem modLink_sched (c : Core) (f : Link → Link) : (modLink c f).sched = c.sched := rfl
@[simp] theorem modLink_stackTab (c : Core) (f : Link → Link) : (modLink c f).stackTab = c.stackTab := rfl
@[simp] theorem modLink_gov (c : Core) (f : Link → Link) : (modLink c f).gov = c.gov := rfl
@[simp] theorem modLink_levels (c : Core) (f : Link → Link) : (modLink c f).levels = c.levels := rfl
@[simp] theorem modLink_errs (c : Core) (f : Link → Link) : (modLink c f).errs = c.errs := rfl
@[simp] theorem modLink_twin (c : Core) (f : Link → Link) : (modLink c f).twin = c.twin := rfl
@[simp] theorem modLink_ckpt (c : Core) (f : Link → Link) : (modLink c f).ckpt = c.ckpt := rfl
@[simp] theorem modLink_power (c : Core) (f : Link → Link) : (modLink c f).power = c.power := rfl
@[simp] theorem modLink_doe (c : Core) (f : Link → Link) : (modLink c f).doe = c.doe := rfl

/-! ## modTwin -/

@[simp] theorem modTwin_draws (c : Core) (f : Twin → Twin) : (modTwin c f).draws = c.draws := rfl
@[simp] theorem modTwin_aon (c : Core) (f : Twin → Twin) : (modTwin c f).aon = c.aon := rfl
@[simp] theorem modTwin_bus (c : Core) (f : Twin → Twin) : (modTwin c f).bus = c.bus := rfl
@[simp] theorem modTwin_cfg (c : Core) (f : Twin → Twin) : (modTwin c f).cfg = c.cfg := rfl
@[simp] theorem modTwin_reply (c : Core) (f : Twin → Twin) : (modTwin c f).reply = c.reply := rfl
@[simp] theorem modTwin_regs (c : Core) (f : Twin → Twin) : (modTwin c f).regs = c.regs := rfl
@[simp] theorem modTwin_setupBusy (c : Core) (f : Twin → Twin) : (modTwin c f).setupBusy = c.setupBusy := rfl
@[simp] theorem modTwin_setupDone (c : Core) (f : Twin → Twin) : (modTwin c f).setupDone = c.setupDone := rfl
@[simp] theorem modTwin_setupRefused (c : Core) (f : Twin → Twin) : (modTwin c f).setupRefused = c.setupRefused := rfl
@[simp] theorem modTwin_link (c : Core) (f : Twin → Twin) : (modTwin c f).link = c.link := rfl
@[simp] theorem modTwin_rings (c : Core) (f : Twin → Twin) : (modTwin c f).rings = c.rings := rfl
@[simp] theorem modTwin_sess (c : Core) (f : Twin → Twin) : (modTwin c f).sess = c.sess := rfl
@[simp] theorem modTwin_mem (c : Core) (f : Twin → Twin) : (modTwin c f).mem = c.mem := rfl
@[simp] theorem modTwin_obj (c : Core) (f : Twin → Twin) : (modTwin c f).obj = c.obj := rfl
@[simp] theorem modTwin_tokRest (c : Core) (f : Twin → Twin) : (modTwin c f).tokRest = c.tokRest := rfl
@[simp] theorem modTwin_acctCfg (c : Core) (f : Twin → Twin) : (modTwin c f).acctCfg = c.acctCfg := rfl
@[simp] theorem modTwin_sched (c : Core) (f : Twin → Twin) : (modTwin c f).sched = c.sched := rfl
@[simp] theorem modTwin_stackTab (c : Core) (f : Twin → Twin) : (modTwin c f).stackTab = c.stackTab := rfl
@[simp] theorem modTwin_gov (c : Core) (f : Twin → Twin) : (modTwin c f).gov = c.gov := rfl
@[simp] theorem modTwin_levels (c : Core) (f : Twin → Twin) : (modTwin c f).levels = c.levels := rfl
@[simp] theorem modTwin_errs (c : Core) (f : Twin → Twin) : (modTwin c f).errs = c.errs := rfl
@[simp] theorem modTwin_ckpt (c : Core) (f : Twin → Twin) : (modTwin c f).ckpt = c.ckpt := rfl
@[simp] theorem modTwin_power (c : Core) (f : Twin → Twin) : (modTwin c f).power = c.power := rfl
@[simp] theorem modTwin_doe (c : Core) (f : Twin → Twin) : (modTwin c f).doe = c.doe := rfl

/-! ## modPower -/

@[simp] theorem modPower_draws (c : Core) (f : Power → Power) : (modPower c f).draws = c.draws := rfl
@[simp] theorem modPower_aon (c : Core) (f : Power → Power) : (modPower c f).aon = c.aon := rfl
@[simp] theorem modPower_bus (c : Core) (f : Power → Power) : (modPower c f).bus = c.bus := rfl
@[simp] theorem modPower_cfg (c : Core) (f : Power → Power) : (modPower c f).cfg = c.cfg := rfl
@[simp] theorem modPower_reply (c : Core) (f : Power → Power) : (modPower c f).reply = c.reply := rfl
@[simp] theorem modPower_regs (c : Core) (f : Power → Power) : (modPower c f).regs = c.regs := rfl
@[simp] theorem modPower_setupBusy (c : Core) (f : Power → Power) : (modPower c f).setupBusy = c.setupBusy := rfl
@[simp] theorem modPower_setupDone (c : Core) (f : Power → Power) : (modPower c f).setupDone = c.setupDone := rfl
@[simp] theorem modPower_setupRefused (c : Core) (f : Power → Power) : (modPower c f).setupRefused = c.setupRefused := rfl
@[simp] theorem modPower_link (c : Core) (f : Power → Power) : (modPower c f).link = c.link := rfl
@[simp] theorem modPower_rings (c : Core) (f : Power → Power) : (modPower c f).rings = c.rings := rfl
@[simp] theorem modPower_sess (c : Core) (f : Power → Power) : (modPower c f).sess = c.sess := rfl
@[simp] theorem modPower_mem (c : Core) (f : Power → Power) : (modPower c f).mem = c.mem := rfl
@[simp] theorem modPower_obj (c : Core) (f : Power → Power) : (modPower c f).obj = c.obj := rfl
@[simp] theorem modPower_tokRest (c : Core) (f : Power → Power) : (modPower c f).tokRest = c.tokRest := rfl
@[simp] theorem modPower_acctCfg (c : Core) (f : Power → Power) : (modPower c f).acctCfg = c.acctCfg := rfl
@[simp] theorem modPower_sched (c : Core) (f : Power → Power) : (modPower c f).sched = c.sched := rfl
@[simp] theorem modPower_stackTab (c : Core) (f : Power → Power) : (modPower c f).stackTab = c.stackTab := rfl
@[simp] theorem modPower_gov (c : Core) (f : Power → Power) : (modPower c f).gov = c.gov := rfl
@[simp] theorem modPower_levels (c : Core) (f : Power → Power) : (modPower c f).levels = c.levels := rfl
@[simp] theorem modPower_errs (c : Core) (f : Power → Power) : (modPower c f).errs = c.errs := rfl
@[simp] theorem modPower_twin (c : Core) (f : Power → Power) : (modPower c f).twin = c.twin := rfl
@[simp] theorem modPower_ckpt (c : Core) (f : Power → Power) : (modPower c f).ckpt = c.ckpt := rfl
@[simp] theorem modPower_doe (c : Core) (f : Power → Power) : (modPower c f).doe = c.doe := rfl

/-! ## modLevels -/

@[simp] theorem modLevels_draws (c : Core) (die : Bool) (f : Levels → Levels) : (modLevels c die f).draws = c.draws := rfl
@[simp] theorem modLevels_aon (c : Core) (die : Bool) (f : Levels → Levels) : (modLevels c die f).aon = c.aon := rfl
@[simp] theorem modLevels_bus (c : Core) (die : Bool) (f : Levels → Levels) : (modLevels c die f).bus = c.bus := rfl
@[simp] theorem modLevels_cfg (c : Core) (die : Bool) (f : Levels → Levels) : (modLevels c die f).cfg = c.cfg := rfl
@[simp] theorem modLevels_reply (c : Core) (die : Bool) (f : Levels → Levels) : (modLevels c die f).reply = c.reply := rfl
@[simp] theorem modLevels_regs (c : Core) (die : Bool) (f : Levels → Levels) : (modLevels c die f).regs = c.regs := rfl
@[simp] theorem modLevels_setupBusy (c : Core) (die : Bool) (f : Levels → Levels) : (modLevels c die f).setupBusy = c.setupBusy := rfl
@[simp] theorem modLevels_setupDone (c : Core) (die : Bool) (f : Levels → Levels) : (modLevels c die f).setupDone = c.setupDone := rfl
@[simp] theorem modLevels_setupRefused (c : Core) (die : Bool) (f : Levels → Levels) : (modLevels c die f).setupRefused = c.setupRefused := rfl
@[simp] theorem modLevels_link (c : Core) (die : Bool) (f : Levels → Levels) : (modLevels c die f).link = c.link := rfl
@[simp] theorem modLevels_rings (c : Core) (die : Bool) (f : Levels → Levels) : (modLevels c die f).rings = c.rings := rfl
@[simp] theorem modLevels_sess (c : Core) (die : Bool) (f : Levels → Levels) : (modLevels c die f).sess = c.sess := rfl
@[simp] theorem modLevels_mem (c : Core) (die : Bool) (f : Levels → Levels) : (modLevels c die f).mem = c.mem := rfl
@[simp] theorem modLevels_obj (c : Core) (die : Bool) (f : Levels → Levels) : (modLevels c die f).obj = c.obj := rfl
@[simp] theorem modLevels_tokRest (c : Core) (die : Bool) (f : Levels → Levels) : (modLevels c die f).tokRest = c.tokRest := rfl
@[simp] theorem modLevels_acctCfg (c : Core) (die : Bool) (f : Levels → Levels) : (modLevels c die f).acctCfg = c.acctCfg := rfl
@[simp] theorem modLevels_sched (c : Core) (die : Bool) (f : Levels → Levels) : (modLevels c die f).sched = c.sched := rfl
@[simp] theorem modLevels_stackTab (c : Core) (die : Bool) (f : Levels → Levels) : (modLevels c die f).stackTab = c.stackTab := rfl
@[simp] theorem modLevels_gov (c : Core) (die : Bool) (f : Levels → Levels) : (modLevels c die f).gov = c.gov := rfl
@[simp] theorem modLevels_errs (c : Core) (die : Bool) (f : Levels → Levels) : (modLevels c die f).errs = c.errs := rfl
@[simp] theorem modLevels_twin (c : Core) (die : Bool) (f : Levels → Levels) : (modLevels c die f).twin = c.twin := rfl
@[simp] theorem modLevels_ckpt (c : Core) (die : Bool) (f : Levels → Levels) : (modLevels c die f).ckpt = c.ckpt := rfl
@[simp] theorem modLevels_power (c : Core) (die : Bool) (f : Levels → Levels) : (modLevels c die f).power = c.power := rfl
@[simp] theorem modLevels_doe (c : Core) (die : Bool) (f : Levels → Levels) : (modLevels c die f).doe = c.doe := rfl

/-! ## setWin -/

@[simp] theorem setWin_draws (c : Core) (w : Nat) (x : Window) : (setWin c w x).draws = c.draws := rfl
@[simp] theorem setWin_aon (c : Core) (w : Nat) (x : Window) : (setWin c w x).aon = c.aon := rfl
@[simp] theorem setWin_bus (c : Core) (w : Nat) (x : Window) : (setWin c w x).bus = c.bus := rfl
@[simp] theorem setWin_cfg (c : Core) (w : Nat) (x : Window) : (setWin c w x).cfg = c.cfg := rfl
@[simp] theorem setWin_reply (c : Core) (w : Nat) (x : Window) : (setWin c w x).reply = c.reply := rfl
@[simp] theorem setWin_regs (c : Core) (w : Nat) (x : Window) : (setWin c w x).regs = c.regs := rfl
@[simp] theorem setWin_setupBusy (c : Core) (w : Nat) (x : Window) : (setWin c w x).setupBusy = c.setupBusy := rfl
@[simp] theorem setWin_setupDone (c : Core) (w : Nat) (x : Window) : (setWin c w x).setupDone = c.setupDone := rfl
@[simp] theorem setWin_setupRefused (c : Core) (w : Nat) (x : Window) : (setWin c w x).setupRefused = c.setupRefused := rfl
@[simp] theorem setWin_link (c : Core) (w : Nat) (x : Window) : (setWin c w x).link = c.link := rfl
@[simp] theorem setWin_rings (c : Core) (w : Nat) (x : Window) : (setWin c w x).rings = c.rings := rfl
@[simp] theorem setWin_sess (c : Core) (w : Nat) (x : Window) : (setWin c w x).sess = c.sess := rfl
@[simp] theorem setWin_obj (c : Core) (w : Nat) (x : Window) : (setWin c w x).obj = c.obj := rfl
@[simp] theorem setWin_tokRest (c : Core) (w : Nat) (x : Window) : (setWin c w x).tokRest = c.tokRest := rfl
@[simp] theorem setWin_acctCfg (c : Core) (w : Nat) (x : Window) : (setWin c w x).acctCfg = c.acctCfg := rfl
@[simp] theorem setWin_sched (c : Core) (w : Nat) (x : Window) : (setWin c w x).sched = c.sched := rfl
@[simp] theorem setWin_stackTab (c : Core) (w : Nat) (x : Window) : (setWin c w x).stackTab = c.stackTab := rfl
@[simp] theorem setWin_gov (c : Core) (w : Nat) (x : Window) : (setWin c w x).gov = c.gov := rfl
@[simp] theorem setWin_levels (c : Core) (w : Nat) (x : Window) : (setWin c w x).levels = c.levels := rfl
@[simp] theorem setWin_errs (c : Core) (w : Nat) (x : Window) : (setWin c w x).errs = c.errs := rfl
@[simp] theorem setWin_twin (c : Core) (w : Nat) (x : Window) : (setWin c w x).twin = c.twin := rfl
@[simp] theorem setWin_ckpt (c : Core) (w : Nat) (x : Window) : (setWin c w x).ckpt = c.ckpt := rfl
@[simp] theorem setWin_power (c : Core) (w : Nat) (x : Window) : (setWin c w x).power = c.power := rfl
@[simp] theorem setWin_doe (c : Core) (w : Nat) (x : Window) : (setWin c w x).doe = c.doe := rfl

/-! ## setHot -/

@[simp] theorem setHot_draws (c : Core) (die : Bool) (slot n : Nat) : (setHot c die slot n).draws = c.draws := rfl
@[simp] theorem setHot_aon (c : Core) (die : Bool) (slot n : Nat) : (setHot c die slot n).aon = c.aon := rfl
@[simp] theorem setHot_bus (c : Core) (die : Bool) (slot n : Nat) : (setHot c die slot n).bus = c.bus := rfl
@[simp] theorem setHot_cfg (c : Core) (die : Bool) (slot n : Nat) : (setHot c die slot n).cfg = c.cfg := rfl
@[simp] theorem setHot_reply (c : Core) (die : Bool) (slot n : Nat) : (setHot c die slot n).reply = c.reply := rfl
@[simp] theorem setHot_regs (c : Core) (die : Bool) (slot n : Nat) : (setHot c die slot n).regs = c.regs := rfl
@[simp] theorem setHot_setupBusy (c : Core) (die : Bool) (slot n : Nat) : (setHot c die slot n).setupBusy = c.setupBusy := rfl
@[simp] theorem setHot_setupDone (c : Core) (die : Bool) (slot n : Nat) : (setHot c die slot n).setupDone = c.setupDone := rfl
@[simp] theorem setHot_setupRefused (c : Core) (die : Bool) (slot n : Nat) : (setHot c die slot n).setupRefused = c.setupRefused := rfl
@[simp] theorem setHot_link (c : Core) (die : Bool) (slot n : Nat) : (setHot c die slot n).link = c.link := rfl
@[simp] theorem setHot_rings (c : Core) (die : Bool) (slot n : Nat) : (setHot c die slot n).rings = c.rings := rfl
@[simp] theorem setHot_sess (c : Core) (die : Bool) (slot n : Nat) : (setHot c die slot n).sess = c.sess := rfl
@[simp] theorem setHot_obj (c : Core) (die : Bool) (slot n : Nat) : (setHot c die slot n).obj = c.obj := rfl
@[simp] theorem setHot_tokRest (c : Core) (die : Bool) (slot n : Nat) : (setHot c die slot n).tokRest = c.tokRest := rfl
@[simp] theorem setHot_acctCfg (c : Core) (die : Bool) (slot n : Nat) : (setHot c die slot n).acctCfg = c.acctCfg := rfl
@[simp] theorem setHot_sched (c : Core) (die : Bool) (slot n : Nat) : (setHot c die slot n).sched = c.sched := rfl
@[simp] theorem setHot_stackTab (c : Core) (die : Bool) (slot n : Nat) : (setHot c die slot n).stackTab = c.stackTab := rfl
@[simp] theorem setHot_gov (c : Core) (die : Bool) (slot n : Nat) : (setHot c die slot n).gov = c.gov := rfl
@[simp] theorem setHot_levels (c : Core) (die : Bool) (slot n : Nat) : (setHot c die slot n).levels = c.levels := rfl
@[simp] theorem setHot_errs (c : Core) (die : Bool) (slot n : Nat) : (setHot c die slot n).errs = c.errs := rfl
@[simp] theorem setHot_twin (c : Core) (die : Bool) (slot n : Nat) : (setHot c die slot n).twin = c.twin := rfl
@[simp] theorem setHot_ckpt (c : Core) (die : Bool) (slot n : Nat) : (setHot c die slot n).ckpt = c.ckpt := rfl
@[simp] theorem setHot_power (c : Core) (die : Bool) (slot n : Nat) : (setHot c die slot n).power = c.power := rfl
@[simp] theorem setHot_doe (c : Core) (die : Bool) (slot n : Nat) : (setHot c die slot n).doe = c.doe := rfl

/-! ## putIndex -/

theorem takeFree_frame (c : Core) (die : Bool) (n : Nat) : takeFree c die n = { c with mem := (takeFree c die n).mem } := by
  simp only [takeFree]; split <;> rfl

theorem giveFree_frame (c : Core) (die : Bool) (n : Nat) : giveFree c die n = { c with mem := (giveFree c die n).mem } := by
  simp only [giveFree]; split <;> rfl

theorem indexFramesTo_frame (ix : Map SheafIx) (c : Core) (die : Bool) :
    indexFramesTo ix c die = { c with mem := (indexFramesTo ix c die).mem } := by
  simp only [indexFramesTo]
  rw [giveFree_frame, takeFree_frame]

theorem putIndex_frame (c : Core) (ix : Map SheafIx) : putIndex c ix = { c with mem := (putIndex c ix).mem } := by
  simp only [putIndex, List.foldl]
  rw [indexFramesTo_frame _ _ true, indexFramesTo_frame _ _ false]

@[simp] theorem putIndex_draws (c : Core) (ix : Map SheafIx) : (putIndex c ix).draws = c.draws := by rw [putIndex_frame]
@[simp] theorem putIndex_aon (c : Core) (ix : Map SheafIx) : (putIndex c ix).aon = c.aon := by rw [putIndex_frame]
@[simp] theorem putIndex_bus (c : Core) (ix : Map SheafIx) : (putIndex c ix).bus = c.bus := by rw [putIndex_frame]
@[simp] theorem putIndex_cfg (c : Core) (ix : Map SheafIx) : (putIndex c ix).cfg = c.cfg := by rw [putIndex_frame]
@[simp] theorem putIndex_reply (c : Core) (ix : Map SheafIx) : (putIndex c ix).reply = c.reply := by rw [putIndex_frame]
@[simp] theorem putIndex_regs (c : Core) (ix : Map SheafIx) : (putIndex c ix).regs = c.regs := by rw [putIndex_frame]
@[simp] theorem putIndex_setupBusy (c : Core) (ix : Map SheafIx) : (putIndex c ix).setupBusy = c.setupBusy := by rw [putIndex_frame]
@[simp] theorem putIndex_setupDone (c : Core) (ix : Map SheafIx) : (putIndex c ix).setupDone = c.setupDone := by rw [putIndex_frame]
@[simp] theorem putIndex_setupRefused (c : Core) (ix : Map SheafIx) : (putIndex c ix).setupRefused = c.setupRefused := by rw [putIndex_frame]
@[simp] theorem putIndex_link (c : Core) (ix : Map SheafIx) : (putIndex c ix).link = c.link := by rw [putIndex_frame]
@[simp] theorem putIndex_rings (c : Core) (ix : Map SheafIx) : (putIndex c ix).rings = c.rings := by rw [putIndex_frame]
@[simp] theorem putIndex_sess (c : Core) (ix : Map SheafIx) : (putIndex c ix).sess = c.sess := by rw [putIndex_frame]
@[simp] theorem putIndex_obj (c : Core) (ix : Map SheafIx) : (putIndex c ix).obj = c.obj := by rw [putIndex_frame]
@[simp] theorem putIndex_tokRest (c : Core) (ix : Map SheafIx) : (putIndex c ix).tokRest = c.tokRest := by rw [putIndex_frame]
@[simp] theorem putIndex_acctCfg (c : Core) (ix : Map SheafIx) : (putIndex c ix).acctCfg = c.acctCfg := by rw [putIndex_frame]
@[simp] theorem putIndex_sched (c : Core) (ix : Map SheafIx) : (putIndex c ix).sched = c.sched := by rw [putIndex_frame]
@[simp] theorem putIndex_stackTab (c : Core) (ix : Map SheafIx) : (putIndex c ix).stackTab = c.stackTab := by rw [putIndex_frame]
@[simp] theorem putIndex_gov (c : Core) (ix : Map SheafIx) : (putIndex c ix).gov = c.gov := by rw [putIndex_frame]
@[simp] theorem putIndex_levels (c : Core) (ix : Map SheafIx) : (putIndex c ix).levels = c.levels := by rw [putIndex_frame]
@[simp] theorem putIndex_errs (c : Core) (ix : Map SheafIx) : (putIndex c ix).errs = c.errs := by rw [putIndex_frame]
@[simp] theorem putIndex_twin (c : Core) (ix : Map SheafIx) : (putIndex c ix).twin = c.twin := by rw [putIndex_frame]
@[simp] theorem putIndex_ckpt (c : Core) (ix : Map SheafIx) : (putIndex c ix).ckpt = c.ckpt := by rw [putIndex_frame]
@[simp] theorem putIndex_power (c : Core) (ix : Map SheafIx) : (putIndex c ix).power = c.power := by rw [putIndex_frame]
@[simp] theorem putIndex_doe (c : Core) (ix : Map SheafIx) : (putIndex c ix).doe = c.doe := by rw [putIndex_frame]

/-! ## setIndexObj -/

@[simp] theorem setIndexObj_draws (c : Core) (id : Nat) (x : Index) : (setIndexObj c id x).draws = c.draws := rfl
@[simp] theorem setIndexObj_aon (c : Core) (id : Nat) (x : Index) : (setIndexObj c id x).aon = c.aon := rfl
@[simp] theorem setIndexObj_bus (c : Core) (id : Nat) (x : Index) : (setIndexObj c id x).bus = c.bus := rfl
@[simp] theorem setIndexObj_cfg (c : Core) (id : Nat) (x : Index) : (setIndexObj c id x).cfg = c.cfg := rfl
@[simp] theorem setIndexObj_reply (c : Core) (id : Nat) (x : Index) : (setIndexObj c id x).reply = c.reply := rfl
@[simp] theorem setIndexObj_regs (c : Core) (id : Nat) (x : Index) : (setIndexObj c id x).regs = c.regs := rfl
@[simp] theorem setIndexObj_setupBusy (c : Core) (id : Nat) (x : Index) : (setIndexObj c id x).setupBusy = c.setupBusy := rfl
@[simp] theorem setIndexObj_setupDone (c : Core) (id : Nat) (x : Index) : (setIndexObj c id x).setupDone = c.setupDone := rfl
@[simp] theorem setIndexObj_setupRefused (c : Core) (id : Nat) (x : Index) : (setIndexObj c id x).setupRefused = c.setupRefused := rfl
@[simp] theorem setIndexObj_link (c : Core) (id : Nat) (x : Index) : (setIndexObj c id x).link = c.link := rfl
@[simp] theorem setIndexObj_rings (c : Core) (id : Nat) (x : Index) : (setIndexObj c id x).rings = c.rings := rfl
@[simp] theorem setIndexObj_sess (c : Core) (id : Nat) (x : Index) : (setIndexObj c id x).sess = c.sess := rfl
@[simp] theorem setIndexObj_mem (c : Core) (id : Nat) (x : Index) : (setIndexObj c id x).mem = c.mem := rfl
@[simp] theorem setIndexObj_tokRest (c : Core) (id : Nat) (x : Index) : (setIndexObj c id x).tokRest = c.tokRest := rfl
@[simp] theorem setIndexObj_acctCfg (c : Core) (id : Nat) (x : Index) : (setIndexObj c id x).acctCfg = c.acctCfg := rfl
@[simp] theorem setIndexObj_sched (c : Core) (id : Nat) (x : Index) : (setIndexObj c id x).sched = c.sched := rfl
@[simp] theorem setIndexObj_stackTab (c : Core) (id : Nat) (x : Index) : (setIndexObj c id x).stackTab = c.stackTab := rfl
@[simp] theorem setIndexObj_gov (c : Core) (id : Nat) (x : Index) : (setIndexObj c id x).gov = c.gov := rfl
@[simp] theorem setIndexObj_levels (c : Core) (id : Nat) (x : Index) : (setIndexObj c id x).levels = c.levels := rfl
@[simp] theorem setIndexObj_errs (c : Core) (id : Nat) (x : Index) : (setIndexObj c id x).errs = c.errs := rfl
@[simp] theorem setIndexObj_twin (c : Core) (id : Nat) (x : Index) : (setIndexObj c id x).twin = c.twin := rfl
@[simp] theorem setIndexObj_ckpt (c : Core) (id : Nat) (x : Index) : (setIndexObj c id x).ckpt = c.ckpt := rfl
@[simp] theorem setIndexObj_power (c : Core) (id : Nat) (x : Index) : (setIndexObj c id x).power = c.power := rfl
@[simp] theorem setIndexObj_doe (c : Core) (id : Nat) (x : Index) : (setIndexObj c id x).doe = c.doe := rfl

/-! ## setTable -/

@[simp] theorem setTable_draws (c : Core) (id : Nat) (x : Table) : (setTable c id x).draws = c.draws := rfl
@[simp] theorem setTable_aon (c : Core) (id : Nat) (x : Table) : (setTable c id x).aon = c.aon := rfl
@[simp] theorem setTable_bus (c : Core) (id : Nat) (x : Table) : (setTable c id x).bus = c.bus := rfl
@[simp] theorem setTable_cfg (c : Core) (id : Nat) (x : Table) : (setTable c id x).cfg = c.cfg := rfl
@[simp] theorem setTable_reply (c : Core) (id : Nat) (x : Table) : (setTable c id x).reply = c.reply := rfl
@[simp] theorem setTable_regs (c : Core) (id : Nat) (x : Table) : (setTable c id x).regs = c.regs := rfl
@[simp] theorem setTable_setupBusy (c : Core) (id : Nat) (x : Table) : (setTable c id x).setupBusy = c.setupBusy := rfl
@[simp] theorem setTable_setupDone (c : Core) (id : Nat) (x : Table) : (setTable c id x).setupDone = c.setupDone := rfl
@[simp] theorem setTable_setupRefused (c : Core) (id : Nat) (x : Table) : (setTable c id x).setupRefused = c.setupRefused := rfl
@[simp] theorem setTable_link (c : Core) (id : Nat) (x : Table) : (setTable c id x).link = c.link := rfl
@[simp] theorem setTable_rings (c : Core) (id : Nat) (x : Table) : (setTable c id x).rings = c.rings := rfl
@[simp] theorem setTable_sess (c : Core) (id : Nat) (x : Table) : (setTable c id x).sess = c.sess := rfl
@[simp] theorem setTable_mem (c : Core) (id : Nat) (x : Table) : (setTable c id x).mem = c.mem := rfl
@[simp] theorem setTable_tokRest (c : Core) (id : Nat) (x : Table) : (setTable c id x).tokRest = c.tokRest := rfl
@[simp] theorem setTable_acctCfg (c : Core) (id : Nat) (x : Table) : (setTable c id x).acctCfg = c.acctCfg := rfl
@[simp] theorem setTable_sched (c : Core) (id : Nat) (x : Table) : (setTable c id x).sched = c.sched := rfl
@[simp] theorem setTable_stackTab (c : Core) (id : Nat) (x : Table) : (setTable c id x).stackTab = c.stackTab := rfl
@[simp] theorem setTable_gov (c : Core) (id : Nat) (x : Table) : (setTable c id x).gov = c.gov := rfl
@[simp] theorem setTable_levels (c : Core) (id : Nat) (x : Table) : (setTable c id x).levels = c.levels := rfl
@[simp] theorem setTable_errs (c : Core) (id : Nat) (x : Table) : (setTable c id x).errs = c.errs := rfl
@[simp] theorem setTable_twin (c : Core) (id : Nat) (x : Table) : (setTable c id x).twin = c.twin := rfl
@[simp] theorem setTable_ckpt (c : Core) (id : Nat) (x : Table) : (setTable c id x).ckpt = c.ckpt := rfl
@[simp] theorem setTable_power (c : Core) (id : Nat) (x : Table) : (setTable c id x).power = c.power := rfl
@[simp] theorem setTable_doe (c : Core) (id : Nat) (x : Table) : (setTable c id x).doe = c.doe := rfl

/-! ## setAcct -/

@[simp] theorem setAcct_draws (c : Core) (die : Bool) (a : Nat) (x : Acct) : (setAcct c die a x).draws = c.draws := rfl
@[simp] theorem setAcct_aon (c : Core) (die : Bool) (a : Nat) (x : Acct) : (setAcct c die a x).aon = c.aon := rfl
@[simp] theorem setAcct_bus (c : Core) (die : Bool) (a : Nat) (x : Acct) : (setAcct c die a x).bus = c.bus := rfl
@[simp] theorem setAcct_cfg (c : Core) (die : Bool) (a : Nat) (x : Acct) : (setAcct c die a x).cfg = c.cfg := rfl
@[simp] theorem setAcct_reply (c : Core) (die : Bool) (a : Nat) (x : Acct) : (setAcct c die a x).reply = c.reply := rfl
@[simp] theorem setAcct_regs (c : Core) (die : Bool) (a : Nat) (x : Acct) : (setAcct c die a x).regs = c.regs := rfl
@[simp] theorem setAcct_setupBusy (c : Core) (die : Bool) (a : Nat) (x : Acct) : (setAcct c die a x).setupBusy = c.setupBusy := rfl
@[simp] theorem setAcct_setupDone (c : Core) (die : Bool) (a : Nat) (x : Acct) : (setAcct c die a x).setupDone = c.setupDone := rfl
@[simp] theorem setAcct_setupRefused (c : Core) (die : Bool) (a : Nat) (x : Acct) : (setAcct c die a x).setupRefused = c.setupRefused := rfl
@[simp] theorem setAcct_link (c : Core) (die : Bool) (a : Nat) (x : Acct) : (setAcct c die a x).link = c.link := rfl
@[simp] theorem setAcct_rings (c : Core) (die : Bool) (a : Nat) (x : Acct) : (setAcct c die a x).rings = c.rings := rfl
@[simp] theorem setAcct_sess (c : Core) (die : Bool) (a : Nat) (x : Acct) : (setAcct c die a x).sess = c.sess := rfl
@[simp] theorem setAcct_mem (c : Core) (die : Bool) (a : Nat) (x : Acct) : (setAcct c die a x).mem = c.mem := rfl
@[simp] theorem setAcct_obj (c : Core) (die : Bool) (a : Nat) (x : Acct) : (setAcct c die a x).obj = c.obj := rfl
@[simp] theorem setAcct_tokRest (c : Core) (die : Bool) (a : Nat) (x : Acct) : (setAcct c die a x).tokRest = c.tokRest := rfl
@[simp] theorem setAcct_acctCfg (c : Core) (die : Bool) (a : Nat) (x : Acct) : (setAcct c die a x).acctCfg = c.acctCfg := rfl
@[simp] theorem setAcct_stackTab (c : Core) (die : Bool) (a : Nat) (x : Acct) : (setAcct c die a x).stackTab = c.stackTab := rfl
@[simp] theorem setAcct_gov (c : Core) (die : Bool) (a : Nat) (x : Acct) : (setAcct c die a x).gov = c.gov := rfl
@[simp] theorem setAcct_levels (c : Core) (die : Bool) (a : Nat) (x : Acct) : (setAcct c die a x).levels = c.levels := rfl
@[simp] theorem setAcct_errs (c : Core) (die : Bool) (a : Nat) (x : Acct) : (setAcct c die a x).errs = c.errs := rfl
@[simp] theorem setAcct_twin (c : Core) (die : Bool) (a : Nat) (x : Acct) : (setAcct c die a x).twin = c.twin := rfl
@[simp] theorem setAcct_ckpt (c : Core) (die : Bool) (a : Nat) (x : Acct) : (setAcct c die a x).ckpt = c.ckpt := rfl
@[simp] theorem setAcct_power (c : Core) (die : Bool) (a : Nat) (x : Acct) : (setAcct c die a x).power = c.power := rfl
@[simp] theorem setAcct_doe (c : Core) (die : Bool) (a : Nat) (x : Acct) : (setAcct c die a x).doe = c.doe := rfl

/-! ## setEpoch -/

@[simp] theorem setEpoch_draws (c : Core) (ep : Option Epoch) : (setEpoch c ep).draws = c.draws := rfl
@[simp] theorem setEpoch_aon (c : Core) (ep : Option Epoch) : (setEpoch c ep).aon = c.aon := rfl
@[simp] theorem setEpoch_bus (c : Core) (ep : Option Epoch) : (setEpoch c ep).bus = c.bus := rfl
@[simp] theorem setEpoch_cfg (c : Core) (ep : Option Epoch) : (setEpoch c ep).cfg = c.cfg := rfl
@[simp] theorem setEpoch_reply (c : Core) (ep : Option Epoch) : (setEpoch c ep).reply = c.reply := rfl
@[simp] theorem setEpoch_regs (c : Core) (ep : Option Epoch) : (setEpoch c ep).regs = c.regs := rfl
@[simp] theorem setEpoch_setupBusy (c : Core) (ep : Option Epoch) : (setEpoch c ep).setupBusy = c.setupBusy := rfl
@[simp] theorem setEpoch_setupDone (c : Core) (ep : Option Epoch) : (setEpoch c ep).setupDone = c.setupDone := rfl
@[simp] theorem setEpoch_setupRefused (c : Core) (ep : Option Epoch) : (setEpoch c ep).setupRefused = c.setupRefused := rfl
@[simp] theorem setEpoch_link (c : Core) (ep : Option Epoch) : (setEpoch c ep).link = c.link := rfl
@[simp] theorem setEpoch_rings (c : Core) (ep : Option Epoch) : (setEpoch c ep).rings = c.rings := rfl
@[simp] theorem setEpoch_sess (c : Core) (ep : Option Epoch) : (setEpoch c ep).sess = c.sess := rfl
@[simp] theorem setEpoch_mem (c : Core) (ep : Option Epoch) : (setEpoch c ep).mem = c.mem := rfl
@[simp] theorem setEpoch_obj (c : Core) (ep : Option Epoch) : (setEpoch c ep).obj = c.obj := rfl
@[simp] theorem setEpoch_tokRest (c : Core) (ep : Option Epoch) : (setEpoch c ep).tokRest = c.tokRest := rfl
@[simp] theorem setEpoch_acctCfg (c : Core) (ep : Option Epoch) : (setEpoch c ep).acctCfg = c.acctCfg := rfl
@[simp] theorem setEpoch_sched (c : Core) (ep : Option Epoch) : (setEpoch c ep).sched = c.sched := rfl
@[simp] theorem setEpoch_stackTab (c : Core) (ep : Option Epoch) : (setEpoch c ep).stackTab = c.stackTab := rfl
@[simp] theorem setEpoch_gov (c : Core) (ep : Option Epoch) : (setEpoch c ep).gov = c.gov := rfl
@[simp] theorem setEpoch_levels (c : Core) (ep : Option Epoch) : (setEpoch c ep).levels = c.levels := rfl
@[simp] theorem setEpoch_errs (c : Core) (ep : Option Epoch) : (setEpoch c ep).errs = c.errs := rfl
@[simp] theorem setEpoch_twin (c : Core) (ep : Option Epoch) : (setEpoch c ep).twin = c.twin := rfl
@[simp] theorem setEpoch_power (c : Core) (ep : Option Epoch) : (setEpoch c ep).power = c.power := rfl
@[simp] theorem setEpoch_doe (c : Core) (ep : Option Epoch) : (setEpoch c ep).doe = c.doe := rfl

/-! ## modRoom -/

@[simp] theorem modRoom_draws (c : Core) (p : Nat) (f : Nat → Nat) : (modRoom c p f).draws = c.draws := rfl
@[simp] theorem modRoom_aon (c : Core) (p : Nat) (f : Nat → Nat) : (modRoom c p f).aon = c.aon := rfl
@[simp] theorem modRoom_bus (c : Core) (p : Nat) (f : Nat → Nat) : (modRoom c p f).bus = c.bus := rfl
@[simp] theorem modRoom_cfg (c : Core) (p : Nat) (f : Nat → Nat) : (modRoom c p f).cfg = c.cfg := rfl
@[simp] theorem modRoom_reply (c : Core) (p : Nat) (f : Nat → Nat) : (modRoom c p f).reply = c.reply := rfl
@[simp] theorem modRoom_regs (c : Core) (p : Nat) (f : Nat → Nat) : (modRoom c p f).regs = c.regs := rfl
@[simp] theorem modRoom_setupBusy (c : Core) (p : Nat) (f : Nat → Nat) : (modRoom c p f).setupBusy = c.setupBusy := rfl
@[simp] theorem modRoom_setupDone (c : Core) (p : Nat) (f : Nat → Nat) : (modRoom c p f).setupDone = c.setupDone := rfl
@[simp] theorem modRoom_setupRefused (c : Core) (p : Nat) (f : Nat → Nat) : (modRoom c p f).setupRefused = c.setupRefused := rfl
@[simp] theorem modRoom_link (c : Core) (p : Nat) (f : Nat → Nat) : (modRoom c p f).link = c.link := rfl
@[simp] theorem modRoom_rings (c : Core) (p : Nat) (f : Nat → Nat) : (modRoom c p f).rings = c.rings := rfl
@[simp] theorem modRoom_sess (c : Core) (p : Nat) (f : Nat → Nat) : (modRoom c p f).sess = c.sess := rfl
@[simp] theorem modRoom_obj (c : Core) (p : Nat) (f : Nat → Nat) : (modRoom c p f).obj = c.obj := rfl
@[simp] theorem modRoom_tokRest (c : Core) (p : Nat) (f : Nat → Nat) : (modRoom c p f).tokRest = c.tokRest := rfl
@[simp] theorem modRoom_acctCfg (c : Core) (p : Nat) (f : Nat → Nat) : (modRoom c p f).acctCfg = c.acctCfg := rfl
@[simp] theorem modRoom_sched (c : Core) (p : Nat) (f : Nat → Nat) : (modRoom c p f).sched = c.sched := rfl
@[simp] theorem modRoom_stackTab (c : Core) (p : Nat) (f : Nat → Nat) : (modRoom c p f).stackTab = c.stackTab := rfl
@[simp] theorem modRoom_gov (c : Core) (p : Nat) (f : Nat → Nat) : (modRoom c p f).gov = c.gov := rfl
@[simp] theorem modRoom_levels (c : Core) (p : Nat) (f : Nat → Nat) : (modRoom c p f).levels = c.levels := rfl
@[simp] theorem modRoom_errs (c : Core) (p : Nat) (f : Nat → Nat) : (modRoom c p f).errs = c.errs := rfl
@[simp] theorem modRoom_twin (c : Core) (p : Nat) (f : Nat → Nat) : (modRoom c p f).twin = c.twin := rfl
@[simp] theorem modRoom_ckpt (c : Core) (p : Nat) (f : Nat → Nat) : (modRoom c p f).ckpt = c.ckpt := rfl
@[simp] theorem modRoom_power (c : Core) (p : Nat) (f : Nat → Nat) : (modRoom c p f).power = c.power := rfl
@[simp] theorem modRoom_doe (c : Core) (p : Nat) (f : Nat → Nat) : (modRoom c p f).doe = c.doe := rfl

/-! ## modBulk -/

@[simp] theorem modBulk_draws (c : Core) (p : Nat) (f : Nat → Nat) : (modBulk c p f).draws = c.draws := rfl
@[simp] theorem modBulk_aon (c : Core) (p : Nat) (f : Nat → Nat) : (modBulk c p f).aon = c.aon := rfl
@[simp] theorem modBulk_bus (c : Core) (p : Nat) (f : Nat → Nat) : (modBulk c p f).bus = c.bus := rfl
@[simp] theorem modBulk_cfg (c : Core) (p : Nat) (f : Nat → Nat) : (modBulk c p f).cfg = c.cfg := rfl
@[simp] theorem modBulk_reply (c : Core) (p : Nat) (f : Nat → Nat) : (modBulk c p f).reply = c.reply := rfl
@[simp] theorem modBulk_regs (c : Core) (p : Nat) (f : Nat → Nat) : (modBulk c p f).regs = c.regs := rfl
@[simp] theorem modBulk_setupBusy (c : Core) (p : Nat) (f : Nat → Nat) : (modBulk c p f).setupBusy = c.setupBusy := rfl
@[simp] theorem modBulk_setupDone (c : Core) (p : Nat) (f : Nat → Nat) : (modBulk c p f).setupDone = c.setupDone := rfl
@[simp] theorem modBulk_setupRefused (c : Core) (p : Nat) (f : Nat → Nat) : (modBulk c p f).setupRefused = c.setupRefused := rfl
@[simp] theorem modBulk_link (c : Core) (p : Nat) (f : Nat → Nat) : (modBulk c p f).link = c.link := rfl
@[simp] theorem modBulk_rings (c : Core) (p : Nat) (f : Nat → Nat) : (modBulk c p f).rings = c.rings := rfl
@[simp] theorem modBulk_sess (c : Core) (p : Nat) (f : Nat → Nat) : (modBulk c p f).sess = c.sess := rfl
@[simp] theorem modBulk_obj (c : Core) (p : Nat) (f : Nat → Nat) : (modBulk c p f).obj = c.obj := rfl
@[simp] theorem modBulk_tokRest (c : Core) (p : Nat) (f : Nat → Nat) : (modBulk c p f).tokRest = c.tokRest := rfl
@[simp] theorem modBulk_acctCfg (c : Core) (p : Nat) (f : Nat → Nat) : (modBulk c p f).acctCfg = c.acctCfg := rfl
@[simp] theorem modBulk_sched (c : Core) (p : Nat) (f : Nat → Nat) : (modBulk c p f).sched = c.sched := rfl
@[simp] theorem modBulk_stackTab (c : Core) (p : Nat) (f : Nat → Nat) : (modBulk c p f).stackTab = c.stackTab := rfl
@[simp] theorem modBulk_gov (c : Core) (p : Nat) (f : Nat → Nat) : (modBulk c p f).gov = c.gov := rfl
@[simp] theorem modBulk_levels (c : Core) (p : Nat) (f : Nat → Nat) : (modBulk c p f).levels = c.levels := rfl
@[simp] theorem modBulk_errs (c : Core) (p : Nat) (f : Nat → Nat) : (modBulk c p f).errs = c.errs := rfl
@[simp] theorem modBulk_twin (c : Core) (p : Nat) (f : Nat → Nat) : (modBulk c p f).twin = c.twin := rfl
@[simp] theorem modBulk_ckpt (c : Core) (p : Nat) (f : Nat → Nat) : (modBulk c p f).ckpt = c.ckpt := rfl
@[simp] theorem modBulk_power (c : Core) (p : Nat) (f : Nat → Nat) : (modBulk c p f).power = c.power := rfl
@[simp] theorem modBulk_doe (c : Core) (p : Nat) (f : Nat → Nat) : (modBulk c p f).doe = c.doe := rfl

/-! ## reserveFree -/

@[simp] theorem reserveFree_draws (c : Core) (die : Bool) (n : Nat) : (reserveFree c die n).draws = c.draws := rfl
@[simp] theorem reserveFree_aon (c : Core) (die : Bool) (n : Nat) : (reserveFree c die n).aon = c.aon := rfl
@[simp] theorem reserveFree_bus (c : Core) (die : Bool) (n : Nat) : (reserveFree c die n).bus = c.bus := rfl
@[simp] theorem reserveFree_cfg (c : Core) (die : Bool) (n : Nat) : (reserveFree c die n).cfg = c.cfg := rfl
@[simp] theorem reserveFree_reply (c : Core) (die : Bool) (n : Nat) : (reserveFree c die n).reply = c.reply := rfl
@[simp] theorem reserveFree_regs (c : Core) (die : Bool) (n : Nat) : (reserveFree c die n).regs = c.regs := rfl
@[simp] theorem reserveFree_setupBusy (c : Core) (die : Bool) (n : Nat) : (reserveFree c die n).setupBusy = c.setupBusy := rfl
@[simp] theorem reserveFree_setupDone (c : Core) (die : Bool) (n : Nat) : (reserveFree c die n).setupDone = c.setupDone := rfl
@[simp] theorem reserveFree_setupRefused (c : Core) (die : Bool) (n : Nat) : (reserveFree c die n).setupRefused = c.setupRefused := rfl
@[simp] theorem reserveFree_link (c : Core) (die : Bool) (n : Nat) : (reserveFree c die n).link = c.link := rfl
@[simp] theorem reserveFree_rings (c : Core) (die : Bool) (n : Nat) : (reserveFree c die n).rings = c.rings := rfl
@[simp] theorem reserveFree_sess (c : Core) (die : Bool) (n : Nat) : (reserveFree c die n).sess = c.sess := rfl
@[simp] theorem reserveFree_obj (c : Core) (die : Bool) (n : Nat) : (reserveFree c die n).obj = c.obj := rfl
@[simp] theorem reserveFree_tokRest (c : Core) (die : Bool) (n : Nat) : (reserveFree c die n).tokRest = c.tokRest := rfl
@[simp] theorem reserveFree_acctCfg (c : Core) (die : Bool) (n : Nat) : (reserveFree c die n).acctCfg = c.acctCfg := rfl
@[simp] theorem reserveFree_sched (c : Core) (die : Bool) (n : Nat) : (reserveFree c die n).sched = c.sched := rfl
@[simp] theorem reserveFree_stackTab (c : Core) (die : Bool) (n : Nat) : (reserveFree c die n).stackTab = c.stackTab := rfl
@[simp] theorem reserveFree_gov (c : Core) (die : Bool) (n : Nat) : (reserveFree c die n).gov = c.gov := rfl
@[simp] theorem reserveFree_levels (c : Core) (die : Bool) (n : Nat) : (reserveFree c die n).levels = c.levels := rfl
@[simp] theorem reserveFree_errs (c : Core) (die : Bool) (n : Nat) : (reserveFree c die n).errs = c.errs := rfl
@[simp] theorem reserveFree_twin (c : Core) (die : Bool) (n : Nat) : (reserveFree c die n).twin = c.twin := rfl
@[simp] theorem reserveFree_ckpt (c : Core) (die : Bool) (n : Nat) : (reserveFree c die n).ckpt = c.ckpt := rfl
@[simp] theorem reserveFree_power (c : Core) (die : Bool) (n : Nat) : (reserveFree c die n).power = c.power := rfl
@[simp] theorem reserveFree_doe (c : Core) (die : Bool) (n : Nat) : (reserveFree c die n).doe = c.doe := rfl

/-! ## setPage -/

@[simp] theorem setPage_draws (c : Core) (die : Bool) (page : Nat) (x : XPage) : (setPage c die page x).draws = c.draws := rfl
@[simp] theorem setPage_aon (c : Core) (die : Bool) (page : Nat) (x : XPage) : (setPage c die page x).aon = c.aon := rfl
@[simp] theorem setPage_bus (c : Core) (die : Bool) (page : Nat) (x : XPage) : (setPage c die page x).bus = c.bus := rfl
@[simp] theorem setPage_cfg (c : Core) (die : Bool) (page : Nat) (x : XPage) : (setPage c die page x).cfg = c.cfg := rfl
@[simp] theorem setPage_reply (c : Core) (die : Bool) (page : Nat) (x : XPage) : (setPage c die page x).reply = c.reply := rfl
@[simp] theorem setPage_regs (c : Core) (die : Bool) (page : Nat) (x : XPage) : (setPage c die page x).regs = c.regs := rfl
@[simp] theorem setPage_setupBusy (c : Core) (die : Bool) (page : Nat) (x : XPage) : (setPage c die page x).setupBusy = c.setupBusy := rfl
@[simp] theorem setPage_setupDone (c : Core) (die : Bool) (page : Nat) (x : XPage) : (setPage c die page x).setupDone = c.setupDone := rfl
@[simp] theorem setPage_setupRefused (c : Core) (die : Bool) (page : Nat) (x : XPage) : (setPage c die page x).setupRefused = c.setupRefused := rfl
@[simp] theorem setPage_link (c : Core) (die : Bool) (page : Nat) (x : XPage) : (setPage c die page x).link = c.link := rfl
@[simp] theorem setPage_rings (c : Core) (die : Bool) (page : Nat) (x : XPage) : (setPage c die page x).rings = c.rings := rfl
@[simp] theorem setPage_sess (c : Core) (die : Bool) (page : Nat) (x : XPage) : (setPage c die page x).sess = c.sess := rfl
@[simp] theorem setPage_obj (c : Core) (die : Bool) (page : Nat) (x : XPage) : (setPage c die page x).obj = c.obj := rfl
@[simp] theorem setPage_tokRest (c : Core) (die : Bool) (page : Nat) (x : XPage) : (setPage c die page x).tokRest = c.tokRest := rfl
@[simp] theorem setPage_acctCfg (c : Core) (die : Bool) (page : Nat) (x : XPage) : (setPage c die page x).acctCfg = c.acctCfg := rfl
@[simp] theorem setPage_sched (c : Core) (die : Bool) (page : Nat) (x : XPage) : (setPage c die page x).sched = c.sched := rfl
@[simp] theorem setPage_stackTab (c : Core) (die : Bool) (page : Nat) (x : XPage) : (setPage c die page x).stackTab = c.stackTab := rfl
@[simp] theorem setPage_gov (c : Core) (die : Bool) (page : Nat) (x : XPage) : (setPage c die page x).gov = c.gov := rfl
@[simp] theorem setPage_levels (c : Core) (die : Bool) (page : Nat) (x : XPage) : (setPage c die page x).levels = c.levels := rfl
@[simp] theorem setPage_errs (c : Core) (die : Bool) (page : Nat) (x : XPage) : (setPage c die page x).errs = c.errs := rfl
@[simp] theorem setPage_twin (c : Core) (die : Bool) (page : Nat) (x : XPage) : (setPage c die page x).twin = c.twin := rfl
@[simp] theorem setPage_ckpt (c : Core) (die : Bool) (page : Nat) (x : XPage) : (setPage c die page x).ckpt = c.ckpt := rfl
@[simp] theorem setPage_power (c : Core) (die : Bool) (page : Nat) (x : XPage) : (setPage c die page x).power = c.power := rfl
@[simp] theorem setPage_doe (c : Core) (die : Bool) (page : Nat) (x : XPage) : (setPage c die page x).doe = c.doe := rfl

/-! ## sendMsg -/

@[simp] theorem sendMsg_draws (c : Core) (m : TwinMsg) : (sendMsg c m).draws = c.draws := rfl
@[simp] theorem sendMsg_aon (c : Core) (m : TwinMsg) : (sendMsg c m).aon = c.aon := rfl
@[simp] theorem sendMsg_bus (c : Core) (m : TwinMsg) : (sendMsg c m).bus = c.bus := rfl
@[simp] theorem sendMsg_cfg (c : Core) (m : TwinMsg) : (sendMsg c m).cfg = c.cfg := rfl
@[simp] theorem sendMsg_reply (c : Core) (m : TwinMsg) : (sendMsg c m).reply = c.reply := rfl
@[simp] theorem sendMsg_regs (c : Core) (m : TwinMsg) : (sendMsg c m).regs = c.regs := rfl
@[simp] theorem sendMsg_setupBusy (c : Core) (m : TwinMsg) : (sendMsg c m).setupBusy = c.setupBusy := rfl
@[simp] theorem sendMsg_setupDone (c : Core) (m : TwinMsg) : (sendMsg c m).setupDone = c.setupDone := rfl
@[simp] theorem sendMsg_setupRefused (c : Core) (m : TwinMsg) : (sendMsg c m).setupRefused = c.setupRefused := rfl
@[simp] theorem sendMsg_link (c : Core) (m : TwinMsg) : (sendMsg c m).link = c.link := rfl
@[simp] theorem sendMsg_rings (c : Core) (m : TwinMsg) : (sendMsg c m).rings = c.rings := rfl
@[simp] theorem sendMsg_sess (c : Core) (m : TwinMsg) : (sendMsg c m).sess = c.sess := rfl
@[simp] theorem sendMsg_mem (c : Core) (m : TwinMsg) : (sendMsg c m).mem = c.mem := rfl
@[simp] theorem sendMsg_obj (c : Core) (m : TwinMsg) : (sendMsg c m).obj = c.obj := rfl
@[simp] theorem sendMsg_tokRest (c : Core) (m : TwinMsg) : (sendMsg c m).tokRest = c.tokRest := rfl
@[simp] theorem sendMsg_acctCfg (c : Core) (m : TwinMsg) : (sendMsg c m).acctCfg = c.acctCfg := rfl
@[simp] theorem sendMsg_sched (c : Core) (m : TwinMsg) : (sendMsg c m).sched = c.sched := rfl
@[simp] theorem sendMsg_stackTab (c : Core) (m : TwinMsg) : (sendMsg c m).stackTab = c.stackTab := rfl
@[simp] theorem sendMsg_gov (c : Core) (m : TwinMsg) : (sendMsg c m).gov = c.gov := rfl
@[simp] theorem sendMsg_levels (c : Core) (m : TwinMsg) : (sendMsg c m).levels = c.levels := rfl
@[simp] theorem sendMsg_errs (c : Core) (m : TwinMsg) : (sendMsg c m).errs = c.errs := rfl
@[simp] theorem sendMsg_ckpt (c : Core) (m : TwinMsg) : (sendMsg c m).ckpt = c.ckpt := rfl
@[simp] theorem sendMsg_power (c : Core) (m : TwinMsg) : (sendMsg c m).power = c.power := rfl
@[simp] theorem sendMsg_doe (c : Core) (m : TwinMsg) : (sendMsg c m).doe = c.doe := rfl

/-! ## modDoe -/

@[simp] theorem modDoe_rot (s : State) (f : Doe → Doe) : (modDoe s f).rot = s.rot := rfl
@[simp] theorem modDoe_pending (s : State) (f : Doe → Doe) : (modDoe s f).pending = s.pending := rfl
@[simp] theorem modDoe_draws (s : State) (f : Doe → Doe) : (modDoe s f).core.draws = s.core.draws := rfl
@[simp] theorem modDoe_aon (s : State) (f : Doe → Doe) : (modDoe s f).core.aon = s.core.aon := rfl
@[simp] theorem modDoe_bus (s : State) (f : Doe → Doe) : (modDoe s f).core.bus = s.core.bus := rfl
@[simp] theorem modDoe_cfg (s : State) (f : Doe → Doe) : (modDoe s f).core.cfg = s.core.cfg := rfl
@[simp] theorem modDoe_reply (s : State) (f : Doe → Doe) : (modDoe s f).core.reply = s.core.reply := rfl
@[simp] theorem modDoe_regs (s : State) (f : Doe → Doe) : (modDoe s f).core.regs = s.core.regs := rfl
@[simp] theorem modDoe_setupBusy (s : State) (f : Doe → Doe) : (modDoe s f).core.setupBusy = s.core.setupBusy := rfl
@[simp] theorem modDoe_setupDone (s : State) (f : Doe → Doe) : (modDoe s f).core.setupDone = s.core.setupDone := rfl
@[simp] theorem modDoe_setupRefused (s : State) (f : Doe → Doe) : (modDoe s f).core.setupRefused = s.core.setupRefused := rfl
@[simp] theorem modDoe_link (s : State) (f : Doe → Doe) : (modDoe s f).core.link = s.core.link := rfl
@[simp] theorem modDoe_rings (s : State) (f : Doe → Doe) : (modDoe s f).core.rings = s.core.rings := rfl
@[simp] theorem modDoe_sess (s : State) (f : Doe → Doe) : (modDoe s f).core.sess = s.core.sess := rfl
@[simp] theorem modDoe_mem (s : State) (f : Doe → Doe) : (modDoe s f).core.mem = s.core.mem := rfl
@[simp] theorem modDoe_obj (s : State) (f : Doe → Doe) : (modDoe s f).core.obj = s.core.obj := rfl
@[simp] theorem modDoe_tokRest (s : State) (f : Doe → Doe) : (modDoe s f).core.tokRest = s.core.tokRest := rfl
@[simp] theorem modDoe_acctCfg (s : State) (f : Doe → Doe) : (modDoe s f).core.acctCfg = s.core.acctCfg := rfl
@[simp] theorem modDoe_sched (s : State) (f : Doe → Doe) : (modDoe s f).core.sched = s.core.sched := rfl
@[simp] theorem modDoe_stackTab (s : State) (f : Doe → Doe) : (modDoe s f).core.stackTab = s.core.stackTab := rfl
@[simp] theorem modDoe_gov (s : State) (f : Doe → Doe) : (modDoe s f).core.gov = s.core.gov := rfl
@[simp] theorem modDoe_levels (s : State) (f : Doe → Doe) : (modDoe s f).core.levels = s.core.levels := rfl
@[simp] theorem modDoe_errs (s : State) (f : Doe → Doe) : (modDoe s f).core.errs = s.core.errs := rfl
@[simp] theorem modDoe_twin (s : State) (f : Doe → Doe) : (modDoe s f).core.twin = s.core.twin := rfl
@[simp] theorem modDoe_ckpt (s : State) (f : Doe → Doe) : (modDoe s f).core.ckpt = s.core.ckpt := rfl
@[simp] theorem modDoe_power (s : State) (f : Doe → Doe) : (modDoe s f).core.power = s.core.power := rfl

/-! ## What an update puts in place -/

@[simp] theorem modLink_link (c : Core) (f : Link → Link) : (modLink c f).link = f c.link := rfl
@[simp] theorem modTwin_twin (c : Core) (f : Twin → Twin) : (modTwin c f).twin = f c.twin := rfl
@[simp] theorem modPower_power (c : Core) (f : Power → Power) : (modPower c f).power = f c.power := rfl
@[simp] theorem modLevels_levels (c : Core) (die : Bool) (f : Levels → Levels) : (modLevels c die f).levels = c.levels.mod die f := rfl
@[simp] theorem setEpoch_running (c : Core) (ep : Option Epoch) : (setEpoch c ep).ckpt.running = ep := rfl
@[simp] theorem putIndex_index (c : Core) (ix : Map SheafIx) : (putIndex c ix).mem.index = ix := rfl
@[simp] theorem setWarm_dir (c : Core) (sid : Nat) (w : Warm) : (setWarm c sid w).sess.dir = c.sess.dir := rfl
@[simp] theorem setEntry_warm (c : Core) (sid : Nat) (e : Entry) : (setEntry c sid e).sess.warm = c.sess.warm := by
  rw [setEntry_sess]

@[simp] theorem modDoe_doe (s : State) (f : Doe → Doe) : (modDoe s f).core.doe = f s.core.doe := rfl
@[simp] theorem sendMsg_ctl (c : Core) (m : TwinMsg) : (sendMsg c m).twin.ctl = c.twin.ctl ++ [m] := rfl
@[simp] theorem reserveFree_free (c : Core) (die : Bool) (n : Nat) : (reserveFree c die n).mem.free = c.mem.free.mod die (· - n) := rfl
@[simp] theorem setPage_xmap (c : Core) (die : Bool) (page : Nat) (x : XPage) :
    (setPage c die page x).mem.xmap = c.mem.xmap.mod die fun m => mapSet m page x := rfl

end Sys2Proof.Machine
end

