-- ==== Sys2Proof/Laws/Frame.lean ====
section
/-! SUPPORT. What each shared operation on the state can change: one equation for each, and reading a field back. -/

namespace Sys2Proof.Machine

/-! ## Registers -/

theorem regSet_frame (c : Core) (o v : Nat) : regSet c o v = { c with regs := (regSet c o v).regs } := rfl

theorem regPut_frame (c : Core) (o hi lo x : Nat) : regPut c o hi lo x = { c with regs := (regPut c o hi lo x).regs } := rfl

theorem regCount_frame (c : Core) (o hi lo n : Nat) : regCount c o hi lo n = { c with regs := (regCount c o hi lo n).regs } := rfl

/-- A register reads back as stored. -/
@[simp] theorem regGet_set_same (c : Core) (o v : Nat) : regGet (regSet c o v) o = v := by
  unfold regGet regSet
  split
  · rename_i he; subst he
    simp
  · simp

theorem regGet_set_other (c : Core) (o p v : Nat) (h : p ≠ o) : regGet (regSet c o v) p = regGet c p := by
  unfold regGet regSet
  split
  · simp [mapGet_del_other c.regs o p h]
  · simp [mapGet_set_other c.regs o p v h]

theorem regs_wf_set (c : Core) (o v : Nat) (h : mapWf c.regs = true) : mapWf (regSet c o v).regs = true := by
  unfold regSet
  split
  · exact mapWf_del c.regs o h
  · exact mapWf_set c.regs o v h

/-! ## The error log -/

theorem logErr_frame (c : Core) (i : LogItem) : logErr c i = { c with errs := (logErr c i).errs } := by
  simp only [logErr]; split <;> rfl

/-- Die 0 enters what it logs at once, unless it is a repaired error already logged in this window. -/
theorem logErr_next (c : Core) (i : LogItem) (hd : i.die = false) (hk : repairedKind i.kind = false) :
    (logErr c i).errs.next = c.errs.next + 1 := by
  simp [logErr, hd, hk, logPut]

@[simp] theorem logErr_rings (c : Core) (i : LogItem) : (logErr c i).rings = c.rings := by rw [logErr_frame]
@[simp] theorem logErr_sess (c : Core) (i : LogItem) : (logErr c i).sess = c.sess := by rw [logErr_frame]
@[simp] theorem logErr_mem (c : Core) (i : LogItem) : (logErr c i).mem = c.mem := by rw [logErr_frame]
@[simp] theorem logErr_obj (c : Core) (i : LogItem) : (logErr c i).obj = c.obj := by rw [logErr_frame]
@[simp] theorem logErr_power (c : Core) (i : LogItem) : (logErr c i).power = c.power := by rw [logErr_frame]
@[simp] theorem logErr_link (c : Core) (i : LogItem) : (logErr c i).link = c.link := by rw [logErr_frame]
@[simp] theorem logErr_twin (c : Core) (i : LogItem) : (logErr c i).twin = c.twin := by rw [logErr_frame]
@[simp] theorem logErr_levels (c : Core) (i : LogItem) : (logErr c i).levels = c.levels := by rw [logErr_frame]
@[simp] theorem logErr_regs (c : Core) (i : LogItem) : (logErr c i).regs = c.regs := by rw [logErr_frame]
@[simp] theorem logErr_stacks (c : Core) (i : LogItem) : (logErr c i).stackTab = c.stackTab := by rw [logErr_frame]
@[simp] theorem logErr_ckpt (c : Core) (i : LogItem) : (logErr c i).ckpt = c.ckpt := by rw [logErr_frame]
@[simp] theorem logErr_sched (c : Core) (i : LogItem) : (logErr c i).sched = c.sched := by rw [logErr_frame]
@[simp] theorem logErr_bus (c : Core) (i : LogItem) : (logErr c i).bus = c.bus := by rw [logErr_frame]
@[simp] theorem logErr_setupDone (c : Core) (i : LogItem) : (logErr c i).setupDone = c.setupDone := by rw [logErr_frame]

theorem logHost_frame (c : Core) (k a : Nat) : logHost c k a = { c with errs := (logHost c k a).errs } := logErr_frame c _

/-! ## Records -/

theorem setRecRing_frame (c : Core) (k i : Nat) (r : RecRing) : setRecRing c k i r = { c with rings := (setRecRing c k i r).rings } := rfl

@[simp] theorem setRecRing_subs (c : Core) (k i : Nat) (r : RecRing) : (setRecRing c k i r).rings.subs = c.rings.subs := by
  simp only [setRecRing]; split <;> (try split) <;> rfl

/-- An event record touches the event rings, the queue and the count of dropped records. -/
theorem issueEvent_frame (c : Core) (t : Nat) (d : Bool) (s a x y : Nat) :
    issueEvent c t d s a x y =
      { c with regs := (issueEvent c t d s a x y).regs, rings := { c.rings with
          events := (issueEvent c t d s a x y).rings.events, queue := (issueEvent c t d s a x y).rings.queue } } := by
  simp only [issueEvent]
  split
  · rfl
  · split
    · rfl
    · split <;> rfl

@[simp] theorem issueEvent_subs (c : Core) (t : Nat) (d : Bool) (s a x y : Nat) :
    (issueEvent c t d s a x y).rings.subs = c.rings.subs := by rw [issueEvent_frame]
@[simp] theorem issueEvent_cqs (c : Core) (t : Nat) (d : Bool) (s a x y : Nat) :
    (issueEvent c t d s a x y).rings.cqs = c.rings.cqs := by rw [issueEvent_frame]
@[simp] theorem issueEvent_streams (c : Core) (t : Nat) (d : Bool) (s a x y : Nat) :
    (issueEvent c t d s a x y).rings.streams = c.rings.streams := by rw [issueEvent_frame]
@[simp] theorem issueEvent_engines (c : Core) (t : Nat) (d : Bool) (s a x y : Nat) :
    (issueEvent c t d s a x y).rings.engines = c.rings.engines := by rw [issueEvent_frame]
@[simp] theorem issueEvent_errs (c : Core) (t : Nat) (d : Bool) (s a x y : Nat) :
    (issueEvent c t d s a x y).errs = c.errs := by rw [issueEvent_frame]
@[simp] theorem issueEvent_sess (c : Core) (t : Nat) (d : Bool) (s a x y : Nat) :
    (issueEvent c t d s a x y).sess = c.sess := by rw [issueEvent_frame]
@[simp] theorem issueEvent_mem (c : Core) (t : Nat) (d : Bool) (s a x y : Nat) :
    (issueEvent c t d s a x y).mem = c.mem := by rw [issueEvent_frame]
@[simp] theorem issueEvent_obj (c : Core) (t : Nat) (d : Bool) (s a x y : Nat) :
    (issueEvent c t d s a x y).obj = c.obj := by rw [issueEvent_frame]
@[simp] theorem issueEvent_power (c : Core) (t : Nat) (d : Bool) (s a x y : Nat) :
    (issueEvent c t d s a x y).power = c.power := by rw [issueEvent_frame]
@[simp] theorem issueEvent_link (c : Core) (t : Nat) (d : Bool) (s a x y : Nat) :
    (issueEvent c t d s a x y).link = c.link := by rw [issueEvent_frame]
@[simp] theorem issueEvent_twin (c : Core) (t : Nat) (d : Bool) (s a x y : Nat) :
    (issueEvent c t d s a x y).twin = c.twin := by rw [issueEvent_frame]
@[simp] theorem issueEvent_levels (c : Core) (t : Nat) (d : Bool) (s a x y : Nat) :
    (issueEvent c t d s a x y).levels = c.levels := by rw [issueEvent_frame]
@[simp] theorem issueEvent_stacks (c : Core) (t : Nat) (d : Bool) (s a x y : Nat) :
    (issueEvent c t d s a x y).stackTab = c.stackTab := by rw [issueEvent_frame]
@[simp] theorem issueEvent_ckpt (c : Core) (t : Nat) (d : Bool) (s a x y : Nat) :
    (issueEvent c t d s a x y).ckpt = c.ckpt := by rw [issueEvent_frame]
@[simp] theorem issueEvent_sched (c : Core) (t : Nat) (d : Bool) (s a x y : Nat) :
    (issueEvent c t d s a x y).sched = c.sched := by rw [issueEvent_frame]
@[simp] theorem issueEvent_bus (c : Core) (t : Nat) (d : Bool) (s a x y : Nat) :
    (issueEvent c t d s a x y).bus = c.bus := by rw [issueEvent_frame]
@[simp] theorem issueEvent_setupDone (c : Core) (t : Nat) (d : Bool) (s a x y : Nat) :
    (issueEvent c t d s a x y).setupDone = c.setupDone := by rw [issueEvent_frame]

/-- An event record goes to the end of the queue: nothing queued before it is touched. -/
theorem issueEvent_queue (c : Core) (t : Nat) (d : Bool) (s a x y : Nat) :
    ∃ l, (issueEvent c t d s a x y).rings.queue = c.rings.queue ++ l ∧ ∀ r ∈ l, r.kind = 3 := by
  simp only [issueEvent]
  split
  · exact ⟨[], by simp [regCount, regPut, regSet], by simp⟩
  · split
    · exact ⟨[], by simp [regCount, regPut, regSet], by simp⟩
    · split
      · exact ⟨[], by simp [setRecRing, regCount, regPut, regSet], by simp⟩
      · exact ⟨[_], rfl, by simp⟩

theorem pushRec_frame (c : Core) (r : Rec) : pushRec c r = { c with rings := { c.rings with queue := c.rings.queue ++ [r] } } := rfl

/-- A completion touches the rings and the note of what is in progress, nothing else. -/
theorem complete_frame (c : Core) (d : Desc) (st : Status) (a b : Nat) :
    complete c d st a b = { c with rings := (complete c d st a b).rings, sess := { c.sess with
      inProg := (complete c d st a b).sess.inProg, seqProg := (complete c d st a b).sess.seqProg } } := by
  have h0 : ∀ (c : Core) (r : Rec), queueRec c r = { c with rings := (queueRec c r).rings } := by
    intro c r
    simp only [queueRec]
    split
    · split <;> rfl
    · rfl
  have h3 : ∀ c : Core, closeDesc c d = { c with rings := (closeDesc c d).rings, sess := { c.sess with
      inProg := (closeDesc c d).sess.inProg, seqProg := (closeDesc c d).sess.seqProg } } := by
    intro c
    simp only [closeDesc]
    split <;> rfl
  have h1 : ∀ (c : Core) (r : Rec), handOver c (some d) r = { c with rings := (handOver c (some d) r).rings, sess := { c.sess with
      inProg := (handOver c (some d) r).sess.inProg, seqProg := (handOver c (some d) r).sess.seqProg } } := by
    intro c r
    simp only [handOver]
    rw [h3, h0]
  have h2 : ∀ (c : Core) (r : Rec), completeRec c d r = { c with rings := (completeRec c d r).rings, sess := { c.sess with
      inProg := (completeRec c d r).sess.inProg, seqProg := (completeRec c d r).sess.seqProg } } := by
    intro c r
    simp only [completeRec, giveRec]
    split
    · exact h1 c r
    · rfl
  simp only [complete]
  split <;> exact h2 _ _

@[simp] theorem complete_mem (c : Core) (d : Desc) (st : Status) (a b : Nat) : (complete c d st a b).mem = c.mem := by rw [complete_frame]
@[simp] theorem complete_obj (c : Core) (d : Desc) (st : Status) (a b : Nat) : (complete c d st a b).obj = c.obj := by rw [complete_frame]
@[simp] theorem complete_dir (c : Core) (d : Desc) (st : Status) (a b : Nat) : (complete c d st a b).sess.dir = c.sess.dir := by rw [complete_frame]
@[simp] theorem complete_warm (c : Core) (d : Desc) (st : Status) (a b : Nat) : (complete c d st a b).sess.warm = c.sess.warm := by rw [complete_frame]
@[simp] theorem complete_bus (c : Core) (d : Desc) (st : Status) (a b : Nat) : (complete c d st a b).bus = c.bus := by rw [complete_frame]
@[simp] theorem complete_errs (c : Core) (d : Desc) (st : Status) (a b : Nat) : (complete c d st a b).errs = c.errs := by rw [complete_frame]
@[simp] theorem complete_regs (c : Core) (d : Desc) (st : Status) (a b : Nat) : (complete c d st a b).regs = c.regs := by rw [complete_frame]
@[simp] theorem complete_twin (c : Core) (d : Desc) (st : Status) (a b : Nat) : (complete c d st a b).twin = c.twin := by rw [complete_frame]
@[simp] theorem complete_acctCfg (c : Core) (d : Desc) (st : Status) (a b : Nat) : (complete c d st a b).acctCfg = c.acctCfg := by rw [complete_frame]
@[simp] theorem complete_sched (c : Core) (d : Desc) (st : Status) (a b : Nat) : (complete c d st a b).sched = c.sched := by rw [complete_frame]
@[simp] theorem complete_ckpt (c : Core) (d : Desc) (st : Status) (a b : Nat) : (complete c d st a b).ckpt = c.ckpt := by rw [complete_frame]
@[simp] theorem complete_power (c : Core) (d : Desc) (st : Status) (a b : Nat) : (complete c d st a b).power = c.power := by rw [complete_frame]
@[simp] theorem complete_link (c : Core) (d : Desc) (st : Status) (a b : Nat) : (complete c d st a b).link = c.link := by rw [complete_frame]

/-! ## Beginning a descriptor -/

theorem beginSeq_frame (c : Core) (d : Desc) :
    beginSeq c d = { c with sess := { c.sess with seqProg := mapSet c.sess.seqProg d.ring d } } := rfl

@[simp] theorem beginSeq_obj (c : Core) (d : Desc) : (beginSeq c d).obj = c.obj := rfl
@[simp] theorem beginSeq_mem (c : Core) (d : Desc) : (beginSeq c d).mem = c.mem := rfl
@[simp] theorem beginSeq_link (c : Core) (d : Desc) : (beginSeq c d).link = c.link := rfl
@[simp] theorem beginSeq_regs (c : Core) (d : Desc) : (beginSeq c d).regs = c.regs := rfl
@[simp] theorem beginSeq_dir (c : Core) (d : Desc) : (beginSeq c d).sess.dir = c.sess.dir := rfl
@[simp] theorem beginSeq_waiting (c : Core) (d : Desc) : (beginSeq c d).sess.waiting = c.sess.waiting := rfl
@[simp] theorem beginSeq_acctCfg (c : Core) (d : Desc) : (beginSeq c d).acctCfg = c.acctCfg := rfl
@[simp] theorem beginSeq_ckpt (c : Core) (d : Desc) : (beginSeq c d).ckpt = c.ckpt := rfl
@[simp] theorem beginSeq_twin (c : Core) (d : Desc) : (beginSeq c d).twin = c.twin := rfl

theorem haspSession_frame (c : Core) (sid : Nat) :
    haspSession c sid = { c with ckpt := (haspSession c sid).ckpt, sess := { c.sess with warm := (haspSession c sid).sess.warm } } := by
  simp only [haspSession]
  split
  · rfl
  · split <;> rfl

/-- While no epoch runs, no session has a hasp to be set. -/
@[simp] theorem haspSession_none (c : Core) (sid : Nat) (h : c.ckpt.running = none) : haspSession c sid = c := by
  simp [haspSession, h]

/-! ## Bus writes -/

theorem busWrite_frame (c : Core) (a : Nat) (bs : List Byte) : busWrite c a bs = { c with bus := (busWrite c a bs).bus } := rfl

theorem modPair_frame (c : Core) (p : Nat) (f : Pair → Pair) : modPair c p f = { c with stackTab := (modPair c p f).stackTab } := rfl

theorem modRates_frame (c : Core) (d : Bool) (f : Rates → Rates) : modRates c d f = { c with errs := (modRates c d f).errs } := rfl

/-- An entry that is not FREE reads back as written. -/
theorem entryOf_set_same (c : Core) (sid : Nat) (e : Entry) (h : e.state ≠ .free) : entryOf (setEntry c sid e) sid = e := by
  simp [entryOf, h]

theorem entryOf_set_other (c : Core) (a b : Nat) (e : Entry) (h : b ≠ a) : entryOf (setEntry c a e) b = entryOf c b := by
  unfold entryOf
  rw [setEntry_dir]
  by_cases hf : e.state = .free
  · simp [hf, mapGet_del_other _ _ _ h]
  · simp [hf, mapGet_set_other _ _ _ _ h]

end Sys2Proof.Machine
end

