-- ==== Sys2Proof/Laws/Power.lean ====
section
/-! SUPPORT. Bits of domain and PLL masks, and what powering domains on and stopping PLLs can change (R558, R560 to R564). -/

namespace Sys2Proof.Machine

/-- A bit of a number is its binary digit. -/
theorem bit_testBit (v i : Nat) : bit v i = v.testBit i := by
  simp [bit, Nat.testBit_eq_decide_div_mod_eq, beq_eq_decide]

/-- Bits of a union. -/
@[simp] theorem bit_or (a b i : Nat) : bit (a ||| b) i = (bit a i || bit b i) := by simp [bit_testBit]

/-- Bits of an intersection. -/
@[simp] theorem bit_and (a b i : Nat) : bit (a &&& b) i = (bit a i && bit b i) := by simp [bit_testBit]

/-- The one bit of a power of 2. -/
@[simp] theorem bit_two_pow (n i : Nat) : bit (2 ^ n) i = (i == n) := by
  rw [bit_testBit, Nat.testBit_two_pow, beq_eq_decide]
  exact decide_eq_decide.mpr eq_comm

/-- The lowest bit of an intersection. -/
theorem and_low (a b : Nat) : (a &&& b) % 2 = if a % 2 = 1 ∧ b % 2 = 1 then 1 else 0 := by
  have h : decide ((a &&& b) % 2 = 1) = (decide (a % 2 = 1) && decide (b % 2 = 1)) := by
    simpa only [Nat.testBit_zero] using Nat.testBit_and a b 0
  have l : (a &&& b) % 2 < 2 := Nat.mod_lt _ (by omega)
  rw [← Bool.decide_and] at h
  have h := decide_eq_decide.mp h
  split <;> omega

/-- Bits of what is left of a mask without the bits of another. -/
theorem bit_sub_and (a b i : Nat) : bit (a - (a &&& b)) i = (bit a i && !bit b i) := by
  simp only [bit_testBit]
  induction i generalizing a b with
  | zero =>
    have m := and_low a b
    have le : a &&& b ≤ a := Nat.and_le_left
    simp only [Nat.testBit_zero]
    rw [← decide_not, ← Bool.decide_and]
    apply decide_eq_decide.mpr
    split at m <;> omega
  | succ n ih =>
    simp only [Nat.testBit_succ]
    have m := and_low a b
    have d : (a &&& b) / 2 = a / 2 &&& b / 2 := Nat.and_div_two
    have le : a &&& b ≤ a := Nat.and_le_left
    have e : (a - (a &&& b)) / 2 = a / 2 - (a / 2 &&& b / 2) := by
      rw [← d]
      generalize a &&& b = x at *
      split at m <;> omega
    rw [e]
    exact ih (a / 2) (b / 2)

/-- The core with other step schedulers. -/
def withSched (c : Core) (x : PerDie Sched) : Core := { c with sched := x }

/-- R446, R453, R564: refills change the step schedulers alone. -/
theorem eachAcct_frame (c : Core) (die : Bool) (f : AcctCfg → Acct → Acct) : ∃ y, eachAcct c die f = withSched c y := by
  unfold eachAcct
  generalize c.acctCfg = l
  induction l generalizing c with
  | nil => exact ⟨c.sched, rfl⟩
  | cons p l ih =>
    obtain ⟨y, hy⟩ := ih (modAcct c die p.1 (f p.2))
    exact ⟨y, by rw [List.foldl_cons, hy]; rfl⟩

/-- R451: a change to the step schedulers after which accounts may wake changes them alone. -/
theorem waking_frame (c : Core) (die : Bool) (f : Core → Core) (h : ∃ y, f c = withSched c y) :
    ∃ y, waking c die f = withSched c y := by
  obtain ⟨y, hy⟩ := h
  unfold waking
  rw [hy]
  exact ⟨_, rfl⟩

/-- R446: bucket refills change the step schedulers alone. -/
theorem refillBuckets_frame (c : Core) (die : Bool) (n : Nat) : ∃ y, refillBuckets c die n = withSched c y := by
  unfold refillBuckets
  split
  · exact ⟨c.sched, rfl⟩
  · exact waking_frame c die _ (eachAcct_frame c die _)

/-- R564: what fell due changes the step schedulers alone. -/
theorem applyDue_frame (c : Core) (die : Bool) : ∃ y, applyDue c die = withSched c y := by
  simp only [applyDue]
  split
  · exact ⟨c.sched, rfl⟩
  · unfold refillMeters
    obtain ⟨y, hy⟩ := eachAcct_frame c die fun g x => refillMeter g (c.sched.get die).dueMeters x
    rw [hy]
    obtain ⟨z, hz⟩ := refillBuckets_frame (withSched c y) die (c.sched.get die).dueBuckets
    rw [hz]
    exact ⟨_, rfl⟩

/-- R560: a stack table in which some stacks have left self-refresh. -/
theorem foldl_stackTab (l : List Nat) (c : Core) :
    ∃ y, l.foldl (fun c k => { c with stackTab := mapMod c.stackTab k (refreshSelf false) }) c = { c with stackTab := y } := by
  induction l generalizing c with
  | nil => exact ⟨c.stackTab, rfl⟩
  | cons k l ih =>
    obtain ⟨y, hy⟩ := ih { c with stackTab := mapMod c.stackTab k (refreshSelf false) }
    exact ⟨y, hy⟩

/-- R558, R562: what powering domains on changes: the domains, the PLLs that clock them once the device is READY, stacks, and what fell due at a step scheduler. -/
theorem startDomains_frame (c : Core) (d : Nat) : ∃ tab sch, startDomains c d =
    { c with
      power := { c.power with
        domains := c.power.domains ||| d, locks := if c.power.ready then c.power.locks ||| pllsOf d else c.power.locks }
      stackTab := tab, sched := sch } := by
  obtain ⟨y, hy⟩ := foldl_stackTab (((List.range 16).filter fun i => bit d (72 + i)).map (· % 8)) c
  simp only [startDomains, hy, modPower]
  have two : ∀ (x : Core) (p q : Prop) [Decidable p] [Decidable q],
      ∃ z, (if q then applyDue (if p then applyDue x false else x) true else if p then applyDue x false else x) = withSched x z := by
    intro x p q _ _
    obtain ⟨u, hu⟩ : ∃ u, (if p then applyDue x false else x) = withSched x u := by
      split
      · exact applyDue_frame x false
      · exact ⟨x.sched, rfl⟩
    rw [hu]
    split
    · obtain ⟨v, hv⟩ := applyDue_frame (withSched x u) true
      exact ⟨v, by rw [hv]; rfl⟩
    · exact ⟨u, rfl⟩
  obtain ⟨z, hz⟩ := two _ (bit d (schedDomain false) = true) (bit d (schedDomain true) = true)
  rw [hz]
  exact ⟨y, z, rfl⟩

/-- R563: what leaving deep idle changes: the power state's `deep` and locks, and the count of exits. -/
theorem leaveDeep_frame (c : Core) (plls : Nat) : leaveDeep c plls =
    { c with
      power := { c.power with deep := false, locks := c.power.locks ||| plls }
      regs := (leaveDeep c plls).regs } := by
  unfold leaveDeep
  rw [regCount_frame]
  rfl

end Sys2Proof.Machine
end

