-- ==== Sys2Proof/Laws/Access.lean ====
section
/-! SUPPORT. What an access to a register or a doorbell does on a device that is ready and awake: nothing but its own effect. -/

namespace Sys2Proof.Machine

/-- R563: a source ends deep idle only. -/
theorem wakeBy_awake (c : Core) (x : WakeSource) (h : c.power.deep = false) : wakeBy c x = c := by simp [wakeBy, h]

/-- R581: a block that serves is not woken. -/
theorem wakeBlock_on (c : Core) (off : Nat) (h : c.power.domains &&& blockDomains off = blockDomains off) : wakeBlock c off = c := by
  simp [wakeBlock, h]

/-- R560, R581: a block without a switched domain always serves. -/
theorem wakeBlock_always (c : Core) (off : Nat) (h : blockDomains off = 0) : wakeBlock c off = c := wakeBlock_on c off (by simp [h])

/-- R563, R581: an access to an awake device changes nothing where the block serves. -/
theorem hostAccess_awake (c : Core) (off : Nat) (hd : c.power.deep = false)
    (h : c.power.domains &&& blockDomains off = blockDomains off) : hostAccess c off = c := by
  rw [hostAccess, wakeBy_awake c _ hd, wakeBlock_on c off h]

/-- R581: what waking a block can change: the power state, the stacks that leave self-refresh, refills that fell due. -/
theorem wakeBlock_frame (c : Core) (off : Nat) : ∃ p tab sch, wakeBlock c off = { c with power := p, stackTab := tab, sched := sch } := by
  unfold wakeBlock
  split
  · exact ⟨c.power, c.stackTab, c.sched, rfl⟩
  · obtain ⟨tab, sch, h⟩ := startDomains_frame c (blockDomains off)
    exact ⟨_, tab, sch, h⟩

/-- A device that is ready is powered, verified, cool and serves BAR0 (R571). -/
theorem barReady_of_ready (c : Core) (h : ready c = true) : barReady c = true := by
  simp only [ready, alive, Bool.and_eq_true] at h
  simp [barReady, h]

/-- It is held by nothing (R57). -/
theorem not_held_of_ready (c : Core) (h : ready c = true) : c.power.held = false := by
  simp only [ready, alive, Bool.and_eq_true, Bool.not_eq_true'] at h
  exact h.1.2

/-- A device that is ready is alive. -/
theorem alive_of_ready (c : Core) (h : ready c = true) : alive c = true := by
  simp only [ready, Bool.and_eq_true] at h
  exact h.1

/-- R86, R571: an aligned write on a device that is ready and awake, to a block that serves, is taken, and nothing happens beside it. -/
theorem bar0Write_ready (c : Core) (off size : Nat) (f : Core → Core) (h : ready c = true) (hd : c.power.deep = false)
    (ha : alignedAccess off size = true) (hb : c.power.domains &&& blockDomains off = blockDomains off) : bar0Write c off size f = f c := by
  have hr := barReady_of_ready c h
  have hp : c.power.on = true := by simp only [barReady, Bool.and_eq_true] at hr; exact hr.1.1.1
  simp [bar0Write, hr, hp, ha, hostAccess_awake c off hd hb]

/-- The same of a write that reaches beyond the device's state. -/
theorem bar0WriteS_ready (s : State) (off size : Nat) (f : State → State) (h : ready s.core = true) (hd : s.core.power.deep = false)
    (ha : alignedAccess off size = true) (hb : s.core.power.domains &&& blockDomains off = blockDomains off) : bar0WriteS s off size f = f s := by
  have hr := barReady_of_ready s.core h
  have hp : s.core.power.on = true := by simp only [barReady, Bool.and_eq_true] at hr; exact hr.1.1.1
  simp [bar0WriteS, hr, hp, ha, hostAccess_awake s.core off hd hb]

end Sys2Proof.Machine
end

