-- ==== Sys2Proof/Laws/Bytes.lean ====
section
/-! SUPPORT. Byte strings in parts: reading within one part, check arrays behind what they cover. -/

namespace Sys2Proof.Machine

@[simp] theorem bytesAt_length (bs : List Byte) (o n : Nat) : (bytesAt bs o n).length = n := by
  simp [bytesAt]

/-- A whole byte string. -/
theorem bytesAt_all (bs : List Byte) (n : Nat) (h : bs.length = n) : bytesAt bs 0 n = bs := by
  subst h; simp [bytesAt]

theorem bytesAt_left (a b : List Byte) (o n : Nat) (h : o + n ≤ a.length) : bytesAt (a ++ b) o n = bytesAt a o n := by
  have h1 : ((a ++ b).drop o).take n = (a.drop o).take n := by
    rw [List.drop_append_of_le_length (by omega), List.take_append_of_le_length (by simp; omega)]
  simp [bytesAt, h1]

theorem bytesAt_right (a b : List Byte) (o n : Nat) (h : a.length ≤ o) : bytesAt (a ++ b) o n = bytesAt b (o - a.length) n := by
  have h1 : (a ++ b).drop o = b.drop (o - a.length) := by
    rw [List.drop_append, List.drop_eq_nil_of_le h, List.nil_append]
  simp [bytesAt, h1]

theorem leAt_left (a b : List Byte) (o n : Nat) (h : o + n ≤ a.length) : leAt (a ++ b) o n = leAt a o n := by
  simp [leAt, bytesAt_left a b o n h]

theorem leAt_right (a b : List Byte) (o n : Nat) (h : a.length ≤ o) : leAt (a ++ b) o n = leAt b (o - a.length) n := by
  simp [leAt, bytesAt_right a b o n h]

/-- Bytes of value 0. -/
def zeros (n : Nat) : List Byte := List.replicate n 0

@[simp] theorem zeros_length (n : Nat) : (zeros n).length = n := by simp only [zeros, List.length_replicate]

theorem zeros_drop (n k : Nat) : (zeros n).drop k = zeros (n - k) := by simp only [zeros, List.drop_replicate]

theorem mem_zeros (n : Nat) (x : Byte) (h : x ∈ zeros n) : x = 0 := List.eq_of_mem_replicate h

/-- A zero run reads 0 past its end too. -/
theorem bytesAt_zeros (k o n : Nat) : bytesAt (zeros k) o n = zeros n := by
  simp only [zeros, bytesAt, List.take_replicate, List.drop_replicate, List.length_replicate, List.replicate_append_replicate]
  congr 1; omega

@[simp] theorem leNat_zeros (n : Nat) : leNat (zeros n) = 0 := by
  rw [zeros]
  induction n with
  | zero => rfl
  | succ n ih =>
    rw [List.replicate_succ, leNat, ih]
    rfl

@[simp] theorem natLe_length (n v : Nat) : (natLe n v).length = n := by
  induction n generalizing v with
  | zero => rfl
  | succ n ih => simp [natLe, ih]

/-- A number of `n` bytes reads back. -/
theorem leNat_natLe (n v : Nat) (h : v < 256 ^ n) : leNat (natLe n v) = v := by
  induction n generalizing v with
  | zero => simp [natLe, leNat] at h ⊢; omega
  | succ n ih =>
    rw [Nat.pow_succ] at h
    have : v / 256 < 256 ^ n := Nat.div_lt_of_lt_mul (by omega)
    simp [natLe, leNat, ih _ this]; omega

/-- Word `i` of a row of words. -/
theorem bytesAt_words (ws : List Nat) (i : Nat) (h : i < ws.length) :
    bytesAt (ws.flatMap (natLe 8)) (8 * i) 8 = natLe 8 ws[i] := by
  induction ws generalizing i with
  | nil => simp at h
  | cons w ws ih =>
    rw [List.flatMap_cons]
    cases i with
    | zero =>
      rw [bytesAt_left _ _ _ _ (by simp)]
      exact bytesAt_all _ _ (natLe_length 8 w)
    | succ i =>
      rw [bytesAt_right _ _ _ _ (by simp), natLe_length, show 8 * (i + 1) - 8 = 8 * i by omega]
      exact ih i (by simpa using h)

theorem words_length (ws : List Nat) : (ws.flatMap (natLe 8)).length = 8 * ws.length := by
  induction ws with
  | nil => rfl
  | cons w ws ih => rw [List.flatMap_cons, List.length_append, natLe_length, ih, List.length_cons]; omega

/-- One byte. -/
theorem bytesAt_one (bs : List Byte) (i : Nat) (h : i < bs.length) : bytesAt bs i 1 = [bs[i]] := by
  have : (bs.drop i).take 1 = [bs[i]] := by
    rw [List.drop_eq_getElem_cons h]; rfl
  simp [bytesAt, this]

@[simp] theorem checkArray_length (bs : List Byte) : (checkArray bs).length = 4 * cdiv bs.length 256 := by
  simp [checkArray, List.length_flatMap, List.map_const', Nat.mul_comm]

/-- The check array of whole blocks has four bytes for each. -/
theorem cdiv_blocks (k : Nat) : cdiv (256 * k) 256 = k := by
  simp [cdiv]; omega

/-- An image followed by its check array matches. -/
theorem checksMatch_self (body : List Byte) (k : Nat) (h : body.length = 256 * k) :
    checksMatch (body ++ checkArray body) (256 * k) = true := by
  have h1 : bytesAt (body ++ checkArray body) 0 (256 * k) = body := by
    rw [bytesAt_left _ _ _ _ (by omega), bytesAt_all _ _ h]
  have h2 : bytesAt (body ++ checkArray body) (256 * k) (4 * (256 * k / 256)) = checkArray body := by
    rw [bytesAt_right _ _ _ _ (by omega), h, Nat.sub_self, bytesAt_all]
    rw [checkArray_length, h, cdiv_blocks]; omega
  rw [checksMatch, h1, h2, beq_self_eq_true]

end Sys2Proof.Machine
end

