-- ==== Sys2Proof/Laws/Carry.lean ====
section
/-! SUPPORT. What each step of carrying out a descriptor does to the run it works on, and what accepting a descriptor does when nothing is ahead of it. -/

namespace Sys2Proof.Machine

/-! ## Steps of carrying out -/

@[simp] theorem run_pure {α : Type} (a : α) (r : Run0) : (pure a : M α) r = .ok (a, r) := rfl

@[simp] theorem run_bind {α β : Type} (m : M α) (f : α → M β) (r : Run0) :
    (m >>= f) r = match m r with
      | .ok (a, r') => f a r'
      | .error e => .error e := by
  show (Except.bind (m r) fun p => f p.1 p.2) = _
  cases m r <;> rfl

@[simp] theorem run_map {α β : Type} (f : α → β) (m : M α) (r : Run0) :
    (f <$> m) r = match m r with
      | .ok (a, r') => .ok (f a, r')
      | .error e => .error e := by
  show (Except.bind (m r) fun p => Except.ok (f p.1, p.2)) = _
  cases m r <;> rfl

@[simp] theorem run_modify (f : Run0 → Run0) (r : Run0) : (modify f : M Unit) r = .ok ((), f r) := rfl

@[simp] theorem run_getC (r : Run0) : getC r = .ok (r.core, r) := rfl

@[simp] theorem run_get (r : Run0) : (get : M Run0) r = .ok (r, r) := rfl

@[simp] theorem run_set (r' r : Run0) : (set r' : M Unit) r = .ok ((), r') := rfl

@[simp] theorem run_putC (c : Core) (r : Run0) : putC c r = .ok ((), { r with core := c }) := rfl

@[simp] theorem run_modC (f : Core → Core) (r : Run0) : modC f r = .ok ((), { r with core := f r.core }) := rfl

@[simp] theorem run_measure (i : Nat) (bs : List Byte) (r : Run0) :
    measure i bs r = .ok ((), { r with ext := r.ext ++ [(i, bs)] }) := rfl

@[simp] theorem run_failC {α : Type} (st : Status) (a b : Nat) (r : Run0) :
    (failC st a b : M α) r = .error (.fail st a b r.core) := rfl

@[simp] theorem run_refuse {α : Type} (st : Status) (r : Run0) :
    (refuse st : M α) r = .error (.fail st 0 0 r.core) := rfl

@[simp] theorem run_waitOn {α : Type} (w : Nat) (r : Run0) :
    (waitOn w : M α) r =
      .error (.wait { slot := w, left := r.env.length, stream := 0, need := 0, kept := r.base, memo := r.memo ++ r.past }) := rfl

@[simp] theorem run_waitFor {α : Type} (slot stream need : Nat) (r : Run0) :
    (waitFor slot stream need : M α) r =
      .error (.wait { slot := slot, left := r.env.length, stream := stream, need := need, kept := r.base, memo := r.memo ++ r.past }) := rfl

@[simp] theorem run_settled (r : Run0) : settled r = .ok (!r.past.isEmpty, r) := rfl

/-- What is settled for the first time changes the state and what a wait keeps alike. -/
theorem run_once_new (f : Core → Nat × Core) (r : Run0) (h : r.past = []) :
    once f r = .ok ((f r.core).1, { r with core := (f r.core).2, base := (f r.base).2, memo := r.memo ++ [(f r.core).1] }) := by
  obtain ⟨c, env, rot, ext, sid, opc, resumed, had, sent, base, past, memo⟩ := r
  cases h
  rfl

/-- What was settled before is remembered, and changes nothing. -/
theorem run_once_again (f : Core → Nat × Core) (r : Run0) (x : Nat) (xs : List Nat) (h : r.past = x :: xs) :
    once f r = .ok (x, { r with past := xs, memo := r.memo ++ [x] }) := by
  obtain ⟨c, env, rot, ext, sid, opc, resumed, had, sent, base, past, memo⟩ := r
  cases h
  rfl

/-- A part that succeeds is not undone. -/
@[simp] theorem orUndo_ok {α : Type} (f : Core → Core) (m : M α) (r : Run0) (x : α × Run0) (h : m r = .ok x) : orUndo f m r = .ok x := by
  simp [orUndo, h]

@[simp] theorem atomically_ok {α : Type} (m : M α) (r : Run0) (x : α × Run0) (h : m r = .ok x) : atomically m r = .ok x := by
  simp [atomically, h]

@[simp] theorem run_throw {α : Type} (e : Stop) (r : Run0) : (throw e : M α) r = .error e := rfl

@[simp] theorem run_check (b : Bool) (st : Status) (r : Run0) :
    check b st r = if b = true then .error (.fail st 0 0 r.core) else .ok ((), r) := by
  cases b <;> rfl

@[simp] theorem checkHost_false : checkHost false = (pure () : M Unit) := rfl

/-- A draw takes the next word of the random source. -/
@[simp] theorem run_drawM (r : Run0) : drawM r = .ok ((drawWord r.core).1, { r with core := (drawWord r.core).2 }) := rfl

/-! ## Host memory -/

/-- A read of host memory that is answered with data gives the bytes, and changes nothing but the answers left. -/
theorem readBus_data (r : Run0) (bs : List Byte) (env : Env) (a n : Nat) (he : r.env = .data bs :: env)
    (hh : hostAnswers r.core) (hn : r.sent = false)
    (hw : mapGet r.core.mem.windows 0 = none) :
    readBus 0 a n r = .ok (bytesAt bs 0 n, { r with env := env, had := r.had - 1 }) := by
  obtain ⟨hl, hb, ht⟩ := hh
  have hne : tagsFree r.core ≠ 0 := by omega
  have hs : slotBarred r.core (streamAt r.core 0 a) = false := hb a
  by_cases h0 : 0 < r.had
  · simp [readBus, request, nextAns, takeAns, noteAns, he, h0, ansStatus, windowOutcome, hw]
  · have : r.had = 0 := by omega
    simp [readBus, request, nextAns, takeAns, noteAns, he, this, hn, hs, hl, hne, ansStatus, windowOutcome, hw]

/-- A posted write to host memory over a link that is up and a stream that is open is made at once. -/
theorem postBus_up (r : Run0) (a : Nat) (bs : List Byte) (hh : hostAnswers r.core) :
    postBus 0 a bs r = .ok ((), { r with core := busPayload r.core a bs }) := by
  simp [postBus, postGate, hh.1, hh.2.1 a]

/-! ## Accepting and settling -/

/-- R126: with nothing ahead of it, a sequencer's descriptor is carried out at once. -/
theorem acceptSeq_free (s : State) (d : Desc) (env : Env) (m : M Done) (h : seqFree s.core d) :
    acceptSeq s d env m = settle { s with core := beginSeq s.core d } d env m := by
  obtain ⟨h1, h2, h3⟩ := h
  simp [acceptSeq, startSeq, h1, h2, h3]

/-- R11: with nothing ahead of it, a session's descriptor is carried out at once, its account checked first. -/
theorem acceptSession_free (s : State) (d : Desc) (env : Env) (m : M Done) (h : sessFree s.core d) :
    acceptSession s d env m = settle { s with core := beginSession s.core d } d env (do accountCheck d; m) := by
  obtain ⟨h1, h2, h3⟩ := h
  simp [acceptSession, startSession, h1, h2, h3]

/-- Everything that `settle` can do: complete, leave a descriptor in progress, or make it wait; the root of trust changes only by extensions. -/
theorem settle_cases (s : State) (d : Desc) (env : Env) (m : M Done) (before : Option Waiting) :
    (∃ c xs, settle s d env m before = { s with core := c, rot := extendAll s.rot xs }) := by
  unfold settle
  split
  · exact ⟨_, _, rfl⟩
  · exact ⟨_, _, rfl⟩
  · exact ⟨_, [], rfl⟩
  · exact ⟨_, [], rfl⟩

/-- A session's descriptor that is accepted changes the root of trust only by extensions, and never the queue. -/
theorem acceptSession_cases (s : State) (d : Desc) (env : Env) (m : M Done) :
    ∃ c xs, acceptSession s d env m = { s with core := c, rot := extendAll s.rot xs } := by
  simp only [acceptSession]
  split
  · exact ⟨s.core, [], rfl⟩
  · split
    · exact ⟨_, [], rfl⟩
    · exact settle_cases { s with core := beginSession s.core d } d env _ none

/-- The same for a sequencer's descriptor. -/
theorem acceptSeq_cases (s : State) (d : Desc) (env : Env) (m : M Done) :
    ∃ c xs, acceptSeq s d env m = { s with core := c, rot := extendAll s.rot xs } := by
  simp only [acceptSeq]
  split
  · exact ⟨s.core, [], rfl⟩
  · split
    · exact ⟨_, [], rfl⟩
    · exact settle_cases { s with core := beginSeq s.core d } d env _ none

/-- A sequencer's descriptor completes at once: nothing is mirrored for session 0. -/
@[simp] theorem finishDesc_seq (c : Core) (d : Desc) (st : Status) (a b : Nat) (h : d.session = 0) :
    finishDesc c d st a b = complete c d st a b := by simp [finishDesc, h]

/-- So does a session's that is not mirrored. -/
theorem finishDesc_alone (c : Core) (d : Desc) (st : Status) (a b : Nat) (h : mirrored c d.session = false) :
    finishDesc c d st a b = complete c d st a b := by
  simp [finishDesc, mirrorThen, mirrorRoom, mirrorRec, mirror, h]

end Sys2Proof.Machine
end

