-- ==== Sys2Proof/Laws/Mailbox.lean ====
section
/-! SUPPORT. What the mailbox does with an object that arrives while it is free (R101, R542): the object alone is carried out, or waits alone. -/

namespace Sys2Proof.Machine

/-- The state in which an object that arrives at a free mailbox is carried out. -/
def doeWith (s : State) (x : DoeObject) : State := modDoe s fun d => { d with queue := [x] }

/-- A free mailbox is open, holds no object and no token. -/
theorem mailboxFree_parts {c : Core} (h : mailboxFree c = true) :
    mailboxOpen c = true ∧ c.doe.queue = [] ∧ c.doe.token = none := by
  simp [mailboxFree] at h
  exact ⟨h.1.1, h.1.2, h.2⟩

/-- A free mailbox carries an object out at once; one that must wait is its only object. -/
theorem mailbox_free {s : State} (h : mailboxFree s.core = true) (x : DoeObject) (hx : x.port = false) :
    mailbox s x =
      if (carryOut (doeWith s x) x).2 then modDoe (carryOut (doeWith s x) x).1 fun d => { d with queue := [] }
      else (carryOut (doeWith s x) x).1 := by
  obtain ⟨o, q, t⟩ := mailboxFree_parts h
  have o' : mailboxOpen (doeWith s x).core = true := by simpa [mailboxOpen, doeWith, modDoe] using o
  simp only [mailbox, o, t, q, Option.isSome_none, Bool.not_true, Bool.or_self, Bool.false_eq_true, if_false, List.isEmpty_nil, if_true]
  change serveObject (doeWith s x) = _
  have q' : (doeWith s x).core.doe.queue = [x] := rfl
  have t' : (doeWith s x).core.doe.token = none := t
  simp only [serveObject, q', o', t', hx, Option.isSome_none, Bool.not_true, Bool.or_self, Bool.false_eq_true, if_false]
  cases hd : (carryOut (doeWith s x) x).2 <;> simp

/-- The mailbox as it was, once the object that arrived is carried out and has changed the reply alone. -/
theorem modDoe_doeWith {s : State} (h : mailboxFree s.core = true) (x : DoeObject) :
    modDoe (doeWith s x) (fun d => { d with queue := [] }) = s := by
  have q := (mailboxFree_parts h).2.1
  simp [modDoe, doeWith, ← q]

end Sys2Proof.Machine
end

