-- ==== Sys2Proof/Laws/Measure.lean ====
section
/-! SUPPORT. Measurement registers: a SHA-256 is 32 bytes, and extending registers keeps their shape and only extends them. -/

namespace Sys2Proof.Machine

@[simp] theorem sha256_length (bs : List Byte) : (sha256 bs).length = 32 := by
  simp [sha256, natLe_length]

@[simp] theorem extendMr_length (r : Rot) (x : Nat × List Byte) : (extendMr r x).mrs.length = r.mrs.length := by
  simp [extendMr]

/-- An extension replaces one register by its extension. -/
theorem extendMr_nth (r : Rot) (x : Nat × List Byte) (i : Nat) :
    nth (extendMr r x).mrs i [] =
      if x.1 = i ∧ i < r.mrs.length then sha256 (nth r.mrs i [] ++ sha256 x.2) else nth r.mrs i [] := by
  simp only [nth, extendMr, List.getD_eq_getElem?_getD, List.getElem?_set]
  by_cases h : x.1 = i
  · subst h
    by_cases hl : x.1 < r.mrs.length <;> simp [hl]
  · simp [h]

theorem onlyExtends_refl (r : Rot) : onlyExtends r r := ⟨rfl, fun _ _ => .same⟩

theorem Extended.trans' {a b c : List Byte} (h1 : Extended a b) (h2 : Extended b c) : Extended a c := by
  induction h2 with
  | same => exact h1
  | more w d _ hd ih => exact .more w d ih hd

theorem onlyExtends_trans {a b c : Rot} (h1 : onlyExtends a b) (h2 : onlyExtends b c) : onlyExtends a c :=
  ⟨h2.1.trans h1.1, fun i hi => (h1.2 i hi).trans' (h2.2 i hi)⟩

theorem extendMr_onlyExtends (r : Rot) (x : Nat × List Byte) : onlyExtends r (extendMr r x) := by
  refine ⟨extendMr_length r x, fun i _ => ?_⟩
  rw [extendMr_nth]
  split
  · exact .more _ _ .same (sha256_length _)
  · exact .same

theorem extendAll_onlyExtends (r : Rot) (xs : List (Nat × List Byte)) : onlyExtends r (extendAll r xs) := by
  induction xs generalizing r with
  | nil => exact onlyExtends_refl r
  | cons x xs ih => exact onlyExtends_trans (extendMr_onlyExtends r x) (ih _)

theorem extendMr_mrsWf (r : Rot) (x : Nat × List Byte) (h : mrsWf r) : mrsWf (extendMr r x) := by
  refine ⟨by simp [h.1], fun m hm => ?_⟩
  rcases List.mem_or_eq_of_mem_set hm with hm | rfl
  · exact h.2 m hm
  · exact sha256_length _

theorem extendAll_mrsWf (r : Rot) (xs : List (Nat × List Byte)) (h : mrsWf r) : mrsWf (extendAll r xs) := by
  induction xs generalizing r with
  | nil => exact h
  | cons x xs ih => exact ih _ (extendMr_mrsWf r x h)

end Sys2Proof.Machine
end

