-- ==== Sys2Proof/Laws/Units.lean ====
section
/-! SUPPORT. Commands queued at bank pairs: the work that owns one is held by the units; taking no frame and no reference. -/

namespace Sys2Proof.Machine

/-- Taking no frames changes nothing. -/
@[simp] theorem takeFree_zero (c : Core) (die : Bool) : takeFree c die 0 = c := by
  cases die <;> rfl

/-- No reused columns take no tree reference. -/
@[simp] theorem treeRefs_nil (c : Core) : treeRefs c [] = ([], c) := rfl

variable {α : Type}

/-- What holds of an entry just written holds of some entry. -/
theorem any_mapSet (m : Map α) (i : Nat) (a : α) (f : Nat × α → Bool) (h : f (i, a) = true) : (mapSet m i a).any f = true := by
  induction m with
  | nil => simp [mapSet, h]
  | cons p m ih =>
    obtain ⟨k, b⟩ := p
    simp only [mapSet]
    split
    · simp [h]
    · split
      · simp [h]
      · simp [ih]

/-- A command that joins a pair's queue keeps its owner's work held. -/
theorem unitsBusy_putCmd (c : Core) (p : Nat) (x : BankCmd) : unitsBusy (putCmd c p x) x.owner = true := by
  simp only [unitsBusy, putCmd, modPair]
  refine any_mapSet _ _ _ _ ?_
  simp only [Bool.or_eq_true]
  left
  refine any_mapSet _ _ _ _ ?_
  simp [Pair.holds]

/-- So does one for a stack that is not fenced, be it queued or kept waiting for the stack's queue (R50). -/
theorem unitsBusy_enqueue (c : Core) (p : Nat) (x : BankCmd) (h : (stackOf c (p / 512)).state ≠ 2) :
    unitsBusy (enqueue c p x) x.owner = true := by
  simp only [enqueue, h, if_false]
  split
  · exact unitsBusy_putCmd c p x
  · refine any_mapSet _ _ _ _ ?_
    simp

end Sys2Proof.Machine
end

