-- ==== Sys2Proof/WellFormed.lean ====
section
/-! DEFINITION. Which terms of `Instr` are commands that the outside can send: entry sizes (R108), ring ids (R108), window, slot, vector, session, stack, pair, region and domain numbers in their ranges, and payloads of the length their rule gives. The meanings are total; none assumes this. -/

namespace Sys2Proof

open Machine

/-- R108, R118: a descriptor of a submission ring, of 32, 64 or 128 bytes. -/
def descShape (d : Desc) : Bool := d.ring < 4096 && (d.words.length = 4 || d.words.length = 8 || d.words.length = 16)

/-- R86, R87: a write carries one to eight bytes; the meaning judges its size and alignment. -/
def writeSize (n : Nat) : Bool := 1 ≤ n && n ≤ 8

/-- R94: a swap of 64 bits has one word, one of 128 bits two. -/
def swapWidth (wide : Bool) (ws : List Word) : Bool := ws.length = if wide then 2 else 1

/-- R85: the size of BAR0 and of BAR2. -/
def barSize : Nat := 2 ^ 24

/-- R85, R84: an offset of BAR0, of BAR2, or of the 4 KiB of configuration space (`bar` 8). -/
def barPlace (bar off : Nat) : Bool := (bar = 0 || bar = 2) && off < barSize || bar = 8 && off < 4096

/-- R8: session ids have 24 bits. -/
def sessionIds : Nat := 2 ^ 24

/-- R8, R108: a submission ring, or a session. -/
def ownerId (sequencer : Bool) (id : Nat) : Bool := id < if sequencer then 4096 else sessionIds

/-- R208: a bank pair of one of the eight stacks. -/
def stackPair (stack pair : Nat) : Bool := stack < 8 && pair < 512

/-- R484: the place fields of an error log entry. -/
def wherePlace (w : Where) : Bool :=
  w.level < 6 && w.region < 4 && w.cluster < 8 && w.core < 9 && w.stack < 4 && w.pair < 512

/-- R482: the number of a unit. -/
def unitPlace : UnitId → Bool
  | .core _ region cluster core => region < 4 && cluster < 8 && core < 9
  | .loftFrame _ frame => frame < 2 ^ 24
  | .bankPair stack pair => stackPair stack pair

/-- R504: the session or the model slot asked for. -/
def twinReqPlace : TwinReq → Bool
  | .pages session => session < sessionIds
  | .sheaf session => session < sessionIds
  | .tiles slot => slot < 16

/-- A command that the outside can send. -/
def Instr.wf (i : Instr) : Bool :=
  match i with
  | .nop d => descShape d
  | .fence d => descShape d
  | .xltMap d => descShape d
  | .xltUnmap d => descShape d
  | .tileCopy d _ => descShape d
  | .sessOpen d _ => descShape d
  | .sessClose d _ => descShape d
  | .sessQuery d => descShape d
  | .append d _ => descShape d
  | .turnRun d _ => descShape d
  | .turnCancel d => descShape d
  | .park d _ => descShape d
  | .revive d _ => descShape d
  | .handoverOut d _ => descShape d
  | .handoverIn d _ => descShape d
  | .prefixRegister d _ => descShape d
  | .prefixRelease d _ => descShape d
  | .grammarLoad d _ => descShape d
  | .grammarUnload d => descShape d
  | .vocabLoad d _ => descShape d
  | .vocabUnload d => descShape d
  | .modelLoad d _ => descShape d
  | .modelUnload d _ => descShape d
  | .indexCreate d _ => descShape d
  | .indexDestroy d => descShape d
  | .vecInsert d _ => descShape d
  | .vecDelete d _ => descShape d
  | .indexCompact d => descShape d
  | .search d _ => descShape d
  | .tableLoad d _ => descShape d
  | .tableUnload d => descShape d
  | .rowReplace d _ => descShape d
  | .rowPool d _ => descShape d
  | .rowUpdate d _ => descShape d
  | .accountSet d => descShape d
  | .accountDelete d => descShape d
  | .bucketSet d => descShape d
  | .meterSet d => descShape d
  | .ckptClassSet d _ => descShape d
  | .ckptStart d => descShape d
  | .restore d _ => descShape d
  | .doeDiscovery _ => true
  | .quote _ => true
  | .cert _ => true
  | .kemKey _ => true
  | .keyLoad _ => true
  | .keyDestroy _ => true
  | .ringCreate kind id => kind < 16 && id < 65536
  | .ringDestroy kind id => kind < 16 && id < 65536
  | .ringDestroyDone => true
  | .submissionTailWrite n size _ => n < 4096 && writeSize size
  | .doorbellCompareAndSwap _ bar n off wide compare swap => (bar = 0 || bar = 2) && n < 4096 && off < 4096 && swapWidth wide compare && swapWidth wide swap
  | .completionHeadWrite n size _ => n < 4096 && writeSize size
  | .streamHeadWrite n off size _ => n < 1024 && off < 8 && writeSize size
  | .eventHeadWrite n off size _ => n < 16 && off < 8 && writeSize size
  | .setupDoneWrite => true
  | .setupLockDone => true
  | .poolWindowEnable w off size _ _ => w < 16 && off < 8 && writeSize size
  | .ideRequireWrite off size _ => off < 8 && writeSize size
  | .linkHoldWrite off size _ => off < 8 && writeSize size
  | .pairEnable _ => true
  | .unpair => true
  | .tenantChange => true
  | .debugUnseal _ => true
  | .hostReset _ => true
  | .fundamentalReset _ _ => true
  | .readClearCounter bar off _ => barPlace bar off
  | .msixUnmask how vector => how < 3 && vector < 2048
  | .registerWrite bar off size _ => barPlace bar off && writeSize size
  | .powerOnReset _ => true
  | .supplyGoodAssert _ => true
  | .supplyLost _ => true
  | .perstRelease _ _ _ => true
  | .stackTraining _ trains spareRows => trains.length = 8 && spareRows.length = 8
  | .thermalTrip _ => true
  | .linkLaneRetrain lane _ => lane < 16
  | .linkDown => true
  | .linkReturn _ _ _ => true
  | .linkHoldExpiry => true
  | .surpriseRemoval => true
  | .ideIntegrityFailure slot => slot < 16
  | .tierTimeout sequencer id => ownerId sequencer id
  | .lateCompletion slot => slot < 16
  | .releaseListRetry w _ => w < 16
  | .fetchVisit ring _ => ring < 4096
  | .descriptorRoute ring => ring < 4096
  | .descriptorDispatch sequencer id _ => ownerId sequencer id
  | .batchForm _ => true
  | .stepCommit _ session _ => session < sessionIds
  | .stepFailed _ session _ => session < sessionIds
  | .streamRecordWrite ring => ring < 1024
  | .completionRecordWrite ring => ring < 4096
  | .eventRecordWrite ring => ring < 16
  | .coalesceTimerExpiry kind ring => kind = 1 && ring < 4096 || kind = 2 && ring < 1024 || kind = 3 && ring < 16
  | .bankCommandIssue stack pair => stackPair stack pair
  | .scorePartial stack pair _ => stackPair stack pair
  | .distScan stack pair _ => stackPair stack pair
  | .gatherMax stack pair _ => stackPair stack pair
  | .fill stack pair _ => stackPair stack pair
  | .unitFaultRetry stack pair _ => stackPair stack pair
  | .pairDrain stack pair => stackPair stack pair
  | .pairFenceRepair stack pair _ _ => stackPair stack pair
  | .frameMigration _ _ => true
  | .forwardSweep _ => true
  | .refreshTick stack => stack < 8
  | .refreshModeChange stack _ => stack < 8
  | .governorPeriod _ _ _ => true
  | .governorLoan _ _ => true
  | .coreSwap _ region cluster core => region < 4 && cluster < 8 && core < 9
  | .clusterFence _ region cluster => region < 4 && cluster < 8
  | .regionFence _ region => region < 4
  | .stackFence stack => stack < 8
  | .dieLost _ => true
  | .loftFrameRetire _ _ => true
  | .parityReplay _ _ wh _ session _ => wherePlace wh && session < sessionIds
  | .sessionLost session cause => session < sessionIds && 1 ≤ cause && cause ≤ 3
  | .idleAgeTick _ => true
  | .policyPark session _ => session < sessionIds
  | .bucketRefill _ _ => true
  | .meterRefill _ _ => true
  | .errorRateWindowEnd _ => true
  | .errorRateRecord _ cls => 1 ≤ cls && cls ≤ 8
  | .watchTrigger _ => true
  | .unitPeriodEnd _ => true
  | .unitThresholdAction unit => unitPlace unit
  | .errorLogEntry _ cls kind severity _ wh session status opcode _ => cls ≤ 8 && kind < 256 && severity < 4 && wherePlace wh && session < sessionIds && status < 256 && opcode < 256
  | .ckptTimerExpiry cls => cls < 8
  | .ckptStepTrigger cls => cls < 8
  | .ckptCut _ => true
  | .haspSet session => session < sessionIds
  | .epochWrite session _ => session < sessionIds
  | .epochEnd _ => true
  | .ckptPendingStart => true
  | .hotCopyFill _ => true
  | .twinFrameReceive frame => frame.length = 512
  | .twinFrameReplay _ => true
  | .twinLaneSpare lane _ => lane < 34
  | .eyeCheck bad _ => bad.all (· < 34)
  | .heartbeatSend => true
  | .heartbeatSilence _ => true
  | .hello _ => true
  | .sessionSync session _ => session < sessionIds
  | .twinSyncDone _ _ => true
  | .unpairReceived => true
  | .giveUpReceived => true
  | .witnessSwap _ => true
  | .takeover => true
  | .takeoverRingHold => true
  | .takeoverLeaseSwap session _ => session < sessionIds
  | .mirrorRecordApply r _ => r.session < sessionIds
  | .twinRequest r _ => twinReqPlace r
  | .frameGrant _ _ => true
  | .signingRecord bytes => bytes.length = 16
  | .domainPowerOff domain => domain < 112
  | .domainWake domain => domain < 112
  | .pllLock _ pll => pll < 3
  | .deepIdleEntry => true
  | .deepIdleWake => true
  | .ideStreamSecure slot => slot < 16
  | .ideKeySetSwitch slot _ => slot < 16
  | .pcieCompletionTimeout fetch sequencer id => if fetch then id < 4096 else ownerId sequencer id
  | .thermalTripCooled _ => true

end Sys2Proof
end

