-- ==== Sys2Proof/Tests/Slice0.lean ====
section
/-! SUPPORT. The model's own tests: small states, one command each, and a witness for the hypotheses of each statement. -/

namespace Sys2Proof.Tests

set_option Elab.async false

open Sys2Proof.Machine

/-! ## States -/

/-- A completion ring of 16 records. -/
def cq : RecRing := { base := 4096, log2 := 4, irqEn := true, vector := 3, count := 4, time := 10 }

/-- A generation 3 submission ring of 16 entries with a stream ring. -/
def sq : SubRing := { base := 8192, log2 := 4, gen := 3, cq := 1, stream := some 5, prefetch := 8 }

/-- A device that serves: ring 2 completes into ring 1 and streams into ring 5; account 7 is set. -/
def up : Core :=
  { setupDone := true
    link := { up := true, speed := 32, width := 16 }
    rings := { subs := [(2, sq)], cqs := [(1, cq)], streams := [(5, cq)] }
    mem := { free := ⟨100, 200⟩, stagingFree := ⟨8, 8⟩, barnFree := ⟨4, 4⟩, loftFree := ⟨50, 50⟩ }
    acctCfg := [(7, { cir := 1000, weight := 1, cbs := 5000 })]
    obj := { models := [(0, { state := 2, image := [] })] }
    power := { on := true, ready := true, perst := false, trained := true } }

/-- A state around a core. -/
def st (c : Core) : State := ⟨[], {}, c⟩

/-- A generation 3 descriptor on ring 2: opcode, session, account 7, further words. -/
def ds (op sid : Nat) (ws : List Nat) : Desc :=
  ⟨2, 9, (BitVec.ofNat 64 (op + 768 + 65536 * sid + 7 * 2 ^ 40) : Word) :: (1234 : Word) :: ws.map (BitVec.ofNat 64)⟩

/-! ## Ill-formed terms -/

/-- One ill-formed term for each check of `Instr.wf`. -/
def illFormed : List Instr :=
  [ .nop ⟨4096, 0, []⟩, .nop ⟨0, 0, [0, 0, 0]⟩, .fence ⟨4096, 0, [0, 0, 0, 0]⟩, .append ⟨2, 0, [0]⟩ [],
    .ringCreate 16 0, .ringCreate 0 65536, .ringDestroy 16 0, .ringDestroy 0 65536,
    .submissionTailWrite 4096 8 0, .submissionTailWrite 0 9 0, .submissionTailWrite 0 0 0,
    .doorbellCompareAndSwap .compareAndSwap 1 0 0 false [0] [0], .doorbellCompareAndSwap .compareAndSwap 2 4096 0 false [0] [0],
    .doorbellCompareAndSwap .compareAndSwap 2 0 4096 false [0] [0], .doorbellCompareAndSwap .compareAndSwap 2 0 0 false [0, 0] [0],
    .doorbellCompareAndSwap .compareAndSwap 2 0 0 true [0, 0] [0],
    .completionHeadWrite 4096 8 0, .completionHeadWrite 0 9 0, .streamHeadWrite 1024 0 4 0, .streamHeadWrite 0 8 4 0,
    .eventHeadWrite 16 0 4 0, .eventHeadWrite 0 8 4 0, .poolWindowEnable 16 0 8 1 [], .poolWindowEnable 1 8 8 1 [],
    .ideRequireWrite 8 4 0, .linkHoldWrite 8 4 0, .readClearCounter 0 (2 ^ 24) 8, .readClearCounter 8 4096 4,
    .registerWrite 1 0 8 0, .registerWrite 0 (2 ^ 24) 8 0, .registerWrite 0 0 9 0, .msixUnmask 3 0, .msixUnmask 0 2048,
    .stackTraining 0 [true] [0], .linkLaneRetrain 16 32, .ideIntegrityFailure 16, .lateCompletion 16, .ideStreamSecure 16, .ideKeySetSwitch 16 false,
    .tierTimeout true 4096, .tierTimeout false (2 ^ 24), .releaseListRetry 16 [], .fetchVisit 4096 .late, .descriptorRoute 4096,
    .descriptorDispatch true 4096 [], .pcieCompletionTimeout true false 4096, .stepCommit false (2 ^ 24) true, .stepFailed false (2 ^ 24) [],
    .streamRecordWrite 1024, .completionRecordWrite 4096, .eventRecordWrite 16,
    .coalesceTimerExpiry 0 0, .coalesceTimerExpiry 1 4096, .coalesceTimerExpiry 2 1024, .coalesceTimerExpiry 3 16 ]

/-- As above, for units, repair, checkpoints, the twin, security and power. -/
def illFormedUnits : List Instr :=
  [ .bankCommandIssue 8 0, .bankCommandIssue 0 512, .scorePartial 8 0 .done, .distScan 8 0 .done, .gatherMax 8 0 .done,
    .fill 8 0 .done, .unitFaultRetry 8 0 false, .pairDrain 0 512, .pairFenceRepair 8 0 0 true, .refreshTick 8, .refreshModeChange 8 0,
    .stackFence 8, .coreSwap false 4 0 0, .coreSwap false 0 8 0, .coreSwap false 0 0 9, .clusterFence false 4 0, .regionFence false 4,
    .parityReplay false .coreQueue { level := 6 } [] 0 0, .parityReplay false .coreQueue {} [] (2 ^ 24) 0,
    .sessionLost 1 0, .sessionLost 1 4, .policyPark (2 ^ 24) [], .errorRateRecord false 0, .errorRateRecord false 9,
    .unitThresholdAction (.core false 4 0 0), .unitThresholdAction (.loftFrame false (2 ^ 24)), .unitThresholdAction (.bankPair 8 0),
    .errorLogEntry false 9 0 0 false {} 0 0 0 0, .errorLogEntry false 0 0 4 false {} 0 0 0 0,
    .errorLogEntry false 0 0 0 false { stack := 4 } 0 0 0 0, .ckptTimerExpiry 8, .ckptStepTrigger 8, .haspSet (2 ^ 24),
    .epochWrite (2 ^ 24) [], .twinFrameReceive [], .twinLaneSpare 34 true, .eyeCheck [34] true, .sessionSync (2 ^ 24) [],
    .takeoverLeaseSwap (2 ^ 24) [], .mirrorRecordApply ⟨false, 2 ^ 24, 0, 0, .closed 0⟩ [], .twinRequest (.tiles 16) [],
    .twinRequest (.pages (2 ^ 24)) [], .signingRecord [0], .domainPowerOff 112, .domainWake 112, .pllLock false 3 ]

theorem test_illFormed : (illFormed.all fun i => !i.wf) = true := by decide +kernel

theorem test_illFormedUnits : (illFormedUnits.all fun i => !i.wf) = true := by decide +kernel

/-- The commands of the small states above are well formed. -/
theorem test_wellFormed : ([Instr.sessOpen (ds 0x10 9 [0, 0]) [], .submissionTailWrite 2 8 1, .stepCommit false 9 true].all Instr.wf) = true := by
  decide +kernel

/-! ## Helpers -/

/-- A model header: 1 layer, hidden 256, 1 query and 1 KV head of 64, vocabulary 256, KV in format 6. -/
def img : List Byte :=
  wordsBytes [0x4F564D44 + 2 ^ 32, 64, 1 + 256 * 2 ^ 8 + 2 ^ 24 + 2 ^ 32 + 64 * 2 ^ 40, 256, 6 * 2 ^ 40, 0, 0, 0]

/-- An entry of account 7 under model slot 0. -/
def en (s : SState) : Entry := { state := s, account := 7, nextPosition := 3, resident := 3, rootFrame := 1, privateFrames := 3 }

/-- A warm session with a pending token and no columns. -/
def wm : Warm := { ctlLeaf := { frame := 2 }, tables := [1, 3], ctl := { pendingTok := some 5 } }

/-- Session 9 with an entry and a warm state. -/
def upSess (e : Entry) (w : Warm) : Core :=
  { up with
    sess := { up.sess with dir := [(9, e)], warm := [(9, w)] }
    mem := { up.mem with frames := [(1, { die := false }), (2, { die := false }), (3, { die := false })], nextFrame := 4 }
    obj := { up.obj with models := [(0, { state := 2, image := img })] } }

/-- The floor at 0 frames and 5,000 credits. -/
def upLow : Core := { up with regs := [(0x200108, 0), (0x500208, 5000)] }

/-- A device with no stream required and none failed bars nothing. -/
theorem barredAt_quiet {c : Core} (h : regGet c 0x10 = 0) (h' : c.link.insecure = 0) (slot a : Nat) : barredAt c slot a = false := by
  simp [barredAt, slotBarred, h, h', bit]

theorem hostAnswers_quiet {c : Core} (h : regGet c 0x10 = 0) (h' : c.link.insecure = 0) (u : c.link.up = true) (t : 0 < tagsFree c) :
    hostAnswers c := ⟨u, barredAt_quiet h h' 0, t⟩

/-! ## The block -/

/-! ## Witnesses: the hypotheses of each statement met together, clause by clause -/

theorem wit_measurements : mrsWf State.reset.rot ∧ step State.reset = .next (tick State.reset) ∧
    (∀ b rest, State.reset.pending ≠ .powerOnReset b :: rest) ∧ (∀ r rest, State.reset.pending ≠ .supplyLost r :: rest) ∧
    ∀ rest, State.reset.pending ≠ .surpriseRemoval :: rest :=
  ⟨⟨rfl, by decide⟩, rfl, by simp [State.reset], by simp [State.reset], by simp [State.reset]⟩

/-! ## Rings and doorbells -/

/-- Ring 2 with a descriptor not yet completed. -/
def upOpen : Core := { up with rings := { up.rings with subs := [(2, { sq with opened := [8] })] } }

/-- The control registers of a create command: 16 entries, generation 3, vector and interrupts, completion ring 1, 8 credits. -/
def upRegs : Core :=
  { up with regs := [(0x10010, 0x5000), (0x10018, 4 + 3 * 32 + 128 + 9 * 256), (0x10020, 1 + 8 * 2 ^ 24), (0x10028, 4 + 10 * 65536)] }

/-- A record of each kind waiting in the queue. -/
def upRec (kind ring : Nat) : Core :=
  { up with rings := { up.rings with cqs := [(1, { cq with irqEn := false })], queue := [⟨kind, ring, [1, 2, 3], false, [9], 64⟩] } }

theorem wit_nopAndFence : serving up = true ∧ (ds 0 0 []).fenceBefore = false ∧ (ds (2 ^ 10) 0 []).fenceBefore = true ∧
    earlierOpen up (ds (2 ^ 10) 0 []) = false ∧ earlierOpen up (ds 1 0 []) = false ∧
    serving upOpen = true ∧ mapGet upOpen.rings.subs (ds 1 0 []).ring = some { sq with opened := [8] } ∧
    earlierOpen upOpen (ds (2 ^ 10) 0 []) = true ∧ earlierOpen upOpen (ds 1 0 []) = true := by decide

theorem wit_completionRecord : mapGet up.rings.subs (ds 0 0 []).ring = some sq ∧ mapGet up.rings.cqs sq.cq = some cq ∧
    cq.errored = false ∧ cq.destroying = false ∧ up.rings.queue.length + up.rings.keep.length < 4096 ∧ up.rings.engines = [] := by decide

theorem wit_ringsCreated : ready upRegs = true ∧ upRegs.power.deep = false ∧ upRegs.rings.window = none ∧
    4 ≤ regField upRegs 0x10018 4 0 ∧ regField upRegs 0x10018 4 0 ≤ 16 ∧
    (mapHas upRegs.rings.subs 4095 = false ∧ 1 ≤ regField upRegs 0x10018 6 5 ∧ 1 ≤ regField upRegs 0x10020 30 24 ∧
      regField upRegs 0x10020 30 24 ≤ 64 ∧ mapHas upRegs.rings.cqs (regField upRegs 0x10020 11 0) = true ∧
      ringErrored upRegs 1 (regField upRegs 0x10020 11 0) = false ∧ regField upRegs 0x10020 22 22 = 0) ∧
    (4095 < ringLimit 1 ∧ 1023 < ringLimit 2 ∧ 15 < ringLimit 3 ∧ recRing upRegs 1 4095 = none ∧ recRing upRegs 2 1023 = none ∧
      recRing upRegs 3 15 = none ∧ regField upRegs 0x10018 18 8 ≤ 2047 ∧ 1 ≤ regField upRegs 0x10028 7 0 ∧
      1 ≤ regField upRegs 0x10028 31 16) := by decide

/-- A ring with a stream named: the field that names it, and its enable. -/
theorem wit_ringsCreated_stream : let c := { upRegs with regs := mapSet upRegs.regs 0x10020 (1 + 5 * 2 ^ 12 + 2 ^ 22 + 8 * 2 ^ 24) }
    regField c 0x10020 22 22 = 1 ∧ mapHas c.rings.streams (regField c 0x10020 21 12) = true := by decide

/-- The device without submission rings, a destroy under way in a window. -/
def upWindow (kind id : Nat) : Core := { up with rings := { up.rings with subs := [], window := some (kind, id) } }

theorem wit_ringsDestroyed : let c := { up with rings := { up.rings with subs := [], events := [(0, cq)] } }
    ready c = true ∧ c.power.deep = false ∧ c.rings.window = none ∧ mapGet up.rings.subs 2 = some sq ∧
    recRing c 1 1 = some cq ∧ recRing c 2 5 = some cq ∧ recRing c 3 0 = some cq ∧
    (c.rings.subs.any fun p => (1 == 1 && p.2.cq == 1) || (1 == 2 && p.2.stream == some 1)) = false ∧ takeNeeds c = false ∧
    alive (upWindow 1 1) = true ∧
    subDrained { up with rings := { up.rings with window := some (0, 2) } } 2 = true ∧
    subDrained { upOpen with rings := { upOpen.rings with window := some (0, 2) } } 2 = false := by decide

theorem wit_tailWrites : ready up = true ∧ up.power.deep = false ∧ mapGet up.rings.subs 2 = some sq ∧
    ((16 : Word).toNat % 2 ^ 32 + 2 ^ 32 - sq.fetched) % 2 ^ 32 ≤ 2 ^ sq.log2 ∧
    2 ^ sq.log2 < ((17 : Word).toNat % 2 ^ 32 + 2 ^ 32 - sq.fetched) % 2 ^ 32 ∧
    mapGet up.rings.subs 4095 = none ∧ (0 : Word).toNat = sq.tail ∧ (1 : Word).toNat ≠ sq.tail := by decide

theorem wit_tailWrites_swap : let c := { up with rings := { up.rings with cqs := [(1, cq), (2, { cq with written := 5, head := 3 })] } }
    let q : RecRing := { cq with written := 5, head := 3 }
    mapGet c.rings.subs 2 = some sq ∧ mapGet c.rings.cqs 2 = some q ∧ (0 : Word).toNat = sq.tail ∧
    (3 : Word).toNat = q.head % 2 ^ 32 ∧ ((16 : Word).toNat % 2 ^ 32 + 2 ^ 32 - sq.fetched) % 2 ^ 32 ≤ 2 ^ sq.log2 ∧
    headAdvance q ((5 : Word).toNat % 2 ^ 32) ≤ q.written - q.head ∧ (2 : Word).toNat ≠ q.head % 2 ^ 32 := by decide

theorem wit_headWrites : let q : RecRing := { cq with written := 5, head := 3 }
    ready up = true ∧ up.power.deep = false ∧ q.written - q.head < 2 ^ 32 ∧
    headAdvance q ((5 : Word).toNat % 2 ^ 32) ≤ q.written - q.head ∧
    q.written - q.head < headAdvance q ((6 : Word).toNat % 2 ^ 32) ∧ up.rings.events = [] ∧ q.dropped = 0 := by decide

theorem wit_recordWrites : let q : RecRing := { cq with irqEn := false }
    alive (upRec 1 1) = true ∧ linkHeld (upRec 1 1) = false ∧ q.errored = false ∧ q.destroying = false ∧
    q.written - q.head < 2 ^ q.log2 ∧ q.dropped = 0 ∧ (upRec 1 1).rings.engines = [] ∧ (upRec 1 1).rings.events = [] ∧
    recordFails (upRec 1 1) q 1 = false ∧ bytesFail (upRec 1 1) ⟨1, 1, [1, 2, 3], false, [9], 64⟩ = false ∧ mapGet (upRec 1 1).rings.cqs 1 = some q ∧
    takeRec (upRec 1 1).rings.queue 1 1 = some (⟨1, 1, [1, 2, 3], false, [9], 64⟩, []) ∧
    recordFails (upRec 2 5) q 2 = false ∧ bytesFail (upRec 2 5) ⟨2, 5, [1, 2, 3], false, [9], 64⟩ = false ∧
    takeRec (upRec 2 5).rings.queue 2 5 = some (⟨2, 5, [1, 2, 3], false, [9], 64⟩, []) ∧
    recordFails (upRec 3 1) q 3 = false ∧ bytesFail (upRec 3 1) ⟨3, 1, [1, 2, 3], false, [9], 64⟩ = false ∧
    takeRec (upRec 3 1).rings.queue 3 1 = some (⟨3, 1, [1, 2, 3], false, [9], 64⟩, []) := by decide

/-! ## Fetching, records and waiting -/

/-- Ring 2 with descriptors in its fetch buffer. -/
def upBuf (ds : List Desc) : Core :=
  { up with rings := { up.rings with subs := [(2, { sq with tail := 5, fetched := 2, spent := 2, buffer := ds })] } }

/-- Session 9 and ring 2 each hold one descriptor. -/
def upHeld : Core :=
  { up with sess := { up.sess with held := [(9, [ds 0x14 9 []])], seqHeld := [(2, [ds 0x64 0 []])] } }

/-- Session 9 has a descriptor in progress and `n` behind it. -/
def upBusy (n : Nat) : Core :=
  { up with sess := { up.sess with inProg := [(9, ds 0x14 9 [])], held := [(9, List.replicate n (ds 0x11 9 []))] } }

/-- MSI-X on; ring 1 has two records not signalled; vector 3's message stands pending. -/
def upMsix (pend : Map Unit) (mask : Nat) : Core :=
  { up with
    regs := [(0x8030, 0x7000), (0x8038, 0x12345678 + mask * 2 ^ 32)]
    rings := { up.rings with cqs := [(1, { cq with unsignalled := 2 })], msixEnable := true, msixPending := pend } }

theorem wit_fetchVisit : serving (upBuf []) = true ∧ linkHeld (upBuf []) = false ∧ nextRing (upBuf []) = some 2 ∧
    3 = min (min (min (8 - 2) ((5 + 2 ^ 32 - 2) % 2 ^ 32)) (min 8 (2 ^ 4 - 2 % 2 ^ 4))) (1024 - fetchBuffered (upBuf [])) ∧
    ∀ b, Ans.late ≠ .data b := ⟨by decide, by decide, by decide, by decide, by simp⟩

theorem wit_fetchVisit_answers : hostAnswers (upBuf []) := hostAnswers_quiet (by decide) (by decide) (by decide) (by decide)

theorem wit_wrongGeneration : serving (upBuf [⟨2, 9, [0x13 + 512]⟩]) = true ∧ fenceOpen (upBuf [⟨2, 9, [0x13 + 512]⟩]) 2 = false ∧
    (⟨2, 9, [0x13 + 512]⟩ : Desc).generation ≠ sq.gen := by decide

theorem wit_routed : (ds 0x64 0 []).ring = 2 ∧ fenceOpen (upBuf [ds 0x64 0 []]) 2 = false ∧ genericCheck (upBuf [ds 0x64 0 []]) 3 (ds 0x64 0 []) = none ∧
    (ds 0x64 0 []).session = 0 ∧ (ds 0x64 0 []).fenceBefore = false ∧ 1 < (ds 0x64 0 []).opcode ∧ (ds 0x64 0 []).opcode ≠ 0x12 ∧ (ds 0x64 0 []).opcode ≠ 0x15 ∧
    serving (upBuf [ds 0x13 9 []]) = true ∧ genericCheck (upBuf [ds 0x13 9 []]) 3 (ds 0x13 9 []) = none ∧ (ds 0x13 9 []).session ≠ 0 ∧ (ds 0x13 9 []).fenceBefore = false ∧
    1 < (ds 0x13 9 []).opcode ∧ (ds 0x13 9 []).opcode ≠ 0x12 ∧ (ds 0x13 9 []).opcode ≠ 0x15 ∧
    routerHeld (upBuf [ds 0x13 9 []]) (sessionDie (upBuf [ds 0x13 9 []]) 9) < 16384 ∧
    (heldOf (upBuf [ds 0x13 9 []]) 9).length < 15 := by decide

theorem wit_fifteenHeld : serving (upBusy 15) = true ∧ sessionRow (ds 0x13 9 []) [] = some (.append (ds 0x13 9 []) []) ∧
    mapHas (upBusy 15).sess.inProg 9 = true ∧ (heldOf (upBusy 15) 9).length = 15 ∧ (heldOf (upBusy 14) 9).length < 15 ∧
    mirrored (upBusy 15) 9 = false := by decide

theorem wit_dispatch : serving upHeld = true ∧ upHeld.sess.waiting = [] ∧
    sessionRow (ds 0x14 9 []) [] = some (.turnRun (ds 0x14 9 []) []) ∧ mapHas upHeld.sess.inProg 9 = false ∧
    heldOf upHeld 9 = [ds 0x14 9 []] ∧ sequencerRow (ds 0x64 0 []) [] = some (.search (ds 0x64 0 []) []) ∧
    mapHas upHeld.sess.seqProg 2 = false ∧ seqHeldOf upHeld 2 = [ds 0x64 0 []] := by decide

theorem wit_interrupts : ready (upMsix [] 0) = true ∧ (upMsix [] 0).power.deep = false ∧ linkHeld (upMsix [] 0) = false ∧ barredAt (upMsix [] 0) 0 (regGet (upMsix [] 0) (0x8000 + 16 * 3)) = false ∧
    (upMsix [] 0).rings.msixEnable = true ∧ recRing (upMsix [] 0) 1 1 = some { cq with unsignalled := 2 } ∧
    (upMsix [] 0).rings.functionMask = false ∧ cq.vector < 2048 ∧ cq.irqEn = true ∧ vectorMasked (upMsix [] 0) 3 = false ∧
    vectorMasked (upMsix [] 1) 3 = true ∧ (upMsix [(3, ())] 1).rings.msixPending = [(3, ())] := by decide

/-! ## Sessions -/

/-- A TURN_RUN of 4 tokens at temperature 0 into 64 bytes at 4096. -/
def turnD : Desc := ds 0x14 9 [4096, 4 + 64 * 2 ^ 32, 0, 0x3F800000 * 2 ^ 32, 0x3F800000 + 2 ^ 32, 0]

/-- Session 9 is QUEUED with a turn, alone in account 7's decode queue on die 0. -/
def turn1 : Turn :=
  { desc := turnD, maxTokens := 4, outBuf := 4096, outLen := 64, stops := [], temperature := 0, topP := 0, repPenalty := 0, topK := 0 }

/-- Session 9 in a turn, QUEUED on die 0 or RUNNING with its row in the step. -/
def upTurn (st : SState) (rows : List Row) (q : List Nat) : Core :=
  let c := upSess { en st with turn := 1, markValid := true, markPosition := 3 }
    { wm with
      room0 := 10
      turn := some turn1
      mark := some { nextPosition := 3, resident := 3, ctl := wm.ctl, startWaiting := false, openColumn := none
                     privateFrames := 3, tables := 2, leafTabs := [], mapPages := [] } }
  { c with
    sess := { c.sess with inProg := [(9, turnD)] }
    sched := ⟨{ accts := [(7, { c := 5000, decodeQ := q })], rows := rows }, {}⟩ }

theorem wit_sessOpen : let d := ds 0x10 11 [0, 42]
    (serving up = true ∧ mapHas up.sess.inProg d.session = false ∧ heldOf up d.session = []) ∧
    (up.ckpt.running = none ∧ mapHas up.sess.reread d.session = false ∧ up.twin.state ≠ 2 ∧ up.twin.state ≠ 3) ∧
    d.session ≠ 0 ∧ d.account ≠ 0 ∧ (entryOf up d.session).state = .free ∧ mapHas up.acctCfg d.account = true ∧
    (loadedModel up (d.field 2 3 0 0)).isSome = true ∧ d.field 2 16 16 0 = 0 ∧ d.field 2 63 32 0 = 0 ∧ 3 ≤ freeOf up true ∧
    freeOf up false < freeOf up true := by decide

theorem wit_sessions (e : Entry) (w : Warm) : sessFree (upSess e w) (ds 0x11 9 []) ∧ plainSession (upSess e w) 9 ∧
    (e.account = 7 → ownAccount (upSess e w) (ds 0x11 9 [])) :=
  ⟨⟨rfl, rfl, rfl⟩, ⟨rfl, rfl, by simp [upSess, up], by simp [upSess, up]⟩, fun h => .inr h⟩

theorem wit_sessClose : (entryOf (upSess (en .idle) wm) 9).state = .idle ∧ (entryOf (upSess (en .waiting) wm) 9).state = .waiting ∧
    (entryOf (upSess (en .parked) wm) 9).state = .parked ∧ (entryOf (upSess (en .lost) wm) 9).state = .lost ∧
    mapGet (upSess (en .lost) wm).mem.index 9 = none ∧ (entryOf (upSess (en .idle) wm) 8).state = .free := by decide

theorem wit_sessQuery : (ds 0x12 9 [64]).field 2 63 0 0 % 64 = 0 ∧ (ds 0x12 9 [64]).field 2 63 0 0 ≠ 0 ∧
    (ds 0x12 9 [0]).field 2 63 0 0 = 0 ∧ (ds 0x12 9 [32]).field 2 63 0 0 % 64 ≠ 0 := by decide

theorem wit_hostAnswers (e : Entry) (w : Warm) : hostAnswers (upSess e w) := hostAnswers_quiet rfl rfl rfl (show 0 < tagsFree (upSess {} wm) by decide)

theorem wit_append : let c := upSess (en .idle) wm
    let d : Desc := ⟨2, 9, (BitVec.ofNat 64 (0x13 + 768 + 65536 * 9 + 7 * 2 ^ 40 + 2 ^ 57) : Word) :: 1 :: [4096, 2]⟩
    let e := entryOf c 9
    let n := d.field 3 31 0 0
    let seg := segmentToks (vocabOfSlot c e.modelSlot) wm.ctl d (bytesAt (List.replicate 8 0) 0 8)
    let all := wm.ctl.pendingTok.toList ++ seg.1
    bit d.flags 1 = true ∧ e.state = .idle ∧ mapGet c.mem.windows 0 = none ∧ 0 < n ∧ n ≤ 4194304 ∧ d.field 2 63 0 0 % 4 = 0 ∧
    (∀ i, i < 2 → leAt (bytesAt (List.replicate 8 0) 0 8) (4 * i) 4 < miVocab (sessImg c 9)) ∧
    ((mapGet c.acctCfg e.account).map (·.mEnable)).getD false = false ∧ seg.1 ≠ [] ∧ 2 ≤ all.length ∧
    intakeUsed c e.homeDie < 256 ∧ tokenizerStalls c e.homeDie = false ∧
    appendShort c (sessImg c 9) wm e.homeDie e.nextPosition (all.length - 1) = false ∧
    (⟨2, 9, [BitVec.ofNat 64 (0x13 + 768 + 65536 * 9 + 7 * 2 ^ 40), 1, 4096, 0]⟩ : Desc).field 3 31 0 0 = 0 := by decide

theorem wit_turnRun : let c := { upSess (en .idle) wm with regs := [(0x500140, 0)] }
    let e := entryOf c 9
    mapGet c.rings.subs turnD.ring = some sq ∧ sq.stream.isSome = true ∧ turnFieldsBad turnD = false ∧ turnD.field 4 63 0 0 = 0 ∧
    turnD.field 7 13 12 0 = 0 ∧ wm.ctl.pendingTok.isSome = true ∧ e.state = .idle ∧ e.turn < 0xFFFFFFFF ∧
    e.grammarBound = false ∧ blocked c e.account = false ∧ regField c 0x500140 0 0 = 0 ∧ markFails c e (pageP (sessImg c 9)) wm = none ∧
    turnShort (sessImg c 9) e.homeDie e.nextPosition (turnD.field 3 23 0 0) ⟨c, wm⟩ = false := by decide

theorem wit_turnCancel : let d := ds 0x15 9 []
    (entryOf (upSess (en .queued) wm) 9).state = .queued ∧ (entryOf (upSess (en .queued) wm) 9).account = d.account ∧
    (entryOf (upSess (en .lost) wm) 9).state = .lost ∧ (entryOf (upSess (en .idle) wm) 9).state ≠ .queued ∧
    (entryOf (upSess { en .idle with account := 8 } wm) 9).account ≠ d.account := by decide

theorem wit_batchForm : let c := upTurn .queued [] [9]
    serving c = true ∧ c.ckpt.running = none ∧ (c.levels.get false).lost = false ∧ c.twin.gaveUp = false ∧ c.twin.ringHold = false ∧
    (c.sched.get false).rows = [] ∧ (c.sched.get false).batches = [] ∧ (c.sched.get false).waitMirror = [] ∧
    (c.sched.get false).accts = [(7, { c := 5000, decodeQ := [9] })] ∧ classOf c false 7 = some 0 ∧ decodable c 9 = true ∧
    (entryOf c 9).account = 7 ∧ (entryOf c 9).homeDie = false ∧ (loadedModel c (entryOf c 9).modelSlot).isSome = true ∧
    stalls c 9 = false ∧ 0 < regField c 0x500100 12 0 ∧ 0 < regField c 0x500100 46 32 := by decide

theorem wit_stepFailed : let c := upTurn .running [{ session := 9, account := 7 }] []
    ready c = true ∧ plainSession c 9 ∧ (c.sched.get false).rows = [{ session := 9, account := 7 }] ∧ worstFault [.dataError, .fenced] ≠ none ∧
    worstFault [.dataError, .fenced] ≠ some .lost ∧ (entryOf c 9).cancelPending = false ∧ (entryOf c 9).state = .running ∧
    (mapGet c.sess.warm 9).isSome = true := by unfold plainSession; decide

/-- Session 9 RUNNING with its row in the step, its column open, under a model whose image holds no layers; `chunk` positions of an APPEND. -/
def upStep (chunk : Nat) : Core :=
  let c := upTurn (if chunk = 0 then .running else .idle) [{ session := 9, account := 7, chunk := chunk }] []
  let ln : Lane :=
    { desc := ds 0x13 9 [4096, 8], green := true, toks := [1, 2], done := 0, ready := 2, ctl := wm.ctl, cols := [(0, { slot := 0 })], invalid := 0, taken := 0 }
  { c with
    obj := { c.obj with models := [(0, { state := 2, image := [] })] }
    sess := { c.sess with warm := c.sess.warm.map fun p => (p.1, { p.2 with columns := [(0, { slot := 0 })], lane := some ln }) } }

theorem wit_stepCommit : serving (upStep 0) = true ∧ (upStep 0).twin.gaveUp = false ∧ plainSession (upStep 0) 9 ∧
    ((upStep 0).sched.get false).rows = [{ session := 9, account := 7 }] ∧ 9 < 2 ^ 24 ∧ ({ session := 9, account := 7 } : Row).bucket = 0 ∧ ({ session := 9, account := 7 } : Row).faults = [] ∧
    unitsBusy (upStep 0) (.step false 9) = false ∧ (∃ c', decodeCommit (upStep 0) 9 true = .done c') ∧
    (entryOf (upStep 0) 9).state = .running ∧ ((upStep 1).sched.get false).rows = [{ session := 9, account := 7, chunk := 1 }] ∧
    unitsBusy (upStep 1) (.step false 9) = false ∧ ∃ c', chunkCommit (upStep 1) 9 1 = .done c' :=
  ⟨by decide, by decide, by unfold plainSession; decide, by decide, by decide, rfl, rfl, by decide, ⟨_, rfl⟩, by decide, by decide, by decide, ⟨_, rfl⟩⟩

theorem wit_stepCommit_decode : let c := upStep 0
    let w : Warm := (mapGet c.sess.warm 9).getD wm
    let e := entryOf c 9
    let img := sessImg c 9
    let p := e.nextPosition
    let pass := forwardToken img (kvOfColumns c e img w.columns) 5 p (attended w.columns (pageP img) p)
    w.turn = some turn1 ∧ w.ctl.pendingTok = some 5 ∧ e.cancelPending = false ∧ p < positionLimit ∧
    (∀ q ∈ w.columns, q.2.pooled = false) ∧ (∀ f ∈ rangeFrames w w.columns, frameBad c f = false) ∧ mapGet w.columns (p / pageP img) = some { slot := 0 } ∧ (∀ l ∈ ({ slot := 0 } : Column).leaves, l.hold = false) ∧
    (w.ctlLeaf.hold = false ∧ (w.ctlLeaf.cow = true → frameCount c w.ctlLeaf.frame ≤ 1)) ∧ pass.bad = false ∧ sessionGrammar c e = none ∧
    badLogits (logitsOf img pass.x) (fun _ => true) (fun i => w.ctl.seen.contains i) turn1.repPenalty turn1.temperature = false ∧
    recordRoom (dropKeep c 9) turn1 = true := by
  decide

/-! ## Objects -/

/-- A grammar image of one state that admits nothing, over vocabulary 77 of 256 tokens. -/
def grImg : List Byte :=
  let h := wordsBytes [0x4F564752 + 2 ^ 32, 256, 1 + 2 ^ 32, 0, 0, 77, 260]
  let b := h ++ natLe 8 (crc32c h).toNat ++ List.replicate 192 0
  b ++ checkArray b

/-- A vocabulary of 256 tokens, by its header alone. -/
def vocab77 : Vocab := { image := wordsBytes [0x4F565643 + 2 ^ 32, 256], frames := 1, loft := 1 }

/-- A model in slot 2, a vocabulary 66, a grammar 4 and a prefix 8 that nothing names. -/
def upObj : Core :=
  let p : Prefix := { slot := 3, stamp := 0, toks := [1], dies := 1, pages := ⟨[[7]], []⟩ }
  { up with
    obj := { up.obj with
      models := [(2, { state := 2, image := img, frames := ⟨5, 6⟩ })], vocabs := [(66, { image := [], frames := 2, loft := 3 })]
      grammars := [(4, { image := grImg, frames := 1, loft := 1 })], prefixes := [(8, p)] }
    mem := { up.mem with frames := [(7, { die := false })] } }

/-- Session 9 names grammar 4 and prefix 8. -/
def upNamed : Core :=
  { upObj with sess := { up.sess with dir := [(9, { en .idle with grammarBound := true, grammarId := 4, prefixHandle := 8 })] } }

theorem wit_unloads : let d := ds 0x51 0 [0, 0, 2]
    serving upObj = true ∧ mapHas upObj.sess.seqProg d.ring = false ∧ seqHeldOf upObj d.ring = [] ∧ d.session = 0 ∧
    (mapGet upObj.obj.models (d.field 4 3 0 0)).map (·.state) = some 2 ∧ slotLoading upObj d 2 = false ∧ slotNamed upObj 2 = false ∧
    slotPrefixes upObj 2 = [] ∧ mapHas upObj.obj.vocabs 66 = true ∧ vocabNamed upObj (ds (0x42 + 2 ^ 56) 0 [0, 0, 66]) 66 = false ∧
    mapHas upObj.obj.grammars 4 = true ∧ grammarUsers upObj 4 = 0 ∧ 0 < grammarUsers upNamed 4 ∧ serving upNamed = true := by decide

set_option maxRecDepth 100000 in
theorem wit_grammarLoad : let c := { upLow with obj := { up.obj with vocabs := [(77, vocab77)] } }
    let d := ds 0x40 0 [0, 260, 4]
    let h := bytesAt grImg 0 64
    let m := bytesAt grImg 0 260
    (mapGet c.mem.windows 0 = none ∧ d.field 2 63 0 0 % 65536 = 0 ∧
      d.field 3 63 0 0 ≠ 0 ∧ hdrCheckBad h = false ∧ mapHas c.obj.grammars (d.field 4 11 0 0) = false ∧
      grLoading c d (d.field 4 11 0 0) = false ∧ grHeaderBad h 260 = false) ∧
    (mapGet c.obj.vocabs (grammarVocab h) = some vocab77 ∧ vocabTokens vocab77.image = grTokens h ∧
      fitsBoth c (framesOf 260) (framesOf 260) = true ∧ checksMatch m (grCheckAt m) = true ∧ grHeaderBad m 260 = false ∧
      grBodyBad m = false) ∧
    ∀ die, let x := takeBoth (beginSeq c d) (framesOf 260) (framesOf 260)
      hotOn x die ≤ x.mem.loftFree.get die := by decide +kernel

theorem wit_loads_answer (vs : Map Vocab) (d : Desc) : let c := { upLow with obj := { up.obj with vocabs := vs } }
    seqFree c d ∧ hostAnswers c :=
  ⟨⟨rfl, rfl, rfl⟩, hostAnswers_quiet rfl rfl rfl (show 0 < tagsFree upLow by decide)⟩

/-- A PREFIX_REGISTER of two tokens on die 1, slot 0. -/
def regD (n : Nat) : Desc := ds 0x30 0 [4096, n + 2 * 2 ^ 36]

theorem wit_prefixRegister : let c := { upSess (en .idle) wm with sess := up.sess }
    let m : Model := { state := 2, image := img }
    (serving c = true ∧ (regD 2).session = 0 ∧ (regD 2).field 2 63 0 0 % 4 = 0 ∧ (regD 2).field 3 20 0 0 ≤ 1048576 ∧
      (regD 2).field 3 41 38 0 = 0 ∧ (regD 2).field 3 37 36 0 ≠ 0 ∧ mapGet c.obj.registering (regD 2).ring = none) ∧
    loadedModel c ((regD 2).field 3 35 32 0) = some m ∧ miSpanned m.image = false ∧
    c.obj.prefixes.length + c.obj.registering.length < 4096 ∧ c.obj.nodes = [] ∧
    (∀ i, i < 2 → leAt (bytesAt (List.replicate 8 0) 0 8) (4 * i) 4 < miVocab m.image) ∧
    regShort c m.image (regD 2) 2 (cdiv 2 (pageP m.image))
      (nodesWith c.obj ((regD 2).field 3 35 32 0) ((List.range 2).map fun i => leAt (bytesAt (List.replicate 8 0) 0 8) (4 * i) 4) (2 / 64)) = false ∧ (regD 0).field 3 20 0 0 = 0 := by decide +kernel

theorem wit_prefixRelease : let d := ds 0x31 0 [8]
    d.field 2 31 0 0 ≠ 0 ∧ (mapGet upObj.obj.prefixes 8).map (·.dies) = some 1 ∧ prefixUsers upObj 8 = 0 ∧
    0 < prefixUsers upNamed 8 ∧ mapGet up.obj.prefixes 8 = none := by decide

/-- The account of `ds` is 7. -/
theorem wit_accounts : let d := ds 0x70 0 [2000 + 3 * 2 ^ 32]
    let none7 := { upLow with acctCfg := [] }
    d.session = 0 ∧ d.account ≠ 0 ∧ d.field 2 47 32 0 ≠ 0 ∧ mapGet none7.acctCfg d.account = none ∧
    mapHas upLow.acctCfg d.account = true ∧ sumCir upLow - 1000 + 2000 ≤ credits upLow ∧ sessionsOfAccount up d.account = 0 ∧
    (let e := ds 0x70 0 [4294967295 + 3 * 2 ^ 32]
     credits upLow < 4294967295 ∧ e.field 2 31 0 0 = 4294967295 ∧
       sumCir upLow < 4294967295) ∧
    (let b := ds 0x71 0 [1 + 2 ^ 32, 5]
     b.field 2 31 0 0 ≠ 0 ∧ b.field 2 63 32 0 ≠ 0 ∧ bits (b.word 0) 57 56 ≠ 3) ∧
    (let b := ds 0x72 0 [5 + 6 * 2 ^ 32, 1 + 2 ^ 32]
     b.field 3 31 0 0 ≠ 0 ∧ b.field 3 63 32 0 ≠ 0 ∧ b.field 2 31 0 0 ≤ b.field 2 63 32 0) := by decide +kernel

/-! ## A vocabulary -/

/-- A vocabulary of the 256 single bytes: its header; surface table and surface bytes; 1,024 empty slots; padding; check values. -/
def vocH : List Byte :=
  let h := wordsBytes [0x4F565643 + 2 ^ 32, 256 + 10 * 2 ^ 32, 19240, 64 + 2112 * 2 ^ 32, 2368 + 256 * 2 ^ 32, 0, 0]
  h ++ natLe 8 (crc32c h).toNat
def vocT : List Byte := wordsBytes ((List.range 256).map fun i => i + 2 ^ 32)
def vocS : List Byte := (List.range 256).map (BitVec.ofNat 8)
def vocA : List Byte := vocH ++ (vocT ++ vocS)
def vocBody : List Byte := vocA ++ zeros 16576
def vocImg : List Byte := vocBody ++ checkArray vocBody

theorem vocH_length : vocH.length = 64 := by decide +kernel
theorem vocT_length : vocT.length = 2048 := by rw [vocT, wordsBytes, words_length]; simp
theorem vocA_length : vocA.length = 2368 := by simp [vocA, vocH_length, vocT_length, vocS]
theorem vocBody_length : vocBody.length = 256 * 74 := by simp [vocBody, vocA_length]
theorem vocImg_length : vocImg.length = 19240 := by
  rw [vocImg, List.length_append, checkArray_length, vocBody_length, cdiv_blocks]

theorem vocImg_head (o n : Nat) (h : o + n ≤ 2368) : bytesAt vocImg o n = bytesAt vocA o n := by
  rw [vocImg, bytesAt_left _ _ _ _ (by rw [vocBody_length]; omega), vocBody, bytesAt_left _ _ _ _ (by rw [vocA_length]; omega)]

theorem vocImg_zeros (o n : Nat) (h : 2368 ≤ o) (h' : o + n ≤ 256 * 74) : bytesAt vocImg o n = zeros n := by
  rw [vocImg, bytesAt_left _ _ _ _ (by rw [vocBody_length]; omega), vocBody, bytesAt_right _ _ _ _ (by rw [vocA_length]; omega),
    bytesAt_zeros]

theorem vocImg_field (w hi lo : Nat) (h : w < 8) : hdrField vocImg w hi lo = hdrField vocH w hi lo := by
  rw [hdrField, wordAt, leAt, vocImg_head _ _ (by omega), vocA, bytesAt_left _ _ _ _ (by rw [vocH_length]; omega)]; rfl

theorem vocImg_entry (id : Nat) (h : id < 256) : surfEntry vocImg id = id + 2 ^ 32 := by
  have h1 : vocabSurfTable vocImg = 64 := by rw [vocabSurfTable, vocImg_field _ _ _ (by omega)]; decide +kernel
  rw [surfEntry, h1, wordAt, leAt, vocImg_head _ _ (by omega), vocA, bytesAt_right _ _ _ _ (by rw [vocH_length]; omega),
    vocH_length, bytesAt_left _ _ _ _ (by rw [vocT_length]; omega), show 64 + 8 * id - 64 = 8 * id by omega, vocT, wordsBytes,
    bytesAt_words _ _ (by simp; omega)]
  simp only [List.getElem_map, List.getElem_range]
  exact leNat_natLe _ _ (by omega)

theorem vocImg_surface (id : Nat) (h : id < 256) : bytesAt vocImg (2112 + id) 1 = [BitVec.ofNat 8 id] := by
  rw [vocImg_head _ _ (by omega), vocA, bytesAt_right _ _ _ _ (by rw [vocH_length]; omega), vocH_length,
    bytesAt_right _ _ _ _ (by rw [vocT_length]; omega), vocT_length, show 2112 + id - 64 - 2048 = id by omega,
    bytesAt_one _ _ (by simp [vocS]; omega)]
  simp [vocS]

theorem voc_entries : ∀ id < 256, bits (id + 2 ^ 32) 63 44 = 0 ∧ bits (id + 2 ^ 32) 39 32 = 1 ∧ bits (id + 2 ^ 32) 31 0 = id ∧
    bit (id + 2 ^ 32) 40 = false ∧ bit (id + 2 ^ 32) 41 = false ∧ bit (id + 2 ^ 32) 42 = false ∧ bit (id + 2 ^ 32) 43 = false := by
  decide +kernel

theorem voc_surfBad (id : Nat) (h : id < 256) : surfBad vocImg id = false := by
  obtain ⟨h1, h2, h3, h4, h5, h6, h7⟩ := voc_entries id h
  have hb : vocabSurfBytes vocImg = 2112 := by rw [vocabSurfBytes, vocImg_field _ _ _ (by omega)]; decide +kernel
  have hl : vocabSurfLen vocImg = 256 := by rw [vocabSurfLen, vocImg_field _ _ _ (by omega)]; decide +kernel
  have hs : surface vocImg id = [BitVec.ofNat 8 id] := by
    rw [surface, vocImg_entry id h, h2, h3, hb, vocImg_surface id h]
  rw [surfBad, vocImg_entry id h, hl, hs, h1, h2, h3, h4, h5, h6, h7]
  simp [leNat]; omega

theorem voc_slotBad (i : Nat) (h : i < 1024) : slotBad vocImg i = false := by
  have h0 : vocabHashTable vocImg = 2368 := by
    rw [vocabHashTable, vocImg_field _ _ _ (by omega)]; decide +kernel
  have z : ∀ o, 2368 ≤ o → o + 8 ≤ 256 * 74 → wordAt vocImg o = 0 := fun o a b => by
    rw [wordAt, leAt, vocImg_zeros _ _ a b, leNat_zeros]
  rw [slotBad, h0, z _ (by omega) (by omega), z _ (by omega) (by omega)]
  simp [bits, bit]

theorem voc_body : vocabBodyBad vocImg = false := by
  have ht : vocabTokens vocImg = 256 := by rw [vocabTokens, vocImg_field _ _ _ (by omega)]; decide +kernel
  have hl : vocabSlotsLog2 vocImg = 10 := by rw [vocabSlotsLog2, vocImg_field _ _ _ (by omega)]; decide +kernel
  have hh : vocabHashTable vocImg = 2368 := by rw [vocabHashTable, vocImg_field _ _ _ (by omega)]; decide +kernel
  have hb : vocabBody vocImg = 18752 := by rw [vocabBody, hh, hl]; norm_num
  have hc : vocabCheckAt vocImg = 18944 := by rw [vocabCheckAt, hb]; decide
  rw [vocabBodyBad, ht, hl, hb, hc, vocImg_zeros _ _ (by omega) (by omega)]
  simp only [Bool.or_eq_false_iff, List.any_eq_false, List.mem_range]
  refine ⟨⟨fun x h => by simp [voc_surfBad x h], fun x h => by simp [voc_slotBad x h]⟩, fun x h => ?_⟩
  simp [mem_zeros _ _ h]

theorem voc_header : vocabHeaderBad vocImg 19240 = false := by
  have hw : ∀ o, o + 8 ≤ 64 → wordAt vocImg o = wordAt vocH o := fun o h => by
    rw [wordAt, leAt, vocImg_head _ _ (by omega), vocA, bytesAt_left _ _ _ _ (by rw [vocH_length]; omega)]; rfl
  simp only [vocabHeaderBad, vocabCheckAt, vocabBody, vocabHashTable, vocabSlotsLog2, vocabTokens, vocabSurfTable,
    vocabSurfBytes, vocabSurfLen, hdrField, Nat.reduceMul, hw 0 (by omega), hw 8 (by omega), hw 16 (by omega), hw 24 (by omega),
    hw 32 (by omega), hw 40 (by omega), hw 48 (by omega), hw 56 (by omega)]
  decide +kernel

theorem wit_vocabLoad : let d := ds 0x42 0 [0, 19240]
    let h := bytesAt vocH 0 64
    d.field 2 63 0 0 % 65536 = 0 ∧ d.field 3 63 0 0 = 19240 ∧ hdrCheckBad h = false ∧
    upLow.obj.vocabs.length + vocabLoading upLow d < 16 ∧ vocabHeaderBad h 19240 = false ∧
    fitsBoth upLow (framesOf 19240) (vocabLoft h) = true ∧ mapHas upLow.obj.vocabs (digest8 vocImg) = false ∧
    bytesAt vocImg 0 19240 = vocImg ∧ checksMatch vocImg (vocabCheckAt vocImg) = true ∧ vocabHeaderBad vocImg 19240 = false ∧
    vocabBodyBad vocImg = false := by
  have hc : vocabCheckAt vocImg = 256 * 74 := by
    rw [vocabCheckAt, vocabBody, vocabHashTable, vocabSlotsLog2, vocImg_field _ _ _ (by omega), vocImg_field _ _ _ (by omega)]
    decide +kernel
  exact ⟨by decide, by decide, by decide +kernel, by decide, by decide +kernel, by decide +kernel, rfl,
    bytesAt_all _ _ vocImg_length, by rw [hc]; exact checksMatch_self _ _ vocBody_length, voc_header, voc_body⟩


theorem wit_vocabLoad_hot : ∀ die, let c := takeBoth (beginSeq upLow (ds 0x42 0 [0, 19240])) (framesOf 19240) (vocabLoft (bytesAt vocH 0 64))
    hotOn c die ≤ c.mem.loftFree.get die := by decide +kernel

/-! ## A model image -/

/-- A model of 1 layer, hidden 256, one head of 64, vocabulary 256, FFN 128, whose 12 sections lie over three zero tiles. -/
def modTable : List Byte :=
  (([1, 2, 3, 12].map fun k => (k, 0xFF)) ++ [3, 4, 5, 6, 7, 8, 9, 10].map fun k => (k, 0)).flatMap fun (k, l) =>
    let rc := if k = 1 ∨ k = 2 then (256, 256) else if k = 3 then (if l = 0 then (2, 256) else (1, 256))
      else if k = 12 then (1, 68) else if k = 7 then (256, 64) else if k = 10 then (256, 128)
      else if k = 8 ∨ k = 9 then (128, 256) else (64, 256)
    let two := k = 1 ∨ k = 2 ∨ k = 7 ∨ k = 10
    wordsBytes [k + 2 ^ 8 * l + 0x1FF * 2 ^ 16 + (if k = 12 then 9 else 6) * 2 ^ 32, rc.1 + rc.2 * 2 ^ 32, if two then 65536 else 131072,
      if two then 2 else 1, 0, 0]
def modH : List Byte :=
  let h := wordsBytes [0x4F564D44 + 2 ^ 32 + 12 * 2 ^ 48, 198656, 1 + 256 * 2 ^ 8 + 2 ^ 24 + 2 ^ 32 + 64 * 2 ^ 40, 256,
    128 + 6 * 2 ^ 32 + 6 * 2 ^ 36 + 6 * 2 ^ 40, 77, 0]
  h ++ natLe 8 (crc32c h).toNat

/-- The check values of a zero tile, and the image's bytes past its table: zero tiles and the values of two. -/
def modCk : List Byte := checkArray (zeros 65536)
def modRest : List Byte := zeros 195968 ++ (modCk ++ modCk)
def modImg : List Byte := modH ++ modTable ++ modRest

theorem modH_length : modH.length = 64 := by decide +kernel
theorem modTable_length : modTable.length = 576 := by decide +kernel
theorem modHT_length : (modH ++ modTable).length = 640 := by rw [List.length_append, modH_length, modTable_length]
theorem modCk_length : modCk.length = 1024 := by rw [modCk, checkArray_length, zeros_length]; decide

theorem modImg_zeros (o n : Nat) (h : 640 ≤ o) (h' : o + n ≤ 196608) : bytesAt modImg o n = zeros n := by
  rw [modImg, bytesAt_right _ _ _ _ (by rw [modHT_length]; exact h), modRest,
    bytesAt_left _ _ _ _ (by rw [modHT_length, zeros_length]; omega), bytesAt_zeros]

theorem modImg_checks (k : Nat) (h : k < 2) : bytesAt modImg (196608 + 1024 * k) 1024 = modCk := by
  rw [modImg, bytesAt_right _ _ _ _ (by rw [modHT_length]; omega), modRest,
    bytesAt_right _ _ _ _ (by rw [modHT_length, zeros_length]; omega), modHT_length, zeros_length]
  match k, h with
  | 0, _ => rw [bytesAt_left _ _ _ _ (by rw [modCk_length])]; exact bytesAt_all _ _ modCk_length
  | 1, _ =>
    rw [bytesAt_right _ _ _ _ (by rw [modCk_length]), modCk_length]
    exact bytesAt_all _ _ modCk_length

/-- An image on its way: the header and the section table in place. -/
def HeadIn (m : List Byte) : Prop := m.length = 198656 ∧ ∃ r, m = modH ++ modTable ++ r

theorem modRest_length : modRest.length = 198016 := by
  rw [modRest, List.length_append, List.length_append, zeros_length, modCk_length]

theorem headIn_put (m bs : List Byte) (off : Nat) (h : HeadIn m) (ho : 640 ≤ off) (he : off + bs.length ≤ 198656) :
    HeadIn (putBytes m off bs) := by
  obtain ⟨hl, r, hr⟩ := h
  refine ⟨?_, r.take (off - 640) ++ bs ++ m.drop (off + bs.length), ?_⟩
  · rw [putBytes]; simp only [List.length_append, List.length_take, List.length_drop, hl]; omega
  · rw [putBytes, hr, List.take_append, List.take_of_length_le (by rw [modHT_length]; omega), modHT_length]
    simp only [List.append_assoc]

/-- Bytes before those put stay. -/
theorem put_before (m bs : List Byte) (off o n : Nat) (h : o + n ≤ off) (hm : off ≤ m.length) :
    bytesAt (putBytes m off bs) o n = bytesAt m o n := by
  have ht : (m.take off).length = off := by rw [List.length_take]; omega
  rw [putBytes, List.append_assoc, bytesAt_left _ _ _ _ (by omega), ← bytesAt_left (m.take off) (m.drop off) o n (by omega),
    List.take_append_drop]

/-- Bytes put are read back. -/
theorem put_same (m bs : List Byte) (off : Nat) (hm : off ≤ m.length) : bytesAt (putBytes m off bs) off bs.length = bs := by
  have ht : (m.take off).length = off := by rw [List.length_take]; omega
  rw [putBytes, List.append_assoc, bytesAt_right _ _ _ _ (by omega), ht, Nat.sub_self, bytesAt_left _ _ _ _ (by omega),
    bytesAt_all _ _ rfl]

theorem headIn_field (m : List Byte) (hm : HeadIn m) (w hi lo : Nat) (h : w < 8) : hdrField m w hi lo = hdrField modH w hi lo := by
  obtain ⟨-, r, rfl⟩ := hm
  rw [hdrField, wordAt, leAt, List.append_assoc, bytesAt_left _ _ _ _ (by rw [modH_length]; omega)]; rfl

theorem headIn_section (m : List Byte) (hm : HeadIn m) (i : Nat) (h : i < 12) : sectionAt (m.drop 64) i = sectionAt modTable i := by
  obtain ⟨-, r, rfl⟩ := hm
  have hd : (modH ++ modTable ++ r).drop 64 = modTable ++ r := by
    rw [List.append_assoc, List.drop_append_of_le_length (by rw [modH_length]),
      List.drop_eq_nil_of_le (by rw [modH_length]), List.nil_append]
  have hw : ∀ j < 6, wordAt ((modH ++ modTable ++ r).drop 64) (48 * i + 8 * j) = wordAt modTable (48 * i + 8 * j) := fun j hj => by
    rw [wordAt, leAt, hd, bytesAt_left _ _ _ _ (by rw [modTable_length]; omega)]; rfl
  simp only [sectionAt, hw 0 (by omega), hw 1 (by omega), hw 2 (by omega), hw 3 (by omega), hw 4 (by omega)]

theorem headIn_open (m : List Byte) (hm : HeadIn m) : miSealed m = false := by
  rw [miSealed, headIn_field m hm _ _ _ (by omega)]; decide +kernel

theorem headIn_tiles (m : List Byte) (hm : HeadIn m) : imageTiles m = imageTiles (modH ++ modTable) := by
  have hn : miSections m = 12 := by rw [miSections, headIn_field m hm _ _ _ (by omega)]; decide +kernel
  have h0 : miSections (modH ++ modTable) = 12 := by decide +kernel
  have hd : (modH ++ modTable).drop 64 = modTable := by decide +kernel
  rw [imageTiles, imageTiles, hn, h0, hd]
  have : ∀ i ∈ List.range 12, ((List.range (sectionAt (m.drop 64) i).tiles).map fun p => (i, p)) =
      (List.range (sectionAt modTable i).tiles).map fun p => (i, p) := fun i hi => by
    rw [headIn_section m hm i (List.mem_range.mp hi)]
  rw [List.flatMap_def, List.flatMap_def, List.map_congr_left this]

theorem mod_places : ∀ p ∈ imageTiles (modH ++ modTable), p.1 < 12 ∧
    (let s := sectionAt modTable p.1
     scaleTiles s.format s.rows s.cols = 0 ∧ p.2 < s.tiles ∧ (s.offset = 65536 ∧ s.tiles = 2 ∨ s.offset = 131072 ∧ s.tiles = 1)) := by
  decide +kernel

/-- A tile of the image that lies over zeros and whose check values lie over those of a zero tile streams in. -/
theorem mod_stream (m : List Byte) (hm : HeadIn m) (i p k : Nat) (hi : i < 12) (s : Section) (hs : sectionAt modTable i = s)
    (h : 640 ≤ s.offset + 65536 * p) (h' : s.offset + 65536 * p + 65536 ≤ 196608)
    (hk : s.offset + 65536 * s.tiles + 1024 * p = 196608 + 1024 * k) (k2 : k < 2) (hz : scaleTiles s.format s.rows s.cols = 0) :
    HeadIn (withTile modImg i p m) ∧ admitTile [] (withTile modImg i p m) i s p = .ok (zeros 65536) := by
  have hl := hm.1
  have l1 : (zeros 65536).length = 65536 := zeros_length _
  have h1 := headIn_put m (zeros 65536) (s.offset + 65536 * p) hm h (by rw [l1]; omega)
  have h2 := headIn_put _ modCk (196608 + 1024 * k) h1 (by omega) (by rw [modCk_length]; omega)
  have hw : withTile modImg i p m = putBytes (putBytes m (s.offset + 65536 * p) (zeros 65536)) (196608 + 1024 * k) modCk := by
    simp only [withTile, headIn_section m hm i hi, hs, hk, modImg_zeros _ _ h h', modImg_checks k k2, headIn_open _ h2,
      Bool.false_eq_true, if_false]
  have hn := h1.1
  have ht : tileAt (withTile modImg i p m) s p = zeros 65536 := by
    rw [tileAt, hw, put_before _ _ _ _ _ (by omega) (by omega)]
    simpa only [l1] using put_same m (zeros 65536) (s.offset + 65536 * p) (by omega)
  have hc : bytesAt (withTile modImg i p m) (196608 + 1024 * k) 1024 = modCk := by
    rw [hw]; simpa only [modCk_length] using put_same _ modCk (196608 + 1024 * k) (by omega)
  have hsc : isScaleTile s p = false := by simp [isScaleTile, hz]
  refine ⟨hw ▸ h2, ?_⟩
  simp only [admitTile, openTile, headIn_open _ (hw ▸ h2 : HeadIn (withTile modImg i p m)), Bool.false_eq_true, if_false, ht, hk, hc,
    hsc, Bool.false_and]
  rw [modCk]
  simp only [bne_self_eq_false, Bool.false_eq_true, if_false]

theorem streamed_ok (ts : List (Nat × Nat)) (m : List Byte) (hm : HeadIn m) (h : ∀ q ∈ ts, q ∈ imageTiles (modH ++ modTable)) :
    ∃ plain, streamed [] modImg ts m = .ok plain := by
  induction ts generalizing m with
  | nil => exact ⟨m, rfl⟩
  | cons q ts ih =>
    obtain ⟨i, p⟩ := q
    obtain ⟨h1, h2, h3, h4⟩ := mod_places (i, p) (h _ (List.mem_cons_self ..))
    simp only at h1 h2 h3 h4
    have hst : ∃ k, k < 2 ∧ 640 ≤ (sectionAt modTable i).offset + 65536 * p ∧ (sectionAt modTable i).offset + 65536 * p + 65536 ≤ 196608 ∧
        (sectionAt modTable i).offset + 65536 * (sectionAt modTable i).tiles + 1024 * p = 196608 + 1024 * k := by
      obtain ⟨ho, ht⟩ | ⟨ho, ht⟩ := h4
      · exact ⟨p, by omega, by omega, by omega, by omega⟩
      · exact ⟨0, by omega, by omega, by omega, by omega⟩
    obtain ⟨k, k2, ha, hb, hk⟩ := hst
    obtain ⟨hh, hok⟩ := mod_stream m hm i p k h1 _ rfl ha hb hk k2 h2
    simp only [streamed, headIn_section m hm i h1, hok]
    exact ih _ (headIn_put _ _ _ hh ha (by rw [zeros_length]; omega)) fun x hx => h x (List.mem_cons_of_mem _ hx)

theorem wit_modelLoad : let d := ds 0x50 0 [0, 198656, 1]
    let c := { upLow with obj := { up.obj with vocabs := [(77, vocab77)] } }
    let m := modH ++ modTable ++ List.replicate (198656 - 64 - 48 * 12) 0
    (d.session = 0 ∧ serving c = true ∧ mapGet c.mem.windows 0 = none ∧ d.field 2 63 0 0 % 65536 = 0 ∧ d.field 3 63 0 0 = 198656 ∧
      mapGet c.obj.models (d.field 4 3 0 0) = none ∧ slotLoading c d 1 = false) ∧
    bytesAt modH 0 64 = modH ∧ miSections modH = 12 ∧ bytesAt modTable 0 576 = modTable ∧ miHeaderBad modH 198656 = false ∧ hdrCheckBad modH = false ∧
    miLimits modH = true ∧ sectionTableBad modH modTable 198656 = false ∧ mapGet c.obj.vocabs (modelVocab modH) = some vocab77 ∧
    vocabTokens vocab77.image = miVocab modH ∧ miSealed modH = false ∧ fitsStack c false (miFrames modH modTable false) = true ∧
    fitsStack c true (miFrames modH modTable true) = true ∧ (mapGet (st c).rot.sealKeys (miKeyId modH)).getD [] = [] ∧
    ∃ plain, streamed [] modImg (imageTiles m) m = .ok plain := by
  have hm : HeadIn (modH ++ modTable ++ List.replicate (198656 - 64 - 48 * 12) 0) :=
    ⟨by rw [List.length_append, modHT_length, List.length_replicate], _, rfl⟩
  exact ⟨by decide +kernel, bytesAt_all _ _ modH_length, by decide +kernel, bytesAt_all _ _ modTable_length,
    by decide +kernel, by decide +kernel, by decide +kernel, by decide +kernel, by decide +kernel, by decide +kernel,
    by decide +kernel, by decide +kernel, by decide +kernel, rfl,
    streamed_ok _ _ hm fun q hq => by rwa [headIn_tiles _ hm] at hq⟩

/-! ## Data and retrieval -/

/-- XLT_MAP of two 64 KiB pages from 2^47 on both dies: outbound, loft or stacks. -/
def mapD (alloc kind : Nat) : Desc := ds 0x02 0 [2 ^ 47, 2 ^ 44, 2 + 2 ^ 34 + alloc * 2 ^ 35 + kind * 2 ^ 36 + 3 * 2 ^ 38]

/-- The mapping of a host page. -/
def page (kind pa : Nat) : XPage := { size := 0, write := true, kind := kind, pa := pa }

/-- Two loft pages of die 0. -/
def upPages : Core :=
  { up with mem := { up.mem with
      xmap := ⟨[(2 ^ 31, { size := 0, write := true, kind := 2, pa := 2 ^ 40, bytes := [(5, 7)] }), (2 ^ 31 + 1, { size := 0, write := true, kind := 2, pa := 2 ^ 40 + 65536, bad := [3] })], []⟩ } }

/-- A TILE_COPY of one tile on die 0. -/
def copyD : Desc := ds 0x04 0 [2 ^ 47, 2 ^ 47 + 65536, 1, 0, 0]

/-- An index of one list with one live record and a tombstone, and a table of two rows of 32 bytes. -/
def ix1 : Index :=
  { die := false, metric := 0, format := 8, dim := 1, capacity := 4, centroids := [[0x3F80]]
    lists := [(0, [⟨5, true, 0, 0, [0x3F80], false⟩, ⟨6, false, 0, 0, [0], false⟩])], pairs := [(0, [5])], fixed := 4, loft := 1 }
def tb1 : Table := { die := true, format := 9, width := 32, rows := 2, bound := false, adaptive := false, frames := 1, place := [2048], bytes := [(3, 1)] }

/-- Index 3 and table 4. -/
def upData : Core := { upLow with obj := { up.obj with indexes := [(3, ix1)], tables := [(4, tb1)] } }

/-- The number 1.0 as FP32 bytes. -/
def one32 : List Byte := natLe 4 0x3F800000

/-- A SEARCH for the best hit in one list; a ROW_POOL of one bag of one row. -/
def searchD : Desc := ds 0x64 0 [4096, 8192, 3 + 2 ^ 8 + 2 ^ 19, 0]
def poolD : Desc := ds 0x6A 0 [4096, 8192, 12288, 4 + 2 ^ 10 + 2 ^ 32]

theorem wit_mappings : let d := mapD 0 0
    (serving up = true ∧ mapHas up.sess.seqProg d.ring = false ∧ seqHeldOf up d.ring = [] ∧ d.session = 0 ∧ up.sess.waiting = [] ∧
      up.obj.jobs = []) ∧
    (xSize d ≠ 3 ∧ xDies d ≠ 0 ∧ d.field 4 37 36 0 < 2 ∧ 0 < xPages d ∧ hostHalf ≤ xVa d ∧ xVa d < globalEnd ∧
      xVa d % (sizeFrames (xSize d) * 65536) = 0 ∧ xVa d + xPages d * (sizeFrames (xSize d) * 65536) ≤ globalEnd) ∧
    (∀ die, xOverlaps (up.mem.xmap.get die) (xVa d / 65536) (xPages d * sizeFrames (xSize d)) = false) ∧
    (d.field 4 35 35 0 = 0 ∧ outboundBase ≤ d.field 3 63 0 0 ∧ d.field 3 63 0 0 % (65536 * sizeFrames (xSize d)) = 0 ∧
      d.field 3 63 0 0 + xPages d * sizeFrames (xSize d) * 65536 ≤ outboundEnd) ∧
    ((mapD 1 1).field 4 35 35 0 = 1 ∧ (mapD 1 1).field 4 37 36 0 = 1 ∧ (mapD 1 0).field 4 37 36 0 = 0 ∧
      ∀ die, 2 ≤ up.mem.loftFree.get die ∧ 2 ≤ up.mem.free.get die ∧ hotOn up die + 2 ≤ up.mem.loftFree.get die) ∧
    xPages (ds 0x02 0 [2 ^ 47, 2 ^ 44, 3 * 2 ^ 38]) = 0 := by decide +kernel

/-- On a device whose stacks hold nothing, any place takes a block of one frame. -/
theorem freeBlock_quiet (c : Core) (die : Bool) (k b : Nat) (h : c.stackTab = []) (hp : ∀ die, c.mem.pairFree.get die = [])
    (hx : c.mem.xmap.get die = []) : (freeBlock c die 1 (k + 1) b).isSome = true := by
  have f : ∀ x, blockFits c x 1 = true := fun x => by
    simp [blockFits, pairOpen, pairInService, stackOf, pairOf, pairRoom, h, hp, mapGet, nth]
  have g : ∀ x, pagesHold c die x 1 = false := fun x => by simp [pagesHold, hx]
  simp [freeBlock, f, g]

/-- An XLT_MAP of one stacked page of die 0. -/
def mapS : Desc := ds 0x02 0 [2 ^ 47, 2 ^ 44, 1 + 2 ^ 34 + 2 ^ 35 + 2 ^ 38]

theorem wit_mappings_block : mapS.field 4 35 35 0 = 1 ∧ mapS.field 4 37 36 0 = 0 ∧ xPages mapS = 1 ∧ diesOf mapS = [false] ∧
    ((diesOf mapS).foldl (fun c die => c.bind (enterStack mapS · die)) (some (beginSeq up mapS))).isSome = true := by
  have hn : sizeFrames (xSize mapS) = 1 := by decide
  have hd : diesOf mapS = [false] := by decide
  have hp : xPages mapS = 1 := by decide
  have q : (stackPage (beginSeq up mapS) false 1).isSome = true :=
    freeBlock_quiet (beginSeq up mapS) false 1048575 _ rfl (fun die => by cases die <;> rfl) rfl
  refine ⟨by decide, by decide, hp, hd, ?_⟩
  obtain ⟨f, hf⟩ := Option.isSome_iff_exists.mp q
  simp only [hd, List.foldl, Option.bind_some, enterStack, hp, show List.range 1 = [0] from rfl, enterStacked, hn, hf, Option.map_some,
    Option.isSome_some]

theorem wit_mappings_stacks : ∀ k, (stackOf up k).state ≠ 2 := fun k => show (0 : Nat) ≠ 2 by decide

/-- A host mapping, an outbound page of die 0, two entries that a walk takes. -/
theorem wit_tileCopy : let d := copyD
    badHostVa (tcSrc d) 65536 65536 = false ∧ badHostVa (tcDst d) 65536 65536 = false ∧ tcSrc d / 65536 ≠ tcDst d / 65536 ∧
    tcTiles d = 1 ∧ upPages.mem.forward.get (tcDie d) = [] ∧ d.field 5 63 0 0 = 0 ∧ d.field 6 63 0 0 = 0 ∧ serving upPages = true ∧ upPages.sess.waiting = [] ∧
    mapGet (upPages.mem.xmap.get (tcDie d)) (tcSrc d / 65536) = some { size := 0, write := true, kind := 2, pa := 2 ^ 40, bytes := [(5, 7)] } ∧
    mapGet (upPages.mem.xmap.get (tcDie d)) (tcDst d / 65536) = some { size := 0, write := true, kind := 2, pa := 2 ^ 40 + 65536, bad := [3] } ∧
    (∀ k < 3, let pa := if k = 0 then 2 ^ 44 else if k = 1 then 65536 else 2 ^ 40
      (walkEntry (pageWord (page k pa)) false false).isOk = true ∧ (walkEntry (pageWord (page k pa)) false true).isOk = true) := by
  decide +kernel

theorem wit_indexCreate : let d := ds 0x60 0 [4096, 7 + 2 ^ 8 + 8 * 2 ^ 23 + 2 ^ 28, 4]
    let need := indexNeeds 1 1 8 0 4
    let cents := (List.range 1).map fun i => converted 0 8 (f32s (bytesAt one32 0 4) (4 * 1 * i) 1)
    bit d.flags 0 = false ∧ d.field 2 63 0 0 % 4 = 0 ∧ d.opcode = 0x60 ∧ d.field 3 20 8 0 = 1 ∧ d.field 3 44 28 0 = 1 ∧
    d.field 4 28 0 0 = 4 ∧ d.field 3 22 21 0 = 0 ∧ d.field 3 26 23 0 = 8 ∧ mapGet upData.obj.indexes (d.field 3 7 0 0) = none ∧
    fitsStack upData false need.1 = true ∧ fitsLoft upData false need.2 = true ∧ (cents.any (·.isNone)) = false ∧
    mapGet upData.obj.indexes (indexIdOf (ds 0x60 0 [0, 3, 0])) = some ix1 := by decide +kernel

theorem wit_tableLoad : let d := ds 0x68 0 [65536, 2, 32 + 8 * 2 ^ 14 + 5 * 2 ^ 19]
    bit d.flags 0 = false ∧ bit d.flags 1 = false ∧ bit d.flags 2 = false ∧ d.field 2 63 0 0 % 65536 = 0 ∧ d.field 3 32 0 0 = 2 ∧
    d.field 4 13 0 0 = 32 ∧ d.field 4 17 14 0 = 8 ∧ mapGet upData.obj.tables (tableIdOf d) = none ∧
    fitsStack upData (d.field 4 18 18 0 == 1) (cdiv 2 (rowsPerFrame 32)) = true ∧
    mapGet upData.obj.tables (tableIdOf (ds 0x68 0 [0, 0, 4 * 2 ^ 19])) = some tb1 := by decide +kernel

theorem wit_vectorEdits : let i := ds 0x61 0 [4096, 0, 8192, 3 + 2 ^ 8]
    let v := ds 0x62 0 [4096, 3 + 2 ^ 8]
    (mapGet upData.obj.indexes (indexIdOf i) = some ix1 ∧ i.field 2 63 0 0 % 4 = 0 ∧ i.field 3 63 0 0 = 0 ∧
      i.field 4 63 0 0 % 4 = 0 ∧ i.field 5 24 8 0 = 1 ∧ 1 ≤ ix1.capacity - ix1.taken.length ∧ ix1.capacity ≤ 268435456 ∧
      1 ≤ freeOf upData ix1.die ∧ converted ix1.metric ix1.format (f32s (bytesAt one32 0 (4 * ix1.dim)) 0 ix1.dim) = some [0x3F80] ∧
      ix1.freeId = some 0) ∧
    (mapGet upData.obj.indexes (indexIdOf v) = some ix1 ∧ v.field 2 63 0 0 % 4 = 0 ∧ v.field 3 28 8 0 = 1) ∧
    mapGet upData.obj.indexes (indexIdOf (ds 0x63 0 [3])) = some ix1 ∧ upData.sess.waiting = [] ∧ mapGet upData.mem.windows 0 = none := by
  decide +kernel

theorem wit_data_answers : hostAnswers upData := hostAnswers_quiet rfl rfl rfl (show 0 < tagsFree upLow by decide)

/-- Work begun on `upData`; an index whose one list is empty. -/
def started (j : Job) : Core :=
  let b := beginSeq upData j.desc
  { b with obj := { b.obj with jobs := mapSet b.obj.jobs 2 j } }
def ix0 : Index := { ix1 with lists := [], pairs := [] }

theorem wit_search : (mapGet upData.obj.indexes (indexIdOf searchD) = some ix1 ∧ searchD.field 2 63 0 0 % 4 = 0 ∧
      searchD.field 3 63 0 0 % 16 = 0 ∧ searchD.field 5 63 0 0 = 0 ∧ searchK searchD = 1 ∧ searchD.field 4 27 19 0 = 1 ∧
      1 ≤ ix1.centroids.length ∧ converted 0 8 (f32s (bytesAt one32 0 4) 0 1) = some [0x3F80] ∧
      bestCentroids 0 8 ix1.centroids (elemVals 8 [0x3F80]) 1 = [0]) ∧
    unitsBusy (((List.range 1).zip [0]).foldl (scanList ix1 3 2 1 [0x3F80]) (started { desc := searchD })) (.job 2) = true ∧
    (let c := ((List.range 1).zip [0]).foldl (scanList ix0 3 2 1 [0x3F80]) (started { desc := searchD })
     unitsBusy c (.job 2) = false ∧ mapGet c.obj.jobs 2 = some { desc := searchD }) := by decide +kernel

theorem wit_rowPool : (mapGet upData.obj.tables (tableIdOf poolD) = some tb1 ∧ tb1.bound = false ∧ poolD.field 2 63 0 0 % 4 = 0 ∧
      poolD.field 3 63 0 0 % 8 = 0 ∧ poolD.field 4 63 0 0 % 32 = 0 ∧ poolD.field 5 20 10 0 = 1 ∧ poolD.field 5 52 32 0 = 1 ∧
      poolStage tb1 1 ≤ upData.mem.stagingFree.get tb1.die ∧
      (List.range 1).map (bagRows tb1 (natLe 4 1) (natLe 8 (2 ^ 32)) 1) = [some [1]]) ∧
    (let e := ds 0x6A 0 [4096, 8192, 12288, 4 + 2 ^ 10]
     e.field 5 52 32 0 = 0 ∧ (List.range 1).map (bagRows tb1 [] (natLe 8 0) 0) = [some []]) ∧
    (let c := ((List.range 1).zip ([[]].zip [[]])).foldl (gatherBag 4 tb1 2) (started { desc := poolD })
     unitsBusy c (.job 2) = false ∧ mapGet c.obj.jobs 2 = some { desc := poolD }) := by decide +kernel

theorem wit_rowPool_busy (c : Core) (h : ∀ k, (stackOf c k).state ≠ 2) :
    unitsBusy (((List.range 1).zip ([[1]].zip [[]])).foldl (gatherBag 4 tb1 2) c) (.job 2) = true := by
  have e : ((List.range 1).zip ([[1]].zip [[]])).foldl (gatherBag 4 tb1 2) c = gatherGroup 4 2 0 2048 64 32 false [(1, [])] c := rfl
  rw [e]
  exact unitsBusy_enqueue _ _ _ (h _)

theorem wit_rowPool_stacks (k : Nat) : (stackOf (started { desc := poolD }) k).state ≠ 2 := show (0 : Nat) ≠ 2 by decide

theorem wit_jobsBack : let j : Job := { desc := searchD }
    let c := { upData with obj := { upData.obj with jobs := [(2, j)] } }
    mapGet c.obj.jobs searchD.ring = some j ∧ j.desc = searchD ∧ j.failed = none ∧ unitsBusy c (.job searchD.ring) = false ∧
    searchD.opcode = 0x64 ∧ poolD.opcode = 0x6A := by decide

/-- A bound table over one outbound page; an adaptive one. -/
def tbBound : Table := { tb1 with die := false, bound := true, va := 2 ^ 47, bytes := [] }
def upBound : Core :=
  { upData with
    obj := { upData.obj with tables := [(4, tbBound)] }
    mem := { upData.mem with xmap := ⟨[(2 ^ 31, page 0 (2 ^ 44))], []⟩ } }

theorem wit_rowWrites : let d := ds 0x69 0 [4096, 8192, 4 + 2 ^ 10]
    let u := ds 0x6B 0 [4096, 8192, 4 + 2 ^ 10, 0x3F800000]
    mapGet upData.obj.tables (tableIdOf d) = some tb1 ∧ tb1.bad = [] ∧ upData.obj.jobs = [] ∧ d.field 4 26 10 0 = 1 ∧ leAt (bytesAt (natLe 4 1) 0 4) 0 4 < tb1.rows ∧
    d.field 2 63 0 0 % 4 = 0 ∧ d.field 3 63 0 0 % 32 = 0 ∧ mapGet upData.obj.tables (tableIdOf u) = some tb1 ∧
    u.field 4 26 10 0 = 1 ∧ u.field 2 63 0 0 % 4 = 0 ∧ u.field 3 63 0 0 % 4 = 0 ∧ u.field 4 27 27 0 = 0 ∧
    (ds 0x6B 0 [4096, 8192, 4 + 2 ^ 10 + 2 ^ 27, 0x3F800000]).field 4 27 27 0 = 1 := by decide

theorem wit_rowWrites_bound : let va := tbBound.va + 1 / rowsPerFrame tbBound.width * 65536 + 1 % rowsPerFrame tbBound.width * tbBound.width
    mapGet upBound.obj.tables 4 = some tbBound ∧ hostHalf ≤ va ∧ va < 2 ^ 48 ∧ upBound.mem.forward.get tbBound.die = [] ∧
    xFind (upBound.mem.xmap.get tbBound.die) (va / 65536) = some (2 ^ 31, page 0 (2 ^ 44)) ∧
    (walkEntry (pageWord (page 0 (2 ^ 44))) false true).isOk = true := by decide +kernel

theorem wit_bound_answers : hostAnswers upBound := hostAnswers_quiet rfl rfl rfl (show 0 < tagsFree upLow by decide)

/-! ## Parking and revival -/

/-- Parking: session 9 alone, with no columns; the policy's age for IDLE is 5. -/
def upPark (s : SState) : Core := let c := upSess { en s with idleAge := 9 } wm
  { c with regs := [(0x500000, 5), (0x500008, 5)], sess := { c.sess with due := [(9, ())] } }

theorem packOther_length (pg : List Byte) (h : pg.length = 65536) : (packOther pg).length ≤ 65540 := by
  simp only [packOther]
  split
  · rename_i h; simp [recordOf] at h ⊢; omega
  · simp [recordOf, h]

theorem ctlPage_length (x : Ctl) (cols cleared : Map Column) : (ctlPage x cols cleared).length = 65536 := by
  have : ∀ l : List Nat, (l.flatMap (mapEntry cols cleared)).length = 16 * l.length := fun l => by
    induction l with
    | nil => rfl
    | cons j l ih =>
      have : (mapEntry cols cleared j).length = 16 := by
        rw [mapEntry]; split <;> simp only [mapEntryBytes, List.length_append, natLe_length, List.length_replicate]
      rw [List.flatMap_cons, List.length_append, ih, this, List.length_cons]; omega
  simp only [ctlPage, maskCtl, ctlPlain, seenBytes, List.length_append, List.length_map, List.length_zipIdx, natLe_length, bytesAt_length,
    List.length_replicate, this, List.length_range]

theorem sheafOne_length (h : SheafHead) (r p : List Byte) (lease : Nat) : (sheafBytes h [r] [p] lease).length =
    256 + (512 + roundUp r.length 256) + roundUp (4 * cdiv (512 + roundUp r.length 256) 256) 256 := by
  have hw : ∀ a b, (wordsBytes (headWords h a b)).length = 256 := fun a b => by
    rw [wordsBytes, words_length, headWords, entryWords]; split <;> rfl
  have hp : ∀ b : List Byte, (pad256 b).length = roundUp b.length 256 := fun b => by rw [pad256, bytesAt_length]
  have h8 : roundUp 8 256 = 256 := rfl
  simp only [sheafBytes, List.length_append, hp, bytesAt_length, checkArray_length, hw, List.zip_cons_cons, List.zip_nil_right,
    List.flatMap_cons, List.flatMap_nil, List.flatten_cons, List.flatten_nil, List.append_nil, natLe_length, h8,
    Nat.reduceAdd, ← Nat.add_assoc]

theorem wit_parkSize (c : Core) (e : Entry) (stamp : Nat) (lens : List Nat) :
    (packSession c e wm stamp lens 0).length ≤ unpackedSize c e wm + 65536 := by
  have h := packOther_length _ (ctlPage_length wm.ctl wm.columns wm.cleared)
  have hs : packSession c e wm stamp lens 0 =
      sheafBytes (headOf c e wm stamp lens) [packOther (ctlPage wm.ctl wm.columns wm.cleared)] [ctlPage wm.ctl wm.columns wm.cleared] 0 := rfl
  have hu : unpackedSize c e wm = 65536 * (1 + 0 + 0 * miLayers (imgOf c e.modelSlot)) := rfl
  rw [hs, hu, sheafOne_length]
  generalize (packOther (ctlPage wm.ctl wm.columns wm.cleared)).length = n at h
  simp only [roundUp, cdiv]
  omega

theorem wit_park_refused : let d := ds 0x20 9 [0]
    d.field 2 3 0 0 = 0 ∧ ∀ x ∈ [SState.parked, .pooled, .lost, .free], (entryOf (upPark x) 9).state = x := by decide

theorem wit_park (s : SState) (h : s = .idle ∨ s = .waiting) : let c := upPark s
    let d := ds 0x20 9 [0]
    (sessFree c d ∧ ownAccount c d ∧ plainSession c 9 ∧ d.session = 9 ∧ bit d.flags 0 = false ∧ d.field 2 3 0 0 = 0) ∧
    mapGet c.sess.warm 9 = some wm ∧ (entryOf c 9).state = s ∧ (∀ die, inStep (c.sched.get die) = []) ∧
    indexNeed c 9 ≤ freeOf c (dirDie 9) ∧ framesOf (unpackedSize c (entryOf c 9) wm + 65536) ≤ c.mem.barnFree.get (entryOf c 9).homeDie ∧
    (∀ f ∈ rangeFrames wm wm.columns, frameBad c f = false) ∧ (wm.columns.any fun p => p.2.pooled) = false ∧ serving c = true ∧ policyDue c 9 = true := by
  rcases h with rfl | rfl
  · refine ⟨⟨⟨rfl, rfl, rfl⟩, .inr (by decide), ⟨rfl, rfl, by decide, by decide⟩, by decide, by decide, by decide⟩, rfl, rfl, ?_, ?_, ?_, ?_, rfl, rfl, ?_⟩ <;>
      decide +kernel
  · refine ⟨⟨⟨rfl, rfl, rfl⟩, .inr (by decide), ⟨rfl, rfl, by decide, by decide⟩, by decide, by decide, by decide⟩, rfl, rfl, ?_, ?_, ?_, ?_, rfl, rfl, ?_⟩ <;>
      decide +kernel

/-- A sheaf of an IDLE session of model slot 0, without columns: its header and page directory, one raw record of a zero page, its check values. -/
def shP : List Byte :=
  let crc := (crc32c (zeros 65536)).toNat
  zeros 256 ++ (wordsBytes ([0x4F565348 + 2 ^ 32 + 6 * 2 ^ 40 + 2 ^ 48, 0, 1, modelDigest img, 11, 0, 0, 67840, 768, 66560,
    0x5555555555555555, 0x5555555555555555, 0, 0, 0, 0] ++ (entryWords {} (en .idle) 0).set 1 0 ++ List.replicate 8 0) ++
    (natLe 4 65540 ++ natLe 4 crc))
def shBody : List Byte := shP ++ zeros 66040
def shBs : List Byte := shBody ++ (checkArray (bytesAt shBody 256 66304) ++ zeros 244)

theorem shP_length : shP.length = 520 := by simp [shP, wordsBytes, entryWords, en]
theorem shBody_length : shBody.length = 66560 := by rw [shBody, List.length_append, shP_length, zeros_length]
theorem shBs_length : shBs.length = 67840 := by
  rw [shBs, List.length_append, List.length_append, shBody_length, checkArray_length, bytesAt_length, zeros_length]; decide

theorem shBs_head (o n : Nat) (h : o + n ≤ 520) : leAt shBs o n = leAt shP o n := by
  rw [leAt, shBs, bytesAt_left _ _ _ _ (by rw [shBody_length]; omega), shBody, bytesAt_left _ _ _ _ (by rw [shP_length]; omega)]
  rfl

theorem shBs_readHead : readHead shBs = readHead shP := by
  have hw : ∀ i < 33, leAt shBs (256 + 8 * i) 8 = leAt shP (256 + 8 * i) 8 := fun i h => shBs_head _ _ (by omega)
  have h1 : ((List.range 64).map fun s => leAt shBs (256 + 80 + s / 2) 1 / 16 ^ (s % 2) % 16) =
      (List.range 64).map fun s => leAt shP (256 + 80 + s / 2) 1 / 16 ^ (s % 2) % 16 :=
    List.map_congr_left fun s hs => by rw [shBs_head _ _ (by have := List.mem_range.mp hs; omega)]
  have h2 : ((List.range 8).map fun i => leAt shBs (256 + 8 * (16 + i)) 8) = (List.range 8).map fun i => leAt shP (256 + 8 * (16 + i)) 8 :=
    List.map_congr_left fun i hi => hw _ (by have := List.mem_range.mp hi; omega)
  simp only [readHead, h1, h2, hw 0 (by omega), hw 1 (by omega), hw 3 (by omega), hw 4 (by omega), hw 5 (by omega), hw 6 (by omega)]

theorem shBs_headBad : headBad shBs = false := by
  have hw : ∀ i < 33, leAt shBs (256 + 8 * i) 8 = leAt shP (256 + 8 * i) 8 := fun i h => shBs_head _ _ (by omega)
  have h3 : ((List.range 8).any fun i => leAt shBs (256 + 8 * (24 + i)) 8 != 0) = (List.range 8).any fun i => leAt shP (256 + 8 * (24 + i)) 8 != 0 := by
    simp only [show List.range 8 = [0, 1, 2, 3, 4, 5, 6, 7] from rfl, List.any_cons, List.any_nil, hw (24 + 0) (by omega), hw (24 + 1) (by omega),
      hw (24 + 2) (by omega), hw (24 + 3) (by omega), hw (24 + 4) (by omega), hw (24 + 5) (by omega), hw (24 + 6) (by omega), hw (24 + 7) (by omega)]
  simp only [headBad, headShape, shBs_readHead, h3, shBs_length, hw 0 (by omega), hw 2 (by omega), hw 5 (by omega), hw 7 (by omega),
    hw 8 (by omega), hw 9 (by omega), hw 14 (by omega), hw 15 (by omega)]
  decide +kernel

theorem shBs_zeros (o n : Nat) (h : 520 ≤ o) (h' : o + n ≤ 66560) : bytesAt shBs o n = zeros n := by
  rw [shBs, bytesAt_left _ _ _ _ (by rw [shBody_length]; omega), shBody, bytesAt_right _ _ _ _ (by rw [shP_length]; omega),
    bytesAt_zeros]

theorem shBs_checked : sheafChecked shBs = true := by
  have h1 : leAt shBs (256 + 72) 8 = 66560 := by rw [shBs_head _ _ (by omega)]; decide +kernel
  have h2 : bytesAt shBs 256 66304 = bytesAt shBody 256 66304 := by
    rw [shBs, bytesAt_left _ _ _ _ (by rw [shBody_length])]
  have h3 : bytesAt shBs 66560 1036 = checkArray (bytesAt shBody 256 66304) := by
    have hl : (checkArray (bytesAt shBody 256 66304)).length = 1036 := by rw [checkArray_length, bytesAt_length]; decide
    rw [shBs, bytesAt_right _ _ _ _ (by rw [shBody_length]), shBody_length, bytesAt_left _ _ _ _ (by rw [hl])]
    exact bytesAt_all _ _ hl
  simp only [sheafChecked, h1, Nat.reduceSub, Nat.reduceDiv, Nat.reduceMul, h2, h3, beq_self_eq_true]

/-- The page that the sheaf holds. -/
theorem shBs_page : decodeRecord 6 (readHead shP).lens (bytesAt shBs 768 65540) = some (zeros 65536) := by
  rw [shBs_zeros _ _ (by omega) (by omega)]
  have h : leAt (zeros 65540) 0 4 = 0 := by rw [leAt, bytesAt_zeros, leNat_zeros]
  have hd : (zeros 65540).drop 4 = zeros 65536 := zeros_drop _ _
  simp only [decodeRecord, h, hd, zeros_length, Nat.zero_mod, if_true]
  rfl

theorem shBs_crc : leAt shBs (512 + 8 * 0 + 4) 4 = (crc32c (zeros 65536)).toNat := by
  rw [shBs_head _ _ (by omega), shP]
  generalize hc : (crc32c (zeros 65536)).toNat = n
  have hn : n < 256 ^ 4 := by rw [← hc]; exact (crc32c (zeros 65536)).isLt
  have hl : ∀ a : Nat, (zeros 256 ++ (wordsBytes ([0x4F565348 + 2 ^ 32 + 6 * 2 ^ 40 + 2 ^ 48, 0, 1, a, 11, 0, 0, 67840, 768,
    66560, 0x5555555555555555, 0x5555555555555555, 0, 0, 0, 0] ++ (entryWords {} (en .idle) 0).set 1 0 ++ List.replicate 8 0))).length = 512 := fun a => by
    rw [List.length_append, zeros_length, wordsBytes, words_length]; rfl
  rw [← List.append_assoc, leAt, bytesAt_right _ _ _ _ (by rw [hl]; omega), hl, bytesAt_right _ _ _ _ (by rw [natLe_length]),
    natLe_length, bytesAt_all _ _ (natLe_length 4 n), leNat_natLe _ _ hn]

theorem readMap_zeros (valid : Bool) : readMap valid (zeros 65536) [] = [] := by
  have h : ∀ o, readEntry valid (zeros 65536) o = none := fun o => by
    have : ∀ i, leAt (zeros 65536) i 8 = 0 := fun i => by rw [leAt, bytesAt_zeros, leNat_zeros]
    simp only [readEntry, this, bne_self_eq_false, Bool.or_self, Bool.and_false, Bool.false_eq_true, if_false]
  simp only [readMap, h, Option.map_none, List.zipIdx_nil, List.flatMap_nil, List.append_nil]
  rw [List.filterMap_eq_nil_iff]; intros; rfl

/-- What the sheaf reads as. -/
def shSh : SheafRead := { head := readHead shP, ctlBytes := zeros 65536, cols := [] }

theorem shBs_read : readSheaf shBs = some shSh := by
  have h1 : leAt shBs (256 + 72) 8 = 66560 := by rw [shBs_head _ _ (by omega)]; decide +kernel
  have hp : (readHead shP).pages = 1 := by decide +kernel
  have hm : (readHead shP).mapPages = 0 := by decide +kernel
  have hc : (readHead shP).columns = 0 := by decide +kernel
  have hf : (readHead shP).kvFmt = 6 := by decide +kernel
  have hl : leAt shBs (512 + 8 * 0) 4 = 65540 := by rw [shBs_head _ _ (by omega)]; decide +kernel
  have hr : readPages shBs (readHead shP) 66560 1 0 (recordsAt 1) = some [zeros 65536] := by
    rw [readPages, hl, show recordsAt 1 = 768 from rfl, if_neg (by omega), hf, shBs_page]
    dsimp only
    rw [if_neg (by rw [shBs_crc]; exact fun h => h rfl)]
    rfl
  simp only [readSheaf, shBs_headBad, shBs_checked, shBs_readHead, h1, hp, hr, Bool.not_true, Bool.or_self, Bool.false_eq_true, if_false]
  rw [hm, hc, show nth [zeros 65536] 0 [] = zeros 65536 from rfl, List.take_zero, readMap_zeros, readMap_zeros]
  rfl

theorem wit_revive : let ix : SheafIx := { place := 1, locator := 3, stamp := 11, size := 265 }
    let c0 := { upSess { state := .parked, account := 7, imagePlace := 1 } wm with
      mem := { up.mem with index := [(9, ix)], barn := [(barnKey false 3, { die := false, frames := 2, bytes := shBs })] } }
    let c := { c0 with sess := { c0.sess with warm := [] } }
    let d := ds 0x21 9 []
    (serving c = true ∧ mapHas c.sess.inProg 9 = false ∧ heldOf c 9 = [] ∧ c.ckpt.running = none ∧ mapHas c.sess.reread 9 = false ∧
      c.twin.state = 0 ∧ (entryOf c 9).account = d.account ∧ d.session = 9) ∧
    (entryOf c 9).state = .parked ∧ mapHas c.twin.leases 9 = false ∧ mapGet c.mem.index 9 = some ix ∧
    (mapGet c.mem.barn (barnKey ix.die ix.locator)).map (·.bytes) = some shBs ∧ readSheaf shBs = some shSh ∧ shSh.head.stamp = ix.stamp.toNat ∧
    (loadedModel c shSh.head.entry.modelSlot).map (·.image) = some img ∧ modelDigest img = shSh.head.digest ∧
    shSh.head.entry.grammarBound = false ∧ (placeRevival (beginSession c d) 9 shSh).isSome = true ∧
    ∀ die, inStep (c.sched.get die) = [] := by
  refine ⟨by decide, rfl, rfl, rfl, rfl, shBs_read, by decide +kernel, by decide +kernel, by decide +kernel, by decide +kernel, ?_, by decide⟩
  decide +kernel

/-- Device 6 with window 2 on: 2 MiB at 1 MiB, units of 4 KiB from offset 8192; session 9 is POOLED there in unit 3, session 8 is not known. -/
def win2 : Window := { state := 1, unitLog2 := 12, units := 100, dataOffset := 8192 }
def ix2 : SheafIx := { place := 2, window := 2, locator := 3, generation := 4, stamp := 11, size := 2 }
def upPool : Core :=
  { up with
    regs := [(0x200240, 2 ^ 20), (0x200248, 2 * 2 ^ 20), (0x200250, 2), (0x420000, 6)]
    sess := { up.sess with dir := [(9, { state := .pooled, account := 7, imagePlace := 2 })] }
    mem := { up.mem with windows := [(2, win2)], index := [(9, ix2)] } }

/-- A ticket of the sheaf in unit 3, its first 512 bytes, and a lease offered to any device. -/
def tkt : List Byte := ticketBytes (2 ^ 20 + 8192 + 3 * 4096) 11 5 8 2 0
def tktHead : List Byte := natLe 16 (leaseWord 0 2 4 8) ++ zeros 240 ++ natLe 8 0x4F565348 ++ zeros 24 ++ natLe 8 11 ++ zeros 216

theorem wit_handOver : let o := ds 0x22 9 [7, 4096]
    let i := ds 0x23 8 [4096]
    (serving upPool = true ∧ upPool.ckpt.running = none ∧ upPool.twin.state = 0 ∧ upPool.link.up = true ∧ slotBarred upPool 0 = false ∧
      slotBarred upPool 2 = false ∧ mapGet upPool.mem.windows 0 = none ∧ mapGet upPool.mem.windows 2 = some win2) ∧
    (mapHas upPool.sess.inProg o.session = false ∧ heldOf upPool o.session = [] ∧ mapHas upPool.sess.reread 9 = false ∧ o.session = 9 ∧
      (entryOf upPool 9).account = o.account ∧ (entryOf upPool 9).state = .pooled ∧ mapHas upPool.twin.leases 9 = false ∧
      o.field 3 63 0 0 % 32 = 0 ∧ mapGet upPool.mem.index 9 = some ix2 ∧ ix2.window = 2) ∧
    (mapHas upPool.sess.inProg i.session = false ∧ heldOf upPool i.session = [] ∧ mapHas upPool.sess.reread 8 = false ∧ i.session = 8 ∧
      (entryOf upPool 8).state = .free ∧ mapHas upPool.acctCfg i.account = true ∧ i.field 2 63 0 0 % 32 = 0) ∧
    (let h := bytesAt tktHead 0 512
     ticketPlace upPool (leAt (bytesAt tkt 0 32) 0 8) (leAt (bytesAt tkt 0 32) 24 4) = some (2, 3) ∧ leAt h 256 4 = 0x4F565348 ∧
       leAt h 288 8 = leAt (bytesAt tkt 0 32) 8 8 ∧ mayTake upPool (leAt h 0 16) = true) := by decide +kernel

theorem wit_handOver_answers : hostAnswers upPool := hostAnswers_quiet rfl rfl rfl (show 0 < tagsFree upPool by decide)

theorem wit_ages : serving (upSess (en .waiting) wm) = true ∧ (entryOf (upSess (en .waiting) wm) 9).homeDie = false ∧
    (entryOf (upSess (en .waiting) wm) 9).state = .waiting ∧ (entryOf (upSess (en .idle) wm) 9).state = .idle ∧
    mapGet (upSess (en .idle) wm).sess.inProg 9 = none ∧ heldOf (upSess (en .waiting) wm) 9 = [] ∧
    mapGet (upSess (en .idle) wm).mem.index 9 = none ∧ (upSess (en .idle) wm).levels.d0.lost = false := by decide

/-- Class 2: host areas of 64 KiB at 1 MiB, two kept, every session class, timer and 3 steps. -/
def cls2 : CkClass :=
  { enable := true, dest := false, window := 0, scope := 255, timerEn := true, keep := 2, base := 2 ^ 20, areaSize := 65536
    timer := 9, steps := 3, since := 4, seq := 6 }
def upCk (r : Option Epoch) (p : Map Unit) (e : Entry) : Core :=
  let c := upSess e wm
  { c with ckpt := { up.ckpt with classes := [(2, cls2)], running := r, pending := p } }

theorem wit_ckptStart : let c := upCk none [] (en .idle)
    let d := ds 0x80 0 [2]
    let k := ds 0x81 0 [2 + 8 + 255 * 2 ^ 9 + 2 ^ 17 + 2 * 2 ^ 18, 2 ^ 20, 65536, 9]
    (serving c = true ∧ mapGet c.ckpt.classes 2 = some cls2 ∧ ckptBusy c = false ∧ cls2.enable = true ∧ cls2.timerEn = true ∧
      0 < cls2.steps ∧ cls2.steps ≤ cls2.since) ∧
    (let p := upCk none [(2, ()), (5, ())] (en .idle)
     p.ckpt.pending = (2, ()) :: [(5, ())] ∧ (∀ x ∈ [(5, ())], 2 ≤ x.1) ∧ p.sess.waiting = [] ∧ ckptBusy p = false) ∧
    (mapHas c.sess.seqProg d.ring = false ∧ seqHeldOf c d.ring = [] ∧ d.session = 0 ∧ d.field 2 2 0 0 = 2 ∧ earlierStart c 2 = false) ∧
    (let b := upCk (some { cls := 1, number := 5, seq := 0, cut := ⟨true, true⟩ }) [] (en .idle)
     serving b = true ∧ mapGet b.ckpt.classes 2 = some cls2 ∧ ckptBusy b = true) ∧
    (k.session = 0 ∧ classBad (classOf0 k) = false ∧ (classOf0 k).dest = false ∧ k.field 2 2 0 0 = 2 ∧ cls2.run = none ∧
      c.ckpt.running = none) := by decide

/-- A running epoch of class 2. -/
def ep2 : Epoch := { cls := 2, number := 5, seq := 6, cut := ⟨true, true⟩ }

theorem wit_epoch : let e := en .idle
    let lost := lostEntry e false
    let items : List CutItem := [{ session := 9, entry := lost }, { session := 11, entry := lost }]
    let d := ds 0x80 0 [2]
    (∀ o, let c := upCk (some { ep2 with cut := ⟨false, o⟩ }) [] e
      serving c = true ∧ c.ckpt.running = some { ep2 with cut := ⟨false, o⟩ } ∧ (∀ die, inStep (c.sched.get die) = []) ∧
      mapGet c.ckpt.classes ep2.cls = some cls2) ∧
    (let x := { ep2 with marked := [(9, ())] }
     (upCk (some x) [] e).ckpt.running = some x ∧ mapHas x.marked 9 = true ∧ mapGet (upCk (some x) [] e).sess.warm 9 = some wm) ∧
    (let x := { ep2 with items := items }
     let c := upCk (some x) [] lost
     alive c = true ∧ cutDue c = false ∧ x.failed = none ∧ mapGet c.ckpt.classes x.cls = some cls2 ∧
       x.writing = none ∧ (∀ i ∈ x.items, waitedOn c i = false) ∧ (∀ p ∈ x.prefixes, p.handle ≠ lost.prefixHandle) ∧
       x.items = { session := 9, entry := lost } :: [{ session := 11, entry := lost }] ∧
       (∀ i ∈ [({ session := 11, entry := lost } : CutItem)], i.session ≠ 9) ∧ x.filling.get (dirDie 9) = [] ∧ x.passed.get (dirDie 9) = 0 ∧
       x.offset + 256 + (ckptRecord 2 9 0 (wordsBytes (entryWords {} lost 0))).length ≤ cls2.areaSize) ∧
    (let x := { ep2 with desc := some d }
     let c := upCk (some x) [] e
     alive c = true ∧ cutDue c = false ∧ x.failed = none ∧ x.writing = none ∧ x.items = [] ∧ x.filling = ⟨[], []⟩ ∧ x.desc = some d ∧ cls2.dest = false ∧
       x.prefixes = [] ∧ mapGet c.mem.windows 0 = none ∧
       x.offset + (shardBytes c x false 0 [ckptRecord 4 0 0 (shardList x.shards), ckptRecord 5 0 0 (needList x.needs)]).length ≤
         cls2.areaSize) := by decide +kernel

theorem wit_epoch_answers (r : Option Epoch) (e : Entry) : hostAnswers (upCk r [] e) :=
  hostAnswers_quiet rfl rfl rfl (show 0 < tagsFree (upCk none [] {}) by decide)

/-- The areas of class 2 as RESTORE reads them: a shard with session 9's entry, then the manifest, of epoch 5. -/
def rsShard : List Byte := shardBytes up ep2 false 1 [ckptRecord 2 9 0 (wordsBytes (entryWords {} (lostEntry (en .idle) false) 0))]
def rsManifest : List Byte :=
  shardBytes up ep2 false 0 [ckptRecord 4 0 0 (shardList [(1, false, rsShard.length)]), ckptRecord 5 0 0 (needList [(4, 7, 0)])]
def rsEnv : Env :=
  [.data rsShard, .data rsManifest, .data [], .data [], .data rsManifest, .data rsShard]
def upRs : Core := { up with ckpt := { up.ckpt with classes := [(2, cls2)] } }

set_option maxRecDepth 100000 in
theorem wit_restore : let d := ds 0x82 0 [2]
    let b := beginSeq upRs d
    let c := { b with ckpt := { b.ckpt with skipped := 0, candidates := 0 } }
    (serving upRs = true ∧ mapHas upRs.sess.seqProg d.ring = false ∧ seqHeldOf upRs d.ring = [] ∧ d.session = 0 ∧
      mapGet upRs.ckpt.classes (d.field 2 2 0 0) = some cls2 ∧ ckptBusy upRs = false ∧ d.field 3 63 0 0 = 0 ∧ upRs.twin.state = 0) ∧
    (match scanAreas cls2 (List.range cls2.keep) { descRun { st upRs with core := b } d rsEnv none with core := c } with
     | .error _ => false
     | .ok (all, r1) =>
       let hs := all.filter fun h => h.cls == d.field 2 2 0 0
       match choose cls2 hs (manifests hs) r1 with
       | .ok (some x, r2) =>
         !(x.needs.any (needMissing r2.core)) && (x.records.all fun r => r.kind == 2 && !idBusy upRs r.session) &&
         decide ((x.records.map (·.session)).Nodup) && x.records.map (·.session) == [9] &&
         (match newerSessions cls2 (hs.filter fun h => x.epoch < h.epoch) r2 with
          | .ok ([], _) => true
          | _ => false)
       | _ => false) = true := by decide +kernel

/-! ## Security -/

/-- KEY_LOAD bodies for key 9 under a purpose; a sealed model in slot 3 names key 5. -/
def keyBody (p : Nat) : List Byte := natLe 8 (9 + p * 2 ^ 32) ++ zeros 1628
def sealedSt (k : Nat) : State :=
  let m := wordsBytes [2 ^ 40, 0, 0, 0, 0, 0, 5 * 2 ^ 32, 0]
  ⟨[], { sealKeys := [(k, [])], leaf := some 7, reserved := 7 }, { up with obj := { up.obj with models := [(3, { state := 2, image := m })] } }⟩

theorem wit_mailbox : mailboxFree up = true ∧ alive up = true ∧
    (let c := { up with twin := { up.twin with linkUp := true, state := 3 } }
     alive c = true ∧ c.twin.linkUp = true ∧ c.twin.state = 3) ∧
    twinRecord (natLe 8 300 ++ natLe 8 (crc32c (natLe 8 300)).toNat) = some 300 := by decide +kernel

/-- A paired device with leaf 7 and a reservation. -/
def quoteSt (reserved : Nat) : State :=
  ⟨[], { leaf := some 7, reserved := reserved }, { up with twin := { up.twin with linkUp := true, state := 3 } }⟩

theorem wit_quote : mailboxFree up = true ∧ (zeros 36).length = 36 ∧ leAt (zeros 36) 34 2 = 0 ∧
    (let s := st up
     paired s.core = false ∧ (resumeLeaf s.rot s.rot.twinKnows).leaf.getD 0 < leafMax) ∧
    (let s := quoteSt 300
     mailboxFree s.core = true ∧ (resumeLeaf s.rot s.rot.twinKnows).leaf.getD 0 = 7 ∧ 7 < leafMax ∧ paired s.core = true ∧
       7 < (resumeLeaf s.rot s.rot.twinKnows).reserved ∧ signatureWaits s.core (resumeLeaf s.rot s.rot.twinKnows) = false) ∧
    (let s := quoteSt 7
     mailboxFree s.core = true ∧ (resumeLeaf s.rot s.rot.twinKnows).leaf.getD 0 = 7 ∧ paired s.core = true ∧
       (resumeLeaf s.rot s.rot.twinKnows).reserved ≤ 7) := by decide +kernel

theorem wit_keys : mailboxFree up = true ∧ (∀ p, (keyBody p).length = 1636) ∧
    (∀ p, p = 1 ∨ p = 2 → leAt (keyBody p) 5 3 = 0 ∧ leAt (keyBody p) 4 1 = p ∧ leAt (keyBody p) 0 4 = 9) ∧
    (st up).rot.debug = false ∧ mapHas (st up).rot.sealKeys 9 = false ∧ (st up).rot.sealKeys.length < 64 ∧
    (mapHas (sealedSt 9).rot.sealKeys 9 = true ∧ keyInUse (sealedSt 9).core 9 = false ∧ (natLe 4 9).length = 4 ∧ leAt (natLe 4 9) 0 4 = 9) ∧
    (mapHas (sealedSt 5).rot.sealKeys 5 = true ∧ keyInUse (sealedSt 5).core 5 = true ∧ leAt (natLe 4 5) 0 4 = 5) ∧
    mapHas (sealedSt 5).rot.sealKeys 9 = false ∧ mapHas (sealedSt 5).rot.ideKeys 9 = false := by
  refine ⟨by decide, fun p => by simp [keyBody], fun p h => ?_, by decide, by decide, by decide, by decide, by decide +kernel, by decide, by decide⟩
  rcases h with rfl | rfl <;> decide +kernel

theorem wit_tenant : barReady up = true ∧ up.doe.token = none ∧ up.twin.state = 0 ∧ up.link.up = true ∧ slotBarred up 0 = false ∧ mapGet up.mem.windows 0 = none ∧
    (∀ k, k = 1 ∨ k = 2 ∨ k = 3 → ({ up with twin := { up.twin with state := k } } : Core).twin.state = k ∧
      barReady { up with twin := { up.twin with state := k } } = true) := by
  refine ⟨by decide, rfl, by decide, by decide, by decide, by decide, fun k _ => ⟨rfl, by simp [up, barReady]⟩⟩

/-- A device whose lock sequence runs, with one trained stack on each die, or none. -/
def upLock (trained : Bool) : Core :=
  { up with
    setupDone := false, setupBusy := true
    stackTab := if trained then [(0, { state := 1 }), (4, { state := 1 })] else [] }

/-- A window of 4 MiB at the base of the outbound range: 10 units of 256 KiB from 256 KiB on. -/
def upWin : Core := { up with regs := [(0x200220, outboundBase), (0x200228, 2 ^ 22), (0x100000, outboundBase)] }
def winHead : List Byte := wordsBytes [0x0B1E5A7C + 2 ^ 32 + 18 * 2 ^ 40, 10, 2 ^ 18] ++ zeros 40

theorem wit_setup : up.power.deep = false ∧
    (let c := { up with setupDone := false }
     barReady c = true ∧ c.setupBusy = false ∧ c.setupDone = false ∧ c.power.deep = false) ∧
    (ready (upLock true) = true ∧ (upLock true).setupBusy = true ∧
      ∀ die, carveNeed (upLock true) + floorOf (upLock true) ≤ carvable (upLock true) die) ∧
    (ready (upLock false) = true ∧ (upLock false).setupBusy = true ∧
      ∀ die, carvable (upLock false) die < carveNeed (upLock false) + floorOf (upLock false)) ∧
    (barReady upWin = true ∧ upWin.power.deep = false ∧ regField upWin (poolCfg 1) 0 0 = 0 ∧ mapGet upWin.mem.windows 1 = none ∧
      slotBarred upWin 1 = false ∧ upWin.link.up = true ∧ headerOk upWin 1 winHead = some (18, 10, 2 ^ 18) ∧
      headerOk upWin 1 (zeros 64) = none) := by decide +kernel

theorem wit_registers : barReady up = true ∧ up.power.deep = false ∧ alignedAccess 0x600084 8 = false ∧ alignedAccess 0x600080 3 = false ∧
    up.setupDone = true ∧ (77 : Word).toNat % 2 ^ 32 ≠ regGet up 0x500208 ∧ regGet up 0x500208 < 2 ^ 32 ∧ up.link.up = true ∧
    regGet up 0x420008 < 2 ^ 64 := by decide +kernel


theorem wit_security_answers : hostAnswers up ∧ 0 < tagsFree upWin :=
  ⟨hostAnswers_quiet rfl rfl rfl (by decide), by decide⟩

/-! ## Host link -/

/-- The link down under a hold of 9 cycles; a link at 16 lanes; keys of slot 2 for both directions in both sets. -/
def upDown : Core :=
  { up with link := { up.link with up := false, downTime := 4 }, regs := [(0x20, 9)], power := { up.power with rails := allRails } }
def upTrain : Core := { up with link := { up.link with speed := 32, width := 8 } }
def keysOf (c : Core) : State := ⟨[], { ideKeys := [(2, []), (18, []), (34, []), (50, [])] }, c⟩
def upSecure : Core := { up with link := { up.link with secure := 4, keySet := [(4, 0), (5, 1)] } }

theorem wit_link : (ready up = true ∧ up.link.up = true) ∧
    (ready upDown = true ∧ supplied upDown = true ∧ upDown.power.perst = false ∧ upDown.link.up = false ∧ trains 32 16 false = true ∧
      lanesGood upDown.link.badLanes 16 = true ∧ regField upDown 0x20 31 0 ≠ 0 ∧ upDown.link.holdOut = false) ∧
    (ready upTrain = true ∧ upTrain.link.up = true ∧ trains 16 upTrain.link.width upTrain.link.flit = true ∧ 16 < upTrain.link.speed ∧
      trains 32 upTrain.link.width upTrain.link.flit = true ∧ upTrain.link.speed ≤ 32 ∧
      min upTrain.link.width (goodWidth (upTrain.link.badLanes ||| 2 ^ 3)) = 2 ∧
      min upTrain.link.width (goodWidth (upTrain.link.badLanes ||| 2 ^ 12)) = upTrain.link.width ∧
      min upTrain.link.width (goodWidth (upTrain.link.badLanes ||| 2 ^ 0)) = 0) := by decide +kernel

theorem wit_ide : up.link.secure < 2 ^ 16 ∧ up.link.insecure < 2 ^ 16 ∧ portUp up = true ∧ bit up.link.secure 2 = false ∧
    firstKeySet (keysOf up).rot 2 0 = some 0 ∧ firstKeySet (keysOf up).rot 2 1 = some 0 ∧
    (alive upSecure = true ∧ bit upSecure.link.secure 2 = true ∧ upSecure.link.secure < 2 ^ 16 ∧ upSecure.link.insecure < 2 ^ 16 ∧
      upSecure.link.up = true ∧ upSecure.sess.waiting = [] ∧ up.rings.msixPending = [] ∧
      ∀ dir : Bool, ∃ k, mapGet upSecure.link.keySet (2 * 2 + b2n dir) = some k ∧ k ≤ 1 ∧
        hasIdeKey (keysOf upSecure).rot 2 (b2n dir) (1 - k) = true) := by
  refine ⟨by decide, by decide, by decide, by decide, by decide, by decide, by decide, by decide, by decide, by decide, by decide, by decide, by decide, fun dir => ?_⟩
  cases dir
  · exact ⟨0, by decide⟩
  · exact ⟨1, by decide⟩

/-- A VEC_DELETE that waits for its ids, under a tier timeout or none, sent or not yet. -/
def deleteD : Desc := ds 0x62 0 [4096, 3 + 2 ^ 8]
def deleteW (sent : Bool) : Waiting := { desc := deleteD, env := [], slot := 0, tags := if sent then 1 else 0 }
def upWait (t : Nat) (sent : Bool) : Core :=
  { up with
    obj := { up.obj with indexes := [(3, ix1)] }
    sess := { up.sess with waiting := [deleteW sent], seqProg := [(2, deleteD)] }
    regs := [(0x200110, t * 2 ^ 32)] }

/-- Window 1 on, with a run of units 62 to 63 on its release list. -/
def upRel : Core :=
  { up with mem := { up.mem with windows := [(1, { state := 1, unitLog2 := 18, units := 100, dataOffset := 2 ^ 18, releases := [.run ⟨62, 2⟩] })] } }

theorem wit_requests : let d := deleteD
    (∀ t ∈ [0, 5], ∀ b, serving (upWait t b) = true ∧ (upWait t b).sess.waiting = [deleteW b] ∧ (deleteW b).desc = d ∧ (deleteW b).memo = [] ∧
      (upWait t b).obj.jobs = [] ∧ mapGet (upWait t b).obj.indexes (indexIdOf d) = some ix1 ∧ mapGet (upWait t b).mem.windows 0 = none ∧
      regField (upWait t b) 0x200110 63 32 = t ∧ wasSent (deleteW b) = b ∧
      barredAt (upWait t b) 0 (d.field 2 63 0 0) = false ∧ (deleteW b).env = [] ∧ (deleteW b).slot = 0) ∧
    (d.session = 0 ∧ d.opcode = 0x62 ∧ d.field 2 63 0 0 % 4 = 0 ∧ d.field 3 28 8 0 = 1) ∧
    (ready upRel = true ∧ upRel.link.up = true ∧ slotBarred upRel (streamAt upRel 1 (winAddr upRel 1 (mapWordOff 0))) = false ∧ 0 < tagsFree upRel ∧
      (mapGet upRel.mem.windows 1).map (fun x => (x.state, x.releases)) = some (1, [.run ⟨62, 2⟩]) ∧ runWords ⟨62, 2⟩ = [0]) := by decide

/-! ## Power -/

/-- Power: every rail good, and the rest of the power state given. -/
def upPow (p : Power) : Core := { up with power := { p with on := true, rails := allRails } }
def bootA : BootInfo :=
  { imageAOk := true, imageBOk := false, die1Ok := true, parts := [[1], [2], [3], [4], [5]], fwVersions := [1, 2, 3, 4], tenantEpoch := 6, leafF := 9, logSeq := 1 }

theorem wit_powerUp : (st ({} : Core)).core.power.on = false ∧ bootA.imageAOk = true ∧
    (let c := { up with power := { up.power with rails := 7 } }
     c.power.on = true ∧ c.power.rails &&& railsBefore .vlogic1 = railsBefore .vlogic1 ∧
       c.power.rails &&& railsBefore .vphy ≠ railsBefore .vphy) ∧
    (let c := upPow { trained := false, perst := true, locks := 0x77 }
     supplied c = true ∧ c.power.deep = false ∧ c.power.tripped = false ∧ c.power.trained = false ∧ c.power.failed = false ∧
       c.power.locks = 0x77 ∧ c.power.perst = true ∧ trains 64 16 true = true) ∧
    (let c := upPow { trained := true, perst := true, locks := 0x77 }
     supplied c = true ∧ c.power.perst = true ∧ c.power.failed = false ∧ c.power.locks = 0x77 ∧ c.power.trained = true ∧
       c.power.tripped = false ∧ c.power.held = false) := by decide +kernel

theorem wit_resets : (∀ p, (upPow p).power.on = true) ∧ isFundamental .rstHost = false ∧ isFundamental .functionLevel = false ∧
    isFundamental .perst = true ∧ (upPow {}).power.tripped = false ∧
    (upPow { tripped := true }).power.tripped = true ∧ (upPow { tripped := true }).power.cooled = false ∧
    (upPow { tripped := true }).power.resetHeld = none ∧
    (upPow { tripped := true, resetHeld := some (.perst, true) }).power.resetHeld = some (.perst, true) ∧
    (upPow { ready := true }).power.ready = true ∧ barReady (upPow { ready := true }) = true ∧
    firmwareBad {} true = none ∧ (upPow {}).power.unverified = ⟨false, false⟩ ∧ (firmwareBad {} false).isSome = true := ⟨fun _ => rfl, by decide +kernel⟩

/-- Domain 72, a stack's controller, and its bank-unit group alone are on; or nothing is, in deep idle or not. -/
def upDom (d : Nat) (deep : Bool) : Core :=
  { up with power := { up.power with domains := d, deep := deep, locks := 0x77 }, regs := [(0x900000, 5 + 5 * 2 ^ 32)] }

theorem wit_domains : (let c := upDom (2 ^ 72 + 2 ^ 80) false
      ready c = true ∧ regField c 0x900000 31 0 ≠ 0 ∧ domainOn c 72 = true ∧
        mayPowerOff c 72 = true) ∧
    (let c := upDom 0 false
     ready c = true ∧ c.power.deep = false ∧ regField c 0x900000 63 32 ≠ 0 ∧ allOff c = true ∧ c.power.waking = ⟨[], []⟩ ∧ queuesEmpty c = true) ∧
    (ready (upDom 0 true) = true ∧ (upDom 0 true).power.deep = true) := by decide +kernel


/-- Domain 9 is off; its region may start, or a region started 3 cycles ago and domain 17 waits. -/
def upWake (started : Option (Nat × Nat)) (waits : List Nat) : Core :=
  { upDom 0 false with aon := 10, power := { (upDom 0 false).power with started := ⟨started, none⟩, waking := ⟨waits, []⟩ } }

theorem wit_wake : (let c := upWake none []
      domainOn c 9 = false ∧ c.power.waking.get false = [] ∧ mayStart c false 1 = true) ∧
    domainOn (upDom (2 ^ 9) false) 9 = true ∧ (upDom 0 false).power.waking = ⟨[], []⟩ ∧
    (let c := upWake (some (0, 7)) [17]
     domainOn c 9 = false ∧ c.power.started.get false = some (0, 7) ∧ c.aon < 7 + 25 ∧
       ∀ k ∈ c.power.waking.get false ++ [9 % 32], k / 8 ≠ 0) := by decide +kernel

/-! ## Bank units -/

/-- Stack 1 in service with pair 5 as given (pair 517 of the device). -/
def upPair (p : Pair) : Core :=
  { upData with
    stackTab := [(1, { state := 1, trained := true, spareRows := 2, partials := 9, pairs := [(5, p)] })]
    regs := [(0x600108, 9 * 2 ^ 16)] }
def bcmd (o : UnitOp) (w : Owner) : BankCmd := { op := o, n := 1, owner := w }
def scanO : ScanOp := { index := 3, list := 0, metric := 0, format := 8, query := [0x3F80], kl := 1, rank := 0, first := 0, recs := [⟨5, true, 0, 0, [0x3F80], false⟩] }
def scoreO : ScoreOp := { layer := 0, block := 0, masks := [], queries := [], mass := false, slot := 0, pos := 0, cols := [] }
def gatherO : GatherOp := { table := 4, bag := 0, rows := [1], staged := [] }
def fillO : FillOp := { pattern := 7, die := false, page := 2 ^ 31, first := 0 }
/-- Pair 517 with issued commands of job 2. -/
def upIssued (xs : List BankCmd) : Core :=
  let c := upPair { issued := xs }
  { c with
    obj := { c.obj with jobs := [(2, { desc := searchD })] }
    mem := { c.mem with xmap := ⟨[(2 ^ 31, { size := 0, write := true, kind := 2, bytes := [(5, 7)] })], []⟩ } }

theorem wit_unitCommands :
    (let c := upPair { queue := [bcmd (.score scoreO) .nobody] }
     alive c = true ∧ (pairOf c (512 * 1 + 5)).queue = [bcmd (.score scoreO) .nobody] ∧ ownerLives c (bcmd (.score scoreO) .nobody) = true ∧
       mayIssue c (512 * 1 + 5) (bcmd (.score scoreO) .nobody) = true ∧ cmdPlace c (bcmd (.score scoreO) .nobody) = .own ∧
       (pairOf c (512 * 1 + 5)).state ≠ 2) ∧
    (let x := bcmd (.score scoreO) .nobody
     (pairOf (upIssued [x]) 517).issued = [x] ∧ x.faulted = false ∧ unitCode x.op = 1 ∧ cmdBad (upIssued [x]) x = false) ∧
    (let x := bcmd (.scan scanO) (.job 2)
     (pairOf (upIssued [x]) 517).issued = [x] ∧ x.faulted = false ∧ mapHas (upIssued [x]).obj.jobs 2 = true) ∧
    (let x := bcmd (.gather gatherO) (.job 2)
     (pairOf (upIssued [x]) 517).issued = [x] ∧ x.faulted = false ∧ mapHas (upIssued [x]).obj.jobs 2 = true ∧
       cmdBad (upIssued [x]) x = false ∧ mapGet (upIssued [x]).obj.tables gatherO.table = some tb1 ∧
       x.frames = []) ∧
    (let x := bcmd (.fill fillO) (.job 2)
     (pairOf (upIssued [x]) 517).issued = [x] ∧ x.faulted = false ∧ unitCode x.op = 4 ∧ fillO.test = false ∧
       mapHas ((upIssued [x]).mem.xmap.get fillO.die) fillO.page = true) ∧
    (let x := { bcmd (.fill fillO) (.job 2) with faulted := true }
     (pairOf (upIssued [x]) 517).issued = [x] ∧ x.faulted = true ∧ mayStartCmd (upIssued [x]) 517 0 = true ∧
       (pairOf (upIssued [x]) 517).errors + 1 < regField (upIssued [x]) 0x600108 31 16) := by decide +kernel

/-- Frame 1 of die 0 lies in pair 517, which drains; an old place of it is in the forward table; session 9 has it for a column, or no one. -/
def upMove (held : Bool) (p : Pair) (fwd : Map Fwd) : Core :=
  let c := upPair p
  let w : Warm := { ctlLeaf := { frame := 2 }, tables := [3], columns := [(0, { slot := 0, leaves := [{ frame := 1 }] })] }
  { c with
    sess := if held then { c.sess with dir := [(9, en .idle)], warm := [(9, w)] } else c.sess
    mem := { c.mem with
      free := ⟨1000, 1000⟩, pairFree := ⟨List.replicate 2048 5, List.replicate 2048 5⟩
      frames := [(1, { die := false, pair := 517 }), (2, { die := false }), (3, { die := false })], nextFrame := 4, forward := ⟨fwd, []⟩ } }

/-- Stack 1 with pair 5 draining and empty, and `n` pairs fenced. -/
def upFences (n : Nat) : Core :=
  let c := upPair {}
  { c with
    stackTab := [(1, { state := 1, trained := true, spareRows := 2
                       pairs := (5, { state := 1 }) :: (List.range n).map fun i => (i + 6, { state := 2 }) })] }

theorem wit_pairs :
    (let c := { upPair { errors := 12 } with mem := { up.mem with free := ⟨1000, 0⟩ } }
     alive c = true ∧ (pairOf c 517).state = 0 ∧ regField c 0x600108 31 16 ≤ (pairOf c 517).errors ∧ framesIn c 517 = [] ∧
       pairBulk c 517 = 0 ∧ placedIn c 517 = 0 ∧ nth (c.mem.stagePairs.get (stackDie 1)) (517 % 2048) 0 = 0) ∧
    (let c := upMove false { state := 1 } []
     mapGet c.mem.frames 1 = some { die := false, pair := 517 } ∧ false = stackDie 1 ∧ pairInService c 517 = false ∧
       (c.mem.forward.get (stackDie 1)).length < 4096 ∧ 0 < freeOf c (stackDie 1) ∧ c.obj.prefixes = [] ∧ frameHolders c 1 = []) ∧
    (let c := upMove true { state := 1 } []
     mapGet c.mem.frames 1 = some { die := false, pair := 517 } ∧ pairInService c 517 = false ∧ c.obj.prefixes = [] ∧
       frameHolders c 1 = [9] ∧ shadowed c 9 = false) ∧
    (let e : Fwd := { frame := 1, pair := 517, count := 1 }
     let c := upMove false { state := 1 } [(3, e)]
     (c.levels.get false).lost = false ∧ c.mem.forward.get false = [(3, e)] ∧ e.loft = false ∧
       517 % 2048 < (c.mem.pairFree.get (stackDie 1)).length) ∧
    (let c := upFences 0
     (stackOf c 1).state ≠ 2 ∧ (pairOf c 517).state = 1 ∧ pairEmpty c 517 = true ∧ (pairOf c 517).unitFenced = false ∧ 2 ≤ (stackOf c 1).spareRows ∧
       (pairOf c 517).spared0 + 1 ≤ 2 ∧ (pairOf c 517).spared1 + 1 ≤ 2 ∧ fencedPairs c 1 < 64 ∧ (stackOf c 1).delayed = [] ∧ stackQueued (stackOf c 1) + 128 ≤ 1024) ∧
    (let c := upFences 64
     (stackOf c 1).state ≠ 2 ∧ (pairOf c 517).state = 1 ∧ pairEmpty c 517 = true ∧ fencedPairs c 1 = 64) ∧
    (let c := upPair { state := 3 }
     (stackOf c 1).state ≠ 2 ∧ (pairOf c 517).state = 3 ∧ (pairOf c 517).queue = [] ∧ (pairOf c 517).issued = [] ∧
       (stackOf c 1).delayed = []) := by decide +kernel

theorem wit_governor : let p : Pair := { debt0 := 3, issued := [bcmd (.fill fillO) .nobody], clock := 9 }
    let c := { upPair p with gov := ⟨{ level := 2, calm := 3 }, { lent := 700 }⟩ }
    alive c = true ∧ (stackOf c 1).state ≠ 2 ∧ mapGet (stackOf c 1).pairs 5 = some p ∧ (c.levels.get false).lost = false ∧
    (c.gov.get false).level ≤ 7 ∧ (c.gov.get (!false)).lent = 700 := by decide

/-! ## Levels and faults -/

theorem wit_levels : let c := upPair { queue := [bcmd (.score scoreO) .nobody] }
    (∀ die, dieServes c die = true) ∧ c.levels.d0.lost = false ∧ (∀ die n, mapHas (c.levels.get die).clusters n = false) ∧
    (∀ die n, mapHas (c.levels.get die).cores n = false) ∧ (∀ die n, mapHas (c.levels.get die).regions n = false) ∧
    dieServes c (stackDie 1) = true ∧ (stackOf c 1).state ≠ 2 ∧ (∀ die f, mapHas (c.mem.loftRetired.get die) f = false) ∧
    ∀ die, retireWaits c die 5 = false ∧ ((loftMapping c die 5).any fun m => loftBad m.2.1 m.2.2) = false := by
  refine ⟨by decide, by decide, fun die _ => ?_, fun die _ => ?_, fun die _ => ?_, by decide, by decide, fun die _ => ?_, by decide⟩ <;> cases die <;> rfl

/-- Watch thresholds of 1 over counts of 2 on die 0; classes 6 and 2. -/
def upErr (told : Map Unit) (n : Nat) : Core :=
  let c := upPair { errors := 3 }
  { c with
    regs := [(0x600080, 1), (0x600100, 1), (0x600108, 9 * 2 ^ 16)]
    errs := { c.errs with rates := ⟨{ now := [(1, n)], told := told }, {}⟩ }
    ckpt := { c.ckpt with classes := [(6, cls2)] } }

theorem wit_errors : let c := upErr [] 2
    ready c = true ∧ 0 < rateThresh c 1 ∧ rateThresh c 1 < satAdd 32 ((mapGet (c.errs.rates.get false).now 1).getD 0) 1 ∧
    mapHas (c.errs.rates.get false).told 1 = false ∧ satAdd 32 ((mapGet (c.errs.rates.get true).now 1).getD 0) 1 ≤ rateThresh c 1 ∧
    serving c = true ∧ (pairOf c (512 * 1 + 5)).errors + 1 < regField c 0x600108 31 16 ∧
    (mapGet c.ckpt.classes 6 = some cls2 ∧ cls2.enable = true ∧ 0 < regField c 0x600100 31 0 ∧
      regField c 0x600100 31 0 < watchSum c false ∧ mapHas (c.errs.rates.get false).watched 6 = false ∧
      mapHas c.ckpt.classes 7 = false ∧ ckptBusy c = false) ∧
    c.power.on = true ∧ c.levels.d0.lost = false ∧ repairedKind 3 = false := by decide +kernel

/-- A loaded model of one section of 2 tiles. -/
def mod1 : Model := { state := 2, image := wordsBytes [2 ^ 48, 0, 1 + 256 * 2 ^ 8 + 2 ^ 24 + 2 ^ 32 + 64 * 2 ^ 40, 256, 0, 0, 0, 0, 1 + 255 * 2 ^ 8 + 0x1FF * 2 ^ 16, 0, 0, 2, 0, 0] }

theorem wit_refills : (ready up = true ∧ (∀ die, domainOn up (schedDomain die) = false) ∧
      (∀ die, domainOn { up with power := { up.power with domains := 2 ^ 112 - 1 } } (schedDomain die) = true) ∧ up.acctCfg = [(7, { cir := 1000, weight := 1, cbs := 5000 })]) ∧
    (let c := { up with obj := { up.obj with models := [(3, mod1)] } }
     serving c = true ∧ c.obj.models = [(3, mod1)] ∧ mod1.state = 2 ∧ mod1.available = true ∧ c.mem.hot = [] ∧
       hotTiles mod1 false = 2) := by decide +kernel

/-- A word whose parity bit is wrong, then the word whole. -/
theorem wit_parity : (dieServes up false = true ∧ [Fetched.mk 1 false false].length < 4 ∧ ∀ f ∈ [Fetched.mk 1 false false], parityGood f = false) ∧
    ∀ f ∈ List.replicate 4 (Fetched.mk 1 false false), parityGood f = false := by decide +kernel

/-! ## Twin -/

/-- Device 6 with a twin state given; frames of 4,096 are free above the floor. -/
def upTwin (w : Twin) : Core :=
  let c := upSess (en .idle) wm
  { c with twin := w, regs := [(0x200108, 0), (0x420000, 6)], mem := { c.mem with free := ⟨3000, 3000⟩ } }
def hello5 (c : Core) : Hello :=
  { deviceNo := 5, stepping := bits (regGet c 0) 7 0, slots := [], ids := [11, 12], lost := [12], interval := regField c 0x500200 31 0
    credits := regField c 0x500208 31 0, leafT := 300 }

theorem wit_pairing :
    (let c := upTwin {}
     barReady c = true ∧ c.power.deep = false ∧ c.twin.taking = false ∧ c.twin.state = 0 ∧ pairEn c = false ∧ c.twin.shadows = []) ∧
    (∀ k, k = 2 ∨ k = 3 → let c := upTwin { state := k, linkUp := true, lent := ⟨1024, 2048⟩ }
     ready c = true ∧ c.twin.linkUp = true ∧ c.twin.state = k ∧ c.twin.shadows = [] ∧ c.twin.toRecv = [] ∧ stillToSend c = [] ∧ c.twin.bulk = [] ∧ c.twin.unpairing = false ∧
       c.twin.taken = false ∧ regField c 0x700018 3 0 = 0 ∧ (∀ die, 1024 ≤ c.twin.lent.get die) ∧
       (∀ die, regField c 0x200108 20 0 + 1024 < freeOf c die) ∧ ∀ die, grantLeft c die < 4096) ∧
    (∀ said, let c := upTwin { state := 3, linkUp := true, unpairing := true, saidUnpair := said }
     c.twin.linkUp = true ∧ c.twin.state = 3 ∧ c.twin.unpairing = true ∧ c.twin.mirror = [] ∧ c.twin.saidUnpair = said ∧ c.twin.ctl = [] ∧
       c.twin.shadows = []) ∧
    (let c := upTwin { state := 1, linkUp := true }
     ready c = true ∧ c.twin.linkUp = true ∧ c.twin.state = 1 ∧ helloCause c (hello5 c) = 0 ∧
       helloCause c { hello5 c with deviceNo := 6 } = 1) ∧
    (let c := upTwin { state := 2, linkUp := true, toSend := [9, 10], recvDone := true, granted := ⟨20000, 20000⟩ }
     ready c = true ∧ c.twin.linkUp = true ∧ c.twin.state = 2 ∧ c.twin.recvDone = true ∧
       ∀ die, 16384 < grantLeft c die) := by
  refine ⟨by decide +kernel, fun k h => ?_, by decide +kernel, by decide +kernel, by decide +kernel⟩
  rcases h with rfl | rfl <;> decide +kernel

/-- A good frame 4 that acknowledges frame 1. -/
def frame4 : List Byte :=
  let b := natLe 4 4 ++ natLe 4 1 ++ zeros 488
  b ++ natLe 16 (crc32c b).toNat

set_option maxRecDepth 100000 in
theorem wit_frames :
    (let c := upTwin { linkUp := true, rxNext := 4, retry := [{ seq := 1, cls := 0 }, { seq := 2, cls := 0, resends := 3 }], replay := true }
     c.power.on = true ∧ c.power.deep = false ∧ c.twin.linkUp = true ∧ alive c = true ∧ c.twin.replay = true ∧ (∀ g ∈ c.twin.retry, g.resends < 15) ∧
       frame4.length = 512 ∧ (crc32c (bytesAt frame4 0 496)).toNat = leAt frame4 496 4 ∧ leAt frame4 0 4 = c.twin.rxNext ∧
       (let f : TxFrame := { seq := 4, cls := 1, ack := 1, creditCls := 2, credits := 3 }
        f.seq = c.twin.rxNext ∧ f.seq < 2 ^ 32 ∧ f.ack < 2 ^ 32 ∧ f.cls < 3 ∧ f.creditCls < 3 ∧ f.credits < 2 ^ 16) ∧
       c.power.ready = true ∧ c.twin.badLanes = [] ∧ mapHas c.twin.badLanes 7 = false) ∧
    (let c := upTwin { linkUp := true, badLanes := [(2, ()), (3, ())], sparesUsed := 2 }
     alive c = true ∧ c.twin.linkUp = true ∧ mapHas c.twin.badLanes 7 = false ∧ c.twin.badLanes.length = 2 ∧ (zeros 3).length ≠ 512) := by
  decide +kernel

/-- Shadow 30, PARKED: with its sheaf here, or with nothing. -/
def shadowP (ix : Option SheafIx) : Shadow := { entry := { state := .parked, account := 7 }, ix := ix, bare := ix.isNone }
def ixB : SheafIx := { place := 1, locator := 3, stamp := 11, size := 2 }

theorem wit_takeover :
    (∀ up, let c := upTwin { state := 3, linkUp := up }
     alive c = true ∧ c.power.deep = false ∧ c.twin.state = 3 ∧ c.twin.taking = false ∧ c.twin.unpairing = false ∧ c.twin.linkUp = up ∧ regField c 0x700018 3 0 = 0) ∧
    (let c := { upTwin { state := 3, seeking := true, twinNo := 5 } with regs := [(0x420000, 6), (0x700018, 2)] }
     alive c = true ∧ c.twin.seeking = true ∧ regField c 0x700018 3 0 ≠ 0 ∧ c.link.up = true ∧ slotBarred c (streamAt c (witnessWindow c) (winAddr c (witnessWindow c) (witnessOff c))) = false ∧
       regField c 0x700018 3 0 = 2 ∧ 5 + 2 * 2 ^ 32 < 2 ^ 128 ∧ bits (5 + 2 * 2 ^ 32) 31 0 = c.twin.twinNo ∧ bits (5 + 2 * 2 ^ 32) 33 32 = 2) ∧
    (let c := upTwin { state := 3, seeking := true }
     alive c = true ∧ c.twin.seeking = true ∧ regField c 0x700018 3 0 = 0) ∧
    (let c := upTwin { state := 3, taking := true, lent := ⟨1024, 0⟩ }
     alive c = true ∧ c.twin.taking = true ∧ c.twin.shadows = []) ∧
    (let c := upTwin { state := 3, taking := true, shadows := [(30, shadowP (some ixB))] }
     c.twin.shadows = [(30, shadowP (some ixB))] ∧ c.twin.lent = ⟨0, 0⟩ ∧ (shadowP (some ixB)).turn = none ∧ (shadowP (some ixB)).fin = none ∧
       (shadowP (some ixB)).ix = some ixB ∧ ixB.place = 1 ∧ (shadowP (some ixB)).entry.state = .parked ∧
       indexNeed c 30 ≤ freeOf c (dirDie 30) ∧ (shadowP none).ix = none ∧ (shadowP none).entry.state = .parked ∧ (shadowP none).bare = true) ∧
    (let c := upTwin { state := 4, kept := [(9, ⟨5, 2, 0x14, .ok, 0, 0⟩)], leases := [(9, 5)] }
     ready c = true ∧ c.twin.ringHold = false ∧ takeRingsWork c = false ∧ c.twin.kept ≠ [] ∧ serving c = true ∧
       mapHas c.twin.leases 9 = true ∧ mapGet c.mem.index 9 = none) ∧
    (let c := upTwin { state := 3, linkUp := true, shadows := [(30, shadowP none)] }
     let r : MirrorRec := { die := false, session := 31, turn := 0, step := 0, body := .opened (en .idle) none }
     alive c = true ∧ c.twin.state = 3 ∧ r.body = .opened (en .idle) none ∧ (en .idle).state ≠ .lost ∧ ready c = true ∧
       c.twin.linkUp = true ∧ mapGet c.twin.shadows 30 = some (shadowP none)) := by
  refine ⟨fun u => ?_, by decide +kernel, by decide +kernel, by decide, by decide, by decide +kernel, by decide⟩
  cases u <;> decide +kernel


/-- Sessions 9 to 12, warm, pooled, in the barn, and with neither; the one given is the next to go to the twin. -/
def upSync (x : Nat) : Core :=
  let c := upTwin { state := 2, linkUp := true, toSend := [x] }
  { c with
    sess := { c.sess with dir := [(9, en .idle), (10, en .pooled), (11, en .parked), (12, en .parked)] }
    mem := { c.mem with index := [(10, { place := 2, window := 2 }), (11, ixB)] } }

theorem wit_sync :
    (∀ x ∈ [9, 10, 11, 12], let c := upSync x
     ready c = true ∧ c.twin.linkUp = true ∧ c.twin.state = 2 ∧ c.twin.unpairing = false ∧ (stillToSend c).head? = some x ∧ c.twin.bulk = [] ∧
       ∀ row ∈ c.sched.d0.placed ++ c.sched.d1.placed, row.session ≠ x) ∧
    mapGet (upSync 9).sess.warm 9 = some wm ∧ (∀ x ∈ [10, 11, 12], mapGet (upSync x).sess.warm x = none) ∧
    mapGet (upSync 10).mem.index 10 = some { place := 2, window := 2 } ∧ mapGet (upSync 11).mem.index 11 = some ixB ∧ ixB.place = 1 ∧
    mapGet (upSync 12).mem.index 12 = none ∧
    0 < tagsFree { upTwin { state := 3, seeking := true, twinNo := 5 } with regs := [(0x420000, 6), (0x700018, 2)] } := by decide +kernel

end Sys2Proof.Tests
end

/-! SUPPORT. Host accesses to the registers with stored fields (00_scope R6, 03_host_link R86, 22_registers R579, R580, R583, R584): what a field reads after a write to it, what a plain write stores, and what an access on an awake device does beside its own effect. -/

namespace Sys2Proof.Machine

/-! ## Fields of a number -/

/-- Bits of a field. -/
theorem testBit_bits (v hi lo j : Nat) : (bits v hi lo).testBit j = (decide (j < hi - lo + 1) && v.testBit (lo + j)) := by
  rw [bits, Nat.testBit_mod_two_pow, Nat.testBit_div_two_pow, Nat.add_comm j lo]

/-- A number with a field replaced, as what lies above the field, the field, and what lies below it. -/
theorem putBits_eq (v hi lo x : Nat) : putBits v hi lo x =
    2 ^ lo * (2 ^ (hi - lo + 1) * (v / 2 ^ lo / 2 ^ (hi - lo + 1)) + x % 2 ^ (hi - lo + 1)) + v % 2 ^ lo := by
  have low := Nat.div_add_mod v (2 ^ lo)
  have high := Nat.div_add_mod (v / 2 ^ lo) (2 ^ (hi - lo + 1))
  have whole : v = 2 ^ lo * (2 ^ (hi - lo + 1) * (v / 2 ^ lo / 2 ^ (hi - lo + 1))) + 2 ^ lo * bits v hi lo + v % 2 ^ lo := by
    rw [bits, ← Nat.mul_add, high, low]
  rw [putBits, Nat.mul_add, Nat.mul_comm (bits v hi lo), Nat.mul_comm (x % _)]
  omega

/-- Bits of a number with a field replaced. -/
theorem testBit_putBits (v hi lo x j : Nat) (h : lo ≤ hi) :
    (putBits v hi lo x).testBit j = if lo ≤ j ∧ j ≤ hi then x.testBit (j - lo) else v.testBit j := by
  rw [putBits_eq, Nat.testBit_two_pow_mul_add _ (Nat.mod_lt _ (Nat.two_pow_pos lo))]
  split
  · rw [if_neg (by omega), Nat.testBit_mod_two_pow]
    simp [*]
  · rw [Nat.testBit_two_pow_mul_add _ (Nat.mod_lt _ (Nat.two_pow_pos _))]
    split
    · rw [if_pos (by omega), Nat.testBit_mod_two_pow]
      simp [*]
    · rw [if_neg (by omega), Nat.testBit_div_two_pow, Nat.testBit_div_two_pow]
      congr 1; omega

/-- A replaced field reads as the low bits of what was put there. -/
theorem bits_putBits_same (v hi lo x : Nat) (h : lo ≤ hi) : bits (putBits v hi lo x) hi lo = x % 2 ^ (hi - lo + 1) := by
  refine Nat.eq_of_testBit_eq fun j => ?_
  rw [testBit_bits, testBit_putBits _ _ _ _ _ h, Nat.testBit_mod_two_pow]
  by_cases hj : j < hi - lo + 1
  · rw [if_pos (by omega), Nat.add_sub_cancel_left]
  · simp [hj]

/-- A number below 2 to the 64 whose two halves are put to 0 is 0. -/
theorem putBits_halves_zero (v : Nat) (h : v < 2 ^ 64) : putBits (putBits v 31 0 0) 63 32 0 = 0 := by
  simp only [putBits, bits]; omega

/-- A replaced low half of a number below 2 to the 32 is the number put there. -/
theorem putBits_low_half (v x : Nat) (h : v < 2 ^ 32) : putBits v 31 0 x = x % 2 ^ 32 := by
  simp only [putBits, bits]; omega

/-! ## Registers -/

/-- Equal stored registers read the same. -/
theorem regGet_congr {c d : Core} (h : c.regs = d.regs) (o : Nat) : regGet c o = regGet d o := by rw [regGet, regGet, h]

/-- A replaced field of a register reads back. -/
theorem regField_put_same (c : Core) (o hi lo x : Nat) (h : lo ≤ hi) :
    regField (regPut c o hi lo x) o hi lo = x % 2 ^ (hi - lo + 1) := by
  rw [regField, regPut, regGet_set_same, bits_putBits_same _ _ _ _ h]

/-- A field put into a register leaves every other register. -/
theorem regGet_put_other (c : Core) (o hi lo x p : Nat) (h : p ≠ o) : regGet (regPut c o hi lo x) p = regGet c p :=
  regGet_set_other c o p _ h

/-! ## The values that a write stores (R6, R579) -/

/-- Bits from `lo` on, put one by one from a value. -/
theorem testBit_putEach (value lo n old j : Nat) :
    ((List.range n).foldl (fun v i => putBits v (lo + i) (lo + i) (b2n (bit value (lo + i)))) old).testBit j =
      if lo ≤ j ∧ j < lo + n then value.testBit j else old.testBit j := by
  induction n with
  | zero => rw [if_neg (by omega)]; rfl
  | succ n ih =>
    rw [List.range_succ, List.foldl_append, List.foldl_cons, List.foldl_nil, testBit_putBits _ _ _ _ _ (Nat.le_refl _)]
    split
    · have e : j = lo + n := by omega
      subst e
      rw [if_pos (by omega), bit_testBit, Nat.sub_self]
      cases value.testBit (lo + n) <;> rfl
    · rw [ih]
      congr 1
      apply propext
      omega

/-- R6: an 8-byte write of one writable field puts the written bits there. -/
theorem writtenValue_field (locked : Bool) (old value : Nat) (f : Field) (hw : 0 < f.width) (h : f.lo + f.width ≤ 64)
    (ha : f.acc = .rw ∨ f.acc = .rws ∧ locked = false) :
    writtenValue locked old [f] 0 8 value = putBits old (f.lo + f.width - 1) f.lo (value / 2 ^ f.lo) := by
  have each : writtenValue locked old [f] 0 8 value =
      (List.range f.width).foldl (fun v i => putBits v (f.lo + i) (f.lo + i) (b2n (bit value (f.lo + i)))) old := by
    simp only [writtenValue, List.foldl_cons, List.foldl_nil, accessLo]
    refine List.foldl_ext _ _ _ fun v i hi => ?_
    have hi := List.mem_range.mp hi
    have reached : 8 * 0 ≤ f.lo + i ∧ f.lo + i < 8 * 0 + 8 * 8 := by omega
    rcases ha with ha | ⟨ha, rfl⟩ <;> simp only [if_pos reached, ha, Nat.mul_zero, Nat.sub_zero, Bool.false_eq_true, if_false]
  refine Nat.eq_of_testBit_eq fun j => ?_
  rw [each, testBit_putEach, testBit_putBits _ _ _ _ _ (by omega), Nat.testBit_div_two_pow]
  split
  · rw [if_pos (by omega)]; congr 1; omega
  · rw [if_neg (by omega)]

/-- R6: while the set-up is locked, a write leaves an RWS field as it is. -/
theorem writtenValue_locked (old half size value : Nat) (f : Field) (ha : f.acc = .rws) :
    writtenValue true old [f] half size value = old := by
  simp [writtenValue, ha, List.foldl_fixed]

/-- R6: a write to a register without RWS fields changes no locked field. -/
theorem locksChange_rw (old half size value : Nat) (f : Field) (ha : f.acc = .rw) :
    locksChange old [f] half size value = false := by
  simp [locksChange, writtenValue, ha]

/-- R582: the register at an aligned offset stores one field [hi:0], which takes every value. -/
structure LowField (off hi : Nat) (f : Field) : Prop where
  aligned : off % 8 = 0
  fields : regFields off = [f]
  low : f.lo = 0
  width : f.width = hi + 1
  fits : hi < 64
  least : f.min = 0
  most : 2 ^ f.width ≤ f.max

/-- R579: no value of such a field is out of range. -/
theorem LowField.inRange {off hi : Nat} {f : Field} (hf : LowField off hi f) (v : Nat) : inRange off v = true := by
  have lt : bits v (f.lo + f.width - 1) f.lo < 2 ^ f.width := by
    have hm := Nat.mod_lt (v / 2 ^ f.lo) (Nat.two_pow_pos f.width)
    have hw := hf.width
    rwa [bits, show f.lo + f.width - 1 - f.lo + 1 = f.width by omega]
  have le : bits v (f.lo + f.width - 1) f.lo ≤ f.max := Nat.le_trans (Nat.le_of_lt lt) hf.most
  have notSteps : off ≠ 0x500100 := by
    rintro rfl
    exact absurd (congrArg List.length hf.fields) (by decide +kernel : (regFields 0x500100).length ≠ 1)
  simp [Machine.inRange, hf.fields, hf.least, le, notSteps]

/-- R6: what an 8-byte write makes of such a field, where it may change it. -/
theorem LowField.written {off hi : Nat} {f : Field} (hf : LowField off hi f) (locked : Bool) (old value : Nat)
    (ha : f.acc = .rw ∨ f.acc = .rws ∧ locked = false) : writtenValue locked old [f] 0 8 value = putBits old hi 0 value := by
  have hw := hf.width
  have hl := hf.low
  have h64 := hf.fits
  rw [writtenValue_field locked old value f (by omega) (by omega) ha, hl, hw, pow_zero, Nat.div_one,
    show 0 + (hi + 1) - 1 = hi by omega]

/-- R579: an 8-byte write of an RW field stores it. -/
theorem plainWrite_rw {off hi : Nat} {f : Field} (hf : LowField off hi f) (ha : f.acc = .rw) (c : Core) (value : Nat) :
    plainWrite c off 8 value = regPut c off hi 0 value := by
  have hb : off / 8 * 8 = off := by have := hf.aligned; omega
  simp only [plainWrite, hb, hf.aligned, hf.fields, hf.written _ _ _ (.inl ha), hf.inRange, locksChange_rw _ _ _ _ f ha,
    Bool.and_false, Bool.not_true, Bool.false_eq_true, if_false]
  rfl

/-- R6, R588: an 8-byte write that would change a locked RWS field leaves it and is logged. -/
theorem plainWrite_locked {off hi : Nat} {f : Field} (hf : LowField off hi f) (ha : f.acc = .rws) (c : Core) (value : Nat)
    (hl : rwsLocked c = true) (hne : putBits (regGet c off) hi 0 value ≠ regGet c off) :
    plainWrite c off 8 value = regSet (logHost c 0x0C off) off (regGet c off) := by
  have hb : off / 8 * 8 = off := by have := hf.aligned; omega
  have change : locksChange (regGet c off) [f] 0 8 value = true := by
    have kept : ([f].filter fun f => f.acc == .rws) = [f] := by simp [ha]
    rw [locksChange, kept, hf.written _ _ _ (.inr ⟨ha, rfl⟩)]
    simpa using hne
  simp only [plainWrite, hb, hf.aligned, hf.fields, hl, writtenValue_locked _ _ _ _ f ha, hf.inRange, change,
    Bool.and_self, Bool.not_true, Bool.false_eq_true, if_false, if_true]

/-! ## Accesses to BAR0 while it is served (R86, R571) -/

/-- BAR0 is served on a device with power only. -/
theorem on_of_barReady (c : Core) (h : barReady c = true) : c.power.on = true := by
  simp only [barReady, Bool.and_eq_true] at h
  obtain ⟨⟨⟨on, _⟩, _⟩, _⟩ := h
  exact on

/-- R563: an access to an awake device wakes the block that it reaches. -/
theorem hostAccess_wakes (c : Core) (off : Nat) (hd : c.power.deep = false) : hostAccess c off = wakeBlock c off := by
  rw [hostAccess, wakeBy_awake c _ hd]

/-- R86: an aligned write is taken, once its block serves. -/
theorem bar0Write_taken (c : Core) (off size : Nat) (f : Core → Core) (h : barReady c = true) (hd : c.power.deep = false)
    (ha : alignedAccess off size = true) : bar0Write c off size f = f (wakeBlock c off) := by
  simp [bar0Write, h, on_of_barReady c h, ha, hostAccess_wakes c off hd]

/-- R86: the same of a write that reaches beyond the core. -/
theorem bar0WriteS_taken (s : State) (off size : Nat) (f : State → State) (h : barReady s.core = true)
    (hd : s.core.power.deep = false) (ha : alignedAccess off size = true) :
    bar0WriteS s off size f = f { s with core := wakeBlock s.core off } := by
  simp [bar0WriteS, h, on_of_barReady s.core h, ha, hostAccess_wakes s.core off hd]

/-- R86: a misaligned write is logged and ignored. -/
theorem bar0WriteS_misaligned (s : State) (off size : Nat) (f : State → State) (h : barReady s.core = true)
    (ha : alignedAccess off size = false) : bar0WriteS s off size f = { s with core := logHost s.core 0x0B off } := by
  simp [bar0WriteS, bar0Write, h, on_of_barReady s.core h, ha]

/-- R579: between the pool windows' registers and the hang block, a write goes to the fields of its register. -/
theorem bar0Store_plain (s : State) (off size value : Nat) (h8 : off % 8 = 0) (hlo : 0x200400 ≤ off) (hhi : off < 0x700000) :
    bar0Store s off size value = { s with core := plainWrite s.core off size value } := by
  have hb : off / 8 * 8 = off := by omega
  have no : ∀ n, n < 0x200400 ∨ 0x700000 ≤ n → ¬ off = n := fun n hn => by omega
  have noRing : ¬ (0x10000 ≤ off ∧ off ≤ 0x10028 ∧ s.core.rings.window.isSome) := by omega
  have noMsix : ¬ (0x8000 ≤ off ∧ off < 0x10000) := by omega
  have noStream : ¬ (0x20000 ≤ off ∧ off < 0x22000) := by omega
  have noEvent : ¬ (0x22000 ≤ off ∧ off < 0x22080) := by omega
  have noPool : ¬ (0x200220 ≤ off ∧ off < 0x200400 ∧ (off - 0x200200) % 0x20 < 0x18) := by omega
  simp only [bar0Store, hb, if_neg noRing, if_neg noMsix, if_neg noStream, if_neg noEvent, if_neg noPool,
    no 0x8 (by decide), no 0x10 (by decide), no 0x20 (by decide), no 0x10000 (by decide), no 0x700000 (by decide),
    no 0x800000 (by decide), no 0x900028 (by decide), or_self, if_false]

/-- R86, R579: an 8-byte host write between the pool windows' registers and the hang block wakes its block and writes the fields of its register. -/
theorem registerWrite_plain (off : Nat) (v : Word) (s : State) (h : barReady s.core = true) (hd : s.core.power.deep = false)
    (h8 : off % 8 = 0) (hlo : 0x200400 ≤ off) (hhi : off < 0x700000) :
    exec (.registerWrite 0 off 8 v) s = .next { s with core := plainWrite (wakeBlock s.core off) off 8 v.toNat } := by
  have hv : v.toNat % 2 ^ (8 * 8) = v.toNat := Nat.mod_eq_of_lt v.isLt
  have ha : alignedAccess off 8 = true := by simp [alignedAccess, h8]
  show Host.Outcome.next (bar0WriteS s off 8 fun s => bar0Store s off 8 (v.toNat % 2 ^ (8 * 8))) = _
  rw [bar0WriteS_taken s off 8 _ h hd ha, hv, bar0Store_plain _ off 8 _ h8 hlo hhi]

/-! ## What the release of held traffic leaves (R96, R598) -/

/-- R598: sending waiting requests writes no register. -/
@[simp] theorem sendWaiting_regs (c : Core) : (sendWaiting c).regs = c.regs := by
  simp only [sendWaiting]
  split <;> rfl

/-- R96: sending pending messages writes no register. -/
@[simp] theorem msixRelease_regs (c : Core) : (msixRelease c).regs = c.regs := by
  unfold msixRelease
  generalize c.rings.msixPending = l
  induction l generalizing c with
  | nil => rfl
  | cons p l ih =>
    rw [List.foldl_cons, ih]
    split <;> rfl

/-- What the link or a stream held goes out without a write to a register. -/
@[simp] theorem releaseHost_regs (c : Core) : (releaseHost c).regs = c.regs := by
  rw [releaseHost, msixRelease_regs, sendWaiting_regs]

/-! ## Accesses to INT_RATE_THRESH, SCHED_CAPACITY, HIF_IDE_REQUIRE, HIF_LINK_HOLD and THR_STAT -/

/-- R480: INT_RATE_THRESH of each of eight classes. -/
theorem lowField_rateThreshold (k : Nat) (hk : k < 8) :
    LowField (0x600080 + 8 * k) 31 { lo := 0, width := 32, acc := .rw, reset := 0x400 } :=
  have fields : ∀ k < 8, regFields (0x600080 + 8 * k) = [{ lo := 0, width := 32, acc := .rw, reset := 0x400 }] := by decide +kernel
  ⟨by omega, fields k hk, rfl, rfl, by decide, rfl, by decide⟩

/-- R587: SCHED_CAPACITY. -/
theorem lowField_capacity : LowField 0x500208 31 { lo := 0, width := 32, acc := .rws } :=
  ⟨rfl, by decide +kernel, rfl, rfl, by decide, rfl, by decide⟩

/-- R583: HIF_IDE_REQUIRE. -/
theorem lowField_ideRequire : LowField 0x10 15 { lo := 0, width := 16, acc := .rw } :=
  ⟨rfl, by decide +kernel, rfl, rfl, by decide, rfl, by decide⟩

/-- R584: HIF_LINK_HOLD. -/
theorem lowField_linkHold : LowField 0x20 31 { lo := 0, width := 32, acc := .rw, reset := 0x017D7840 } :=
  ⟨rfl, by decide +kernel, rfl, rfl, by decide, rfl, by decide⟩

/-- R560, R581: the INT block has no switched domain, so it always serves. -/
theorem wakeBlock_int (c : Core) (off : Nat) (hlo : 0x600000 ≤ off) (hhi : off < 0x700000) : wakeBlock c off = c := by
  refine wakeBlock_always c off ?_
  simp only [blockDomains, Bool.and_eq_true, decide_eq_true_eq]
  repeat rw [if_neg (by omega)]

/-- R579: a write of INT_RATE_THRESH stores its field and changes nothing else. -/
theorem registerWrite_rateThreshold (k : Nat) (v : Word) (s : State) (hk : k < 8) (h : barReady s.core = true)
    (hd : s.core.power.deep = false) : exec (.registerWrite 0 (0x600080 + 8 * k) 8 v) s =
      .next { s with core := regPut s.core (0x600080 + 8 * k) 31 0 v.toNat } := by
  rw [registerWrite_plain _ v s h hd (by omega) (by omega) (by omega), wakeBlock_int _ _ (by omega) (by omega),
    plainWrite_rw (lowField_rateThreshold k hk) rfl]

/-- R86: a misaligned write is logged and ignored. -/
theorem registerWrite_misaligned (off size : Nat) (v : Word) (s : State) (h : barReady s.core = true)
    (ha : alignedAccess off size = false) :
    exec (.registerWrite 0 off size v) s = .next { s with core := logHost s.core 0x0B off } :=
  congrArg Host.Outcome.next (bar0WriteS_misaligned s off size (fun s => bar0Store s off size (v.toNat % 2 ^ (8 * size))) h ha)

/-- R6, R588: once the set-up is done, a write that would change SCHED_CAPACITY leaves it and is logged. -/
theorem registerWrite_capacity_locked (v : Word) (s : State) (h : barReady s.core = true) (hd : s.core.power.deep = false)
    (hdone : s.core.setupDone = true) (hne : v.toNat % 2 ^ 32 ≠ regGet s.core 0x500208) (hlt : regGet s.core 0x500208 < 2 ^ 32) :
    exec (.registerWrite 0 0x500208 8 v) s = .next { s with
      core := regSet (logHost (wakeBlock s.core 0x500208) 0x0C 0x500208) 0x500208 (regGet s.core 0x500208) } := by
  obtain ⟨p, tab, sch, hw⟩ := wakeBlock_frame s.core 0x500208
  have same : regGet (wakeBlock s.core 0x500208) 0x500208 = regGet s.core 0x500208 := regGet_congr (by rw [hw]) _
  have locked : rwsLocked (wakeBlock s.core 0x500208) = true := by simp [hw, rwsLocked, hdone]
  rw [registerWrite_plain _ v s h hd (by decide) (by decide) (by decide),
    plainWrite_locked lowField_capacity rfl _ _ locked, same]
  rw [same, putBits_low_half _ _ hlt]
  exact hne

/-- R583: a write of HIF_IDE_REQUIRE stores its field; what it no longer holds goes out. -/
theorem ideRequireWrite_stores (v : Word) (s : State) (h : barReady s.core = true) (hd : s.core.power.deep = false) :
    exec (.ideRequireWrite 0 8 v) s = .next { s with core := releaseHost (regPut s.core 0x10 15 0 v.toNat) } := by
  show Host.Outcome.next { s with core := bar0Write s.core 0x10 8 fun c => releaseHost (plainWrite c 0x10 8 v.toNat) } = _
  rw [bar0Write_taken _ _ _ _ h hd (by decide), wakeBlock_always _ _ (by decide), plainWrite_rw lowField_ideRequire rfl]

/-- R584: a write of HIF_LINK_HOLD while the link is up stores its field and changes nothing else. -/
theorem linkHoldWrite_stores (v : Word) (s : State) (h : barReady s.core = true) (hd : s.core.power.deep = false)
    (hup : s.core.link.up = true) :
    exec (.linkHoldWrite 0 8 v) s = .next { s with core := regPut s.core 0x20 31 0 v.toNat } := by
  show Host.Outcome.next { s with core := bar0Write s.core 0x20 8 fun c => holdWritten (plainWrite c 0x20 8 v.toNat) 0 } = _
  have up : (regPut s.core 0x20 31 0 v.toNat).link.up = true := hup
  rw [bar0Write_taken _ _ _ _ h hd (by decide), wakeBlock_always _ _ (by decide), plainWrite_rw lowField_linkHold rfl]
  simp [holdWritten, up]

/-- R580: the two counts of THR_STAT start again from 0 when an 8-byte read reaches both. -/
theorem clearRead_thrStat (c : Core) (hlt : regGet c 0x420008 < 2 ^ 64) : clearRead c 0x420008 8 = regSet c 0x420008 0 := by
  have cleared : clearedFields 0x420008 8 = [{ lo := 0, width := 32, acc := .rc }, { lo := 32, width := 32, acc := .rc }] := by
    decide +kernel
  simp [clearRead, cleared, putBits_halves_zero _ hlt]

/-- R580: an 8-byte read of THR_STAT wakes its block, answers with its counts and starts them again from 0. -/
theorem readClearCounter_thrStat (s : State) (h : barReady s.core = true) (hd : s.core.power.deep = false)
    (hlt : regGet s.core 0x420008 < 2 ^ 64) : exec (.readClearCounter 0 0x420008 8) s = .next { s with
      core := regSet { wakeBlock s.core 0x420008 with reply := .data (natLe 8 (regGet s.core 0x420008)) } 0x420008 0 } := by
  obtain ⟨p, tab, sch, hw⟩ := wakeBlock_frame s.core 0x420008
  have same : regGet (wakeBlock s.core 0x420008) 0x420008 = regGet s.core 0x420008 := regGet_congr (by rw [hw]) _
  have shown : readReg { s with core := wakeBlock s.core 0x420008 } 0x420008 = regGet s.core 0x420008 := by
    rw [← same]; rfl
  have aligned : alignedAccess 0x420008 8 = true := by decide
  have cleared := clearRead_thrStat
    { wakeBlock s.core 0x420008 with reply := .data (natLe 8 (regGet s.core 0x420008)) } (same.symm ▸ hlt)
  show Host.Outcome.next (bar0Read s 0x420008 8) = _
  simp [bar0Read, on_of_barReady _ h, h, aligned, hostAccess_wakes _ _ hd, shown, noteNonce, arrayIx,
    bytesAt_all _ 8 (natLe_length 8 _), cleared]

/-- Settles O45: each register's write or read by the lemma about it, and then what that leaves of the registers, the rings and the log. -/
theorem registerAccess : Obligations.RegisterAccess := by
  unfold Obligations.RegisterAccess
  intro v s h hd
  refine ⟨fun k hk => ?threshold, fun off size ha => registerWrite_misaligned off size v s h ha, fun hdone hne hlt => ?locked,
    ?ide, fun hup => ?hold, fun hlt => ?counts⟩
  case threshold =>
    exact ⟨_, registerWrite_rateThreshold k v s hk h hd, regField_put_same _ _ _ _ _ (by decide),
      fun o ho => regGet_put_other _ _ _ _ _ o ho, rfl, rfl⟩
  case locked =>
    obtain ⟨p, tab, sch, hw⟩ := wakeBlock_frame s.core 0x500208
    refine ⟨_, registerWrite_capacity_locked v s h hd hdone hne hlt, regGet_set_same _ _ _, ?_⟩
    exact (logErr_next _ _ rfl rfl).trans (by rw [hw])
  case ide =>
    have reads := regGet_congr (releaseHost_regs (regPut s.core 0x10 15 0 v.toNat))
    refine ⟨_, ideRequireWrite_stores v s h hd, ?_, fun o ho => ?_⟩
    · rw [regField, reads]
      exact regField_put_same _ _ _ _ _ (by decide)
    · rw [reads]
      exact regGet_put_other _ _ _ _ _ o ho
  case hold =>
    exact ⟨_, linkHoldWrite_stores v s h hd hup, regField_put_same _ _ _ _ _ (by decide),
      fun o ho => regGet_put_other _ _ _ _ _ o ho⟩
  case counts =>
    obtain ⟨p, tab, sch, hw⟩ := wakeBlock_frame s.core 0x420008
    refine ⟨_, readClearCounter_thrStat s h hd hlt, rfl, regGet_set_same _ _ _, fun o ho => ?_, ?_⟩
    · exact (regGet_set_other _ _ _ _ ho).trans (regGet_congr (by rw [hw]) o)
    · exact (congrArg Core.rings hw :)

end Sys2Proof.Machine

/-! PROOFS of the session statements (01_sessions): routing and dispatch, SESS_QUERY, SESS_OPEN, SESS_CLOSE, turns, batches, steps, parking, draining pairs. -/

namespace Sys2Proof.Machine

/-! ## Accepting a descriptor (R11, R12, R27, R586) -/

/-- R27, R586: a cleared age changes the directory alone, and what its cache has to write back. -/
theorem clearAge_frame (c : Core) (sid : Nat) :
    ∃ dir changed, clearAge c sid = { c with sess := { c.sess with dir := dir, changed := changed } } := by
  unfold clearAge
  split
  · split
    · exact ⟨c.sess.dir, c.sess.changed, rfl⟩
    · rw [setEntry_frame, setEntry_sess]
      exact ⟨_, _, rfl⟩
  · exact ⟨c.sess.dir, c.sess.changed, rfl⟩

/-- Another session's entry stays. -/
theorem entryOf_clearAge_other (c : Core) {sid x : Nat} (h : x ≠ sid) : entryOf (clearAge c sid) x = entryOf c x := by
  unfold clearAge
  split
  · split
    · rfl
    · exact entryOf_set_other c sid x _ h
  · rfl

/-- The session's own entry loses its age. -/
theorem entryOf_clearAge_same (c : Core) (sid : Nat) (h : (entryOf c sid).state ≠ .free) :
    entryOf (clearAge c sid) sid = { entryOf c sid with idleAge := 0 } := by
  unfold clearAge
  split
  next e he =>
    have own : entryOf c sid = e := by simp [entryOf, he]
    rw [own] at h ⊢
    split
    next h0 => rw [own, ← h0]
    next => exact entryOf_set_same c sid { e with idleAge := 0 } h
  next he => exact absurd (by simp [entryOf, he]) h

/-- The entry of a session that is not open stays free. -/
theorem entryOf_clearAge_free (c : Core) (sid : Nat) (h : (entryOf c sid).state = .free) :
    (entryOf (clearAge c sid) sid).state = .free := by
  unfold clearAge
  split
  next e he =>
    have own : entryOf c sid = e := by simp [entryOf, he]
    rw [own] at h
    split
    next => rw [own, h]
    next => simp [entryOf, h]
  next => exact h

@[simp] theorem entryOf_clearAge_state (c : Core) (sid : Nat) : (entryOf (clearAge c sid) sid).state = (entryOf c sid).state := by
  by_cases h : (entryOf c sid).state = .free
  · rw [entryOf_clearAge_free c sid h, h]
  · rw [entryOf_clearAge_same c sid h]

/-- Entries that read alike in two states. -/
theorem entryOf_congr {c d : Core} (h : c.sess.dir = d.sess.dir) (sid : Nat) : entryOf c sid = entryOf d sid := by rw [entryOf, entryOf, h]

/-- R12: a descriptor that finds a place joins its session's router store. -/
theorem holdSession_frame (c : Core) (d : Desc) (h : (heldOf c d.session).length < 15) :
    ∃ dir changed, holdSession c d = { c with sess := { c.sess with
      dir := dir, changed := changed, held := mapSet c.sess.held d.session (heldOf c d.session ++ [d])
      parking := mapDel c.sess.parking d.session, due := mapDel c.sess.due d.session } } := by
  have room : ¬ (if mapHas c.sess.inProg d.session then 15 else 16) ≤ (heldOf c d.session).length := by split <;> omega
  simp only [holdSession, if_neg room]
  exact clearAge_frame _ _

/-- Behind those held there. -/
theorem heldOf_holdSession (c : Core) (d : Desc) (h : (heldOf c d.session).length < 15) :
    heldOf (holdSession c d) d.session = heldOf c d.session ++ [d] := by
  obtain ⟨dir, changed, e⟩ := holdSession_frame c d h
  rw [e]
  simp [heldOf]

/-- No other session's store or entry changes. -/
theorem holdSession_other (c : Core) (d : Desc) {x : Nat} (h : (heldOf c d.session).length < 15) (hx : x ≠ d.session) :
    heldOf (holdSession c d) x = heldOf c x ∧ entryOf (holdSession c d) x = entryOf c x := by
  constructor
  · obtain ⟨dir, changed, e⟩ := holdSession_frame c d h
    rw [e]
    simp [heldOf, mapGet_set_other _ _ _ _ hx]
  · have room : ¬ (if mapHas c.sess.inProg d.session then 15 else 16) ≤ (heldOf c d.session).length := by split <;> omega
    simp only [holdSession, if_neg room]
    exact (entryOf_clearAge_other _ hx).trans (entryOf_congr rfl x)

/-- R12: with one carried out and fifteen held, the next is refused. -/
theorem holdSession_full (c : Core) (d : Desc) (hp : mapHas c.sess.inProg d.session = true)
    (h : (heldOf c d.session).length = 15) : holdSession c d = finishDesc c d .noSpace 0 0 := by
  simp [holdSession, hp, h]

/-- R11, R116: the command of a session's row is its body, accepted by the session's router. -/
theorem exec_sessionRow {d : Desc} {env : Env} {i : Instr} (h : sessionRow d env = some i) (s : State) :
    exec i s = .next (acceptSession s d env (bodyOf d)) := by
  unfold sessionRow at h
  unfold bodyOf
  split at h <;> cases h <;> simp only [*] <;> rfl

/-- R126, R116: the command of a session-less row is its body, accepted by the sequencer. -/
theorem exec_sequencerRow {d : Desc} {env : Env} {i : Instr} (h : sequencerRow d env = some i) (s : State) :
    exec i s = .next (acceptSeq s d env (bodyOf d)) := by
  unfold sequencerRow at h
  unfold bodyOf
  split at h <;> cases h <;> simp only [*] <;> rfl

/-- R11: behind a descriptor that is being carried out, the next is held. -/
theorem acceptSession_busy (s : State) (d : Desc) (env : Env) (m : M Done) (hs : serving s.core = true)
    (h : mapHas s.core.sess.inProg d.session = true) : acceptSession s d env m = { s with core := holdSession s.core d } := by
  simp [acceptSession, hs, h]

/-- Settles O14: the row is accepted by the router (`exec_sessionRow`), which holds the descriptor or, with fifteen held, refuses it. -/
theorem fifteenHeldSixteenthRefused : Obligations.FifteenHeldSixteenthRefused := by
  unfold Obligations.FifteenHeldSixteenthRefused
  intro d env i s hs hrow hp
  rw [exec_sessionRow hrow, acceptSession_busy s d env _ hs hp]
  refine ⟨fun room => ⟨_, rfl, heldOf_holdSession s.core d room, fun x hx => holdSession_other s.core d room hx, ?_⟩,
    fun full => ⟨by rw [holdSession_full s.core d hp full], finishDesc_alone s.core d .noSpace 0 0⟩⟩
  obtain ⟨dir, changed, e⟩ := holdSession_frame s.core d room
  rw [e]
  exact ⟨rfl, rfl, rfl, rfl⟩

/-! ## Routing (R126, R601) -/

/-- R126: the first buffered descriptor of a ring that nothing holds may be routed, when it passes its checks and waits for nothing. -/
theorem routable_first {c : Core} {ring : Nat} {r : SubRing} {d : Desc} {ds : List Desc} (hf : fenceOpen c ring = false)
    (hb : r.buffer = d :: ds) (hg : genericCheck c r.gen d = none) (hfb : d.fenceBefore = false) (hop : 1 < d.opcode) :
    routable c ring r = some (d, none) := by
  have fence : (d.opcode == 1) = false := by simp; omega
  simp [routable, hf, hb, routableFrom, hg, hfb, fence]

/-- R125: the descriptor leaves the buffer, and its credit returns. -/
theorem leaveBuffer_first {c : Core} {r : SubRing} {d : Desc} {ds : List Desc} (hr : mapGet c.rings.subs d.ring = some r)
    (hb : r.buffer = d :: ds) : leaveBuffer c d = { c with rings := { c.rings with
      subs := mapSet c.rings.subs d.ring { r with buffer := ds, spent := r.spent - 1 } } } := by
  simp [leaveBuffer, mapMod, hr, hb]

/-- R126: a descriptor that the fetcher does not carry out itself goes to the sequencer or to its session's router. -/
theorem acceptRouted_held (s : State) (d : Desc) (h1 : 1 < d.opcode) (hq : d.opcode ≠ 0x12) (hc : d.opcode ≠ 0x15) :
    acceptRouted s d = { s with core := if d.session = 0 then holdSeq s.core d else holdSession s.core d } := by
  unfold acceptRouted
  split
  next h => omega
  next h => omega
  next h => exact absurd h hq
  next h => exact absurd h hc
  next => rfl

/-- Settles O13: the descriptor may be routed (`routable_first`), leaves the buffer, and is held where it belongs. -/
theorem routedDescriptorIsHeld : Obligations.RoutedDescriptorIsHeld := by
  unfold Obligations.RoutedDescriptorIsHeld
  intro ring r d ds s hs hr hf hb hring hg hfb h1 hq hc
  subst hring
  have routed : ∀ full : cannotPlace s.core d = false, exec (.descriptorRoute d.ring) s =
      .next (acceptRouted { s with core := leaveBuffer s.core d } d) := fun full => by
    show Host.Outcome.next (descriptorRoute s d.ring) = _
    simp [descriptorRoute, hr, hs, routable_first hf hb hg hfb h1, full]
  have kept := leaveBuffer_first hr hb
  constructor
  · intro h0
    refine ⟨_, routed (by simp [cannotPlace, needsPlace, h0]), ?_⟩
    rw [acceptRouted_held _ d h1 hq hc, if_pos h0, kept]
    simp [holdSeq, seqHeldOf]
  · intro h0 hroom hheld
    refine ⟨_, routed (by rw [cannotPlace, routerMax, decide_eq_false (Nat.not_le.mpr hroom), Bool.and_false]), ?_⟩
    rw [acceptRouted_held _ d h1 hq hc, if_neg h0, kept]
    refine ⟨heldOf_holdSession _ d hheld, ?_⟩
    obtain ⟨dir, changed, e⟩ := holdSession_frame { s.core with rings := { s.core.rings with
      subs := mapSet s.core.rings.subs d.ring { r with buffer := ds, spent := r.spent - 1 } } } d hheld
    rw [e]
    exact ⟨mapGet_set_same _ _ _, rfl⟩

/-! ## Dispatch (R11, R126) -/

/-- R11: with nothing waiting, dispatch starts the next held descriptor of a session. -/
theorem dispatch_session {s : State} {sid : Nat} (env : Env) (hs : serving s.core = true) (hw : s.core.sess.waiting = []) :
    descriptorDispatch s false sid env = nextSession s sid env := by
  simp [descriptorDispatch, hs, hw]

/-- R126: with nothing in progress, dispatch starts the next held descriptor of a ring. -/
theorem dispatch_ring {s : State} {ring : Nat} (env : Env) (hs : serving s.core = true) (hw : s.core.sess.waiting = [])
    (hp : mapGet s.core.sess.seqProg ring = none) : descriptorDispatch s true ring env = nextSeq s ring env := by
  simp [descriptorDispatch, hs, hw, insideReady, hp]

/-- Settles O15: dispatch starts the one held descriptor, and the command of its row, which finds nothing ahead of it, starts it too. -/
theorem dispatchCarriesOutRow : Obligations.DispatchCarriesOutRow := by
  unfold Obligations.DispatchCarriesOutRow
  intro d env i s hs hw
  constructor
  · intro hrow hp hh
    have free : sessFree { s.core with sess := { s.core.sess with held := mapDel s.core.sess.held d.session } } d :=
      ⟨hs, hp, by simp [heldOf]⟩
    rw [exec_sessionRow hrow, acceptSession_free _ d env _ free]
    show Host.Outcome.next (descriptorDispatch s false d.session env) = _
    rw [dispatch_session env hs hw]
    simp [nextSession, hh, hp, startSession]
  · intro hrow hp hh
    have free : seqFree { s.core with sess := { s.core.sess with seqHeld := mapDel s.core.sess.seqHeld d.ring } } d :=
      ⟨hs, hp, by simp [seqHeldOf]⟩
    rw [exec_sequencerRow hrow, acceptSeq_free _ d env _ free]
    show Host.Outcome.next (descriptorDispatch s true d.ring env) = _
    rw [dispatch_ring env hs hw (by simpa [mapHas] using hp)]
    simp [nextSeq, hh, hp, startSeq]

end Sys2Proof.Machine
namespace Sys2Proof.Machine

/-! ## Running a session's descriptor on a device that is not paired -/

/-- R500: on a device that is not paired no session is mirrored. -/
theorem mirrored_alone {c : Core} (h2 : c.twin.state ≠ 2) (h3 : c.twin.state ≠ 3) (sid : Nat) : mirrored c sid = false := by
  simp [mirrored, paired, h2, h3]

/-- R9: the account check passes on a session that is free, or of the descriptor's own account. -/
theorem run_accountCheck {d : Desc} {r : Run0} (h : ownAccount r.core d) : accountCheck d r = .ok ((), r) := by
  have passes : ((entryOf r.core d.session).state != .free && (entryOf r.core d.session).account != d.account) = false := by
    rcases h with h | h <;> simp [h]
  simp [accountCheck, passes]

/-- How a body that answers ends, of a session that is not mirrored when it ends. -/
theorem settle_done {s : State} {d : Desc} {env : Env} {m : M Done} {st : Status} {c0 c1 : Nat} {r : Run0}
    (h : m (descRun s d env none) = .ok (.done st c0 c1, r)) (alone : mirrored r.core d.session = false) (he : r.ext = []) :
    settle s d env m = { s with core := complete r.core d st c0 c1 } := by
  simp only [settle, h, he]
  rw [finishDesc_alone _ _ _ _ _ alone]
  rfl

/-- How a body that fails ends. -/
theorem settle_fail {s : State} {d : Desc} {env : Env} {m : M Done} {st : Status} {c0 c1 : Nat} {c : Core}
    (h : m (descRun s d env none) = .error (.fail st c0 c1 c)) (alone : mirrored c d.session = false) :
    settle s d env m = { s with core := complete c d st c0 c1 } := by
  simp only [settle, h]
  rw [finishDesc_alone _ _ _ _ _ alone]

/-! ## SESS_QUERY (R35) -/

/-- R35: what SESS_QUERY answers with. -/
def sessQueryDone (c : Core) (sid : Nat) : Done :=
  .done .ok (fieldAt 0 4 (stateCode (entryOf c sid).state) + fieldAt 4 4 (entryOf c sid).endReason) (entryOf c sid).nextPosition

/-- R35: without an address, SESS_QUERY only answers. -/
theorem run_sessQueryBody_answer {d : Desc} {r : Run0} (own : ownAccount r.core d) (h0 : d.field 2 63 0 0 = 0) :
    sessQueryBody d r = .ok (sessQueryDone r.core d.session, r) := by
  simp [sessQueryBody, run_accountCheck own, h0, sessQueryDone]

/-- R35: with an aligned address, it writes the entry there first. -/
theorem run_sessQueryBody_copy {d : Desc} {r : Run0} (own : ownAccount r.core d) (h0 : d.field 2 63 0 0 ≠ 0)
    (ha : d.field 2 63 0 0 % 64 = 0) (hh : hostAnswers r.core) :
    sessQueryBody d r = .ok (sessQueryDone r.core d.session, { r with
      core := busPayload r.core (d.field 2 63 0 0) (wordsBytes (entryWords r.core (entryOf r.core d.session) (heldBehind r.core d.session))) }) := by
  simp [sessQueryBody, run_accountCheck own, h0, ha, postBus_up _ _ _ hh, sessQueryDone]

/-- R35: an address that is not aligned is refused. -/
theorem run_sessQueryBody_misaligned {d : Desc} {r : Run0} (own : ownAccount r.core d) (ha : d.field 2 63 0 0 % 64 ≠ 0) :
    sessQueryBody d r = .error (.fail .invalidField 0 0 r.core) := by
  simp [sessQueryBody, run_accountCheck own, ha]

/-- Settles O19: each way the body of SESS_QUERY runs, settled on a device whose sessions are not mirrored. -/
theorem sessQueryAnswers : Obligations.SessQueryAnswers := by
  unfold Obligations.SessQueryAnswers
  intro d s hs own ⟨_, _, h2, h3⟩ e told answer
  have begins : exec (.sessQuery d) s = .next (settle s d [] (sessQueryBody d)) := by
    show execSessQuery d s = _
    simp [execSessQuery, hs]
  have alone := mirrored_alone h2 h3 d.session
  have ownRun : ownAccount (descRun s d [] none).core d := own
  rw [begins]
  refine ⟨fun h0 => ?_, fun h0 ha hh => ?_, fun ha => ?_⟩
  · rw [settle_done (run_sessQueryBody_answer ownRun h0) alone rfl]
    simp [answer, fieldAt, e]
    rfl
  · rw [settle_done (run_sessQueryBody_copy ownRun h0 ha hh) alone rfl]
    simp [answer, told, fieldAt, e]
    rfl
  · rw [settle_fail (run_sessQueryBody_misaligned ownRun ha) alone]
    rfl

end Sys2Proof.Machine
namespace Sys2Proof.Machine

/-! ## Rings that read alike complete alike -/

section
variable {c d : Core} (h : c.rings = d.rings)
include h

theorem queueRec_rings_congr (r : Rec) : (queueRec c r).rings = (queueRec d r).rings := by
  have hr : recRing c r.kind r.ring = recRing d r.kind r.ring := by rw [recRing, recRing, h]
  simp only [queueRec, hr]
  split
  · split
    · simp only [pushRec, h]
    · exact h
  · exact h

theorem closeDesc_rings_congr (x : Desc) : (closeDesc c x).rings = (closeDesc d x).rings := by
  simp only [closeDesc, h]
  split <;> simp only [h]

theorem giveRec_rings_congr (x : Option Desc) (r : Rec) : (giveRec c x r).rings = (giveRec d x r).rings := by
  have room : queueRoom c = queueRoom d := by rw [queueRoom, queueRoom, h]
  simp only [giveRec, room, h]
  split
  · cases x with
    | none => exact queueRec_rings_congr h r
    | some x => exact closeDesc_rings_congr (queueRec_rings_congr h r) x
  · rfl

/-- R129, R134: what a completion does to the rings is settled by the rings. -/
theorem complete_rings_congr (x : Desc) (st : Status) (a b : Nat) : (complete c x st a b).rings = (complete d x st a b).rings := by
  have hq : cqOf c x.ring = cqOf d x.ring := by rw [cqOf, cqOf, h]
  simp only [complete, hq]
  split <;> exact giveRec_rings_congr h _ _
end

@[simp] theorem entryOf_complete (c : Core) (x : Desc) (st : Status) (a b sid : Nat) : entryOf (complete c x st a b) sid = entryOf c sid :=
  entryOf_congr (complete_dir c x st a b) sid

/-! ## Beginning a session's descriptor -/

/-- R586: an age that is 0 already is left as it is. -/
theorem clearAge_young (c : Core) (sid : Nat) (h : (entryOf c sid).idleAge = 0) : clearAge c sid = c := by
  unfold clearAge
  split
  next e he => rw [if_pos (by simpa [entryOf, he] using h)]
  next => rfl

/-- R11, R586: while no epoch runs, only the session's place and age change. -/
theorem beginSession_frame {c : Core} (h : c.ckpt.running = none) (d : Desc) :
    ∃ dir changed inProg parking due, beginSession c d = { c with sess := { c.sess with
      dir := dir, changed := changed, inProg := inProg, parking := parking, due := due } } := by
  simp only [beginSession, haspSession_none c _ h]
  obtain ⟨dir, changed, e⟩ := clearAge_frame { c with sess := { c.sess with
    inProg := mapSet c.sess.inProg d.session d, parking := mapDel c.sess.parking d.session, due := mapDel c.sess.due d.session } } d.session
  exact ⟨dir, changed, _, _, _, e⟩

section
variable {c : Core} (h : c.ckpt.running = none)
include h

theorem beginSession_rings (d : Desc) : (beginSession c d).rings = c.rings := by
  obtain ⟨_, _, _, _, _, e⟩ := beginSession_frame h d
  rw [e]

theorem beginSession_warm (d : Desc) : (beginSession c d).sess.warm = c.sess.warm := by
  obtain ⟨_, _, _, _, _, e⟩ := beginSession_frame h d
  rw [e]

theorem beginSession_reread (d : Desc) : (beginSession c d).sess.reread = c.sess.reread := by
  obtain ⟨_, _, _, _, _, e⟩ := beginSession_frame h d
  rw [e]

theorem beginSession_mem (d : Desc) : (beginSession c d).mem = c.mem := by
  obtain ⟨_, _, _, _, _, e⟩ := beginSession_frame h d
  rw [e]

theorem beginSession_obj (d : Desc) : (beginSession c d).obj = c.obj := by
  obtain ⟨_, _, _, _, _, e⟩ := beginSession_frame h d
  rw [e]

theorem beginSession_regs (d : Desc) : (beginSession c d).regs = c.regs := by
  obtain ⟨_, _, _, _, _, e⟩ := beginSession_frame h d
  rw [e]

theorem beginSession_acctCfg (d : Desc) : (beginSession c d).acctCfg = c.acctCfg := by
  obtain ⟨_, _, _, _, _, e⟩ := beginSession_frame h d
  rw [e]

theorem beginSession_ckpt (d : Desc) : (beginSession c d).ckpt = c.ckpt := by
  obtain ⟨_, _, _, _, _, e⟩ := beginSession_frame h d
  rw [e]

theorem beginSession_inProg (d : Desc) : mapGet (beginSession c d).sess.inProg d.session = some d := by
  simp only [beginSession, haspSession_none c _ h]
  obtain ⟨dir, changed, e⟩ := clearAge_frame { c with sess := { c.sess with
    inProg := mapSet c.sess.inProg d.session d, parking := mapDel c.sess.parking d.session, due := mapDel c.sess.due d.session } } d.session
  rw [e]
  exact mapGet_set_same _ _ _

theorem beginSession_twin (d : Desc) : (beginSession c d).twin = c.twin := by
  obtain ⟨_, _, _, _, _, e⟩ := beginSession_frame h d
  rw [e]

/-- R586: an entry whose age is 0 already stays as it is. -/
theorem entryOf_beginSession_young (d : Desc) (h0 : (entryOf c d.session).idleAge = 0) (x : Nat) :
    entryOf (beginSession c d) x = entryOf c x := by
  simp only [beginSession, haspSession_none c _ h]
  exact (congrArg (entryOf · x) (clearAge_young _ d.session (by exact h0))).trans rfl

/-- R11, R586: no other session's entry changes. -/
theorem entryOf_beginSession_other (d : Desc) {x : Nat} (hx : x ≠ d.session) : entryOf (beginSession c d) x = entryOf c x := by
  simp only [beginSession, haspSession_none c _ h]
  exact (entryOf_clearAge_other _ hx).trans (entryOf_congr rfl x)

/-- R586: the session's own loses its age. -/
theorem entryOf_beginSession (d : Desc) (hf : (entryOf c d.session).state ≠ .free) :
    entryOf (beginSession c d) d.session = { entryOf c d.session with idleAge := 0 } := by
  simp only [beginSession, haspSession_none c _ h]
  exact entryOf_clearAge_same _ _ hf

theorem entryOf_beginSession_state (d : Desc) : (entryOf (beginSession c d) d.session).state = (entryOf c d.session).state := by
  simp only [beginSession, haspSession_none c _ h]
  exact entryOf_clearAge_state _ _

theorem sessImg_beginSession (d : Desc) (hf : (entryOf c d.session).state ≠ .free) :
    sessImg (beginSession c d) d.session = sessImg c d.session := by
  rw [sessImg, sessImg, entryOf_beginSession h d hf, imgOf, imgOf, beginSession_obj h d]

theorem ownAccount_beginSession {d : Desc} (own : ownAccount c d) : ownAccount (beginSession c d) d := by
  by_cases hf : (entryOf c d.session).state = .free
  · exact .inl ((entryOf_beginSession_state h d).trans hf)
  · refine .inr ?_
    rw [entryOf_beginSession h d hf]
    exact own.resolve_left hf
end

/-! ## Shared bodies (R21, R501) -/

/-- R21: with no re-read due, a lease is not read again. -/
theorem run_leaseRead {r : Run0} (h : mapHas r.core.sess.reread r.sid = false) : leaseRead r = .ok (false, r) := by
  simp [leaseRead, h]

theorem run_leaseFirst {r : Run0} (h : mapHas r.core.sess.reread r.sid = false) : leaseFirst r = .ok ((), r) := by
  simp [leaseFirst, run_leaseRead h]

/-- R501: nothing of a session that is not mirrored enters the mirror queue. -/
theorem run_mirrorM {r : Run0} {sid : Nat} (h : mirrored r.core sid = false) (b : MBody) : mirrorM sid b r = .ok ((), r) := by
  simp [mirrorM, mirrorRoom, mirrorRec, mirror, h]

/-- R28, R42: storing a range sets the entry's counts of frames. -/
theorem entryOf_storeRange (x : Range) (sid : Nat) (hf : (entryOf x.core sid).state ≠ .free) :
    entryOf (storeRange x sid) sid = { entryOf x.core sid with
      privateFrames := privateCount x.warm, reservedFrames := x.warm.room0 + x.warm.room1 } :=
  entryOf_set_same _ _ _ hf

theorem entryOf_storeRange_other (x : Range) {sid y : Nat} (h : y ≠ sid) : entryOf (storeRange x sid) y = entryOf x.core y :=
  (entryOf_set_other _ _ _ _ h).trans (entryOf_congr rfl y)

/-! ## A fresh range (R152) -/

/-- R152, R70: the frame taken leaves its die's free frames, and nothing but the frames changes. -/
theorem allocFrame_frame (c : Core) (die : Bool) (bs : Cells) : ∃ frames nextFrame pairFree, (allocFrame c die bs).2 = { c with mem := { c.mem with
    free := c.mem.free.mod die (· - 1), frames := frames, nextFrame := nextFrame, pairFree := pairFree } } := ⟨_, _, _, rfl⟩

/-- R152: a session's control frame and its first two table frames. -/
theorem freshRange_frame (c : Core) (home : Bool) : ∃ frames nextFrame pairFree, (freshRange c home).core = { c with mem := { c.mem with
    free := c.mem.free.mod home (· - 3), frames := frames, nextFrame := nextFrame, pairFree := pairFree } } := by
  obtain ⟨f1, n1, p1, e1⟩ := allocFrame_frame c home []
  obtain ⟨f2, n2, p2, e2⟩ := allocFrame_frame (allocFrame c home []).2 home []
  obtain ⟨f3, n3, p3, e3⟩ := allocFrame_frame (allocFrame (allocFrame c home []).2 home []).2 home []
  refine ⟨f3, n3, p3, ?_⟩
  show (allocFrame _ home []).2 = _
  rw [e3, e2, e1]
  cases home <;> simp [PerDie.mod, PerDie.get, PerDie.set] <;> omega

end Sys2Proof.Machine
namespace Sys2Proof.Machine

/-! ## A session's descriptor that is carried out to its end -/

/-- The run of a session's descriptor that has begun. -/
def begunRun (s : State) (d : Desc) (env : Env) : Run0 := descRun { s with core := beginSession s.core d } d env none

@[simp] theorem begunRun_core (s : State) (d : Desc) (env : Env) : (begunRun s d env).core = beginSession s.core d := rfl
@[simp] theorem begunRun_sid (s : State) (d : Desc) (env : Env) : (begunRun s d env).sid = d.session := rfl

/-- R9, R11: with nothing ahead of it and its account its own, a descriptor whose body ends completes on what the body leaves. -/
theorem acceptSession_done {s : State} {d : Desc} {env : Env} {m : M Done} {st : Status} {a b : Nat} {r : Run0}
    (free : sessFree s.core d) (hrun : s.core.ckpt.running = none) (own : ownAccount s.core d)
    (h : m (begunRun s d env) = .ok (.done st a b, r)) (alone : mirrored r.core d.session = false) (he : r.ext = []) :
    acceptSession s d env m = { s with core := complete r.core d st a b } := by
  have passes : accountCheck d (begunRun s d env) = .ok ((), begunRun s d env) :=
    run_accountCheck (ownAccount_beginSession hrun own)
  rw [acceptSession_free s d env m free]
  exact settle_done (by show (accountCheck d >>= fun _ => m) (begunRun s d env) = _; rw [run_bind, passes]; exact h) alone he

/-- The same of a body that fails. -/
theorem acceptSession_fail {s : State} {d : Desc} {env : Env} {m : M Done} {st : Status} {a b : Nat} {c : Core}
    (free : sessFree s.core d) (hrun : s.core.ckpt.running = none) (own : ownAccount s.core d)
    (h : m (begunRun s d env) = .error (.fail st a b c)) (alone : mirrored c d.session = false) :
    acceptSession s d env m = { s with core := complete c d st a b } := by
  have passes : accountCheck d (begunRun s d env) = .ok ((), begunRun s d env) :=
    run_accountCheck (ownAccount_beginSession hrun own)
  rw [acceptSession_free s d env m free]
  exact settle_fail (by show (accountCheck d >>= fun _ => m) (begunRun s d env) = _; rw [run_bind, passes]; exact h) alone

/-- The same of a body that leaves its descriptor in progress. -/
theorem acceptSession_running {s : State} {d : Desc} {env : Env} {m : M Done} {r : Run0}
    (free : sessFree s.core d) (hrun : s.core.ckpt.running = none) (own : ownAccount s.core d)
    (h : m (begunRun s d env) = .ok (.running, r)) (he : r.ext = []) :
    acceptSession s d env m = { s with core := r.core } := by
  have passes : accountCheck d (begunRun s d env) = .ok ((), begunRun s d env) :=
    run_accountCheck (ownAccount_beginSession hrun own)
  have runs : (do accountCheck d; m) (begunRun s d env) = .ok (.running, r) := by
    show (accountCheck d >>= fun _ => m) (begunRun s d env) = _
    rw [run_bind, passes]
    exact h
  rw [acceptSession_free s d env m free]
  show settle _ d env _ = _
  simp only [begunRun] at runs
  simp only [settle, runs, he]
  rfl

/-! ## SESS_OPEN (R33, R34) -/

/-- R33: what SESS_OPEN without grammar and prefixes leaves. -/
def plainOpen (c : Core) (d : Desc) : Core :=
  let x := freshRange c (placeDie c d.session)
  storeRange ⟨setEntry x.core d.session (openEntry d (placeDie c d.session) (nth x.warm.tables 0 0) 0), { x.warm with ctl := {} }⟩ d.session

/-- R33, R34, R70: the checks of SESS_OPEN pass, and the fresh range is the session's. -/
theorem run_sessOpenBody_plain {d : Desc} {r : Run0} (hr : mapHas r.core.sess.reread r.sid = false)
    (h2 : r.core.twin.state ≠ 2) (h3 : r.core.twin.state ≠ 3) (h0 : d.session ≠ 0) (ha : d.account ≠ 0)
    (hf : (entryOf r.core d.session).state = .free) (acct : mapHas r.core.acctCfg d.account = true)
    (loaded : (loadedModel r.core (openSlot d)).isSome = true) (hg : openBind d = false) (hp : openPrefix d = 0)
    (room : 3 ≤ freeOf r.core (placeDie r.core d.session)) :
    sessOpenBody d r = .ok (.done .ok 0 0, { r with core := plainOpen r.core d }) := by
  have alone : paired r.core = false := by simp [paired, h3]
  have model : (loadedModel r.core (openSlot d)).isNone = false := by simpa using loaded
  have range : openRange r.core (placeDie r.core d.session) none = .ok (freshRange r.core (placeDie r.core d.session)) := by
    simp [openRange, freeFor, alone, Nat.not_lt.mpr room]
  have quiet : mirrored (plainOpen r.core d) d.session = false := by
    obtain ⟨frames, next, pf, e⟩ := freshRange_frame r.core (placeDie r.core d.session)
    refine mirrored_alone ?_ ?_ _ <;> simpa [plainOpen, storeRange, modEntry, e]
  simp [sessOpenBody, run_leaseFirst hr, h0, ha, hf, acct, model, idOnTwin, slotNotOnTwin, alone, checkOpenGrammar, hg,
    checkOpenPrefix, hp, openDie, range]
  simp [plainOpen] at quiet ⊢
  simp [run_mirrorM, quiet]

section
variable (c : Core) (d : Desc)

/-- R34, R42: the new entry, with the three frames of the fresh range. -/
theorem entryOf_plainOpen : ∃ root, entryOf (plainOpen c d) d.session =
    { openEntry d (placeDie c d.session) root 0 with privateFrames := 3 } := by
  let x := freshRange c (placeDie c d.session)
  let e := openEntry d (placeDie c d.session) (nth x.warm.tables 0 0) 0
  have open' : entryOf (setEntry x.core d.session e) d.session = e := entryOf_set_same _ _ _ (by simp [e, openEntry])
  refine ⟨nth x.warm.tables 0 0, ?_⟩
  simp only [plainOpen]
  rw [entryOf_storeRange _ _ (by rw [open']; simp [e, openEntry]), open']
  simp [e, openEntry, x, freshRange, privateCount, markOnly]

theorem entryOf_plainOpen_other {x : Nat} (h : x ≠ d.session) : entryOf (plainOpen c d) x = entryOf c x := by
  obtain ⟨frames, next, pf, e⟩ := freshRange_frame c (placeDie c d.session)
  simp only [plainOpen]
  rw [entryOf_storeRange_other _ h, entryOf_set_other _ _ _ _ h, e]
  rfl

/-- R152: what SESS_OPEN touches: the sessions, and the frames of the home die. -/
theorem plainOpen_frame : ∃ sess frames next pf, plainOpen c d = { c with sess := sess, mem := { c.mem with
    free := c.mem.free.mod (placeDie c d.session) (· - 3), frames := frames, nextFrame := next, pairFree := pf } } := by
  obtain ⟨frames, next, pf, e⟩ := freshRange_frame c (placeDie c d.session)
  simp only [plainOpen, storeRange, modEntry]
  rw [setEntry_frame]
  simp only [setWarm]
  rw [setEntry_frame, e]
  exact ⟨_, _, _, _, rfl⟩
end

/-- Settles O17. That grammarId reads 0 when no grammar is bound is the model's reading of R28 and R34 (log entry 38); the rest is what the checks of R33 and the fresh range of R152 give. -/
theorem sessOpenMakesSession : Obligations.SessOpenMakesSession := by
  unfold Obligations.SessOpenMakesSession
  intro d env s free ⟨hrun, hre, h2, h3⟩ h0 ha hf acct loaded hg hp home room
  have others := fun x hx => entryOf_beginSession_other (c := s.core) hrun d (x := x) hx
  have isFree := (entryOf_beginSession_state hrun d).trans hf
  obtain ⟨dir, changed, inProg, parking, due, begun⟩ := beginSession_frame hrun d
  have unbound : openBind d = false := by simp [openBind, hg]
  have body := run_sessOpenBody_plain (d := d) (r := begunRun s d env)
    (by simp only [begunRun_core, begun]; exact hre) (by simp only [begunRun_core, begun]; exact h2)
    (by simp only [begunRun_core, begun]; exact h3) h0 ha isFree (by simp only [begunRun_core, begun]; exact acct)
    (by simp only [begunRun_core, begun]; exact loaded) unbound hp (by simp only [begunRun_core, begun]; exact room)
  obtain ⟨root, entry⟩ := entryOf_plainOpen (beginSession s.core d) d
  have place : placeDie (beginSession s.core d) d.session = home := by rw [begun]; rfl
  obtain ⟨sess, frames, next, pf, left⟩ : ∃ sess frames next pf, plainOpen (beginSession s.core d) d = { s.core with
      sess := sess, mem := { s.core.mem with free := s.core.mem.free.mod home (· - 3), frames := frames, nextFrame := next, pairFree := pf } } := by
    obtain ⟨sess, frames, next, pf, left⟩ := plainOpen_frame (beginSession s.core d) d
    exact ⟨sess, frames, next, pf, left.trans (by rw [place, begun])⟩
  have done := acceptSession_done free hrun (.inl hf) body
    (mirrored_alone (by rw [begunRun_core, left]; exact h2) (by rw [begunRun_core, left]; exact h3) _) rfl
  rw [place] at entry
  simp only [begunRun_core, left] at done
  refine ⟨_, root, congrArg Host.Outcome.next done, ?_, by simp [freeOf], by simp [freeOf], complete_rings_congr (by rfl) _ _ _ _, rfl,
    complete_bus _ _ _ _ _, fun x hx => ?_⟩
  · rw [entryOf_complete, ← left, entry]
    simp [openEntry, unbound, openSlot, openClass, hp, openPrefix]
  · rw [entryOf_complete, ← left]
    exact (entryOf_plainOpen_other _ d hx).trans (others x hx)

end Sys2Proof.Machine
namespace Sys2Proof.Machine

/-! ## Frames that sessions hold (R42, R152 to R163) -/

/-- `d` is `c` but for the frames that sessions hold, the pools they come from, and the epoch that holds some of them. -/
structure FramesMoved (c d : Core) : Prop where
  frame : d = { c with ckpt := d.ckpt, mem := { c.mem with
    free := d.mem.free, pairFree := d.mem.pairFree, frames := d.mem.frames, nextFrame := d.mem.nextFrame, stagingFree := d.mem.stagingFree } }
  idle : c.ckpt.running = none → d.ckpt = c.ckpt

namespace FramesMoved

theorem refl (c : Core) : FramesMoved c c := ⟨rfl, fun _ => rfl⟩

theorem trans {a b c : Core} (h : FramesMoved a b) (k : FramesMoved b c) : FramesMoved a c :=
  ⟨by rw [k.frame, h.frame], fun ha => (k.idle (by rw [h.idle ha, ha])).trans (h.idle ha)⟩

/-- Steps that each move frames move frames together. -/
theorem foldl {α : Type} {f : Core → α → Core} (h : ∀ c x, FramesMoved c (f c x)) (l : List α) (c : Core) : FramesMoved c (l.foldl f c) := by
  induction l generalizing c with
  | nil => exact refl c
  | cons x l ih => exact (h c x).trans (ih _)

section
variable {c d : Core} (h : FramesMoved c d)
include h

theorem sess : d.sess = c.sess := by rw [h.frame]
theorem rings : d.rings = c.rings := by rw [h.frame]
theorem twin : d.twin = c.twin := by rw [h.frame]
theorem sched : d.sched = c.sched := by rw [h.frame]
theorem bus : d.bus = c.bus := by rw [h.frame]
theorem regs : d.regs = c.regs := by rw [h.frame]
theorem obj : d.obj = c.obj := by rw [h.frame]
theorem power : d.power = c.power := by rw [h.frame]
theorem acctCfg : d.acctCfg = c.acctCfg := by rw [h.frame]
theorem stackTab : d.stackTab = c.stackTab := by rw [h.frame]
theorem index : d.mem.index = c.mem.index := by rw [h.frame]
theorem barn : d.mem.barn = c.mem.barn := by rw [h.frame]
theorem dirFrames : d.mem.dirFrames = c.mem.dirFrames := by rw [h.frame]
theorem entryOf (sid : Nat) : entryOf d sid = entryOf c sid := entryOf_congr (by rw [h.sess]) sid
end

end FramesMoved

theorem returnFree_moved (c : Core) (die : Bool) (n : Nat) : FramesMoved c (returnFree c die n) := ⟨rfl, fun _ => rfl⟩
theorem reserveFree_moved (c : Core) (die : Bool) (n : Nat) : FramesMoved c (reserveFree c die n) := ⟨rfl, fun _ => rfl⟩

theorem freeFrame_moved (c : Core) (die : Bool) (p : Nat) : FramesMoved c (freeFrame c die p) := by
  simp only [freeFrame]
  split <;> exact ⟨rfl, fun _ => rfl⟩

theorem dropRef_moved (c : Core) (f : Nat) : FramesMoved c (dropRef c f) := by
  simp only [dropRef]
  split
  · exact .refl c
  · split
    · refine .trans (b := { c with mem := { c.mem with frames := mapDel c.mem.frames f } }) ⟨rfl, fun _ => rfl⟩ (freeFrame_moved _ _ _)
    · exact ⟨rfl, fun _ => rfl⟩

theorem passRef_moved (c : Core) (f : Nat) : FramesMoved c (passRef c f) := by
  unfold passRef
  split
  next => exact dropRef_moved c f
  next ep he => exact ⟨rfl, fun h0 => by rw [h0] at he; cases he⟩

theorem dropLeaf_moved (c : Core) (l : Leaf) : FramesMoved c (dropLeaf c l) := by
  unfold dropLeaf
  split
  · exact passRef_moved c _
  · exact dropRef_moved c _

theorem dropLeaves_moved (c : Core) (ls : List Leaf) : FramesMoved c (dropLeaves c ls) := .foldl dropLeaf_moved ls c

theorem giveRoom_moved (x : Range) : FramesMoved x.core (giveRoom x).core := ⟨rfl, fun _ => rfl⟩

theorem dropMark_moved (x : Range) : FramesMoved x.core (dropMark x).core := by
  unfold dropMark
  split
  · exact .refl _
  · exact dropLeaves_moved _ _

theorem dropLane_moved (x : Range) : FramesMoved x.core (dropLane x).core := by
  unfold dropLane
  split
  · exact .refl _
  · exact dropLeaves_moved _ _

/-- R154: a range that goes gives back frames, and touches nothing else. -/
theorem unmapRange_moved (x : Range) : FramesMoved x.core (unmapRange x) :=
  (((dropLane_moved x).trans (dropMark_moved _)).trans (giveRoom_moved _)).trans
    ((dropLeaves_moved _ _).trans (.foldl dropRef_moved _ _))

/-- R154: a session that leaves the warm states has no warm contents left. -/
theorem leaveWarm_moved (c : Core) (sid : Nat) : ∃ d, FramesMoved c d ∧
    leaveWarm c sid = { d with sess := { c.sess with warm := mapDel c.sess.warm sid } } := by
  unfold leaveWarm
  split
  next h0 => exact ⟨c, .refl c, by rw [mapDel_absent _ _ h0]⟩
  next w _ => exact ⟨_, unmapRange_moved ⟨c, w⟩, by simp only [(unmapRange_moved ⟨c, w⟩).sess]⟩

/-! ## SESS_CLOSE (R19, R20) -/

theorem freeBarn_frame (c : Core) (die : Bool) (f : Nat) : freeBarn c die f = { c with mem := (freeBarn c die f).mem } := by
  simp only [freeBarn]
  split
  · rfl
  · split <;> rfl

theorem freeStored_frame (c : Core) (sid : Nat) : freeStored c sid = { c with mem := (freeStored c sid).mem } := by
  simp only [freeStored]
  split
  · rfl
  · split
    · rw [freeBarn_frame, clearIndex, putIndex_frame]
    · split
      · split
        · exact putIndex_frame _ _
        · rw [freeSpill, clearIndex, putIndex_frame]
      · rfl

/-- R19, R20: a session that closes leaves no entry, no warm contents and no index entry; of the rest, only frames, a lease and a re-read go with it. -/
theorem freeSession_frame (c : Core) (sid : Nat) : ∃ ckpt mem changed leases, (c.ckpt.running = none → ckpt = c.ckpt) ∧
    mapGet mem.index sid = none ∧ freeSession c sid = { c with
      ckpt := ckpt, mem := mem, twin := { c.twin with leases := leases }
      sess := { c.sess with dir := mapDel c.sess.dir sid, warm := mapDel c.sess.warm sid, changed := changed, reread := mapDel c.sess.reread sid } } := by
  obtain ⟨d, moved, left⟩ := leaveWarm_moved c sid
  simp only [freeSession, left]
  rw [setEntry_frame, setEntry_sess, clearIndex, putIndex_frame, freeStored_frame, moved.frame]
  exact ⟨_, _, _, _, moved.idle, by simp, rfl⟩

/-- R19, R20: a session that is warm or parked, or lost with nothing stored, is closed without more. -/
theorem run_sessCloseBody_plain {d : Desc} {r : Run0} (hs : r.sid = d.session) (hr : mapHas r.core.sess.reread d.session = false)
    (h2 : r.core.twin.state ≠ 2) (h3 : r.core.twin.state ≠ 3)
    (he : (entryOf r.core d.session).state = .idle ∨ (entryOf r.core d.session).state = .waiting ∨
      (entryOf r.core d.session).state = .parked ∨
      ((entryOf r.core d.session).state = .lost ∧ mapGet r.core.mem.index d.session = none)) :
    sessCloseBody d r = .ok (.done .ok 0 0, { r with core := freeSession r.core d.session }) := by
  have lease := run_leaseRead (r := r) (by rw [hs]; exact hr)
  have quiet := run_mirrorM (r := r) (mirrored_alone h2 h3 d.session) (.closed 0)
  rcases he with he | he | he | ⟨he, hx⟩
  · simp [sessCloseBody, lease, he, quiet]
  · simp [sessCloseBody, lease, he, quiet]
  · simp [sessCloseBody, lease, he, quiet]
  · simp [sessCloseBody, lease, he, hx, quiet]

theorem run_sessCloseBody_free {d : Desc} {r : Run0} (hs : r.sid = d.session) (hr : mapHas r.core.sess.reread d.session = false)
    (he : (entryOf r.core d.session).state = .free) : sessCloseBody d r = .error (.fail .wrongState 0 0 r.core) := by
  simp [sessCloseBody, run_leaseRead (r := r) (by rw [hs]; exact hr), he]

section
variable (c : Core) (sid : Nat)

theorem entryOf_freeSession : entryOf (freeSession c sid) sid = {} := by
  obtain ⟨_, _, _, _, -, -, left⟩ := freeSession_frame c sid
  simp [left, entryOf]

theorem entryOf_freeSession_other {x : Nat} (h : x ≠ sid) : entryOf (freeSession c sid) x = entryOf c x := by
  obtain ⟨_, _, _, _, -, -, left⟩ := freeSession_frame c sid
  simp [left, entryOf, mapGet_del_other _ _ _ h]

theorem freeSession_warm : (freeSession c sid).sess.warm = mapDel c.sess.warm sid := by
  obtain ⟨_, _, _, _, -, -, left⟩ := freeSession_frame c sid
  rw [left]

theorem freeSession_index : mapGet (freeSession c sid).mem.index sid = none := by
  obtain ⟨_, _, _, _, -, noIndex, left⟩ := freeSession_frame c sid
  rw [left]
  exact noIndex

theorem freeSession_rings : (freeSession c sid).rings = c.rings := by
  obtain ⟨_, _, _, _, -, -, left⟩ := freeSession_frame c sid
  rw [left]

theorem freeSession_twinState : (freeSession c sid).twin.state = c.twin.state := by
  obtain ⟨_, _, _, _, -, -, left⟩ := freeSession_frame c sid
  rw [left]
end

/-- Settles O18: the body closes the session (`freeSession_frame`), or refuses on a FREE one. -/
theorem sessCloseFreesSession : Obligations.SessCloseFreesSession := by
  unfold Obligations.SessCloseFreesSession
  intro d env s free ⟨hrun, hre, h2, h3⟩ own
  have state := entryOf_beginSession_state hrun d
  have rings := beginSession_rings hrun d
  have warm := beginSession_warm hrun d
  have mem := beginSession_mem hrun d
  have twin := beginSession_twin hrun d
  have reread : mapHas (beginSession s.core d).sess.reread d.session = false := by rw [beginSession_reread hrun d]; exact hre
  constructor
  · intro he
    have body := run_sessCloseBody_plain (d := d) (r := begunRun s d env) rfl reread
      (by rw [begunRun_core, twin]; exact h2) (by rw [begunRun_core, twin]; exact h3)
      (by rw [begunRun_core, state, mem]; exact he)
    have done := acceptSession_done free hrun own body (mirrored_alone
      (by simp only [begunRun_core, freeSession_twinState, twin]; exact h2)
      (by simp only [begunRun_core, freeSession_twinState, twin]; exact h3) _) rfl
    have told := complete_rings_congr ((freeSession_rings _ d.session).trans rings) d .ok 0 0
    simp only [begunRun_core] at done
    refine ⟨_, congrArg Host.Outcome.next done, ?_, ?_, ?_, ?_, rfl, fun x hx => ⟨?_, ?_⟩⟩
    · rw [entryOf_complete, entryOf_freeSession]
    · rw [complete_warm, freeSession_warm, mapGet_del_same]
    · rw [complete_mem, freeSession_index]
    · exact told
    · rw [entryOf_complete, entryOf_freeSession_other _ _ hx, entryOf_beginSession_other hrun d hx]
    · rw [complete_warm, freeSession_warm, warm, mapGet_del_other _ _ _ hx]
  · intro he
    have body := run_sessCloseBody_free (d := d) (r := begunRun s d env) rfl reread (state.trans (by rw [he]))
    have done := acceptSession_fail free hrun own body (mirrored_alone
      (by rw [begunRun_core, twin]; exact h2) (by rw [begunRun_core, twin]; exact h3) _)
    simp only [begunRun_core] at done
    refine ⟨_, congrArg Host.Outcome.next done, complete_rings_congr rings _ _ _ _, fun x => ?_⟩
    rw [entryOf_complete, entryOf_beginSession_young hrun d (by rw [he])]

end Sys2Proof.Machine
namespace Sys2Proof.Machine

/-! ## Records and descriptors (R129, R134, R139) -/

/-- `d` is `c` but for its rings, the turns that records belong to, and the descriptors that are in progress. -/
def RecordsMoved (c d : Core) : Prop :=
  d = { c with rings := d.rings, sess := { c.sess with warm := d.sess.warm, inProg := d.sess.inProg, seqProg := d.sess.seqProg } }

namespace RecordsMoved

theorem refl (c : Core) : RecordsMoved c c := rfl

theorem trans {a b c : Core} (h : RecordsMoved a b) (k : RecordsMoved b c) : RecordsMoved a c := by
  unfold RecordsMoved at *
  rw [k, h]

theorem foldl {α : Type} {f : Core → α → Core} (h : ∀ c x, RecordsMoved c (f c x)) (l : List α) (c : Core) : RecordsMoved c (l.foldl f c) := by
  induction l generalizing c with
  | nil => exact refl c
  | cons x l ih => exact (h c x).trans (ih _)

section
variable {c d : Core} (h : RecordsMoved c d)
include h

theorem dir : d.sess.dir = c.sess.dir := by rw [h]
theorem mem : d.mem = c.mem := by rw [h]
theorem twin : d.twin = c.twin := by rw [h]
theorem sched : d.sched = c.sched := by rw [h]
theorem entryOf (sid : Nat) : entryOf d sid = entryOf c sid := entryOf_congr h.dir sid
end

end RecordsMoved

theorem pushRec_moved (c : Core) (r : Rec) : RecordsMoved c (pushRec c r) := rfl

theorem queueRec_moved (c : Core) (r : Rec) : RecordsMoved c (queueRec c r) := by
  simp only [queueRec]
  split
  · split
    · exact pushRec_moved c r
    · exact .refl c
  · exact .refl c

theorem closeDesc_moved (c : Core) (d : Desc) : RecordsMoved c (closeDesc c d) := by
  simp only [closeDesc]
  split <;> rfl

theorem handOver_moved (c : Core) (d : Option Desc) (r : Rec) : RecordsMoved c (handOver c d r) := by
  cases d with
  | none => exact queueRec_moved c r
  | some d => exact (queueRec_moved c r).trans (closeDesc_moved _ d)

theorem pullEngines_moved (n : Nat) (c : Core) : RecordsMoved c (pullEngines n c) := by
  induction n generalizing c with
  | zero => exact .refl c
  | succ n ih =>
    simp only [pullEngines]
    split
    · exact .refl c
    · split
      · exact .trans (.trans (b := { c with rings := { c.rings with engines := _ } }) rfl (handOver_moved _ _ _)) (ih _)
      · exact .refl c

theorem overflowRecords_moved (c : Core) : RecordsMoved c (overflowRecords c) := by
  refine .foldl (fun c p => ?_) _ c
  split
  · exact .refl c
  · split
    · exact .trans (b := setRecRing c 3 p.1 _) rfl (pushRec_moved _ _)
    · exact .refl c

/-- R134, R141: places that come free are taken by records alone. -/
theorem queueFreed_moved (c : Core) : RecordsMoved c (queueFreed c) := (pullEngines_moved _ c).trans (overflowRecords_moved _)

theorem retractRec_moved (r : Rec) (c : Core) : RecordsMoved c (retractRec r c) := by
  simp only [retractRec]
  split
  · exact .refl c
  · rfl

/-- R139: what records are discarded with. -/
theorem discardWhere_moved (c : Core) (p : Rec → Bool) : RecordsMoved c (discardWhere c p) := by
  have retracted : ∀ (l : List Rec) (c : Core), RecordsMoved c (l.foldr retractRec c) := by
    intro l c
    induction l with
    | nil => exact .refl c
    | cons r l ih => exact ih.trans (retractRec_moved r _)
  simp only [discardWhere]
  refine .trans (.trans (b := { c with rings := { c.rings with queue := _, engines := _ } }) rfl (retracted _ _)) (.foldl closeDesc_moved _ _)

theorem discardTurn_moved (c : Core) (sid turn : Nat) : RecordsMoved c (discardTurn c sid turn) := discardWhere_moved c _

/-! ## Waking (R451) -/

/-- R451: which accounts wake is settled by the change and the state before it. -/
theorem waking_congr {c : Core} {f g : Core → Core} (h : f c = g c) (die : Bool) : waking c die f = waking c die g := by
  simp only [waking, h]

theorem wakingBoth_congr {c : Core} {f g : Core → Core} (h : f c = g c) : wakingBoth c f = wakingBoth c g :=
  waking_congr (waking_congr h false) true

/-- R451: waking changes the step schedulers of what the change leaves. -/
theorem waking_sched (c : Core) (die : Bool) (f : Core → Core) : waking c die f = withSched (f c) (waking c die f).sched := rfl

theorem wakingBoth_sched (c : Core) (f : Core → Core) : wakingBoth c f = withSched (f c) (wakingBoth c f).sched := rfl

/-! ## TURN_CANCEL (R17, R18) -/

/-- R501: what is told of a session that is not mirrored is told at once. -/
theorem mirrorThen_alone {c : Core} {sid : Nat} (h : mirrored c sid = false) (b : MBody) (fin : Option (Desc × Status × Nat × Nat))
    (again : Bool) (tell : Core → Core) : mirrorThen c sid b fin again tell = tell c := by
  simp [mirrorThen, mirrorRoom, mirrorRec, mirror, h]

/-- R17: the cancel of a turn, of a session that is not mirrored, while no epoch runs. -/
def cancelLeft (c : Core) (d : Desc) : Core :=
  let c' := wakingBoth c fun c' => queueFreed (discardTurn c' d.session (entryOf c d.session).turn)
  if (entryOf c d.session).cancelPending then c' else modEntry c' d.session fun e => { e with cancelPending := true }

section
variable (c : Core) (d : Desc)

theorem cancelRecords_moved : RecordsMoved c (queueFreed (discardTurn c d.session (entryOf c d.session).turn)) :=
  (discardTurn_moved c _ _).trans (queueFreed_moved _)

/-- R17, R139: the cancel is left pending, the turn's records are gone, accounts may wake, and that is all. -/
theorem cancelLeft_frame : ∃ dir changed, cancelLeft c d =
    let c' := wakingBoth c fun c' => queueFreed (discardTurn c' d.session (entryOf c d.session).turn)
    { c' with sess := { c'.sess with dir := dir, changed := changed } } := by
  simp only [cancelLeft]
  split
  · exact ⟨_, _, rfl⟩
  · rw [modEntry, setEntry_frame, setEntry_sess]
    exact ⟨_, _, rfl⟩

theorem entryOf_wakingRecords (x : Nat) :
    entryOf (wakingBoth c fun c' => queueFreed (discardTurn c' d.session (entryOf c d.session).turn)) x = entryOf c x :=
  (entryOf_congr rfl x).trans ((cancelRecords_moved c d).entryOf x)

theorem entryOf_cancelLeft (h : (entryOf c d.session).state ≠ .free) :
    entryOf (cancelLeft c d) d.session = { entryOf c d.session with cancelPending := true } := by
  have same := entryOf_wakingRecords c d d.session
  simp only [cancelLeft]
  split
  next hp => rw [same, ← hp]
  next => rw [modEntry, entryOf_set_same _ _ _ (by rw [same]; exact h), same]

theorem entryOf_cancelLeft_other {x : Nat} (h : x ≠ d.session) : entryOf (cancelLeft c d) x = entryOf c x := by
  simp only [cancelLeft]
  split
  · exact entryOf_wakingRecords c d x
  · rw [modEntry, entryOf_set_other _ _ _ _ h, entryOf_wakingRecords]
end

/-- R9, R17: a cancel of a turn that is queued or runs. -/
theorem turnCancel_turn {c : Core} {d : Desc} (hp : plainSession c d.session) (own : (entryOf c d.session).account = d.account)
    (h : (entryOf c d.session).state = .queued ∨ (entryOf c d.session).state = .running) :
    turnCancel c d = complete (cancelLeft c d) d .ok 0 0 := by
  obtain ⟨hrun, -, h2, h3⟩ := hp
  have quiet : mirrored (cancelLeft c d) d.session = false := by
    obtain ⟨dir, changed, e⟩ := cancelLeft_frame c d
    have twin : (cancelLeft c d).twin = c.twin := by
      rw [e]
      exact (cancelRecords_moved c d).twin
    exact mirrored_alone (by rw [twin]; exact h2) (by rw [twin]; exact h3) _
  have records : wakingBoth c (fun c' => queueFreed (discardTurn (haspSession c' d.session) d.session (entryOf c d.session).turn)) =
      wakingBoth c fun c' => queueFreed (discardTurn c' d.session (entryOf c d.session).turn) :=
    wakingBoth_congr (by rw [haspSession_none c _ hrun])
  rcases h with h | h <;>
  · simp only [turnCancel, h, own, records, bne_self_eq_false, Bool.and_false, Bool.false_eq_true, if_false]
    exact mirrorThen_alone quiet _ _ _ _

/-- R9, R18: a cancel of a session that has no turn, or is another account's, only completes. -/
theorem turnCancel_refused {c : Core} {d : Desc} (hp : plainSession c d.session) :
    ((entryOf c d.session).state = .lost → (entryOf c d.session).account = d.account → turnCancel c d = complete c d .lost 0 0) ∧
    ((entryOf c d.session).state ≠ .queued → (entryOf c d.session).state ≠ .running → (entryOf c d.session).state ≠ .lost →
      (entryOf c d.session).state = .free ∨ (entryOf c d.session).account = d.account → turnCancel c d = complete c d .wrongState 0 0) ∧
    ((entryOf c d.session).state ≠ .free → (entryOf c d.session).account ≠ d.account → turnCancel c d = complete c d .invalidField 0 0) := by
  obtain ⟨-, -, h2, h3⟩ := hp
  have ends := fun st => finishDesc_alone c d st 0 0 (mirrored_alone h2 h3 _)
  refine ⟨fun h own => ?_, fun hq hr hl own => ?_, fun hf own => ?_⟩
  · simp [turnCancel, h, own, ends]
  · have passes : ((entryOf c d.session).state != .free && (entryOf c d.session).account != d.account) = false := by
      rcases own with own | own <;> simp [own]
    simp only [turnCancel, passes]
    cases h : (entryOf c d.session).state with
    | queued => exact absurd h hq
    | running => exact absurd h hr
    | lost => exact absurd h hl
    | free | idle | waiting | parked | pooled | moving => exact ends _
  · simp [turnCancel, hf, own, ends]

end Sys2Proof.Machine
namespace Sys2Proof.Machine

/-! ## What a session's own steps move -/

/-- `d` is `c` but for the directory and warm contents of sessions, their frames, and the step schedulers. -/
def SessionMoved (c d : Core) : Prop :=
  d = { c with
    ckpt := d.ckpt, sched := d.sched
    sess := { c.sess with dir := d.sess.dir, changed := d.sess.changed, warm := d.sess.warm }
    mem := { c.mem with free := d.mem.free, pairFree := d.mem.pairFree, frames := d.mem.frames
                        nextFrame := d.mem.nextFrame, stagingFree := d.mem.stagingFree } }

namespace SessionMoved

theorem refl (c : Core) : SessionMoved c c := rfl

theorem trans {a b c : Core} (h : SessionMoved a b) (k : SessionMoved b c) : SessionMoved a c := by
  unfold SessionMoved at *
  rw [k, h]

section
variable {c d : Core} (h : SessionMoved c d)
include h

theorem rings : d.rings = c.rings := by rw [h]
theorem twin : d.twin = c.twin := by rw [h]
theorem inProg : d.sess.inProg = c.sess.inProg := by rw [h]
theorem obj : d.obj = c.obj := by rw [h]
theorem regs : d.regs = c.regs := by rw [h]
theorem power : d.power = c.power := by rw [h]
theorem acctCfg : d.acctCfg = c.acctCfg := by rw [h]
end

end SessionMoved

theorem FramesMoved.session {c d : Core} (h : FramesMoved c d) : SessionMoved c d := by
  unfold SessionMoved
  rw [h.frame]

theorem withSched_moved (c : Core) (y : PerDie Sched) : SessionMoved c (withSched c y) := rfl

theorem setEntry_moved (c : Core) (sid : Nat) (e : Entry) : SessionMoved c (setEntry c sid e) := by
  unfold SessionMoved
  rw [setEntry_frame, setEntry_sess]

theorem modEntry_moved (c : Core) (sid : Nat) (f : Entry → Entry) : SessionMoved c (modEntry c sid f) := setEntry_moved c sid _

theorem setWarm_moved (c : Core) (sid : Nat) (w : Warm) : SessionMoved c (setWarm c sid w) := rfl

theorem storeRange_moved (x : Range) (sid : Nat) : SessionMoved x.core (storeRange x sid) := by
  simp only [storeRange]
  exact (setWarm_moved _ _ _).trans (modEntry_moved _ _ _)

theorem entryOf_modEntry (c : Core) (sid : Nat) (f : Entry → Entry) (h : (f (entryOf c sid)).state ≠ .free) :
    entryOf (modEntry c sid f) sid = f (entryOf c sid) := entryOf_set_same _ _ _ h

theorem entryOf_modEntry_other (c : Core) {sid x : Nat} (f : Entry → Entry) (h : x ≠ sid) :
    entryOf (modEntry c sid f) x = entryOf c x := entryOf_set_other _ _ _ _ h

@[simp] theorem entryOf_reserveFree (c : Core) (die : Bool) (n sid : Nat) : entryOf (reserveFree c die n) sid = entryOf c sid := rfl

theorem waking_moved (c : Core) (die : Bool) (f : Core → Core) (h : SessionMoved c (f c)) : SessionMoved c (waking c die f) := by
  rw [waking_sched]
  exact h.trans (withSched_moved _ _)

/-- R450: joining a queue changes the step schedulers. -/
theorem joinDecode_sched (c : Core) (die : Bool) (a sid : Nat) : joinDecode c die a sid = withSched c (joinDecode c die a sid).sched := rfl

theorem storeRange_warm (x : Range) (sid : Nat) : (storeRange x sid).sess.warm = mapSet x.core.sess.warm sid x.warm := by
  simp [storeRange, modEntry, setWarm]

/-! ## Copies and marks (R38, R159, R160) -/

theorem newFrame_moved (c : Core) (die : Bool) (p : Nat) (bs : Cells) : FramesMoved c (newFrame c die p bs).2 := ⟨rfl, fun _ => rfl⟩

theorem takeFrame_moved {x y : Range} {turn die : Bool} {p f : Nat} {bs : Cells} (h : takeFrame x turn die p bs = .ok (f, y)) :
    FramesMoved x.core y.core := by
  unfold takeFrame at h
  split at h
  · split at h
    · cases h
    · cases h
      exact newFrame_moved _ _ _ _
  · split at h
    · cases h
    · cases h
      exact (reserveFree_moved _ _ _).trans (newFrame_moved _ _ _ _)

theorem takeCopy_moved {x y : Range} {turn : Bool} {f g : Nat} (h : takeCopy turn f x = .ok (g, y)) : FramesMoved x.core y.core := by
  simp only [takeCopy] at h
  split at h
  · cases h
  · split at h
    · cases h
    next took =>
      cases h
      exact (takeFrame_moved took).trans ⟨rfl, fun _ => rfl⟩

theorem addRef_moved (c : Core) (f : Nat) : FramesMoved c (addRef c f) := ⟨rfl, fun _ => rfl⟩

theorem markLeaves_moved (ls : List Leaf) (x : Range) {ks : List (Leaf × Leaf)} {y : Range} (h : markLeaves ls x = .ok (ks, y)) :
    FramesMoved x.core y.core := by
  induction ls generalizing x ks y with
  | nil => cases h; exact .refl _
  | cons l ls ih =>
    simp only [markLeaves] at h
    split at h
    · cases h
    next k z one =>
      have first : FramesMoved x.core z.core := by
        split at one
        · cases one
          exact addRef_moved _ _
        · split at one
          · cases one
          next took =>
            cases one
            exact takeCopy_moved took
      split at h
      · cases h
      next rest =>
        cases h
        exact first.trans (ih z rest)

/-- R38, R159: a turn mark moves frames alone. -/
theorem takeMark_moved (e : Entry) (P : Nat) (x : Range) : FramesMoved x.core (takeMark e P x).core := by
  simp only [takeMark]
  split
  · exact .refl _
  · split
    · exact .refl _
    next ks y marked => exact markLeaves_moved (y := y) _ _ marked

/-! ## TURN_RUN (R38, R295) -/

/-- R295, R339: frames and slots suffice alike where the same frames are free, on a device that is not paired. -/
theorem turnShort_congr {c d : Core} (hc : paired c = false) (hd : paired d = false) (h : d.mem.free = c.mem.free) (img : List Byte)
    (home : Bool) (next m : Nat) (w : Warm) : turnShort img home next m ⟨d, w⟩ = turnShort img home next m ⟨c, w⟩ := by
  simp only [turnShort, freeFor, hc, hd, freeOf, h]
  rfl

/-- R43, R295: what the reservation of a turn leaves, with nothing evicted. -/
def turnReserved (c : Core) (sid : Nat) (t : Turn) (w : Warm) : Core :=
  let e := entryOf c sid
  let n := fun die => turnNeed (sessImg c sid) w e.homeDie die e.nextPosition t.maxTokens
  let c := modEntry (storeRange ⟨c, w⟩ sid) sid fun e => { e with resident := e.resident - 0 * pageP (sessImg c sid) }
  storeRange ⟨reserveFree (reserveFree c false (n false)) true (n true), { w with room0 := n false, room1 := n true }⟩ sid

theorem turnReserved_moved (c : Core) (sid : Nat) (t : Turn) (w : Warm) : SessionMoved c (turnReserved c sid t w) := by
  simp only [turnReserved]
  exact ((storeRange_moved ⟨c, w⟩ sid).trans (modEntry_moved _ _ _)).trans
    (((reserveFree_moved _ _ _).trans (reserveFree_moved _ _ _)).session.trans (storeRange_moved _ sid))

theorem entryOf_turnReserved_other (c : Core) (t : Turn) (w : Warm) {sid x : Nat} (h : x ≠ sid) :
    entryOf (turnReserved c sid t w) x = entryOf c x := by
  simp only [turnReserved]
  rw [entryOf_storeRange_other _ h, entryOf_reserveFree, entryOf_reserveFree, entryOf_modEntry_other _ _ h,
    entryOf_storeRange_other _ h]

theorem entryOf_turnReserved (c : Core) (sid : Nat) (t : Turn) (w : Warm) (h : (entryOf c sid).state ≠ .free) :
    ∃ p q, entryOf (turnReserved c sid t w) sid = { entryOf c sid with privateFrames := p, reservedFrames := q } := by
  have first := entryOf_storeRange ⟨c, w⟩ sid h
  have second := entryOf_modEntry (storeRange ⟨c, w⟩ sid) sid (fun e => { e with resident := e.resident - 0 * pageP (sessImg c sid) })
    (by rw [first]; exact h)
  simp only [turnReserved]
  rw [entryOf_storeRange _ _ (by rw [entryOf_reserveFree, entryOf_reserveFree, second, first]; exact h), entryOf_reserveFree,
    entryOf_reserveFree, second, first]
  simp

theorem turnReserved_warm (c : Core) (sid : Nat) (t : Turn) (w : Warm) : ∃ w', mapGet (turnReserved c sid t w).sess.warm sid = some w' ∧ w'.ctl = w.ctl := by
  simp only [turnReserved]
  rw [storeRange_warm]
  exact ⟨_, mapGet_set_same _ _ _, rfl⟩

/-- R43, R295: a turn that is not gleaned, and whose frames and slots suffice, takes its reservation. -/
theorem run_reserveTurn {d : Desc} {t : Turn} {w : Warm} {r : Run0} (h3 : r.core.twin.state ≠ 3)
    (hw : mapGet r.core.sess.warm d.session = some w) (hg : regField r.core 0x500140 0 0 = 0)
    (room : turnShort (sessImg r.core d.session) (entryOf r.core d.session).homeDie (entryOf r.core d.session).nextPosition t.maxTokens
      ⟨r.core, w⟩ = false) :
    ∃ gone, reserveTurn d t r = .ok (gone, { r with core := turnReserved r.core d.session t w }) := by
  let c1 := modEntry (storeRange ⟨r.core, w⟩ d.session) d.session fun e => { e with resident := e.resident - 0 * pageP (sessImg r.core d.session) }
  have moved : SessionMoved r.core c1 := (storeRange_moved ⟨r.core, w⟩ d.session).trans (modEntry_moved _ _ _)
  have enough : turnShort (sessImg r.core d.session) (entryOf r.core d.session).homeDie (entryOf r.core d.session).nextPosition t.maxTokens
      ⟨c1, w⟩ = false := by
    rw [turnShort_congr (c := r.core) (by simp [paired, h3]) (by simp [paired, moved.twin, h3]) (by simp [c1, modEntry, storeRange]), room]
  simp [reserveTurn, hw, hg]
  simp [c1] at enough
  simp [enough, turnReserved]

end Sys2Proof.Machine
namespace Sys2Proof.Machine

/-- R38, R295: a turn that starts, without a stop list and a grammar operation, of a session that was `e`. -/
def turnStarted (c : Core) (sid : Nat) (e : Entry) (t : Turn) (w : Warm) : Core :=
  let w := (mapGet c.sess.warm sid).getD w
  let e' : Entry := { entryOf c sid with turn := e.turn + 1, step := 0, startWaiting := e.state == .waiting }
  let x := takeMark e' (pageP (sessImg c sid)) ⟨c, { w with ctl := { w.ctl with seen := [] }, turn := some { t with stops := [] } }⟩
  let c := setEntry x.core sid { e' with state := .queued, markValid := true, markPosition := e'.nextPosition }
  let c := storeRange ⟨c, x.warm⟩ sid
  waking c e.homeDie fun c => joinDecode c e.homeDie e.account sid

theorem turnStarted_moved (c : Core) (sid : Nat) (e : Entry) (t : Turn) (w : Warm) : SessionMoved c (turnStarted c sid e t w) := by
  simp only [turnStarted]
  exact (((takeMark_moved _ _ ⟨c, _⟩).session.trans (setEntry_moved _ _ _)).trans (storeRange_moved _ sid)).trans
    (waking_moved _ _ _ (by rw [joinDecode_sched]; exact withSched_moved _ _))

@[simp] theorem entryOf_waking_joinDecode (c : Core) (die : Bool) (a sid x : Nat) :
    entryOf (waking c die fun c => joinDecode c die a sid) x = entryOf c x := rfl

theorem entryOf_turnStarted_other (c : Core) (e : Entry) (t : Turn) (w : Warm) {sid x : Nat} (h : x ≠ sid) :
    entryOf (turnStarted c sid e t w) x = entryOf c x := by
  simp only [turnStarted]
  rw [entryOf_waking_joinDecode, entryOf_storeRange_other _ h, entryOf_set_other _ _ _ _ h]
  exact (takeMark_moved _ _ ⟨c, _⟩).entryOf x

theorem entryOf_turnStarted (c : Core) (sid : Nat) (e : Entry) (t : Turn) (w : Warm) :
    ∃ p q, entryOf (turnStarted c sid e t w) sid = { entryOf c sid with
      turn := e.turn + 1, step := 0, startWaiting := e.state == .waiting, state := .queued, markValid := true
      markPosition := (entryOf c sid).nextPosition, privateFrames := p, reservedFrames := q } := by
  simp only [turnStarted]
  rw [entryOf_waking_joinDecode, entryOf_storeRange _ _ (by rw [entryOf_set_same _ _ _ (by simp)]; simp), entryOf_set_same _ _ _ (by simp)]
  exact ⟨_, _, rfl⟩

/-- R38, R43, R295: the reservation and the start of a turn, in one. -/
def turnRunLeft (c : Core) (sid : Nat) (t : Turn) (w : Warm) : Core := turnStarted (turnReserved c sid t w) sid (entryOf c sid) t w

theorem turnRunLeft_moved (c : Core) (sid : Nat) (t : Turn) (w : Warm) : SessionMoved c (turnRunLeft c sid t w) :=
  (turnReserved_moved c sid t w).trans (turnStarted_moved _ sid _ t w)

theorem entryOf_turnRunLeft_other (c : Core) (t : Turn) (w : Warm) {sid x : Nat} (h : x ≠ sid) :
    entryOf (turnRunLeft c sid t w) x = entryOf c x := by
  rw [turnRunLeft, entryOf_turnStarted_other _ _ _ _ h, entryOf_turnReserved_other _ _ _ h]

theorem entryOf_turnRunLeft (c : Core) (sid : Nat) (t : Turn) (w : Warm) (h : (entryOf c sid).state ≠ .free) :
    ∃ p q, entryOf (turnRunLeft c sid t w) sid = { entryOf c sid with
      turn := (entryOf c sid).turn + 1, step := 0, startWaiting := (entryOf c sid).state == .waiting, state := .queued, markValid := true
      markPosition := (entryOf c sid).nextPosition, privateFrames := p, reservedFrames := q } := by
  obtain ⟨p, q, reserved⟩ := entryOf_turnReserved c sid t w h
  obtain ⟨p', q', started⟩ := entryOf_turnStarted (turnReserved c sid t w) sid (entryOf c sid) t w
  exact ⟨p', q', by rw [turnRunLeft, started, reserved]⟩

section
variable {d : Desc} {w : Warm} {r : Run0}

/-- R295, R386: the checks of TURN_RUN pass, its reservation is taken, and the turn starts. -/
theorem run_turnRunBody_plain (hr : mapHas r.core.sess.reread r.sid = false) (h2 : r.core.twin.state ≠ 2) (h3 : r.core.twin.state ≠ 3)
    (fields : turnFieldsBad d = false) (stream : ((mapGet r.core.rings.subs d.ring).bind (·.stream)).isSome = true)
    (noStops : d.field 4 63 0 0 = 0) (noOp : d.field 7 13 12 0 = 0) (hw : mapGet r.core.sess.warm d.session = some w)
    (token : w.ctl.pendingTok.isSome = true)
    (state : (entryOf r.core d.session).state = .idle ∨ (entryOf r.core d.session).state = .waiting)
    (turns : (entryOf r.core d.session).turn ≠ 0xFFFFFFFF) (unbound : (entryOf r.core d.session).grammarBound = false)
    (budget : blocked r.core (entryOf r.core d.session).account = false) (noGlean : regField r.core 0x500140 0 0 = 0)
    (sound : markFails r.core (entryOf r.core d.session) (pageP (sessImg r.core d.session)) w = none)
    (room : turnShort (sessImg r.core d.session) (entryOf r.core d.session).homeDie (entryOf r.core d.session).nextPosition
      (d.field 3 23 0 0) ⟨r.core, w⟩ = false) :
    ∃ t, turnRunBody d r = .ok (.running, { r with
      core := turnRunLeft r.core d.session t w }) := by
  let t := { turnOf d with decay := regField r.core 0x500140 12 8 }
  have ring : streamOf r.core t ≠ none := Option.isSome_iff_ne_none.mp (by simpa [streamOf, t, turnOf] using stream)
  have pending : w.ctl.pendingTok.isNone = false := by simpa using token
  have notLost : ((entryOf r.core d.session).state == .lost) = false := by rcases state with h | h <;> simp [h]
  have idle : ((entryOf r.core d.session).state != .idle && (entryOf r.core d.session).state != .waiting) = false := by
    rcases state with h | h <;> simp [h]
  have noGrammar : grammarMissing r.core (entryOf r.core d.session) w.ctl = false := by simp [grammarMissing, unbound]
  obtain ⟨gone, reserve⟩ := run_reserveTurn (t := t) h3 hw noGlean room
  have quiet : mirrored (turnRunLeft r.core d.session t w) d.session = false := by
    have twin := (turnRunLeft_moved r.core d.session t w).twin
    exact mirrored_alone (by rw [twin]; exact h2) (by rw [twin]; exact h3) _
  refine ⟨t, ?_⟩
  simp only [t] at ring reserve
  simp [turnRunBody, run_leaseFirst hr, fields, ring, checkIdle, notLost, idle, hw, pending, turns, budget, noStops, checkGrammarOp, noOp,
    noGrammar, sound, reserve, applyGrammarOp]
  simp [turnRunLeft, turnStarted, t] at quiet ⊢
  simp [run_mirrorM, quiet]
end

end Sys2Proof.Machine
namespace Sys2Proof.Machine

theorem markFails_congr {c d : Core} (h : d.mem = c.mem) (e : Entry) (P : Nat) (w : Warm) : markFails d e P w = markFails c e P w := by
  simp only [markFails, frameCount, frameBad, h]
  rfl

/-- Settles O21: a TURN_RUN that passes its checks starts its turn (`run_turnRunBody_plain`); a TURN_CANCEL leaves a cancel pending (`turnCancel_turn`) or is refused (`turnCancel_refused`). -/
theorem turnsRunAndCancelled : Obligations.TurnsRunAndCancelled := by
  unfold Obligations.TurnsRunAndCancelled
  constructor
  · intro d env r w s free ⟨hrun, hre, h2, h3⟩ own hring stream fields noStops noOp hw token e state turns unbound budget noGlean sound room
    have open' : (entryOf s.core d.session).state ≠ .free := by rcases state with h | h <;> simp [e] at h <;> simp [h]
    have entry := entryOf_beginSession hrun d open'
    have img := sessImg_beginSession hrun d open'
    have twin := beginSession_twin hrun d
    obtain ⟨t, body⟩ := run_turnRunBody_plain (d := d) (w := w) (r := begunRun s d env)
      (by rw [begunRun_core, beginSession_reread hrun]; exact hre) (by rw [begunRun_core, twin]; exact h2)
      (by rw [begunRun_core, twin]; exact h3) fields (by rw [begunRun_core, beginSession_rings hrun, hring]; exact stream) noStops noOp
      (by rw [begunRun_core, beginSession_warm hrun]; exact hw) token (by rw [begunRun_core, entry]; exact state)
      (by rw [begunRun_core, entry]; exact Nat.ne_of_lt turns) (by rw [begunRun_core, entry]; exact unbound)
      (by rw [begunRun_core, entry, blocked, beginSession_acctCfg hrun]; exact budget)
      (by rw [begunRun_core, regField, regGet, beginSession_regs hrun]; exact noGlean)
      (by rw [begunRun_core, entry, img, markFails_congr (beginSession_mem hrun d)]; exact sound)
      (by rw [begunRun_core, entry, img, turnShort_congr (c := s.core) (by simp [paired, h3]) (by simp [paired, twin, h3])
            (by rw [beginSession_mem hrun])]
          exact room)
    have done := acceptSession_running free hrun own body rfl
    have moved := turnRunLeft_moved (beginSession s.core d) d.session t w
    have others := fun x hx => entryOf_turnRunLeft_other (beginSession s.core d) t w (sid := d.session) (x := x) hx
    obtain ⟨p, q, left⟩ := entryOf_turnRunLeft (beginSession s.core d) d.session t w (by rw [entry]; exact open')
    rw [entry] at left
    simp only [begunRun_core] at done
    generalize turnRunLeft (beginSession s.core d) d.session t w = c at done moved others left
    refine ⟨_, congrArg Host.Outcome.next done, ?_⟩
    simp only [left, e, true_and]
    exact ⟨by rw [moved.inProg, beginSession_inProg hrun], by rw [moved.rings, beginSession_rings hrun],
      fun x hx => (others x hx).trans (entryOf_beginSession_other hrun d hx)⟩
  · intro d s hs hp e
    have begins : exec (.turnCancel d) s = .next { s with core := turnCancel s.core d } := by
      show onCore s _ = _
      simp [onCore, hs]
    obtain ⟨lost, wrong, other⟩ := turnCancel_refused hp
    rw [begins]
    refine ⟨fun state own => ?_, fun h own => by rw [lost h own], fun hq hr hl own => by rw [wrong hq hr hl own], fun hf own => by rw [other hf own]⟩
    have open' : (entryOf s.core d.session).state ≠ .free := by rcases state with h | h <;> simp [e] at h <;> simp [h]
    obtain ⟨dir, changed, left⟩ := cancelLeft_frame s.core d
    have records := cancelRecords_moved s.core d
    rw [turnCancel_turn hp own state]
    have told := complete_rings_congr (c := cancelLeft s.core d)
      (d := queueFreed (discardTurn s.core d.session (entryOf s.core d.session).turn)) (by rw [left]; rfl) d .ok 0 0
    refine ⟨_, rfl, ?_, told, ?_, ?_, fun x hx => ?_⟩
    · rw [entryOf_complete, entryOf_cancelLeft _ _ open']
    · rw [complete_mem, left]
      exact records.mem
    · rw [complete_sched, left]
    · rw [entryOf_complete, entryOf_cancelLeft_other _ _ hx]

end Sys2Proof.Machine
namespace Sys2Proof.Machine

/-! ## BATCH_FORM on a directory that lists a session twice (R301) -/

/-- A turn of session 9, told on submission ring 2. -/
def listedTurn : Turn :=
  { desc := ⟨2, 0, []⟩, maxTokens := 1, outBuf := 64, outLen := 1, stops := [], temperature := 0, topP := 0, repPenalty := 0, topK := 1 }

/-- A serving device on which account 7 has the one session 9 QUEUED on die 0, with budget, a loaded model and a stream ring; the
directory lists session 9 a second time, RUNNING under a slot that holds no model. -/
def listedTwice : Core :=
  { setupDone := true
    power := { on := true, ready := true }
    link := { up := true }
    rings := { subs := [(2, { base := 0, log2 := 4, gen := 0, cq := 1, stream := some 5, prefetch := 0 })]
               streams := [(5, { base := 0, log2 := 4, irqEn := false, vector := 0, count := 1, time := 0 })] }
    acctCfg := [(7, { cir := 1, weight := 1, cbs := 1 })]
    obj := { models := [(0, { state := 2, image := [] })] }
    sched := ⟨{ accts := [(7, { c := 1, decodeQ := [9] })] }, {}⟩
    sess := { dir := [(9, { state := .queued, account := 7 }), (9, { state := .running, account := 7, modelSlot := 5 })]
              warm := [(9, { ctlLeaf := { frame := 1 }, tables := [], turn := some listedTurn })] } }

/-- Every premise of the statement holds there. -/
theorem listedTwice_premises : serving listedTwice = true ∧ listedTwice.ckpt.running = none ∧ (listedTwice.levels.get false).lost = false ∧
    listedTwice.twin.gaveUp = false ∧ listedTwice.twin.ringHold = false ∧ (listedTwice.sched.get false).rows = [] ∧
    (listedTwice.sched.get false).batches = [] ∧ (listedTwice.sched.get false).waitMirror = [] ∧
    (listedTwice.sched.get false).accts = [(7, { c := 1, decodeQ := [9] })] ∧ classOf listedTwice false 7 = some 0 ∧
    decodable listedTwice 9 = true ∧ (entryOf listedTwice 9).account = 7 ∧ (entryOf listedTwice 9).homeDie = false ∧
    (loadedModel listedTwice (entryOf listedTwice 9).modelSlot).isSome = true ∧ stalls listedTwice 9 = false ∧
    0 < regField listedTwice 0x500100 12 0 ∧ 0 < regField listedTwice 0x500100 46 32 := by decide

/-- R103: the requeueing of the second listing overwrites the first, so that the session's slot holds no model and no row is placed. -/
theorem listedTwice_unplaced : ((batchForm listedTwice false).sched.get false).rows = [] := by decide

/-- Refutes O22: the statement ranges over states whose directory lists a session twice (`mapWf` fails), and there the requeueing of R301
can put the second listing in the place of the first. -/
theorem not_batchFormPlacesSession : ¬ Obligations.BatchFormPlacesSession := by
  unfold Obligations.BatchFormPlacesSession
  intro h
  obtain ⟨serves, idle, level, up, hold, noRows, noBatch, noWait, accts, cls, ready, acct, die, model, flows, rows, entries⟩ := listedTwice_premises
  obtain ⟨t, row, ran, -, placed, -⟩ := h false 9 7 0 { c := 1, decodeQ := [9] } ⟨[], {}, listedTwice⟩ serves idle level up hold noRows noBatch
    noWait accts rfl rfl cls (by decide) ready acct die model flows rows entries
  cases ran
  exact absurd (listedTwice_unplaced.symm.trans placed) (by simp)

end Sys2Proof.Machine
namespace Sys2Proof.Machine

/-! ## Folds that add up or change nothing -/

/-- A sum that is zero has no term that is not. -/
theorem foldl_add_eq_zero {α : Type} (f : α → Nat) (l : List α) (n : Nat) (h : l.foldl (fun n x => n + f x) n = 0) :
    n = 0 ∧ ∀ x ∈ l, f x = 0 := by
  induction l generalizing n with
  | nil => exact ⟨h, by simp⟩
  | cons x l ih =>
    obtain ⟨hn, hl⟩ := ih (n + f x) h
    refine ⟨by omega, fun y hy => ?_⟩
    rcases List.mem_cons.mp hy with rfl | hy
    · omega
    · exact hl y hy

/-- A fold whose every step leaves the state as it is leaves it. -/
theorem foldl_still {α β : Type} {f : β → α → β} {b : β} (l : List α) (h : ∀ x ∈ l, f b x = b) : l.foldl f b = b := by
  induction l with
  | nil => rfl
  | cons x l ih =>
    rw [List.foldl_cons, h x List.mem_cons_self]
    exact ih fun y hy => h y (List.mem_cons_of_mem _ hy)

/-- What a map gives for a key, it lists. -/
theorem mem_of_mapGet {α : Type} {m : Map α} {i : Nat} {a : α} (h : mapGet m i = some a) : (i, a) ∈ m := by
  induction m with
  | nil => cases h
  | cons p m ih =>
    obtain ⟨k, b⟩ := p
    by_cases hk : k = i
    · subst hk
      simp [mapGet] at h
      rw [h]
      exact List.mem_cons_self
    · exact List.mem_cons_of_mem _ (ih (by simpa [mapGet, hk] using h))

/-! ## A pair that holds nothing has nothing to move (R165, R234) -/

theorem placesIn_none {ps : List Nat} {p : Nat} (h : ps.countP (· == p) = 0) : placesIn ps p = [] := by
  simp only [List.countP_eq_zero, beq_iff_eq] at h
  simp only [placesIn, List.filter_eq_nil_iff, beq_iff_eq]
  intro i _ hi
  exact h p (List.mem_of_getElem? hi) rfl

theorem moveTogether_none (c : Core) (p : Nat) (put : Nat → Core → Core) : moveTogether c p 0 put = c := by
  unfold moveTogether
  generalize nearPair c p 0 = q
  cases q with
  | none => rfl
  | some q => exact if_pos (by simp)

section
variable {c : Core} {p : Nat} (h : placedIn c p = 0)
include h

/-- R234: a pair without placed frames has none in indexes, tables and host-managed pages. -/
theorem placedIn_parts :
    (∀ x ∈ c.obj.indexes, (∀ l ∈ x.2.pairs, placesIn l.2 p = []) ∧ ∀ l ∈ x.2.late, placesIn l.pairs p = []) ∧
    (∀ t ∈ c.obj.tables, placesIn t.2.place p = []) ∧
    ∀ q ∈ c.mem.xmap.get (stackDie (p / 512)), (q.2.kind == 1) = true →
      (List.range (sizeFrames q.2.size)).filter (fun i => pairOfNo (pageNow c (stackDie (p / 512)) q.1 i q.2) == p) = [] := by
  have h0 := h
  simp only [placedIn, Nat.add_eq_zero_iff] at h0
  obtain ⟨⟨hx, ht⟩, hp⟩ := h0
  refine ⟨fun x mem => ?_, fun t mem => ?_, fun q mem kind => ?_⟩
  · have parts := (foldl_add_eq_zero (fun x : Nat × Index => x.2.pairs.foldl (fun n l => n + l.2.countP (· == p)) 0 +
      x.2.late.foldl (fun n l => n + l.pairs.countP (· == p)) 0) _ 0 (by simpa only [Nat.add_assoc] using hx)).2 x mem
    obtain ⟨h1, h2⟩ := Nat.add_eq_zero_iff.mp parts
    exact ⟨fun l hl => placesIn_none ((foldl_add_eq_zero _ _ 0 h1).2 l hl), fun l hl => placesIn_none ((foldl_add_eq_zero _ _ 0 h2).2 l hl)⟩
  · exact placesIn_none ((foldl_add_eq_zero _ _ 0 ht).2 t mem)
  · have none := (foldl_add_eq_zero _ _ 0 hp).2 q (List.mem_filter.mpr ⟨mem, kind⟩)
    exact List.filter_eq_nil_iff.mpr (List.countP_eq_zero.mp none)

theorem migrateIndex_still (id : Nat) : migrateIndex p c id = c := by
  cases hx : mapGet c.obj.indexes id with
  | none => simp only [migrateIndex, hx]
  | some x =>
    obtain ⟨pairs, late⟩ := (placedIn_parts h).1 (id, x) (mem_of_mapGet hx)
    simp only [migrateIndex, hx]
    rw [foldl_still x.pairs fun l hl => by simp [pairs l hl]]
    refine foldl_still _ fun k hk => ?_
    cases hl : x.late[k]? with
    | none => simp [placesIn]
    | some l => simp [late l (List.mem_of_getElem? hl)]

theorem migrateTable_still (id : Nat) : migrateTable p c id = c := by
  cases ht : mapGet c.obj.tables id with
  | none => simp only [migrateTable, ht]
  | some t =>
    have none := (placedIn_parts h).2.1 (id, t) (mem_of_mapGet ht)
    simp [migrateTable, ht, none, moveTogether_none]

theorem migratePages_still : migratePages c p = c := by
  refine foldl_still _ fun q hq => ?_
  obtain ⟨mem, kind⟩ := List.mem_filter.mp hq
  rw [(placedIn_parts h).2.2 q mem kind]
  rfl

/-- R234: with no frames of regions either, nothing moves. -/
theorem migrateBulk_still (hb : pairBulk c p = 0) : migrateBulk c p = c := by
  simp only [migrateBulk]
  rw [foldl_still _ fun id _ => migrateIndex_still h id, foldl_still _ fun id _ => migrateTable_still h id, migratePages_still h]
  simp [migrateRest, hb]

theorem migratePair_still (hb : pairBulk c p = 0) (hf : framesIn c p = []) (hs : nth (c.mem.stagePairs.get (stackDie (p / 512))) (p % 2048) 0 = 0) :
    migratePair c p = c := by
  simp only [migratePair, hf, List.foldl_nil, migrateBulk_still h hb]
  simp [migrateStage, hs]
end

end Sys2Proof.Machine
namespace Sys2Proof.Machine

/-! ## Pairs (R210, R211, R234, R235) -/

@[simp] theorem stackOf_modPair (c : Core) (p : Nat) (f : Pair → Pair) : stackOf (modPair c p f) (p / 512) =
    { stackOf c (p / 512) with pairs := mapSet (stackOf c (p / 512)).pairs (p % 512) (f (pairOf c p)) } := by
  simp [stackOf, modPair]

@[simp] theorem pairOf_modPair (c : Core) (p : Nat) (f : Pair → Pair) : pairOf (modPair c p f) p = f (pairOf c p) := by
  simp [pairOf]

theorem stackOf_congr {c d : Core} (h : c.stackTab = d.stackTab) (k : Nat) : stackOf c k = stackOf d k := by rw [stackOf, stackOf, h]

theorem pairOf_congr {c d : Core} (h : c.stackTab = d.stackTab) (p : Nat) : pairOf c p = pairOf d p := by
  rw [pairOf, pairOf, stackOf_congr h]

@[simp] theorem pairOf_reserveFree (c : Core) (die : Bool) (n p : Nat) : pairOf (reserveFree c die n) p = pairOf c p := rfl
@[simp] theorem pairOf_returnFree (c : Core) (die : Bool) (n p : Nat) : pairOf (returnFree c die n) p = pairOf c p := rfl

/-- R234: a pair whose errors reach the threshold, or whose unit is fenced, drains; with no frames of any kind it has none to move. -/
theorem pairDrain_empty {c : Core} {p : Nat} (ha : alive c = true) (h0 : (pairOf c p).state = 0)
    (why : (pairOf c p).unitFenced = true ∨ pairThreshold c ≤ (pairOf c p).errors) (hf : framesIn c p = []) (hb : pairBulk c p = 0)
    (hp : placedIn c p = 0) (hs : nth (c.mem.stagePairs.get (stackDie (p / 512))) (p % 2048) 0 = 0) :
    pairDrain c p = reserveFree (modPair c p fun x => { x with state := 1, errors := 0 }) (stackDie (p / 512)) (pairRoom c p) := by
  have drains : ((pairOf c p).state = 0 && ((pairOf c p).unitFenced || decide (pairThreshold c ≤ (pairOf c p).errors))) = true := by
    rcases why with h | h <;> simp [h0, h]
  have started : startDrain c p = reserveFree (modPair c p fun x => { x with state := 1, errors := 0 }) (stackDie (p / 512)) (pairRoom c p) := by
    simp [startDrain, h0]
  have draining : (pairOf (startDrain c p) p).state = 1 := by
    rw [started, pairOf_reserveFree, pairOf_modPair]
  have still : migratePair (startDrain c p) p = startDrain c p := by
    rw [started]
    exact migratePair_still hp hb hf hs
  simp only [pairDrain, ha, drains, Bool.not_true, Bool.false_eq_true, if_false, if_true, draining, still]
  exact started

/-! ## Migration of a frame (R165 to R167) -/

/-- R165: what a frame that moves leaves. -/
theorem migrateFrame_moves {c : Core} {f : Nat} {x : Frame} (hx : mapGet c.mem.frames f = some x)
    (hw : (c.mem.forward.get x.die).length < forwardMax) (hr : 0 < freeOf c x.die) :
    ∃ pairFree, migrateFrame c f = { c with mem := { c.mem with
      pairFree := pairFree, free := c.mem.free.mod x.die (· - 1), frames := mapSet c.mem.frames f { x with pair := migrateTo c x f, migrating := false }
      forward := c.mem.forward.mod x.die fun t => mapSet t c.mem.nextFwd { frame := f, pair := x.pair, count := x.count, entries := frameHolders c f }
      nextFwd := c.mem.nextFwd + 1 } } := by
  simp only [migrateFrame, hx, if_neg (Nat.not_le.mpr hw), if_neg (Nat.pos_iff_ne_zero.mp hr)]
  exact ⟨_, rfl⟩

/-- R167: a copy that does not verify leaves the frame where it is, known bad. -/
def frameFailed (c : Core) (f : Nat) (x : Frame) : Core :=
  { c with mem := { c.mem with frames := mapSet c.mem.frames f { x with bad := if x.bad.isEmpty then [0] else x.bad, migrating := false } } }

theorem migrateOrLose_fails {c : Core} {f : Nat} {x : Frame} (hx : mapGet c.mem.frames f = some x) :
    migrateOrLose c f false = loseFrame (logErr (frameFailed c f x) { kind := 3, die := x.die, wh := pairWhere x.pair, addr := badPa (frameFailed c f x) f }) f := by
  simp only [migrateOrLose, hx, Bool.false_and, Bool.false_eq_true, if_false]
  rfl

/-- R344: a frame that is none of the pages of prefixes has no copy on the other die. -/
theorem otherPage_none {c : Core} {f : Nat} (h : ∀ q ∈ c.obj.prefixes, ¬ f ∈ (q.2.pages.d0 ++ q.2.pages.d1).flatten) : otherPage c f = none := by
  simp only [otherPage, List.findSome?_eq_none_iff]
  intro q hq
  have no := h q hq
  have none : ((q.2.pages.d0.flatMap id).zip (q.2.pages.d1.flatMap id)).find? (fun x => x.1 == f || x.2 == f) = none := by
    rw [List.find?_eq_none]
    rintro ⟨a, b⟩ mem hab
    obtain ⟨ha, hb⟩ := List.of_mem_zip mem
    rw [List.flatMap_id] at ha hb
    simp only [Bool.or_eq_true, beq_iff_eq] at hab
    rw [List.flatten_append, List.mem_append] at no
    rcases hab with rfl | rfl
    · exact no (.inl ha)
    · exact no (.inr hb)
  simp only [none, Option.bind_none]

/-! ## The sweep (R166) -/

theorem PerDie.set_set {α : Type} (p : PerDie α) (d : Bool) (a b : α) : (p.set d a).set d b = p.set d b := by cases d <;> rfl

/-- R166: the walk of the page that a die's only forwarded frame belongs to. -/
theorem walkPage_one {c : Core} {die : Bool} {k page i : Nat} {e : Fwd} (hf : c.mem.forward.get die = [(k, e)]) (he : e.loft = false)
    (hp : e.page = some (page, i)) : ∃ xmap, walkPage c die page =
      modRoom { c with mem := { c.mem with xmap := xmap, forward := c.mem.forward.set die [] } } e.pair (· + 1) := by
  refine ⟨c.mem.xmap.mod die fun m => mapMod m page fun x => x.setFrame i e.now, ?_⟩
  simp [walkPage, hf, hp, retireFwd, he, PerDie.mod, mapDel]

/-- R166: the sweep of a forward table with one entry empties it, and the entry's old frame leaves service. -/
theorem forwardSweep_one {c : Core} {die : Bool} {k : Nat} {e : Fwd} (ha : alive c = true) (hl : (c.levels.get die).lost = false)
    (hf : c.mem.forward.get die = [(k, e)]) (he : e.loft = false) : ∃ xmap, forwardSweep c die =
      modRoom { c with mem := { c.mem with xmap := xmap, forward := c.mem.forward.set die [] } } e.pair (· + 1) := by
  have served : (!alive c || (c.levels.get die).lost) = false := by simp [ha, hl]
  simp only [forwardSweep, served, hf, Bool.false_eq_true, if_false]
  cases hp : e.page with
  | none =>
    refine ⟨c.mem.xmap, ?_⟩
    simp [hp, hf, retireFwd, he]
  | some q =>
    obtain ⟨xmap, walked⟩ := walkPage_one (page := q.1) (i := q.2) hf he hp
    refine ⟨xmap, ?_⟩
    have once : [q.1].eraseDups = [q.1] := by simp [List.eraseDups_cons]
    simp only [hp, List.filterMap_cons, List.filterMap_nil, Option.map_some, once, List.foldl_cons, List.foldl_nil, walked]
    simp [modRoom, PerDie.set_set]

end Sys2Proof.Machine
namespace Sys2Proof.Machine

/-! ## What changes the step schedulers alone (R444, R450, R451) -/

/-- `d` is `c` but for the step schedulers. -/
def SchedMoved (c d : Core) : Prop := d = { c with sched := d.sched }

namespace SchedMoved

theorem refl (c : Core) : SchedMoved c c := rfl

theorem trans {a b c : Core} (h : SchedMoved a b) (k : SchedMoved b c) : SchedMoved a c := by
  unfold SchedMoved at *
  rw [k, h]

theorem foldl {α : Type} {f : Core → α → Core} (h : ∀ c x, SchedMoved c (f c x)) (l : List α) (c : Core) : SchedMoved c (l.foldl f c) := by
  induction l generalizing c with
  | nil => exact refl c
  | cons x l ih => exact (h c x).trans (ih _)

theorem session {c d : Core} (h : SchedMoved c d) : SessionMoved c d := by
  unfold SessionMoved
  rw [h]

section
variable {c d : Core} (h : SchedMoved c d)
include h

theorem sess : d.sess = c.sess := by rw [h]
theorem rings : d.rings = c.rings := by rw [h]
theorem mem : d.mem = c.mem := by rw [h]
theorem stackTab : d.stackTab = c.stackTab := by rw [h]
theorem ckpt : d.ckpt = c.ckpt := by rw [h]
theorem twin : d.twin = c.twin := by rw [h]
theorem entryOf (sid : Nat) : entryOf d sid = entryOf c sid := entryOf_congr (by rw [h.sess]) sid
end

end SchedMoved

/-- The rows of every step stay. -/
def RowsKept (c d : Core) : Prop := ∀ die, (d.sched.get die).rows = (c.sched.get die).rows

theorem RowsKept.refl (c : Core) : RowsKept c c := fun _ => rfl

theorem RowsKept.trans {a b c : Core} (h : RowsKept a b) (k : RowsKept b c) : RowsKept a c := fun die => (k die).trans (h die)

theorem RowsKept.foldl {α : Type} {f : Core → α → Core} (h : ∀ c x, RowsKept c (f c x)) (l : List α) (c : Core) : RowsKept c (l.foldl f c) := by
  induction l generalizing c with
  | nil => exact refl c
  | cons x l ih => exact (h c x).trans (ih _)

/-- A change of one die's scheduler that keeps its rows keeps all rows. -/
theorem RowsKept.mod (c : Core) (die : Bool) (f : Sched → Sched) (h : (f (c.sched.get die)).rows = (c.sched.get die).rows) :
    RowsKept c { c with sched := c.sched.mod die f } := by
  intro k
  rcases Bool.eq_or_eq_not k die with rfl | rfl
  · simp [h]
  · simp

theorem modAcct_sched (c : Core) (die : Bool) (a : Nat) (f : Acct → Acct) : SchedMoved c (modAcct c die a f) := rfl

theorem modAcct_rows (c : Core) (die : Bool) (a : Nat) (f : Acct → Acct) : RowsKept c (modAcct c die a f) := RowsKept.mod c die _ rfl

theorem waking_schedMoved (c : Core) (die : Bool) (f : Core → Core) (h : SchedMoved c (f c)) : SchedMoved c (waking c die f) := by
  rw [waking_sched]
  exact h.trans rfl

/-- R451: waking an account keeps the rows. -/
theorem waking_rows (c : Core) (die : Bool) (f : Core → Core) : RowsKept (f c) (waking c die f) := by
  intro k
  rcases Bool.eq_or_eq_not k die with rfl | rfl <;> simp [waking]

theorem wakingBoth_rows (c : Core) (f : Core → Core) : RowsKept (f c) (wakingBoth c f) := (waking_rows c false f).trans (waking_rows c true _)

theorem chargeDrop_sched (c : Core) (die : Bool) (a b n : Nat) : SchedMoved c (chargeDrop c die a b n) := by
  refine waking_schedMoved c die _ ?_
  split
  · exact modAcct_sched _ _ _ _
  · exact modAcct_sched _ _ _ _
  · exact .refl c

theorem chargeDrop_rows (c : Core) (die : Bool) (a b n : Nat) : RowsKept c (chargeDrop c die a b n) := by
  refine .trans ?_ (waking_rows c die _)
  split
  · exact modAcct_rows _ _ _ _
  · exact modAcct_rows _ _ _ _
  · exact .refl c

theorem unplan_sched (c : Core) (die : Bool) (sid : Nat) : SchedMoved c (unplan c die sid) := by
  simp only [unplan]
  split
  · exact .refl c
  · exact .trans (b := { c with sched := c.sched.mod die _ }) rfl (.foldl (fun c r => chargeDrop_sched c die _ _ _) _ _)

theorem unplan_rows (c : Core) (die : Bool) (sid : Nat) : RowsKept c (unplan c die sid) := by
  simp only [unplan]
  split
  · exact .refl c
  · exact (RowsKept.mod c die _ rfl).trans (.foldl (fun c r => chargeDrop_rows c die _ _ _) _ _)

theorem leaveDecode_sched (c : Core) (die : Bool) (a sid : Nat) : SchedMoved c (leaveDecode c die a sid) := modAcct_sched c die a _
theorem leaveDecode_rows (c : Core) (die : Bool) (a sid : Nat) : RowsKept c (leaveDecode c die a sid) := modAcct_rows c die a _
theorem leaveLane_sched (c : Core) (die : Bool) (a sid : Nat) : SchedMoved c (leaveLane c die a sid) := modAcct_sched c die a _

theorem dropRows_sched (c : Core) (die : Bool) (sid : Nat) : SchedMoved c (dropRows c die sid) := by
  simp only [dropRows]
  exact ((unplan_sched c die sid).trans (.foldl (fun c r => chargeDrop_sched c die _ _ _) _ _)).trans rfl

theorem leaveQueues_sched (c : Core) (sid : Nat) : SchedMoved c (leaveQueues c sid) := by
  simp only [leaveQueues]
  exact ((dropRows_sched c _ sid).trans (leaveDecode_sched _ _ _ _)).trans (leaveLane_sched _ _ _ _)

theorem rescale_sched (c : Core) : SchedMoved c (rescale c) := by
  rw [rescale, wakingBoth_sched]
  rfl

/-! ## What is told of a descriptor that ends (R129, R297, R501) -/

/-- `d` is `c` but for its rings, registers and twin, and the descriptors in progress. -/
def ToldMoved (c d : Core) : Prop :=
  d = { c with rings := d.rings, twin := d.twin, regs := d.regs, sess := { c.sess with inProg := d.sess.inProg, seqProg := d.sess.seqProg } }

namespace ToldMoved

theorem refl (c : Core) : ToldMoved c c := rfl

theorem trans {a b c : Core} (h : ToldMoved a b) (k : ToldMoved b c) : ToldMoved a c := by
  unfold ToldMoved at *
  rw [k, h]

section
variable {c d : Core} (h : ToldMoved c d)
include h

theorem dir : d.sess.dir = c.sess.dir := by rw [h]
theorem warm : d.sess.warm = c.sess.warm := by rw [h]
theorem mem : d.mem = c.mem := by rw [h]
theorem sched : d.sched = c.sched := by rw [h]
theorem stackTab : d.stackTab = c.stackTab := by rw [h]
theorem entryOf (sid : Nat) : entryOf d sid = entryOf c sid := entryOf_congr h.dir sid
end

end ToldMoved

theorem complete_told (c : Core) (d : Desc) (st : Status) (a b : Nat) : ToldMoved c (complete c d st a b) := by
  unfold ToldMoved
  rw [complete_frame]

theorem issueEvent_told (c : Core) (t : Nat) (d : Bool) (s a x y : Nat) : ToldMoved c (issueEvent c t d s a x y) := by
  unfold ToldMoved
  rw [issueEvent_frame]

theorem queueRec_told (c : Core) (r : Rec) : ToldMoved c (queueRec c r) := by
  simp only [queueRec]
  split
  · split
    · rfl
    · exact .refl c
  · exact .refl c

theorem giveRec_told (c : Core) (r : Rec) : ToldMoved c (giveRec c none r) := by
  simp only [giveRec]
  split
  · exact queueRec_told c r
  · rfl

theorem mirror_told (c : Core) (sid : Nat) (b : MBody) : ToldMoved c (mirror c sid b) := by
  simp only [mirror]
  split
  · rfl
  · exact .refl c

theorem mirrorThen_told (c : Core) (sid : Nat) (b : MBody) (fin : Option (Desc × Status × Nat × Nat)) (again : Bool) (tell : Core → Core)
    (h : ∀ c, ToldMoved c (tell c)) : ToldMoved c (mirrorThen c sid b fin again tell) := by
  simp only [mirrorThen]
  split
  · exact (mirror_told c sid b).trans (h _)
  · rfl

theorem replayCompletion_told (c : Core) (sid : Nat) (f : Fin0) : ToldMoved c (replayCompletion c sid f) := by
  simp only [replayCompletion]
  split
  · rfl
  · exact giveRec_told c _

theorem ringHold_told (c : Core) : ToldMoved c (ringHold c) := by
  simp only [ringHold]
  split
  · exact .refl c
  · exact .trans (b := { c with twin := { c.twin with ringHold := true } }) rfl (issueEvent_told _ _ _ _ _ _ _)

theorem tellTurn_told (c : Core) (sid : Nat) (d : Desc) (again : Bool) (st : Status) (a b : Nat) : ToldMoved c (tellTurn c sid d again st a b) := by
  simp only [tellTurn]
  split
  · exact ((replayCompletion_told c sid _).trans (b := replayCompletion c sid _) (c := { replayCompletion c sid _ with sess := _ }) rfl).trans (ringHold_told _)
  · exact complete_told c d st a b

theorem completeTurn_told (c : Core) (sid : Nat) (t : Turn) (st : Status) (n reason : Nat) (cancelled : Bool) :
    ToldMoved c (completeTurn c sid t st n reason cancelled) := mirrorThen_told _ _ _ _ _ _ fun c => tellTurn_told c sid _ _ _ _ _

theorem completeLost_told (c : Core) (sid : Nat) (again : Bool) (st : Status) (n be : Nat) : ToldMoved c (completeLost c sid again st n be) := by
  simp only [completeLost]
  split
  · exact .refl c
  · split
    · exact tellTurn_told c sid _ _ _ _ _
    · exact complete_told c _ _ _ _

end Sys2Proof.Machine
namespace Sys2Proof.Machine

/-! ## A session that is LOST by event (R25, R26) -/

theorem haspSession_stackTab (c : Core) (sid : Nat) : (haspSession c sid).stackTab = c.stackTab := by rw [haspSession_frame]

/-- R25, R26: the session's entry is LOST, it has no warm contents left, and no stack changes. -/
theorem loseSession_leaves (c : Core) (sid cause : Nat) (st : Status) (op : Nat) (keep : Bool) :
    (entryOf (loseSession c sid cause st op keep) sid).state = .lost ∧
    mapGet (loseSession c sid cause st op keep).sess.warm sid = none ∧
    (loseSession c sid cause st op keep).stackTab = c.stackTab := by
  simp only [loseSession]
  generalize hc1 : sessionEvent (logErr (haspSession c sid) _) 2 sid _ _ = c1
  have tab1 : c1.stackTab = c.stackTab := by
    rw [← hc1, sessionEvent, issueEvent_stacks, logErr_stacks, haspSession_stackTab]
  obtain ⟨c2, hc2, queues⟩ : ∃ c2, (if isWarm (entryOf c sid).state = true then leaveQueues c1 sid else c1) = c2 ∧ SchedMoved c1 c2 := by
    refine ⟨_, rfl, ?_⟩
    split
    · exact leaveQueues_sched c1 sid
    · exact .refl c1
  obtain ⟨c3, moved, left⟩ := leaveWarm_moved c2 sid
  rw [hc2, left]
  generalize hc4 : ({ c3 with sess := { c2.sess with warm := mapDel c2.sess.warm sid } } : Core) = c4
  have gone : mapGet c4.sess.warm sid = none := by
    rw [← hc4]
    exact mapGet_del_same _ _
  have tab4 : c4.stackTab = c.stackTab := by
    rw [← hc4]
    exact (moved.stackTab.trans queues.stackTab).trans tab1
  generalize ((Option.map (fun x => x.place) (mapGet c4.mem.index sid) == some 2) && !keep) = b
  generalize hc5 : (if b = true then clearIndex (freeStored c4 sid) sid else freeStored c4 sid) = c5
  have stored : c5.sess = c4.sess ∧ c5.stackTab = c4.stackTab := by
    rw [← hc5]
    split
    · rw [clearIndex, putIndex_sess, putIndex_stackTab, freeStored_frame]
      exact ⟨rfl, rfl⟩
    · rw [freeStored_frame]
      exact ⟨rfl, rfl⟩
  have told := mirrorThen_told c5 sid (.closed cause) none false id fun c => .refl c
  refine ⟨?_, ?_, ?_⟩
  · rw [entryOf_set_same _ _ _ (by simp [lostEntry])]
    simp [lostEntry]
  · rw [setEntry_warm, told.warm, stored.1, gone]
  · rw [setEntry_stackTab, told.stackTab, stored.2, tab4]

@[simp] theorem entryOf_dropWaiting (c : Core) (sid x : Nat) : entryOf (dropWaiting c sid) x = entryOf c x := rfl
@[simp] theorem dropWaiting_warm (c : Core) (sid : Nat) : (dropWaiting c sid).sess.warm = c.sess.warm := rfl
@[simp] theorem dropWaiting_stackTab (c : Core) (sid : Nat) : (dropWaiting c sid).stackTab = c.stackTab := rfl

theorem loseByEvent_leaves (c : Core) (sid cause : Nat) : (entryOf (loseByEvent c sid cause) sid).state = .lost ∧
    mapGet (loseByEvent c sid cause).sess.warm sid = none ∧ (loseByEvent c sid cause).stackTab = c.stackTab := by
  simp only [loseByEvent]
  generalize (if cause = 3 then Status.leaseLost else Status.lost) = st
  generalize (Option.map (fun x => x.opcode) (mapGet c.sess.inProg sid)).getD 0 = op
  obtain ⟨lost, gone, tab⟩ := loseSession_leaves c sid cause st op (cause == 2)
  have told := completeLost_told (dropWaiting (loseSession c sid cause st op (cause == 2)) sid) sid (turnReplayed c sid) st (entryOf c sid).step
    ((((mapGet c.sess.warm sid).bind (·.turn)).bind (·.lastRecord)).getD 0)
  rw [told.entryOf, told.warm, told.stackTab, entryOf_dropWaiting, dropWaiting_warm, dropWaiting_stackTab]
  exact ⟨lost, gone, tab⟩

end Sys2Proof.Machine
namespace Sys2Proof.Machine

/-! ## A fenced stack stays fenced (R58) -/

/-- Every stack has the state it had. -/
def StacksStay (c d : Core) : Prop := ∀ k, (stackOf d k).state = (stackOf c k).state

namespace StacksStay

theorem refl (c : Core) : StacksStay c c := fun _ => rfl

theorem trans {a b c : Core} (h : StacksStay a b) (k : StacksStay b c) : StacksStay a c := fun i => (k i).trans (h i)

theorem of_stackTab {c d : Core} (h : d.stackTab = c.stackTab) : StacksStay c d := fun k => by rw [stackOf_congr h]

theorem foldl {α : Type} {f : Core → α → Core} (h : ∀ c x, StacksStay c (f c x)) (l : List α) (c : Core) : StacksStay c (l.foldl f c) := by
  induction l generalizing c with
  | nil => exact refl c
  | cons x l ih => exact (h c x).trans (ih _)

/-- A change of one stack that keeps its state. -/
theorem mapMod (c : Core) (k : Nat) (f : Stack → Stack) (h : ∀ s, (f s).state = s.state) :
    StacksStay c { c with stackTab := mapMod c.stackTab k f } := by
  intro i
  by_cases hi : i = k
  · subst hi
    simp only [stackOf, mapGet_mod_same]
    cases mapGet c.stackTab i with
    | none => rfl
    | some s => exact h s
  · simp only [stackOf, mapGet_mod_other _ _ _ _ hi]

end StacksStay

theorem modPair_stays (c : Core) (p : Nat) (f : Pair → Pair) : StacksStay c (modPair c p f) := by
  intro i
  by_cases hi : i = p / 512
  · subst hi
    rw [stackOf_modPair]
  · simp only [stackOf, modPair, mapGet_set_other _ _ _ _ hi]

theorem dropStaged_stays (c : Core) (p : Nat) : StacksStay c (dropStaged c p) := by
  simp only [dropStaged]
  split
  · exact .refl c
  · exact .trans (b := giveStaging c (stackDie (p / 512)) _) (.of_stackTab rfl) (modPair_stays _ _ _)

theorem freeIssued_stays (c : Core) (p : Nat) (xs : List BankCmd) : StacksStay c (freeIssued c p xs) := by
  simp only [freeIssued]
  refine .trans ?_ (dropStaged_stays _ p)
  refine .trans (b := giveStaging c (stackDie (p / 512)) _) (.of_stackTab rfl) (.mapMod _ _ _ ?_)
  intro s
  rfl

theorem failOwner_stays (st : Status) (c : Core) (o : Owner) : StacksStay c (failOwner st c o) := by
  refine .of_stackTab ?_
  cases o <;> rfl

theorem dropCommands_stays (c : Core) (k : Nat) : StacksStay c (dropCommands c k) := by
  simp only [dropCommands]
  refine .trans (.trans (.mapMod c k _ ?_) (.foldl (fun c p => freeIssued_stays c _ _) _ _)) (.foldl (failOwner_stays _) _ _)
  intro s
  rfl

theorem loseByEvent_stays (c : Core) (sid cause : Nat) : StacksStay c (loseByEvent c sid cause) :=
  .of_stackTab (loseByEvent_leaves c sid cause).2.2

theorem rebuildFrame_stays (c : Core) (f : Nat) : StacksStay c (rebuildFrame c f) := by
  simp only [rebuildFrame]
  split
  · exact .refl c
  · refine .of_stackTab ?_
    split <;> rfl

theorem stackSession_stays (k : Nat) (c : Core) (sid : Nat) : StacksStay c (stackSession k c sid) := by
  simp only [stackSession]
  split
  · exact .refl c
  · split
    · exact .refl c
    · split
      · exact (StacksStay.foldl rebuildFrame_stays _ c).trans (.of_stackTab rfl)
      · exact loseByEvent_stays c sid 1

theorem dropBulk_stackTab (c : Core) (k n : Nat) : (dropBulk c k n).stackTab = c.stackTab := by
  simp only [dropBulk]
  generalize stackPairs k = ps
  induction ps generalizing n c with
  | nil => rfl
  | cons p ps ih =>
    rw [List.foldl_cons]
    exact (ih _ _).trans rfl

theorem takeFree_stackTab (c : Core) (die : Bool) (n : Nat) : (takeFree c die n).stackTab = c.stackTab := by
  simp only [takeFree]
  split <;> rfl

theorem askTwin_stackTab (c : Core) (q : TwinReq) : (askTwin c q).stackTab = c.stackTab := rfl

theorem stackModel_stays (k : Nat) (c : Core) (slot : Nat) : StacksStay c (stackModel k c slot) := by
  simp only [stackModel]
  split
  · exact .refl c
  · split
    · exact .refl c
    · refine .of_stackTab ?_
      split
      · rw [askTwin_stackTab, dropBulk_stackTab, takeFree_stackTab]
      · rfl

theorem capacityEvent_stays (c : Core) (die : Bool) (cause f a : Nat) : StacksStay c (capacityEvent c die cause f a) :=
  .of_stackTab (by rw [capacityEvent, (rescale_sched _).stackTab, issueEvent_stacks])

theorem loseObjects_stackTab (c : Core) (k : Nat) : (loseObjects c k).stackTab = c.stackTab := rfl

/-- R58: a stack in service that is fenced is fenced at the end. -/
theorem fenceStack_state (c : Core) (k : Nat) (hk : k < 8) (hs : (stackOf c k).state ≠ 2) : (stackOf (fenceStack c k) k).state = 2 := by
  have go : (decide (8 ≤ k) || decide ((stackOf c k).state = 2)) = false := by simp [hs]; omega
  simp only [fenceStack, go, Bool.false_eq_true, if_false]
  generalize hc : ({ c with stackTab := mapSet c.stackTab k { stackOf c k with state := 2 } } : Core) = c0
  have fenced : (stackOf c0 k).state = 2 := by rw [← hc]; simp [stackOf]
  generalize hr : logErr (dropStage (reserveFree (dropCommands c0 k) (stackDie k) (stackRoom c k)) k) _ = c1
  have stays1 : StacksStay c0 c1 := by
    refine (dropCommands_stays c0 k).trans (.of_stackTab ?_)
    rw [← hr, logErr_stacks]
    rfl
  generalize hl : List.foldl (stackSession k) c1 _ = c2
  have stays2 : StacksStay c1 c2 := by
    rw [← hl]
    exact .foldl (stackSession_stays k) _ c1
  generalize hm : List.foldl (stackModel k) c2 _ = c3
  have stays3 : StacksStay c2 c3 := by
    rw [← hm]
    exact .foldl (stackModel_stays k) _ c2
  rw [capacityEvent_stays, stackOf_congr (loseObjects_stackTab _ k)]
  exact ((stays1.trans stays2).trans stays3 k).trans fenced

end Sys2Proof.Machine
namespace Sys2Proof.Machine

/-! ## Writing one key of a map (canonical or not) -/

section
variable {α : Type} {m : Map α} {i : Nat} {a : α}

/-- The later write of a key counts. -/
theorem mapSet_set (m : Map α) (i : Nat) (a b : α) : mapSet (mapSet m i a) i b = mapSet m i b := by
  induction m with
  | nil => simp [mapSet]
  | cons p m ih =>
    obtain ⟨k, c⟩ := p
    simp only [mapSet]
    split
    · simp [mapSet]
    · split
      next h => simp [mapSet]
      next h1 h2 => simp [mapSet, h1, h2, ih]

/-- An entry that comes to meet a predicate is one more that meets it. -/
theorem length_filter_set (q : Nat × α → Bool) (h : mapGet m i = some a) (b : α) (ha : q (i, a) = false) (hb : q (i, b) = true) :
    ((mapSet m i b).filter q).length = (m.filter q).length + 1 := by
  induction m with
  | nil => cases h
  | cons p m ih =>
    obtain ⟨k, c⟩ := p
    simp only [mapSet]
    split
    · rw [List.filter_cons_of_pos hb, List.length_cons]
    · split
      next hk =>
        subst hk
        obtain rfl : c = a := by simpa [mapGet] using h
        rw [List.filter_cons_of_pos hb, List.filter_cons_of_neg (by simp [ha]), List.length_cons]
      next h1 h2 =>
        have rest := ih (by simpa [mapGet, Ne.symm h2] using h)
        by_cases hq : q (k, c) = true
        · rw [List.filter_cons_of_pos hq, List.filter_cons_of_pos hq, List.length_cons, List.length_cons, rest]
        · rw [List.filter_cons_of_neg hq, List.filter_cons_of_neg hq, rest]

/-- A sum over a map to which an entry that counted nothing comes to count. -/
theorem foldl_add_set (f : Nat × α → Nat) (h : mapGet m i = some a) (b : α) (ha : f (i, a) = 0) (n : Nat) :
    (mapSet m i b).foldl (fun n p => n + f p) n = m.foldl (fun n p => n + f p) n + f (i, b) := by
  have shift : ∀ (l : Map α) (x y : Nat), l.foldl (fun n p => n + f p) (x + y) = l.foldl (fun n p => n + f p) x + y := by
    intro l
    induction l with
    | nil => exact fun _ _ => rfl
    | cons p l ih => exact fun x y => by rw [List.foldl_cons, List.foldl_cons, Nat.add_right_comm, ih]
  induction m generalizing n with
  | nil => cases h
  | cons p m ih =>
    obtain ⟨k, c⟩ := p
    simp only [mapSet]
    split
    · rw [List.foldl_cons, shift]
    · split
      next hk =>
        subst hk
        obtain rfl : c = a := by simpa [mapGet] using h
        rw [List.foldl_cons, List.foldl_cons, ha, shift, Nat.add_zero]
      next h1 h2 => exact ih (by simpa [mapGet, Ne.symm h2] using h) _
end

/-! ## Fencing and repairing a pair (R235, R58) -/

/-- A pair whose state is not 0 is listed. -/
theorem pairOf_listed {c : Core} {p : Nat} (h : (pairOf c p).state ≠ 0) :
    mapGet (stackOf c (p / 512)).pairs (p % 512) = some (pairOf c p) := by
  unfold pairOf at h ⊢
  cases hp : mapGet (stackOf c (p / 512)).pairs (p % 512) with
  | none => simp [hp] at h
  | some x => rfl

/-- R58, R235: the fenced pairs of a stack, as its pairs list them. -/
def fencedAmong (m : Map Pair) : Nat := (m.filter fun p => 2 ≤ p.2.state).length

/-- R235: a draining pair that is fenced, or under repair, is one more. -/
theorem fencedAmong_set {m : Map Pair} {i : Nat} {a b : Pair} (h : mapGet m i = some a) (ha : a.state = 1) (hb : 2 ≤ b.state) :
    fencedAmong (mapSet m i b) = fencedAmong m + 1 := length_filter_set _ h b (by simp [ha]) (by simp [hb])

theorem modPair_congr {c : Core} {p : Nat} {f g : Pair → Pair} (h : f (pairOf c p) = g (pairOf c p)) : modPair c p f = modPair c p g := by
  simp only [modPair, h]

/-- Two changes of a pair are one. -/
theorem modPair_modPair (c : Core) (p : Nat) (f g : Pair → Pair) : modPair (modPair c p f) p g = modPair c p fun x => g (f x) := by
  have same := stackOf_modPair c p f
  have pair := pairOf_modPair c p f
  simp only [modPair] at same pair ⊢
  simp [same, pair, mapSet_set]

/-- R50: while its stack's queue has room and holds nothing back, a command joins the tail of its pair's queue. -/
theorem enqueue_room {c : Core} {p : Nat} (hs : (stackOf c (p / 512)).state ≠ 2) (hd : (stackOf c (p / 512)).delayed = [])
    (room : stackQueued (stackOf c (p / 512)) < queueMax) (x : BankCmd) : enqueue c p x = putCmd c p x := by
  simp [enqueue, hs, hd, room]

/-- R50: commands that find room in their stack's queue join the queue of their pair, one after another. -/
theorem enqueue_all {c : Core} {p : Nat} (f : Pair → Pair) (hs : (stackOf c (p / 512)).state ≠ 2) (hd : (stackOf c (p / 512)).delayed = [])
    (listed : mapGet (stackOf c (p / 512)).pairs (p % 512) = some (pairOf c p)) (hq : (pairOf c p).queue = []) (xs qs : List BankCmd)
    (room : stackQueued (stackOf c (p / 512)) + qs.length + xs.length ≤ queueMax) :
    xs.foldl (fun c x => enqueue c p x) (modPair c p fun a => { f a with queue := qs }) = modPair c p fun a => { f a with queue := qs ++ xs } := by
  induction xs generalizing qs with
  | nil => simp
  | cons x xs ih =>
    simp only [List.length_cons] at room
    have queued : stackQueued (stackOf (modPair c p fun a => { f a with queue := qs }) (p / 512)) = stackQueued (stackOf c (p / 512)) + qs.length := by
      rw [stackOf_modPair]
      exact foldl_add_set (fun q : Nat × Pair => q.2.queue.length) listed _ (by simp [hq]) 0
    have joins : enqueue (modPair c p fun a => { f a with queue := qs }) p x = modPair c p fun a => { f a with queue := qs ++ [x] } := by
      rw [enqueue_room (by rw [stackOf_modPair]; exact hs) (by rw [stackOf_modPair]; exact hd) (by rw [queued]; omega), putCmd, modPair_modPair]
    rw [List.foldl_cons, joins, ih (qs ++ [x]) (by simp; omega), List.append_assoc, List.singleton_append]

/-- R235: the fencing itself: the pair's state, the log and the event. -/
theorem fencePair_start (c : Core) (p rows : Nat) : ∃ d, fencePair c p rows = startRepair d p rows ∧ d.mem = c.mem ∧
    stackOf d (p / 512) = { stackOf c (p / 512) with pairs := mapSet (stackOf c (p / 512)).pairs (p % 512) { pairOf c p with state := 2 } } ∧
    pairOf d p = { pairOf c p with state := 2 } := by
  refine ⟨_, rfl, by simp [repairEvent, modPair], ?_, ?_⟩
  · rw [stackOf_congr (d := modPair c p fun x => { x with state := 2 }) (by simp [repairEvent]), stackOf_modPair]
  · rw [pairOf_congr (d := modPair c p fun x => { x with state := 2 }) (by simp [repairEvent]), pairOf_modPair]

/-- R235: a pair with no rows to be replaced is fenced, and stays so. -/
theorem fencePair_unrepaired (c : Core) (p : Nat) : (fencePair c p 0).mem = c.mem ∧
    stackOf (fencePair c p 0) (p / 512) = { stackOf c (p / 512) with pairs := mapSet (stackOf c (p / 512)).pairs (p % 512) { pairOf c p with state := 2 } } ∧
    pairOf (fencePair c p 0) p = { pairOf c p with state := 2 } := by
  obtain ⟨d, start, kept⟩ := fencePair_start c p 0
  have none : startRepair d p 0 = d := by simp [startRepair]
  rw [start, none]
  exact kept

theorem testFills_length (p : Nat) : (testFills p).length = 128 := by simp [testFills]

/-- R235: spare rows take the place of failing ones, and the pair is filled with the test patterns. -/
theorem startRepair_fills {d : Core} {p even odd : Nat} (some' : 0 < even + odd) (unit : (pairOf d p).unitFenced = false)
    (spare : even + odd ≤ (stackOf d (p / 512)).spareRows) (h0 : (pairOf d p).spared0 + even ≤ 2) (h1 : (pairOf d p).spared1 + odd ≤ 2)
    (hs : (stackOf d (p / 512)).state ≠ 2) (hd : (stackOf d (p / 512)).delayed = []) (hp : (pairOf d p).state ≠ 0) (hq : (pairOf d p).queue = [])
    (room : stackQueued (stackOf d (p / 512)) + 128 ≤ 1024) :
    (startRepair d p (even + 65536 * odd)).mem = d.mem ∧
    stackOf (startRepair d p (even + 65536 * odd)) (p / 512) = { stackOf d (p / 512) with
      spareRows := (stackOf d (p / 512)).spareRows - (even + odd)
      pairs := mapSet (stackOf d (p / 512)).pairs (p % 512) { pairOf d p with
        state := 3, spared0 := (pairOf d p).spared0 + even, spared1 := (pairOf d p).spared1 + odd, queue := testFills p } } := by
  let k := p / 512
  let c : Core := { d with stackTab := mapSet d.stackTab k { stackOf d k with spareRows := (stackOf d k).spareRows - (even + odd) } }
  have stack : stackOf c k = { stackOf d k with spareRows := (stackOf d k).spareRows - (even + odd) } := by simp [c, stackOf]
  have pair : pairOf c p = pairOf d p := by
    show (mapGet (stackOf c k).pairs (p % 512)).getD {} = _
    rw [stack]
    rfl
  have low : (even + 65536 * odd) % 65536 = even := by omega
  have high : (even + 65536 * odd) / 65536 = odd := by omega
  have goes : ¬ ((decide (even + odd = 0) || (pairOf d p).unitFenced || decide ((stackOf d k).spareRows < even + odd) ||
      decide (2 < (pairOf d p).spared0 + even) || decide (2 < (pairOf d p).spared1 + odd)) = true) := by
    simp [unit, k]
    omega
  have starts : startRepair d p (even + 65536 * odd) = (testFills p).foldl (fun c x => enqueue c p x)
      (modPair c p fun a => { a with state := 3, spared0 := a.spared0 + even, spared1 := a.spared1 + odd }) := by
    simp only [startRepair, low, high]
    exact if_neg goes
  have fills := enqueue_all (c := c) (p := p) (fun a => { a with state := 3, spared0 := a.spared0 + even, spared1 := a.spared1 + odd })
    (by show (stackOf c k).state ≠ 2; rw [stack]; exact hs) (by show (stackOf c k).delayed = []; rw [stack]; exact hd)
    (pairOf_listed (by rw [pair]; exact hp)) (by rw [pair]; exact hq) (testFills p) []
    (by show stackQueued (stackOf c k) + _ + _ ≤ _; rw [stack, testFills_length]; exact room)
  rw [starts, modPair_congr (g := fun a => { a with state := 3, spared0 := a.spared0 + even, spared1 := a.spared1 + odd, queue := [] })
    (by simp [pair, hq]), fills, List.nil_append]
  refine ⟨rfl, ?_⟩
  rw [stackOf_modPair, pair, show stackOf c (p / 512) = _ from stack]

end Sys2Proof.Machine
namespace Sys2Proof.Machine

theorem pairOf_of_stack {c : Core} {p : Nat} {m : Map Pair} {a : Pair} (h : (stackOf c (p / 512)).pairs = mapSet m (p % 512) a) :
    pairOf c p = a := by
  simp [pairOf, h]

/-- R58: a stack with at most 64 fenced pairs stays as it is. -/
theorem stackLimit_within {c : Core} {k : Nat} (h : fencedPairs c k ≤ 64) : stackLimit c k = c := by
  rw [stackLimit, if_neg (by omega)]

section
variable {c : Core} {p : Nat} (ha : alive c = true) (hs : (stackOf c (p / 512)).state ≠ 2)
include ha hs

/-- R235: an empty draining pair is fenced, and its stack with it when it has too many. -/
theorem pairFenceRepair_empty (h1 : (pairOf c p).state = 1) (he : pairEmpty c p = true) (rows : Nat) (passes : Bool) :
    pairFenceRepair c p rows passes = stackLimit (fencePair c p rows) (p / 512) := by
  simp [pairFenceRepair, ha, hs, h1, he]

theorem pairFenceRepair_tested (h3 : (pairOf c p).state = 3) (hq : (pairOf c p).queue = []) (hi : (pairOf c p).issued = [])
    (hd : (stackOf c (p / 512)).delayed = []) (rows : Nat) (passes : Bool) :
    pairFenceRepair c p rows passes = endRepair c p passes := by
  simp [pairFenceRepair, ha, hs, h3, hq, hi, hd]

/-- R235: without failing rows, the pair stays fenced. -/
theorem fenceRepair_unrepaired (h1 : (pairOf c p).state = 1) (he : pairEmpty c p = true) (room : fencedPairs c (p / 512) < 64) (passes : Bool) :
    pairOf (pairFenceRepair c p 0 passes) p = { pairOf c p with state := 2 } ∧ (pairFenceRepair c p 0 passes).mem = c.mem := by
  obtain ⟨mem, stack, pair⟩ := fencePair_unrepaired c p
  have count : fencedPairs (fencePair c p 0) (p / 512) = fencedPairs c (p / 512) + 1 := by
    rw [fencedPairs, stack]
    exact fencedAmong_set (pairOf_listed (by rw [h1]; decide)) h1 (by simp)
  rw [pairFenceRepair_empty ha hs h1 he, stackLimit_within (by omega)]
  exact ⟨pair, mem⟩

/-- R58: the pair that makes a stack's fenced pairs more than 64 takes the stack with it. -/
theorem fenceRepair_stack (hk : p / 512 < 8) (h1 : (pairOf c p).state = 1) (he : pairEmpty c p = true) (full : fencedPairs c (p / 512) = 64)
    (passes : Bool) : (stackOf (pairFenceRepair c p 0 passes) (p / 512)).state = 2 := by
  obtain ⟨mem, stack, pair⟩ := fencePair_unrepaired c p
  have count : fencedPairs (fencePair c p 0) (p / 512) = fencedPairs c (p / 512) + 1 := by
    rw [fencedPairs, stack]
    exact fencedAmong_set (pairOf_listed (by rw [h1]; decide)) h1 (by simp)
  rw [pairFenceRepair_empty ha hs h1 he, stackLimit, if_pos (by omega)]
  exact fenceStack_state _ _ hk (by rw [stack]; exact hs)

/-- R235: with failing rows that spare rows replace, the pair is filled with the test patterns. -/
theorem fenceRepair_fills (h1 : (pairOf c p).state = 1) (he : pairEmpty c p = true) (room : fencedPairs c (p / 512) < 64) {even odd : Nat}
    (rows : 0 < even + odd) (unit : (pairOf c p).unitFenced = false) (spare : even + odd ≤ (stackOf c (p / 512)).spareRows)
    (h0 : (pairOf c p).spared0 + even ≤ 2) (h2 : (pairOf c p).spared1 + odd ≤ 2) (hd : (stackOf c (p / 512)).delayed = [])
    (queue : stackQueued (stackOf c (p / 512)) + 128 ≤ 1024) (passes : Bool) :
    let t := pairFenceRepair c p (even + 65536 * odd) passes
    pairOf t p = { pairOf c p with state := 3, spared0 := (pairOf c p).spared0 + even, spared1 := (pairOf c p).spared1 + odd, queue := testFills p } ∧
    (stackOf t (p / 512)).spareRows = (stackOf c (p / 512)).spareRows - (even + odd) ∧ t.mem = c.mem := by
  have listed := pairOf_listed (c := c) (p := p) (by rw [h1]; decide)
  have empty : (pairOf c p).queue = [] := by
    simp only [pairEmpty, Bool.and_eq_true, List.isEmpty_iff] at he
    exact he.1.2
  obtain ⟨d, start, mem, stack, pair⟩ := fencePair_start c p (even + 65536 * odd)
  have queued : stackQueued (stackOf d (p / 512)) = stackQueued (stackOf c (p / 512)) := by
    rw [stack]
    exact (foldl_add_set (fun q : Nat × Pair => q.2.queue.length) listed { pairOf c p with state := 2 } (by simp [empty]) 0).trans (by simp [empty, stackQueued])
  obtain ⟨mem', stack'⟩ := startRepair_fills (d := d) (p := p) rows (by rw [pair]; exact unit) (by rw [stack]; exact spare) (by rw [pair]; exact h0)
    (by rw [pair]; exact h2) (by rw [stack]; exact hs) (by rw [stack]; exact hd) (by rw [pair]; simp) (by rw [pair]; exact empty)
    (by rw [queued]; exact queue)
  rw [stack, pair] at stack'
  simp only [mapSet_set] at stack'
  have count : fencedPairs (fencePair c p (even + 65536 * odd)) (p / 512) = fencedPairs c (p / 512) + 1 := by
    rw [fencedPairs, start, stack']
    exact fencedAmong_set listed h1 (by simp)
  rw [pairFenceRepair_empty ha hs h1 he, stackLimit_within (by omega), start]
  exact ⟨pairOf_of_stack (congrArg Stack.pairs stack'), by rw [stack'], mem'.trans mem⟩
end

/-- R235: a pair that passes its test returns to service with its frames. -/
theorem endRepair_passes (c : Core) (p : Nat) : pairOf (endRepair c p true) p = { pairOf c p with state := 0, errors := 0 } ∧
    (endRepair c p true).mem = (returnFree c (stackDie (p / 512)) (pairRoom c p)).mem := by
  constructor
  · rw [pairOf_congr (d := modPair c p fun x => { x with state := 0, errors := 0 }) (by simp [endRepair, repairEvent]; rfl), pairOf_modPair]
  · simp [endRepair, repairEvent]
    rfl

theorem endRepair_fails (c : Core) (p : Nat) : endRepair c p false = modPair c p fun x => { x with state := 2 } := by simp [endRepair]

theorem pairInService_congr {c d : Core} (h : c.stackTab = d.stackTab) (p : Nat) : pairInService c p = pairInService d p := by
  rw [pairInService, pairInService, stackOf_congr h, pairOf_congr h]

/-- R211: a frame more or less that a pair has free. -/
theorem pairRoom_modRoom (c : Core) {p : Nat} (f : Nat → Nat) (h : p % 2048 < (c.mem.pairFree.get (stackDie (p / 512))).length) :
    pairRoom (modRoom c p f) p = f (pairRoom c p) := by
  simp [pairRoom, modRoom, nth, h]

/-- R165: a frame of a pair that is out of service migrates, or is lost. -/
theorem frameMigration_runs {s : State} {f : Nat} {x : Frame} (hx : mapGet s.core.mem.frames f = some x) (ha : alive s.core = true)
    (out : pairInService s.core x.pair = false) (good : Bool) :
    exec (.frameMigration f good) s = .next { s with core := migrateOrLose s.core f good } := by
  show execFrameMigration f good s = _
  simp [execFrameMigration, onCore, frameMigration, hx, ha, out]

/-- R25: what is none of the pages of prefixes, and is held by some sessions, is lost to each of them. -/
theorem loseFrame_held {c : Core} {f : Nat} {l : List Nat} (noPrefix : ∀ q ∈ c.obj.prefixes, ¬ f ∈ (q.2.pages.d0 ++ q.2.pages.d1).flatten)
    (held : frameHolders c f = l) (i : LogItem) : loseFrame (logErr c i) f = l.foldl (frameLost f) (logErr c i) := by
  have none : otherPage (logErr c i) f = none := otherPage_none (by rw [logErr_obj]; exact noPrefix)
  have holders : frameHolders (logErr c i) f = l := by rw [← held, frameHolders, frameHolders, logErr_sess]
  simp only [loseFrame, none, holders]

/-- Settles O52, clause by clause: draining (`pairDrain_empty`), migration (`migrateFrame_moves`, `migrateOrLose_fails`, `loseByEvent_leaves`), the sweep (`forwardSweep_one`), fencing and repair (`fenceRepair_*`, `endRepair_*`). That a pair under repair counts as fenced is log entry 170. -/
theorem pairsDrainAndRepair : Obligations.PairsDrainAndRepair := by
  unfold Obligations.PairsDrainAndRepair
  intro stack pair s hstack hpair ha p old d
  have hk : p / 512 = stack := by simp only [p]; omega
  have die : stackDie (p / 512) = d := by rw [hk]
  have repairs : ∀ rows passes, exec (.pairFenceRepair stack pair rows passes) s = .next { s with core := pairFenceRepair s.core p rows passes } := by
    intro rows passes
    show execPairFenceRepair stack pair rows passes s = _
    simp [execPairFenceRepair, onCore, hstack, hpair, p]
  refine ⟨fun h0 why hf hb hp hs => ?_, fun f x hx xp xd out => ⟨fun sound room free => ?_, fun noPrefix => ⟨fun alone => ?_, fun sid held unshadowed => ?_⟩⟩,
    fun die' k e lost one ep loft len => ?_, fun hs h1 he => ⟨fun room => ⟨fun passes => ?_, fun even odd passes some' unit spare h0 h2 hd queue => ?_⟩, fun full passes => ?_⟩,
    fun hs h3 hq hi hd => ⟨fun rows => ?_, fun rows => ?_⟩⟩
  · have drained := pairDrain_empty (c := s.core) (p := p) ha h0 why hf hb hp (by rw [die]; exact hs)
    have ran : exec (.pairDrain stack pair) s = .next { s with core := pairDrain s.core p } := by
      show execPairDrain stack pair s = _
      simp [execPairDrain, onCore, hstack, hpair, p]
    rw [drained, die] at ran
    refine ⟨_, ran, ?_, ?_, ?_, rfl⟩
    · rw [pairOf_reserveFree, pairOf_modPair]
    · simp [freeOf]
    · simp [freeOf]
  · rw [frameMigration_runs hx ha (by rw [xp]; exact out) true]
    obtain ⟨pairFree, moves⟩ := migrateFrame_moves hx (by rw [xd]; exact room) (by rw [xd]; exact free)
    have well : migrateOrLose s.core f true = migrateFrame s.core f := by simp [migrateOrLose, hx, sound]
    rw [well, moves, xd]
    exact ⟨_, migrateTo s.core x f, rfl, mapGet_set_same _ _ _, by simp [freeOf], by simp [xp], fun g hg => mapGet_set_other _ _ _ _ hg⟩
  · rw [frameMigration_runs hx ha (by rw [xp]; exact out) false, migrateOrLose_fails hx, loseFrame_held (by exact noPrefix) (by exact alone)]
    refine ⟨_, { x with bad := if x.bad.isEmpty then [0] else x.bad, migrating := false }, rfl, ?_, xp, ?_, rfl, ?_⟩
    · rw [List.foldl_nil, logErr_mem]
      exact mapGet_set_same _ _ _
    · cases hb : x.bad <;> simp
    · rw [List.foldl_nil, freeOf, logErr_mem]
      rfl
  · rw [frameMigration_runs hx ha (by rw [xp]; exact out) false, migrateOrLose_fails hx, loseFrame_held (by exact noPrefix) (by exact held)]
    have apart : shadowed (logErr (frameFailed s.core f x) { kind := 3, die := x.die, wh := pairWhere x.pair, addr := badPa (frameFailed s.core f x) f }) sid = false := by
      rw [shadowed, paired, logErr_twin]
      exact unshadowed
    simp only [List.foldl_cons, List.foldl_nil, frameLost, apart, Bool.false_and, Bool.false_eq_true, if_false]
    obtain ⟨lost, gone, -⟩ := loseByEvent_leaves (logErr (frameFailed s.core f x) { kind := 3, die := x.die, wh := pairWhere x.pair, addr := badPa (frameFailed s.core f x) f }) sid 1
    generalize loseByEvent _ sid 1 = c at lost gone ⊢
    exact ⟨{ s with core := c }, rfl, lost, gone⟩
  · obtain ⟨xmap, swept⟩ := forwardSweep_one ha lost one loft
    have ran : exec (.forwardSweep die') s = .next { s with core := forwardSweep s.core die' } := rfl
    rw [swept, ep] at ran
    refine ⟨_, ran, by simp [modRoom], by simp [modRoom], ?_⟩
    exact pairRoom_modRoom _ _ (by rw [die]; exact len)
  · obtain ⟨pair', mem⟩ := fenceRepair_unrepaired (p := p) ha (by rw [hk]; exact hs) h1 he (by rw [hk]; exact room) passes
    exact ⟨_, repairs 0 passes, pair', by rw [freeOf, mem]; rfl⟩
  · obtain ⟨pair', rows, mem⟩ := fenceRepair_fills (p := p) ha (by rw [hk]; exact hs) h1 he (by rw [hk]; exact room) some' unit (by rw [hk]; exact spare)
      h0 h2 (by rw [hk]; exact hd) (by rw [hk]; exact queue) passes
    rw [hk] at rows
    exact ⟨_, repairs _ passes, pair', rows, by rw [freeOf, mem]; rfl⟩
  · have fenced := fenceRepair_stack (p := p) ha (by rw [hk]; exact hs) (by rw [hk]; exact hstack) h1 he (by rw [hk]; exact full) passes
    rw [hk] at fenced
    exact ⟨_, repairs 0 passes, fenced⟩
  · have tested := pairFenceRepair_tested (p := p) ha (by rw [hk]; exact hs) h3 hq hi (by rw [hk]; exact hd) rows true
    obtain ⟨pair', mem⟩ := endRepair_passes s.core p
    rw [die] at mem
    have ran := repairs rows true
    rw [tested] at ran
    refine ⟨_, ran, pair', ?_⟩
    rw [freeOf, mem]
    simp [freeOf, returnFree]
  · have tested := pairFenceRepair_tested (p := p) ha (by rw [hk]; exact hs) h3 hq hi (by rw [hk]; exact hd) rows false
    have ran := repairs rows false
    rw [tested, endRepair_fails] at ran
    exact ⟨_, ran, pairOf_modPair _ _ _, rfl⟩

end Sys2Proof.Machine
namespace Sys2Proof.Machine

/-! ## The length of a sheaf (R395) -/

theorem entryWords_length (c : Core) (e : Entry) (n : Nat) : (entryWords c e n).length = 8 := by
  unfold entryWords
  split <;> simp

theorem headWords_length (h : SheafHead) (a b : Nat) : (headWords h a b).length = 32 := by
  simp [headWords, entryWords_length]

theorem pad256_length (bs : List Byte) : (pad256 bs).length = 256 * cdiv bs.length 256 := by
  rw [pad256, bytesAt_length, roundUp, Nat.mul_comm]

/-- R395: a sheaf is a whole number of 256-byte blocks. -/
theorem dvd_sheafBytes_length (h : SheafHead) (recs pages : List (List Byte)) (lease : Nat) : 256 ∣ (sheafBytes h recs pages lease).length := by
  simp only [sheafBytes, List.length_append, bytesAt_length, pad256_length, wordsBytes, words_length, headWords_length]
  omega

theorem packSession_length (c : Core) (e : Entry) (w : Warm) (stamp : Nat) (lens : List Nat) (lease : Nat) :
    (packSession c e w stamp lens lease).length = 256 * ((packSession c e w stamp lens lease).length / 256) := by
  have whole : 256 ∣ (packSession c e w stamp lens lease).length := dvd_sheafBytes_length (headOf c e w stamp lens) _ _ lease
  omega

/-! ## Packing reads images, prefixes and frames (R395 to R397) -/

/-- R395: where images, prefixes and frames are the same, a session packs the same. -/
theorem packSession_congr {c d : Core} (img : ∀ slot, imgOf d slot = imgOf c slot) (pre : d.obj.prefixes = c.obj.prefixes)
    (frames : d.mem.frames = c.mem.frames) (e : Entry) (w : Warm) (stamp : Nat) (lens : List Nat) (lease : Nat) :
    packSession d e w stamp lens lease = packSession c e w stamp lens lease := by
  have cells : ∀ j l col, pageCells d e j l col = pageCells c e j l col := fun j l col => by
    simp only [pageCells, pre, frameBytes, frames]
  simp only [packSession, headOf, kvPages, imageCols, img, pre, cells]

/-- R396: the idle age is no part of a sheaf. -/
theorem packSession_age (c : Core) (e : Entry) (w : Warm) (stamp : Nat) (lens : List Nat) (lease : Nat) :
    packSession c { e with idleAge := 0 } w stamp lens lease = packSession c e w stamp lens lease := rfl

/-- R402: deriving a slot's codes changes its codes alone. -/
theorem codesFor_frame (c : Core) (slot fmt : Nat) (pages : List (List Byte)) :
    ∃ models, (codesFor c slot fmt pages).2 = { c with obj := { c.obj with models := models } } ∧
      ∀ x, imgOf (codesFor c slot fmt pages).2 x = imgOf c x := by
  unfold codesFor
  split
  · exact ⟨c.obj.models, rfl, fun _ => rfl⟩
  next m hm =>
    split
    · refine ⟨_, rfl, fun x => ?_⟩
      by_cases hx : x = slot
      · subst hx
        simp [imgOf, hm]
      · simp [imgOf, mapGet_set_other _ _ _ _ hx]
    · exact ⟨c.obj.models, rfl, fun _ => rfl⟩

/-! ## The index and the barn (R403) -/

theorem indexFramesTo_kept (ix : Map SheafIx) (c : Core) (die : Bool) : (indexFramesTo ix c die).mem.barn = c.mem.barn := by
  simp only [indexFramesTo, giveFree, takeFree]
  split <;> split <;> rfl

theorem putIndex_barn (c : Core) (ix : Map SheafIx) : (putIndex c ix).mem.barn = c.mem.barn := by
  simp only [putIndex, List.foldl, indexFramesTo_kept]

/-- R393: what a session's packed image leaves: the index entry, the sheaf, no warm contents, and its entry PARKED. -/
structure Parked (c : Core) (sid : Nat) (d : Core) (ix : SheafIx) : Prop where
  index : mapGet d.mem.index sid = some ix
  place : ix.place = 1
  die : ix.die = (entryOf c sid).homeDie
  sheaf : ∃ f, mapGet d.mem.barn (barnKey (entryOf c sid).homeDie ix.locator) = some f ∧ f.die = (entryOf c sid).homeDie ∧
    f.bytes.length = 256 * ix.size
  warm : mapGet d.sess.warm sid = none
  entry : entryOf d sid = { entryOf c sid with state := .parked, imagePlace := 1, rootFrame := 0, privateFrames := 0, reservedFrames := 0 }
  others : ∀ x, x ≠ sid → entryOf d x = entryOf c x
  rings : d.rings = c.rings
  twin : d.twin = c.twin
  regs : ∀ o, o ≠ 0x420008 → regGet d o = regGet c o

/-- R393: the commit of a park whose sheaf stands in a barn. -/
theorem commitPark_parked {c : Core} {sid : Nat} {ix : SheafIx} {die : Bool} {f : Sheaf} (hp : ix.place = 1) (hd : ix.die = die)
    (hh : (entryOf c sid).homeDie = die) (hf : mapGet c.mem.barn (barnKey die ix.locator) = some f) (fd : f.die = die)
    (fl : f.bytes.length = 256 * ix.size) : Parked c sid (commitPark c sid ix) ix := by
  obtain ⟨d, moved, left⟩ := leaveWarm_moved (setIndex c sid ix) sid
  have rings : (setIndex c sid ix).rings = c.rings := putIndex_rings _ _
  have sess : (setIndex c sid ix).sess = c.sess := putIndex_sess _ _
  have parks : commitPark c sid ix = regCount (setEntry { d with sess := { (setIndex c sid ix).sess with warm := mapDel (setIndex c sid ix).sess.warm sid } } sid
      { entryOf c sid with state := .parked, imagePlace := 1, rootFrame := 0, privateFrames := 0, reservedFrames := 0 }) 0x420008 31 0 1 := by
    simp only [commitPark, left, hp]
    rfl
  have age : ∀ x, entryOf ({ d with sess := { (setIndex c sid ix).sess with warm := mapDel (setIndex c sid ix).sess.warm sid } } : Core) x = entryOf c x :=
    fun x => entryOf_congr (by rw [sess]) x
  generalize hk : ({ d with sess := { (setIndex c sid ix).sess with warm := mapDel (setIndex c sid ix).sess.warm sid } } : Core) = k at parks age
  have kmem : k.mem = d.mem := by rw [← hk]
  have kregs : k.regs = c.regs := by rw [← hk]; exact moved.regs.trans (putIndex_regs _ _)
  have kwarm : mapGet k.sess.warm sid = none := by rw [← hk]; exact mapGet_del_same _ _
  have krings : k.rings = c.rings := by rw [← hk]; exact moved.rings.trans rings
  have ktwin : k.twin = c.twin := by rw [← hk]; exact moved.twin.trans (putIndex_twin _ _)
  rw [parks]
  refine ⟨?_, hp, hd.trans hh.symm, ⟨f, ?_, fd.trans hh.symm, fl⟩, ?_, ?_, fun x hx => ?_, ?_, ?_, fun o ho => ?_⟩
  · rw [regCount_frame, setEntry_mem, kmem, moved.index, setIndex, putIndex_index, mapGet_set_same]
  · rw [regCount_frame, setEntry_mem, kmem, moved.barn, setIndex, putIndex_barn, hh, hf]
  · rw [regCount_frame, setEntry_warm, kwarm]
  · exact entryOf_set_same _ _ _ (by simp)
  · exact (entryOf_set_other k _ _ _ hx).trans (age x)
  · rw [regCount_frame, setEntry_rings, krings]
  · rw [regCount_frame, setEntry_twin, ktwin]
  · rw [regCount, regPut, regGet_set_other _ _ _ _ ho, regGet_congr (setEntry_regs _ _ _), regGet_congr kregs]

end Sys2Proof.Machine
namespace Sys2Proof.Machine

theorem run_bind_ok {α β : Type} {m : M α} {f : α → M β} {r r' : Run0} {a : α} (h : m r = .ok (a, r')) : (m >>= f) r = f a r' := by
  rw [run_bind, h]

theorem run_check_passes {b : Bool} (h : b = false) (st : Status) (r : Run0) : check b st r = .ok ((), r) := by
  rw [run_check, h]
  rfl

/-- R203: a sheaf that fits its home die's barn goes there. -/
theorem run_findPlace_home {r : Run0} {home : Bool} {bytes : Nat} (fits : framesOf bytes ≤ r.core.mem.barnFree.get home) :
    findPlace home false 0 bytes r = .ok (some (.barn home), r) := by
  simp [findPlace, fits]

/-- R361: without pooled columns, nothing is read from a window. -/
theorem run_readPooled_none {e : Entry} {w : Warm} (h : (w.columns.any fun p => p.2.pooled) = false) (r : Run0) : readPooled e w r = .ok ((), r) := by
  simp [readPooled, h]

/-- A part that ends well is what it is. -/
theorem run_atomically {α : Type} {m : M α} {r : Run0} {x : α × Run0} (h : m r = .ok x) : atomically m r = .ok x := by
  simp [atomically, h]

/-- R403: a stored sheaf stands in its barn under its first frame. -/
theorem storeBarn_frame (c : Core) (die : Bool) (bytes : List Byte) : ∃ links barnFree, (storeBarn c die bytes).2 = { c with mem := { c.mem with
    links := links, barnFree := barnFree
    barn := mapSet c.mem.barn (barnKey die (storeBarn c die bytes).1) { die := die, frames := cdiv bytes.length 65536, bytes := bytes } } } := ⟨_, _, rfl⟩

theorem Parked.of_kept {c d k : Core} {sid : Nat} {ix : SheafIx} (h : Parked d sid k ix) (sess : d.sess = c.sess) (rings : d.rings = c.rings)
    (twin : d.twin = c.twin) (regs : d.regs = c.regs) : Parked c sid k ix := by
  have entry : ∀ x, entryOf d x = entryOf c x := fun x => entryOf_congr (by rw [sess]) x
  obtain ⟨index, place, die, sheaf, warm, own, others, krings, ktwin, kregs⟩ := h
  rw [entry] at die sheaf own
  exact ⟨index, place, die, sheaf, warm, own, fun x hx => (others x hx).trans (entry x), krings.trans rings, ktwin.trans twin,
    fun o ho => (kregs o ho).trans (regGet_congr regs o)⟩

/-- R392, R203: a warm session may be parked: its index frame is there, its home die's barn has room, its pages are sound, none of them lies in a window, and its sheaf is not larger than what is reserved for it. -/
structure MayPark (c : Core) (sid : Nat) (w : Warm) : Prop where
  index : indexNeed c sid ≤ freeOf c (dirDie sid)
  fits : framesOf (unpackedSize c (entryOf c sid) w + 65536) ≤ c.mem.barnFree.get (entryOf c sid).homeDie
  sound : ∀ f ∈ rangeFrames w w.columns, frameBad c f = false
  pooled : (w.columns.any fun p => p.2.pooled) = false
  short : ∀ stamp lens, (packSession c (entryOf c sid) w stamp lens 0).length ≤ unpackedSize c (entryOf c sid) w + 65536

/-- Whether a session may be parked is settled by the memory, the objects and its entry; its age does not matter. -/
theorem MayPark.congr {c d : Core} {sid : Nat} {w : Warm} (h : MayPark c sid w) (mem : d.mem = c.mem) (obj : d.obj = c.obj)
    (own : entryOf d sid = entryOf c sid ∨ entryOf d sid = { entryOf c sid with idleAge := 0 }) : MayPark d sid w := by
  obtain ⟨index, fits, sound, pooled, short⟩ := h
  have img : ∀ slot, imgOf d slot = imgOf c slot := fun slot => by rw [imgOf, imgOf, obj]
  have home : (entryOf d sid).homeDie = (entryOf c sid).homeDie := by rcases own with own | own <;> rw [own]
  have size : unpackedSize d (entryOf d sid) w = unpackedSize c (entryOf c sid) w := by
    rcases own with own | own <;> simp only [unpackedSize, own, img]
  have packs : ∀ stamp lens, packSession d (entryOf d sid) w stamp lens 0 = packSession c (entryOf c sid) w stamp lens 0 := fun stamp lens => by
    rw [packSession_congr img (congrArg _ obj) (congrArg _ mem)]
    rcases own with own | own <;> rw [own]
    exact packSession_age c (entryOf c sid) w stamp lens 0
  refine ⟨?_, ?_, fun f hf => ?_, pooled, fun stamp lens => ?_⟩
  · rw [indexNeed, freeOf, mem]
    exact index
  · rw [size, home, mem]
    exact fits
  · rw [frameBad, mem]
    exact sound f hf
  · rw [packs, size]
    exact short stamp lens

/-- R393: the park of a session whose sheaf fits its home die's barn. -/
theorem run_parkWarm {sid : Nat} {w : Warm} {r : Run0} (can : MayPark r.core sid w) :
    ∃ k ix, parkWarm sid w false 0 r = .ok ((ix, 256 * ix.size), { r with core := k }) ∧ Parked r.core sid k ix := by
  obtain ⟨index, fits, sound, pooled, short⟩ := can
  let e := entryOf r.core sid
  have noneBad : (rangeFrames w w.columns).find? (frameBad r.core) = none := List.find?_eq_none.mpr fun f hf => by simp [sound f hf]
  have place := run_findPlace_home fits
  let drawn := drawWord r.core
  let coded := codesFor drawn.2 e.modelSlot (miKvFmt (sessImg drawn.2 sid)) (kvPages drawn.2 e w)
  obtain ⟨models, codes, img⟩ := codesFor_frame drawn.2 e.modelSlot (miKvFmt (sessImg drawn.2 sid)) (kvPages drawn.2 e w)
  let bytes := packSession coded.2 e w drawn.1.toNat coded.1 0
  have same : bytes = packSession r.core e w drawn.1.toNat coded.1 0 :=
    packSession_congr (fun x => (img x).trans rfl) (by rw [codes]) (by rw [codes]) e w _ _ 0
  have room : ¬ unpackedSize r.core e w + 65536 < bytes.length := by
    rw [same]
    exact Nat.not_lt.mpr (short _ _)
  have whole := packSession_length coded.2 e w drawn.1.toNat coded.1 0
  let ix : SheafIx := { place := 1, die := e.homeDie, stamp := BitVec.ofNat 64 drawn.1.toNat, size := bytes.length / 256
                        locator := (storeBarn coded.2 e.homeDie bytes).1 }
  refine ⟨commitPark (storeBarn coded.2 e.homeDie bytes).2 sid ix, ix, ?_, ?_⟩
  · refine run_atomically ?_
    rw [run_bind_ok (run_getC r)]
    rw [run_bind_ok (run_check_passes (b := decide (freeOf r.core (dirDie sid) < indexNeed r.core sid)) (by simpa using index) .noSpace r)]
    rw [run_bind_ok place]
    dsimp only
    rw [run_bind_ok (run_getC r)]
    rw [noneBad]
    dsimp only
    rw [run_bind_ok (m := holdingPlace (.barn e.homeDie) (readPooled e w)) (a := ()) (r' := r) (run_readPooled_none pooled r)]
    rw [run_bind_ok (run_drawM r), run_bind_ok (run_getC _)]
    rw [run_bind_ok (run_putC _ _)]
    rw [if_neg room]
    have stored : storeSheaf (.barn e.homeDie) bytes drawn.1.toNat { r with core := coded.2 } = .ok (ix, { r with core := (storeBarn coded.2 e.homeDie bytes).2 }) := rfl
    rw [run_bind_ok stored, run_bind_ok (run_modC _ _), run_pure, ← whole]
  · obtain ⟨links, barnFree, put⟩ := storeBarn_frame coded.2 e.homeDie bytes
    have stood : mapGet (storeBarn coded.2 e.homeDie bytes).2.mem.barn (barnKey e.homeDie ix.locator) =
        some { die := e.homeDie, frames := cdiv bytes.length 65536, bytes := bytes } := by
      rw [put]
      exact mapGet_set_same _ _ _
    have sess : (storeBarn coded.2 e.homeDie bytes).2.sess = r.core.sess := by rw [put, codes]; rfl
    have home : (entryOf (storeBarn coded.2 e.homeDie bytes).2 sid).homeDie = e.homeDie := by rw [entryOf_congr (congrArg _ sess)]
    refine (commitPark_parked (ix := ix) rfl rfl home stood rfl whole).of_kept sess ?_ ?_ ?_
    · rw [put, codes]; rfl
    · rw [put, codes]; rfl
    · rw [put, codes]; rfl

end Sys2Proof.Machine
namespace Sys2Proof.Machine

/-! ## What a park leaves (R22, R393) -/

/-- R22, R393: what a park says of the sheaf, the index, the session's entry and the others', once it is told. -/
theorem Parked.tells {c b k t : Core} {sid : Nat} {ix : SheafIx} (h : Parked b sid k ix) (told : ToldMoved k t)
    (own : entryOf b sid = entryOf c sid ∨ entryOf b sid = { entryOf c sid with idleAge := 0 })
    (others : ∀ x, x ≠ sid → entryOf b x = entryOf c x) :
    mapGet t.mem.index sid = some ix ∧ ix.place = 1 ∧ ix.die = (entryOf c sid).homeDie ∧
    (∃ sheaf, mapGet t.mem.barn (barnKey (entryOf c sid).homeDie ix.locator) = some sheaf ∧ sheaf.die = (entryOf c sid).homeDie ∧
      sheaf.bytes.length = 256 * ix.size) ∧
    mapGet t.sess.warm sid = none ∧ (entryOf t sid).state = .parked ∧ (entryOf t sid).imagePlace = 1 ∧
    (entryOf t sid).privateFrames = 0 ∧ (entryOf t sid).nextPosition = (entryOf c sid).nextPosition ∧
    (entryOf t sid).account = (entryOf c sid).account ∧ ∀ x, x ≠ sid → entryOf t x = entryOf c x := by
  have home : (entryOf b sid).homeDie = (entryOf c sid).homeDie := by rcases own with own | own <;> rw [own]
  have position : (entryOf b sid).nextPosition = (entryOf c sid).nextPosition := by rcases own with own | own <;> rw [own]
  have account : (entryOf b sid).account = (entryOf c sid).account := by rcases own with own | own <;> rw [own]
  obtain ⟨index, place, die, sheaf, warm, entry, rest, -, -, -⟩ := h
  rw [home] at die sheaf
  rw [told.mem, told.warm, told.entryOf, entry]
  exact ⟨index, place, die, sheaf, warm, rfl, rfl, rfl, position, account, fun x hx => by rw [told.entryOf, rest x hx, others x hx]⟩

/-! ## PARK (R390, R392, R393) -/

section
variable {d : Desc} {r : Run0} (reread : mapHas r.core.sess.reread r.sid = false)
include reread

/-- R392: a PARK that names no window, or names one for the pool, is refused by the state of its session. -/
theorem run_parkBody_refused (named : d.field 2 3 0 0 = 0 ∨ bit d.flags 0 = true) {st : Status} (state : parkState (entryOf r.core d.session) = some st) :
    parkBody d r = .error (.fail st 0 0 r.core) := by
  have fields : (decide (0 < d.field 2 3 0 0) && !bit d.flags 0) = false := by rcases named with h | h <;> simp [h]
  rw [parkBody, run_bind_ok (run_leaseFirst reread), run_bind_ok (run_check_passes fields _ _), run_bind_ok (run_getC r)]
  simp [state]

/-- R392: PARK of a session that is packed already has nothing to do. -/
theorem run_parkBody_packed (named : d.field 2 3 0 0 = 0 ∨ bit d.flags 0 = true)
    (state : (entryOf r.core d.session).state = .parked ∨ (entryOf r.core d.session).state = .pooled) :
    parkBody d r = .ok (.done .ok 0 0, r) := by
  have fields : (decide (0 < d.field 2 3 0 0) && !bit d.flags 0) = false := by rcases named with h | h <;> simp [h]
  rw [parkBody, run_bind_ok (run_leaseFirst reread), run_bind_ok (run_check_passes fields _ _), run_bind_ok (run_getC r)]
  rcases state with state | state <;> simp [parkState, state]

/-- R393: PARK of a warm session that may be parked. -/
theorem run_parkBody_parks {w : Warm} (anywhere : bit d.flags 0 = false) (noWindow : d.field 2 3 0 0 = 0)
    (warm : mapGet r.core.sess.warm d.session = some w) (state : (entryOf r.core d.session).state = .idle ∨ (entryOf r.core d.session).state = .waiting)
    (noStep : inStep (r.core.sched.get (entryOf r.core d.session).homeDie) = []) (alone : r.core.twin.state ≠ 2 ∧ r.core.twin.state ≠ 3)
    (can : MayPark r.core d.session w) :
    ∃ k ix, parkBody d r = .ok (.done .ok ix.size 1, { r with core := k }) ∧ Parked r.core d.session k ix := by
  have fields : (decide (0 < d.field 2 3 0 0) && !bit d.flags 0) = false := by simp [noWindow]
  obtain ⟨k, ix, parks, left⟩ := run_parkWarm can
  have unpaired : mirrored k d.session = false := mirrored_alone (by rw [left.twin]; exact alone.1) (by rw [left.twin]; exact alone.2) _
  refine ⟨k, ix, ?_, left⟩
  rw [parkBody, run_bind_ok (run_leaseFirst reread), run_bind_ok (run_check_passes fields _ _), run_bind_ok (run_getC r)]
  rcases state with state | state <;>
    simp [parkState, state, warm, waitStep, noStep, anywhere, noWindow, parks, run_mirrorM (r := { r with core := k }) unpaired, left.place]
end

end Sys2Proof.Machine
namespace Sys2Proof.Machine

/-! ## The policy park (R22, R27) -/

/-- R563, R564: waking a step scheduler changes power, stacks and refills, and counts the exit of deep idle. -/
theorem wakeScheduler_frame (c : Core) (die : Bool) : ∃ power regs stackTab sched,
    wakeScheduler c die = { c with power := power, regs := regs, stackTab := stackTab, sched := sched } ∧
      ∀ o, o ≠ 0x900020 → regGet (wakeScheduler c die) o = regGet c o := by
  have woken : ∃ power regs stackTab sched, wakeBy c (.scheduler die) = { c with power := power, regs := regs, stackTab := stackTab, sched := sched } ∧
      ∀ o, o ≠ 0x900020 → regGet (wakeBy c (.scheduler die)) o = regGet c o := by
    unfold wakeBy
    split
    · obtain ⟨tab, sch, starts⟩ := startDomains_frame (leaveDeep c (wakePlls (.scheduler die))) (wakeDomains (.scheduler die))
      rw [starts, leaveDeep_frame]
      exact ⟨_, _, _, _, rfl, fun o ho => regGet_set_other _ _ _ _ ho⟩
    · exact ⟨_, _, _, _, rfl, fun _ _ => rfl⟩
  obtain ⟨power, regs, tab, sch, woke, kept⟩ := woken
  simp only [wakeScheduler]
  split
  · exact ⟨power, regs, tab, sch, woke, kept⟩
  · obtain ⟨tab2, sch2, starts⟩ := startDomains_frame (wakeBy c (.scheduler die)) (2 ^ schedDomain die ||| parentsOf (schedDomain die))
    rw [domainStart, starts]
    refine ⟨_, _, _, _, by rw [woke], fun o ho => kept o ho⟩

/-- R59, R129: what an event record does to the rings is settled by the rings and the event routes. -/
theorem issueEvent_rings_congr {c d : Core} (rings : d.rings = c.rings) (route : regGet d 0x10030 = regGet c 0x10030) (type : Nat) (die : Bool)
    (sid account a b : Nat) : (issueEvent d type die sid account a b).rings = (issueEvent c type die sid account a b).rings := by
  have entries : ∀ id r, freeEntries d 3 id r = freeEntries c 3 id r := fun id r => by simp only [freeEntries, queuedFor, rings]
  have room : queueRoom d = queueRoom c := by rw [queueRoom, queueRoom, rings]
  have counted : ∀ x : Core, (regCount x 0x10038 31 0 1).rings = x.rings := fun x => by rw [regCount_frame]
  simp only [issueEvent, rings, route, entries, room]
  split
  · rw [counted, counted, rings]
  · split
    · rw [counted, counted, rings]
    · split
      · simp only [setRecRing, counted, rings]
      · simp only [pushRec, rings]

/-- R22, R393: the policy parks a session that may be parked, and an event tells. -/
theorem run_policyBody {sid : Nat} {w : Warm} {r : Run0} {e : Entry} (alone : r.core.twin.state ≠ 2 ∧ r.core.twin.state ≠ 3)
    (own : entryOf r.core sid = e) (can : MayPark r.core sid w) :
    ∃ k ix, Parked r.core sid k ix ∧ policyBody sid w r =
      .ok ((), { r with core := issueEvent k 1 e.homeDie sid e.account (stateCode .parked + 16) (256 * ix.size) }) := by
  obtain ⟨k, ix, parks, left⟩ := run_parkWarm can
  have unpaired : mirrored k sid = false := mirrored_alone (by rw [left.twin]; exact alone.1) (by rw [left.twin]; exact alone.2) _
  refine ⟨k, ix, left, ?_⟩
  rw [policyBody, run_bind_ok (run_getC r), run_bind_ok parks]
  simp [run_mirrorM (r := { r with core := k }) unpaired, left.place, left.entry, own]

/-- R22, R563: the state on which the policy parks: the die's step scheduler is awake, and the session is neither due nor being parked any more. -/
def policyBase (c : Core) (sid : Nat) : Core :=
  let c := wakeScheduler c (entryOf c sid).homeDie
  { c with sess := { c.sess with parking := mapDel c.sess.parking sid, due := mapDel c.sess.due sid } }

section
variable {s : State} {sid : Nat} {env : Env} {w : Warm} (warm : mapGet s.core.sess.warm sid = some w) (hrun : s.core.ckpt.running = none)

/-- R22, R563: waking the scheduler leaves all but the registers, the power, the stacks and the refills. -/
theorem policyBase_frame (c : Core) (sid : Nat) : ∃ power regs stackTab sched, policyBase c sid =
      { c with power := power, regs := regs, stackTab := stackTab, sched := sched, sess := { c.sess with parking := mapDel c.sess.parking sid, due := mapDel c.sess.due sid } } ∧
    regGet (policyBase c sid) 0x10030 = regGet c 0x10030 := by
  obtain ⟨power, regs, tab, sch, woke, kept⟩ := wakeScheduler_frame c (entryOf c sid).homeDie
  exact ⟨power, regs, tab, sch, by rw [policyBase, woke], kept 0x10030 (by decide)⟩

include warm hrun

/-- R22, R586: the policy park of a session that is due and in no step is its body on the woken state. -/
theorem policyPark_done {r : Run0} (serves : serving s.core = true) (due : policyDue s.core sid = true)
    (noStep : inStep (s.core.sched.get (entryOf s.core sid).homeDie) = [])
    (body : policyBody sid w { runOf s (policyBase s.core sid) env with sid := sid } = .ok ((), r)) :
    policyPark s sid env = { s with core := r.core } := by
  obtain ⟨power, regs, tab, sch, woke, -⟩ := wakeScheduler_frame s.core (entryOf s.core sid).homeDie
  have wrun : (wakeScheduler s.core (entryOf s.core sid).homeDie).ckpt.running = none := by rw [woke]; exact hrun
  have wwarm : mapGet (wakeScheduler s.core (entryOf s.core sid).homeDie).sess.warm sid = some w := by rw [woke]; exact warm
  have quiet : (!serving s.core || !policyDue s.core sid || !(inStep (s.core.sched.get (entryOf s.core sid).homeDie)).isEmpty) = false := by
    simp [serves, due, noStep]
  simp only [policyBase] at body
  simp [policyPark, warm, quiet, haspSession_none _ _ wrun, wwarm, body]

/-- R22, R27, R586: the park of a session that is due. -/
theorem policyPark_parks (serves : serving s.core = true) (due : policyDue s.core sid = true)
    (noStep : inStep (s.core.sched.get (entryOf s.core sid).homeDie) = []) (h2 : s.core.twin.state ≠ 2) (h3 : s.core.twin.state ≠ 3)
    (can : MayPark s.core sid w) :
    ∃ b k ix, Parked b sid k ix ∧ b.sess.dir = s.core.sess.dir ∧ policyPark s sid env =
        { s with core := issueEvent k 1 (entryOf s.core sid).homeDie sid (entryOf s.core sid).account (stateCode .parked + 16) (256 * ix.size) } ∧
      ∀ a n, (issueEvent k 1 a sid n (stateCode .parked + 16) (256 * ix.size)).rings =
        (issueEvent s.core 1 a sid n (stateCode .parked + 16) (256 * ix.size)).rings := by
  obtain ⟨power, regs, tab, sch, base, route⟩ := policyBase_frame s.core sid
  have dir : (policyBase s.core sid).sess.dir = s.core.sess.dir := by rw [base]
  have rings : (policyBase s.core sid).rings = s.core.rings := by rw [base]
  have own : entryOf (policyBase s.core sid) sid = entryOf s.core sid := entryOf_congr dir sid
  have canBase : MayPark (policyBase s.core sid) sid w := can.congr (by rw [base]) (by rw [base]) (.inl own)
  have alone : (policyBase s.core sid).twin.state ≠ 2 ∧ (policyBase s.core sid).twin.state ≠ 3 := by rw [base]; exact ⟨h2, h3⟩
  obtain ⟨k, ix, left, body⟩ := run_policyBody (r := { runOf s (policyBase s.core sid) env with sid := sid }) alone own canBase
  exact ⟨_, k, ix, left, dir, policyPark_done warm hrun serves due noStep body,
    fun a n => issueEvent_rings_congr (left.rings.trans rings) ((left.regs _ (by decide)).trans route) _ _ _ _ _ _⟩
end

/-- Settles O33: the park itself is `run_parkWarm`; PARK and the policy run it and tell of it. -/
theorem parkPutsSessionInBarn : Obligations.ParkPutsSessionInBarn := by
  unfold Obligations.ParkPutsSessionInBarn
  constructor
  · intro d env s free own ⟨hrun, hre, h2, h3⟩ named st ends
    have reread : mapHas (begunRun s d env).core.sess.reread (begunRun s d env).sid = false := by
      rw [begunRun_core, beginSession_reread hrun]
      exact hre
    have state : (entryOf (begunRun s d env).core d.session).state = st := entryOf_beginSession_state hrun d
    have unpaired : mirrored (begunRun s d env).core d.session = false :=
      mirrored_alone (by rw [begunRun_core, beginSession_twin hrun]; exact h2) (by rw [begunRun_core, beginSession_twin hrun]; exact h3) _
    have refused : ∀ x, parkState (entryOf (begunRun s d env).core d.session) = some x → ends x := fun x hx =>
      congrArg Host.Outcome.next (acceptSession_fail free hrun own (run_parkBody_refused reread named hx) unpaired)
    refine ⟨fun packed => ?_, fun hfree => refused _ ?_, fun hlost => refused _ ?_⟩
    · exact congrArg Host.Outcome.next (acceptSession_done free hrun own (run_parkBody_packed reread named (by rw [state]; exact packed)) unpaired rfl)
    · rw [parkState, state.trans hfree]
    · rw [parkState, state.trans hlost]
  · intro sid d env w s plain warm e room state noStep index fits sound pooled short parked
    have can : MayPark s.core sid w := ⟨index, fits, sound, pooled, short⟩
    have ⟨hrun, hre, h2, h3⟩ := plain
    constructor
    · intro free own same anywhere noWindow
      subst same
      have open' : (entryOf s.core d.session).state ≠ .free := by rcases state with h | h <;> simp [e] at h <;> simp [h]
      have entry := entryOf_beginSession hrun d open'
      have twin := beginSession_twin hrun d
      obtain ⟨k, ix, parks, left⟩ := run_parkBody_parks (d := d) (r := begunRun s d env) (w := w)
        (by rw [begunRun_core, beginSession_reread hrun]; exact hre) anywhere noWindow
        (by rw [begunRun_core, beginSession_warm hrun]; exact warm) (by rw [begunRun_core, entry]; exact state)
        (by obtain ⟨_, _, _, _, _, frame⟩ := beginSession_frame hrun d
            rw [begunRun_core, entry, frame]
            exact noStep)
        (by rw [begunRun_core, twin]; exact ⟨h2, h3⟩)
        (can.congr (beginSession_mem hrun d) (beginSession_obj hrun d) (.inr entry))
      have done := acceptSession_done free hrun own parks (mirrored_alone (by rw [left.twin, begunRun_core, twin]; exact h2)
        (by rw [left.twin, begunRun_core, twin]; exact h3) _) rfl
      have told := complete_rings_congr (left.rings.trans (beginSession_rings hrun d)) d .ok ix.size 1
      exact ⟨_, ix, congrArg Host.Outcome.next done,
        left.tells (complete_told k d .ok ix.size 1) (.inr entry) (fun x hx => entryOf_beginSession_other hrun d hx), told⟩
    · intro serves due
      obtain ⟨b, k, ix, left, dir, parks, told⟩ := policyPark_parks (env := env) warm hrun serves due noStep h2 h3 can
      exact ⟨_, ix, congrArg Host.Outcome.next parks,
        left.tells (issueEvent_told k 1 _ sid _ _ _) (.inl (entryOf_congr dir sid)) (fun x _ => entryOf_congr dir x), told _ _⟩

end Sys2Proof.Machine
namespace Sys2Proof.Machine

/-! ## The writes of a step move frames (R160 to R163, R320 to R324) -/

theorem growTables_moved {home turn : Bool} (n : Nat) (x : Range) {y : Range} (h : growTables home turn n x = .ok y) : FramesMoved x.core y.core := by
  induction n generalizing x with
  | zero =>
    cases h
    exact .refl _
  | succ n ih =>
    simp only [growTables] at h
    split at h
    · cases h
      exact .refl _
    · split at h
      · cases h
      next took =>
        have first := takeFrame_moved took
        have rest := ih _ h
        exact first.trans rest

theorem mapPagesIn_moved {home turn : Bool} {pages : List Nat} {x y : Range} (h : mapPagesIn home turn pages x = .ok y) : FramesMoved x.core y.core :=
  growTables_moved _ (⟨x.core, { x.warm with leafTabs := withPages x.warm.leafTabs pages }⟩ : Range) h

theorem takeMapPage_moved {home turn : Bool} {j : Nat} {x y : Range} (h : takeMapPage home turn j x = .ok y) : FramesMoved x.core y.core := by
  unfold takeMapPage at h
  split at h
  · cases h
    exact .refl _
  · split at h
    · cases h
      exact .refl _
    · split at h
      · cases h
      next took =>
        cases h
        have first := takeFrame_moved took
        exact first

theorem takeLayers_moved {img : List Byte} {home turn : Bool} {cols : Map Column} {j : Nat} (ls : List Nat) (x : Range) {ks : List Leaf} {y : Range}
    (h : takeLayers img home turn cols j ls x = .ok (ks, y)) : FramesMoved x.core y.core := by
  induction ls generalizing x ks y with
  | nil =>
    cases h
    exact .refl _
  | cons l ls ih =>
    simp only [takeLayers] at h
    split at h
    · cases h
    next took =>
      split at h
      · cases h
      next rest =>
        cases h
        exact (takeFrame_moved took).trans (ih _ rest)

theorem openColumn_moved {img : List Byte} {home turn : Bool} {j : Nat} {cols ks : Map Column} {x y : Range}
    (h : openColumn img home turn j cols x = .ok (ks, y)) : FramesMoved x.core y.core := by
  simp only [openColumn] at h
  split at h
  · cases h
  · split at h
    · cases h
    next pages =>
      split at h
      · cases h
      next page =>
        split at h
        · cases h
        next layers =>
          cases h
          have taken := takeLayers_moved _ _ layers
          exact ((mapPagesIn_moved pages).trans (takeMapPage_moved page)).trans taken

theorem ckptStage_moved (c : Core) (die : Bool) (f : Nat) : FramesMoved c (ckptStage c die f) := by
  unfold ckptStage
  split
  next => exact .refl c
  next ep he => exact ⟨rfl, fun h0 => by rw [h0] at he; cases he⟩

theorem writeFrame_moved (c : Core) (f off : Nat) (bs : List Byte) : FramesMoved c (writeFrame c f off bs) := ⟨rfl, fun _ => rfl⟩

theorem resolveWrite_moved {turn keep : Bool} {l k : Leaf} {x y : Range} (h : resolveWrite turn keep l x = .ok (k, y)) : FramesMoved x.core y.core := by
  simp only [resolveWrite] at h
  split at h
  · split at h
    · cases h
    next copied =>
      cases h
      refine (takeCopy_moved copied).trans ?_
      dsimp only
      split
      · exact .refl _
      · split
        · exact passRef_moved _ _
        · exact dropRef_moved _ _
  · split at h
    · split at h
      · cases h
      · cases h
        exact ckptStage_moved _ _ _
    · cases h
      exact .refl _

theorem writeLayers_moved {turn keep : Bool} {off : Nat} (ls : List Leaf) (bss : List (List Byte)) (x : Range) {ks : List Leaf} {y : Range}
    (h : writeLayers turn keep off ls bss x = .ok (ks, y)) : FramesMoved x.core y.core := by
  induction ls generalizing bss x ks y with
  | nil =>
    simp only [writeLayers] at h
    cases h
    exact .refl _
  | cons l ls ih =>
    cases bss with
    | nil =>
      cases h
      exact .refl _
    | cons bs bss =>
      simp only [writeLayers] at h
      split at h
      · cases h
      next resolved =>
        split at h
        · cases h
        next rest =>
          cases h
          exact ((resolveWrite_moved resolved).trans (writeFrame_moved _ _ _ _)).trans (ih _ _ rest)

theorem writePosition_moved {img : List Byte} {home turn keep : Bool} {p : Nat} {kv : List (List Byte)} {cols ks : Map Column} {x y : Range}
    (h : writePosition img home turn keep p kv cols x = .ok (ks, y)) : FramesMoved x.core y.core := by
  simp only [writePosition] at h
  split at h
  · cases h
  next cs z opens =>
    have opened : FramesMoved x.core z.core := by
      split at opens
      · cases opens
        exact .refl _
      · exact openColumn_moved opens
    split at h
    · cases h
      exact opened
    · split at h
      · cases h
      next written =>
        cases h
        exact opened.trans (writeLayers_moved _ _ _ written)

theorem writeCtl_moved {turn : Bool} {x y : Range} (h : writeCtl turn x = .ok y) : FramesMoved x.core y.core := by
  simp only [writeCtl] at h
  split at h
  · cases h
  next resolved =>
    cases h
    have moved := resolveWrite_moved resolved
    exact moved

/-! ## Writes to frames that are a session's own (R160) -/

/-- R160: a leaf's page may be written where it lies: no checkpoint holds it, and no other range names its frame. -/
def freeLeaf (c : Core) (l : Leaf) : Prop := l.hold = false ∧ (l.cow = true → frameCount c l.frame ≤ 1)

/-- R160: a page that may be written where it lies is not copied. -/
theorem resolveWrite_free (turn keep : Bool) {l : Leaf} {x : Range} (h : freeLeaf x.core l) :
    resolveWrite turn keep l x = .ok ({ l with cow := false, shared := if l.cow then false else l.shared }, x) := by
  obtain ⟨held, single⟩ := h
  have stays : (l.cow && decide (1 < frameCount x.core l.frame)) = false := by
    cases hc : l.cow with
    | false => rfl
    | true => simp [single hc]
  simp only [resolveWrite, held, Bool.false_or, stays, Bool.false_and, Bool.false_eq_true, if_false]

/-- R160: writing a page changes no frame's references. -/
theorem frameCount_writeFrame (c : Core) (f off : Nat) (bs : List Byte) (g : Nat) : frameCount (writeFrame c f off bs) g = frameCount c g := by
  by_cases hg : g = f
  · subst hg
    simp [frameCount, writeFrame, mapGet_mod_same]
    rfl
  · simp [frameCount, writeFrame, mapGet_mod_other _ _ _ _ hg]

/-- R320: layers whose pages may be written where they lie are written. -/
theorem writeLayers_free (turn keep : Bool) (off : Nat) (ls : List Leaf) (bss : List (List Byte)) (x : Range) (h : ∀ l ∈ ls, freeLeaf x.core l) :
    ∃ ks y, writeLayers turn keep off ls bss x = .ok (ks, y) ∧ y.warm = x.warm ∧ ∀ f, frameCount y.core f = frameCount x.core f := by
  induction ls generalizing bss x with
  | nil => exact ⟨[], x, by simp [writeLayers], rfl, fun _ => rfl⟩
  | cons l ls ih =>
    cases bss with
    | nil => exact ⟨l :: ls, x, by simp [writeLayers], rfl, fun _ => rfl⟩
    | cons bs bss =>
      have counts := frameCount_writeFrame x.core l.frame off bs
      obtain ⟨ks, y, rest, warm, kept⟩ := ih bss ⟨writeFrame x.core l.frame off bs, x.warm⟩ fun k hk => by
        obtain ⟨held, single⟩ := h k (List.mem_cons_of_mem l hk)
        exact ⟨held, fun hc => by rw [counts]; exact single hc⟩
      refine ⟨{ l with cow := false, shared := if l.cow then false else l.shared } :: ks, y, ?_, warm, fun f => (kept f).trans (counts f)⟩
      simp only [writeLayers, resolveWrite_free turn keep (h l List.mem_cons_self), rest]

/-- R188, R320: a position of an open column whose pages may be written where they lie is written. -/
theorem writePosition_free {img : List Byte} {home turn keep : Bool} {p : Nat} {kv : List (List Byte)} {cols : Map Column} {x : Range} {col : Column}
    (hc : mapGet cols (p / pageP img) = some col) (h : ∀ l ∈ col.leaves, freeLeaf x.core l) :
    ∃ ks y, writePosition img home turn keep p kv cols x = .ok (ks, y) ∧ y.warm = x.warm ∧ ∀ f, frameCount y.core f = frameCount x.core f := by
  obtain ⟨ls, y, written, warm, kept⟩ := writeLayers_free turn keep (p % pageP img * kvBytes img) col.leaves kv x h
  exact ⟨mapSet cols (p / pageP img) { col with leaves := ls }, y, by simp [writePosition, mapHas, hc, written], warm, kept⟩

theorem writeCtl_free (turn : Bool) {x : Range} (h : freeLeaf x.core x.warm.ctlLeaf) : ∃ y, writeCtl turn x = .ok y := by
  simp [writeCtl, resolveWrite_free turn false h]

end Sys2Proof.Machine
namespace Sys2Proof.Machine

/-! ## What leaves every entry and every row as it is -/

/-- The directory and the rows of every step stay. -/
def StepsKept (c d : Core) : Prop := d.sess.dir = c.sess.dir ∧ RowsKept c d

namespace StepsKept

theorem refl (c : Core) : StepsKept c c := ⟨rfl, .refl c⟩

theorem trans {a b c : Core} (h : StepsKept a b) (k : StepsKept b c) : StepsKept a c := ⟨k.1.trans h.1, h.2.trans k.2⟩

theorem entryOf {c d : Core} (h : StepsKept c d) (sid : Nat) : entryOf d sid = entryOf c sid := entryOf_congr h.1 sid

theorem of_same {c d : Core} (dir : d.sess.dir = c.sess.dir) (sched : d.sched = c.sched) : StepsKept c d := ⟨dir, fun _ => by rw [sched]⟩

end StepsKept

theorem FramesMoved.kept {c d : Core} (h : FramesMoved c d) : StepsKept c d := .of_same (by rw [h.sess]) h.sched
theorem ToldMoved.kept {c d : Core} (h : ToldMoved c d) : StepsKept c d := .of_same h.dir h.sched
theorem SchedMoved.kept {c d : Core} (h : SchedMoved c d) (rows : RowsKept c d) : StepsKept c d := ⟨by rw [h.sess], rows⟩

theorem setEntry_rows (c : Core) (sid : Nat) (e : Entry) : RowsKept c (setEntry c sid e) := fun _ => by rw [setEntry_sched]
theorem modEntry_rows (c : Core) (sid : Nat) (f : Entry → Entry) : RowsKept c (modEntry c sid f) := setEntry_rows c sid _
theorem storeRange_rows (x : Range) (sid : Nat) : RowsKept x.core (storeRange x sid) := modEntry_rows { x.core with sess := _ } sid _

/-! ## The end of a turn (R24, R39, R40) -/

theorem rollRange_moved (w : Warm) (m : Mark) (P : Nat) (c : Core) : FramesMoved c (rollRange w m P c).core := by
  have gone := ((dropLeaves_moved c ((w.columns.filter fun p => m.nextPosition ≤ p.1 * P).flatMap fun p => p.2.leaves)).trans
    (dropLeaves_moved _ ((w.mapPages.filter fun p => !m.mapPages.contains p.1).map (·.2)))).trans (.foldl dropRef_moved (w.tables.drop m.tables) _)
  simp only [rollRange]
  split
  · exact gone
  · exact gone.trans (dropLeaves_moved _ _)

/-- R450: a session's rows leave the queues and batches of its die, and its turn is told of. -/
theorem leaveTold_kept (c : Core) (sid : Nat) (die : Bool) (a : Nat) (t : Turn) (st : Status) (n reason : Nat) (cancelled : Bool) :
    StepsKept c (completeTurn (unplan (leaveDecode c die a sid) die sid) sid t st n reason cancelled) :=
  (((leaveDecode_sched c die a sid).kept (leaveDecode_rows c die a sid)).trans ((unplan_sched _ die sid).kept (unplan_rows _ die sid))).trans
    (completeTurn_told _ sid t st n reason cancelled).kept

/-- R24, R39: a turn ends in IDLE or WAITING. -/
theorem endState_cases (p : Prop) [Decidable p] :
    (if p then SState.waiting else SState.idle) = .idle ∨ (if p then SState.waiting else SState.idle) = .waiting := by
  split
  · exact .inr rfl
  · exact .inl rfl

theorem endState_ne_free (p : Prop) [Decidable p] : (if p then SState.waiting else SState.idle) ≠ .free := by
  rcases endState_cases p with h | h <;> simp [h]

theorem endTurn_rows (c : Core) (sid reason : Nat) (st : Status) (w : Warm) (t : Turn) : RowsKept c (endTurn c sid reason st w t) := by
  simp only [endTurn]
  refine .trans ?_ (leaveTold_kept _ sid _ _ t st _ reason false).2
  refine .trans ?_ (modEntry_rows _ sid _)
  refine .trans ?_ (storeRange_rows _ sid)
  have moved := (dropMark_moved (⟨c, { (if 0 < (entryOf c sid).step then { w with columns := w.columns.map fun p => (p.1, decayScore t.decay p.2) } else w) with
    turn := none }⟩ : Range)).trans (giveRoom_moved _)
  exact moved.kept.2

/-- R39: a turn that ends leaves its session's entry without mark and cancel, and its position as it was. -/
theorem entryOf_endTurn {c : Core} {sid : Nat} (hf : (entryOf c sid).state ≠ .free) (reason : Nat) (st : Status) (w : Warm) (t : Turn) : ∃ p q, entryOf (endTurn c sid reason st w t) sid =
    { endEntry (entryOf c sid) (if reason = 5 || reason = 6 then .waiting else .idle) reason with privateFrames := p, reservedFrames := q } := by
  simp only [endTurn]
  rw [(leaveTold_kept _ sid _ _ t st _ reason false).entryOf]
  generalize ({ (if 0 < (entryOf c sid).step then { w with columns := w.columns.map fun p => (p.1, decayScore t.decay p.2) } else w) with
    turn := none } : Warm) = u
  have moved := (dropMark_moved ⟨c, u⟩).trans (giveRoom_moved _)
  have stored := entryOf_storeRange (giveRoom (dropMark ⟨c, u⟩)) sid (by rw [moved.entryOf]; exact hf)
  rw [entryOf_modEntry _ _ _ (endState_ne_free _), stored, moved.entryOf]
  exact ⟨_, _, rfl⟩

/-- R24, R40: a turn that is cancelled leaves its session IDLE or WAITING. -/
theorem entryOf_cancelTurn (c : Core) (sid : Nat) (w : Warm) (t : Turn) :
    (entryOf (cancelTurn c sid w t) sid).state = .idle ∨ (entryOf (cancelTurn c sid w t) sid).state = .waiting := by
  simp only [cancelTurn]
  rw [(leaveTold_kept _ sid _ _ t _ _ 7 true).entryOf, entryOf_modEntry _ _ _ (endState_ne_free _)]
  exact endState_cases _

end Sys2Proof.Machine
namespace Sys2Proof.Machine

/-! ## The decode step of a session that commits (R308 to R312) -/

theorem dropKeep_kept (c : Core) (sid : Nat) : StepsKept c (dropKeep c sid) := by
  unfold dropKeep
  split
  · exact .of_same rfl rfl
  · exact .refl c

theorem pushStream_kept (c : Core) (sid : Nat) (e : Entry) (t : Turn) (n k be : Nat) (last : Bool) : StepsKept c (pushStream c sid e t n k be last) := by
  unfold pushStream
  split
  · exact .refl c
  · exact (giveRec_told c _).kept

/-- R308, R310: a session's decode step has moved it on by one position, before its turn may end. -/
structure SteppedOn (c : Core) (sid : Nat) (b : Core) : Prop where
  entry : ∃ n p q, entryOf b sid = { entryOf c sid with nextPosition := (entryOf c sid).nextPosition + 1
                                                        step := (entryOf c sid).step + 1, resident := n, privateFrames := p, reservedFrames := q }
  rows : RowsKept c b

theorem SteppedOn.kept {c a b : Core} {sid : Nat} (h : SteppedOn c sid a) (k : StepsKept a b) : SteppedOn c sid b := by
  obtain ⟨⟨n, p, q, entry⟩, rows⟩ := h
  exact ⟨⟨n, p, q, (k.entryOf sid).trans entry⟩, rows.trans k.2⟩

/-- R310: the entry and the range of a session whose step is written. -/
theorem steppedOn_stored {c y : Core} {sid : Nat} {e : Entry} (w : Warm) (moved : FramesMoved c y) (hf : (entryOf c sid).state ≠ .free)
    (he : e = { entryOf c sid with nextPosition := (entryOf c sid).nextPosition + 1, resident := (entryOf c sid).resident + 1
                                   step := (entryOf c sid).step + 1 }) :
    SteppedOn c sid (storeRange ⟨setEntry (dropKeep y sid) sid e, w⟩ sid) := by
  have hfe : e.state ≠ .free := by rw [he]; exact hf
  have set : entryOf (setEntry (dropKeep y sid) sid e) sid = e := entryOf_set_same _ _ _ hfe
  refine ⟨?_, (moved.kept.trans (dropKeep_kept y sid)).2.trans ((setEntry_rows _ _ _).trans (storeRange_rows _ sid))⟩
  have stored := entryOf_storeRange ⟨setEntry (dropKeep y sid) sid e, w⟩ sid (by rw [set]; exact hfe)
  rw [stored, set, he]
  exact ⟨_, _, _, rfl⟩

/-- R308 to R312: how a decode step commits: the session moves on, and its turn may end with it. -/
theorem decodeCommit_done {c c' : Core} {sid : Nat} {text : Bool} (h : decodeCommit c sid text = .done c') (hf : (entryOf c sid).state ≠ .free) :
    ∃ b w t, SteppedOn c sid b ∧ (c' = b ∨ (∃ reason st, c' = endTurn b sid reason st w t) ∨
      ((entryOf c sid).cancelPending = true ∧ c' = cancelTurn b sid w t)) := by
  unfold decodeCommit at h
  extract_lets e at h
  split at h
  · cases h
  split at h
  case h_2 => cases h
  rename_i t tok _ _
  extract_lets at h
  split at h
  · cases h
  split at h
  · cases h
  split at h
  · cases h
  split at h
  · cases h
  split at h
  · cases h
  split at h
  · cases h
  split at h
  next blocked _ => cases blocked <;> cases h
  next cols x written =>
    split at h
    next blocked _ => cases blocked <;> cases h
    next y ctlWritten =>
      extract_lets cols' u w' c1 c2 c3 b at h
      have told : SteppedOn c sid c3 :=
        (steppedOn_stored w' ((writePosition_moved written).trans (writeCtl_moved ctlWritten)) hf rfl).kept (mirror_told _ sid _).kept
      have on : SteppedOn c sid b := by
        simp only [b]
        split
        · exact told.kept (pushStream_kept _ _ _ _ _ _ _ _)
        · exact told
      clear_value b w'
      split at h
      next => exact ⟨b, w', _, on, .inr (.inl ⟨8, .dataError, (Commit.done.inj h).symm⟩)⟩
      split at h
      next => exact ⟨b, w', t, on, .inl (Commit.done.inj h).symm⟩
      next reason _ =>
        have ends := (Commit.done.inj h).symm
        split at ends
        next cancelled => exact ⟨b, w', _, on, .inr (.inr ⟨cancelled, ends⟩)⟩
        next => exact ⟨b, w', _, on, .inr (.inl ⟨reason, .ok, ends⟩)⟩

section
variable {c c' : Core} {sid : Nat} {text : Bool} (h : decodeCommit c sid text = .done c')
include h

/-- R308, R310, R22: a RUNNING session whose step commits is one position further and goes on, or its turn has ended. -/
theorem decodeCommit_entry (running : (entryOf c sid).state = .running) :
    ((entryOf c' sid).state = .running ∧ (entryOf c' sid).nextPosition = (entryOf c sid).nextPosition + 1 ∧ (entryOf c' sid).step = (entryOf c sid).step + 1) ∨
      (entryOf c' sid).state = .idle ∨ (entryOf c' sid).state = .waiting := by
  obtain ⟨b, w, t, ⟨⟨n, p, q, on⟩, -⟩, rfl | ⟨reason, st, rfl⟩ | ⟨-, rfl⟩⟩ := decodeCommit_done h (by simp [running])
  · rw [on]
    exact .inl ⟨running, rfl, rfl⟩
  · obtain ⟨p', q', ended⟩ := entryOf_endTurn (c := b) (sid := sid) (by rw [on]; simp [running]) reason st w t
    rw [ended]
    exact .inr (endState_cases _)
  · exact .inr (entryOf_cancelTurn b sid w t)

/-- R308, R310: with no cancel pending, the step's rows stay and the session is one position further, whether its turn has ended or not. -/
theorem decodeCommit_moves (running : (entryOf c sid).state = .running) (going : (entryOf c sid).cancelPending = false) :
    (entryOf c' sid).nextPosition = (entryOf c sid).nextPosition + 1 ∧ RowsKept c c' := by
  obtain ⟨b, w, t, ⟨⟨n, p, q, on⟩, rows⟩, rfl | ⟨reason, st, rfl⟩ | ⟨cancelled, -⟩⟩ := decodeCommit_done h (by simp [running])
  · rw [on]
    exact ⟨rfl, rows⟩
  · obtain ⟨p', q', ended⟩ := entryOf_endTurn (c := b) (sid := sid) (by rw [on]; simp [running]) reason st w t
    rw [ended, on]
    exact ⟨rfl, rows.trans (endTurn_rows b sid reason st w t)⟩
  · simp [going] at cancelled
end

end Sys2Proof.Machine
namespace Sys2Proof.Machine

/-- R191: a session without pooled columns needs no staging frames. -/
theorem noStaging_local {c : Core} {img : List Byte} {e : Entry} {cols : Map Column} (h : ∀ q ∈ cols, q.2.pooled = false) :
    noStaging c img e cols = false := by
  have none : (cols.any fun q => q.2.pooled) = false := List.any_eq_false.mpr fun q hq => by simp [h q hq]
  rw [noStaging, none, Bool.false_and]

/-- R312: no record of a session that is not mirrored waits for room. -/
theorem mirrorRoom_alone {c : Core} {r : MirrorRec} {sid : Nat} (hs : r.session = sid) (h : mirrored c sid = false) : (!mirrorRoom c r) = false := by
  rw [mirrorRoom, hs, h, Bool.not_false, Bool.true_or, Bool.not_true]

/-- R308: the pass of a session's decode row, for its pending token at its next position. -/
def stepPass (c : Core) (sid tok : Nat) (w : Warm) : Pass :=
  let e := entryOf c sid
  let img := sessImg c sid
  forwardToken img (kvOfColumns c e img w.columns) tok e.nextPosition (attended w.columns (pageP img) e.nextPosition)

section
variable {c : Core} {sid tok : Nat} {w : Warm} {t : Turn} {col : Column}

/-- R308 to R313: a decode step of a session whose pages are its own and sound commits when its logits are numbers and its record finds room. -/
theorem decodeCommit_plain (warm : mapGet c.sess.warm sid = some w) (turn : w.turn = some t) (pending : w.ctl.pendingTok = some tok)
    (alone : mirrored c sid = false) (early : (entryOf c sid).nextPosition < positionLimit) (resident : ∀ q ∈ w.columns, q.2.pooled = false)
    (sound : ∀ f ∈ rangeFrames w w.columns, frameBad c f = false)
    (hc : mapGet w.columns ((entryOf c sid).nextPosition / pageP (sessImg c sid)) = some col) (leaves : ∀ l ∈ col.leaves, freeLeaf c l)
    (ctlLeaf : freeLeaf c w.ctlLeaf)
    (good : (stepPass c sid tok w).bad = false)
    (numbers : badLogits (logitsOf (sessImg c sid) (stepPass c sid tok w).x)
      (fun i => match sessionGrammar c (entryOf c sid) with | none => true | some g => maskBit g w.ctl i)
      (fun i => w.ctl.seen.contains i) t.repPenalty t.temperature = false)
    (room : recordRoom (dropKeep c sid) t = true) : ∃ c', decodeCommit c sid true = .done c' := by
  generalize h : decodeCommit c sid true = out
  unfold decodeCommit at h
  extract_lets e at h
  split at h
  next cold => simp [warm] at cold
  next w' isWarm =>
  obtain rfl : w = w' := Option.some.inj (warm.symm.trans isWarm)
  split at h
  case h_2 other => exact absurd pending (other _ _ turn)
  next t' tok' isTurn isPending =>
  obtain rfl : t = t' := Option.some.inj (turn.symm.trans isTurn)
  obtain rfl : tok = tok' := Option.some.inj (pending.symm.trans isPending)
  extract_lets at h
  split at h
  next late => exact absurd late (Nat.not_le.mpr early)
  split at h
  next f bad => exact absurd (List.find?_some bad) (by simp [sound f (List.mem_of_find?_eq_some bad)])
  split at h
  next bad => exact absurd ((Bool.or_eq_false_iff.mpr ⟨good, numbers⟩).symm.trans bad) Bool.false_ne_true
  split at h
  next short => simp [noStaging_local resident] at short
  split at h
  next full => simp [room] at full
  split at h
  next held => exact absurd (Eq.trans (mirrorRoom_alone (by rfl) alone).symm held) Bool.false_ne_true
  obtain ⟨ks, x, written, stays, counts⟩ := writePosition_free (home := e.homeDie) (turn := true) (keep := false)
    (kv := (stepPass c sid tok w).kv) (x := ⟨c, w⟩) hc leaves
  split at h
  next failed => cases failed.symm.trans written
  next cols x' written' =>
  cases written'.symm.trans written
  obtain ⟨y, ctlWritten⟩ := writeCtl_free true (x := x) (by rw [stays]; exact ⟨ctlLeaf.1, fun hc => by rw [counts]; exact ctlLeaf.2 hc⟩)
  split at h
  next failed => cases failed.symm.trans ctlWritten
  extract_lets at h
  split at h
  · exact ⟨_, h.symm⟩
  split at h
  · exact ⟨_, h.symm⟩
  · exact ⟨_, h.symm⟩
end

end Sys2Proof.Machine
namespace Sys2Proof.Machine

/-! ## A row leaves its step (R312, R444) -/

/-- A row that leaves its step changes neither the directory nor the warm contents. -/
theorem removeRow_sess (c : Core) (die : Bool) (sid : Nat) (committed : Bool) : (removeRow c die sid committed).sess = c.sess := by
  have kept : ∀ x : Core, (dropKeep x sid).sess = x.sess := fun x => by
    unfold dropKeep
    split <;> rfl
  simp only [removeRow]
  split <;> split <;> exact kept _

theorem removeRow_rows (c : Core) (die : Bool) (sid : Nat) (committed : Bool) :
    ((removeRow c die sid committed).sched.get die).rows = (c.sched.get die).rows.filter fun q => q.session != sid := by
  have kept : ∀ x : Core, (dropKeep x sid).sched = x.sched := fun x => by
    unfold dropKeep
    split <;> rfl
  have left : ∀ x : Core, ((({ dropKeep x sid with sched := (dropKeep x sid).sched.mod die fun s =>
      { s with rows := s.rows.filter fun r => r.session != sid, waitMirror := s.waitMirror.filter (· != sid) } } : Core)).sched.get die).rows =
      (x.sched.get die).rows.filter fun q => q.session != sid := fun x => by simp [kept]
  simp only [removeRow]
  split <;> split <;> exact left _

theorem countWalks_kept (c : Core) : StepsKept c (countWalks c) := .of_same rfl rfl
theorem countSince_kept (c : Core) (sid : Nat) : StepsKept c (countSince c sid) := .of_same rfl rfl

theorem retireFwd_kept (c : Core) (e : Fwd) : StepsKept c (retireFwd c e) := by
  unfold retireFwd
  split
  · exact .refl c
  · exact .of_same rfl rfl

theorem retireAll_kept (l : Map Fwd) (c : Core) : StepsKept c (l.foldl (fun c p => retireFwd c p.2) c) := by
  induction l generalizing c with
  | nil => exact .refl c
  | cons p l ih => exact (retireFwd_kept c p.2).trans (ih _)

theorem walkSession_kept (c : Core) (sid : Nat) : StepsKept c (walkSession c sid) := by
  simp only [walkSession]
  split
  · exact .refl c
  · exact (StepsKept.of_same rfl rfl).trans (retireAll_kept _ _)

theorem chargeTake_kept (c : Core) (die : Bool) (a b n : Nat) : StepsKept c (chargeTake c die a b n) := by
  unfold chargeTake
  split
  · exact (modAcct_sched _ _ _ _).kept (modAcct_rows _ _ _ _)
  · exact (modAcct_sched _ _ _ _).kept (modAcct_rows _ _ _ _)
  · exact .refl c

/-! ## The commit of a part of a step (R312, R444, R451) -/

/-- R312, R444: what a committed part of a step leaves of the state that its output gives. -/
def partCommitted (c : Core) (die : Bool) (sid : Nat) (r : Row) : Core :=
  walkSession (countWalks (removeRow (chargeTake c die r.account r.bucket r.charge) die sid true)) sid

theorem partCommitted_entry (c : Core) (die : Bool) (sid : Nat) (r : Row) (x : Nat) : entryOf (partCommitted c die sid r) x = entryOf c x := by
  rw [partCommitted, (walkSession_kept _ sid).entryOf, (countWalks_kept _).entryOf, entryOf_congr (congrArg _ (removeRow_sess _ _ _ _)),
    (chargeTake_kept _ _ _ _ _).entryOf]

theorem partCommitted_rows (c : Core) (die : Bool) (sid : Nat) (r : Row) :
    ((partCommitted c die sid r).sched.get die).rows = (c.sched.get die).rows.filter fun q => q.session != sid := by
  rw [partCommitted, (walkSession_kept _ sid).2, (countWalks_kept _).2, removeRow_rows, (chargeTake_kept _ _ _ _ _).2]

/-- R444: a row whose account has no bucket has no charge. -/
theorem partCommitted_free (c : Core) (die : Bool) (sid : Nat) {r : Row} (h : r.bucket = 0) :
    partCommitted c die sid r = walkSession (countWalks (removeRow c die sid true)) sid := by
  rw [partCommitted, h]
  rfl

section
variable {s : State} {die text : Bool} {sid : Nat} {r : Row} {c' : Core} (serves : serving s.core = true) (here : s.core.twin.gaveUp = false)
  (rows : (s.core.sched.get die).rows = [r]) (own : r.session = sid) (small : sid < 2 ^ 24) (quiet : unitsBusy s.core (.step die sid) = false)
  (sound : r.faults = [])
include serves here rows own small quiet sound

/-- R312: the one row of a step whose decode output is ready commits. -/
theorem exec_stepCommit_decode (decodes : r.chunk = 0) (h : decodeCommit s.core sid text = .done c') :
    exec (.stepCommit die sid text) s = .next { s with core := waking s.core die fun _ => countSince (partCommitted c' die sid r) sid } := by
  have found : (s.core.sched.get die).rows.find? (fun r => r.session == sid) = some r := by simp [rows, own]
  have commits : stepCommit s.core die sid text = countSince (partCommitted c' die sid r) sid := by
    simp only [stepCommit, found, serves, here, quiet, decodes, h, sound, worstFault, Nat.not_le.mpr small, small, if_true, if_false]
    rfl
  rw [← commits]
  rfl

/-- The same of a prefill row. -/
theorem exec_stepCommit_chunk (chunk : 0 < r.chunk) (h : chunkCommit s.core sid r.chunk = .done c') :
    exec (.stepCommit die sid text) s = .next { s with core := waking s.core die fun _ => partCommitted c' die sid r } := by
  have found : (s.core.sched.get die).rows.find? (fun r => r.session == sid) = some r := by simp [rows, own]
  have commits : stepCommit s.core die sid text = partCommitted c' die sid r := by
    simp only [stepCommit, found, serves, here, quiet, h, sound, worstFault, Nat.not_le.mpr small, small, (Nat.ne_of_lt chunk).symm, if_true, if_false]
    rfl
  rw [← commits]
  rfl
end

end Sys2Proof.Machine
namespace Sys2Proof.Machine

/-! ## A part of a step that fails (R22, R23, R477) -/

theorem finalRecord_kept (c : Core) (sid : Nat) (e : Entry) (t : Turn) : StepsKept c (finalRecord c sid e t).1 := by
  simp only [finalRecord]
  split
  · exact .refl c
  · exact pushStream_kept _ _ _ _ _ _ _ _

theorem logFault_sess (c : Core) (die : Bool) (sid op : Nat) (st : Status) : (logFault c die sid op st).sess = c.sess := by
  cases st <;> simp [logFault]

theorem logFault_sched (c : Core) (die : Bool) (sid op : Nat) (st : Status) : (logFault c die sid op st).sched = c.sched := by
  cases st <;> simp [logFault]

/-- R22, R23: a turn with no cancel pending that stops for a fault leaves its session IDLE, where it was. -/
theorem stopTurn_stops {c : Core} {sid : Nat} {st : Status} {w : Warm} {t : Turn} (warm : mapGet c.sess.warm sid = some w) (turn : w.turn = some t)
    (going : (entryOf c sid).cancelPending = false) (hf : (entryOf c sid).state ≠ .free) :
    (∃ p q, entryOf (stopTurn c sid 8 st) sid = { endEntry (entryOf c sid) .idle 8 with privateFrames := p, reservedFrames := q }) ∧
      RowsKept c (stopTurn c sid 8 st) := by
  have told := finalRecord_kept c sid (entryOf c sid) t
  have stops : stopTurn c sid 8 st = endTurn (finalRecord c sid (entryOf c sid) t).1 sid 8 st w (finalRecord c sid (entryOf c sid) t).2 := by
    simp [stopTurn, warm, turn, going]
  obtain ⟨p, q, ended⟩ := entryOf_endTurn (c := (finalRecord c sid (entryOf c sid) t).1) (sid := sid) (by rw [told.entryOf]; exact hf) 8 st w
    (finalRecord c sid (entryOf c sid) t).2
  rw [stops]
  refine ⟨⟨p, q, ?_⟩, told.2.trans (endTurn_rows _ _ _ _ _ _)⟩
  rw [ended, told.entryOf]
  rfl

/-- The state on which a failed part of a step stops its turn: the fault is logged, the charge dropped and the row gone. -/
def partDropped (c : Core) (die : Bool) (sid : Nat) (r : Row) (st : Status) : Core :=
  removeRow (chargeDrop (logFault c die (sid % 2 ^ 24) (rowOpcode r) st) die r.account r.bucket r.charge) die sid false

theorem partDropped_sess (c : Core) (die : Bool) (sid : Nat) (r : Row) (st : Status) : (partDropped c die sid r st).sess = c.sess := by
  rw [partDropped, removeRow_sess, (chargeDrop_sched _ _ _ _ _).sess, logFault_sess]

theorem partDropped_rows (c : Core) (die : Bool) (sid : Nat) (r : Row) (st : Status) :
    ((partDropped c die sid r st).sched.get die).rows = (c.sched.get die).rows.filter fun q => q.session != sid := by
  rw [partDropped, removeRow_rows, chargeDrop_rows, logFault_sched]

/-- R23, R477: the one decode row of a step fails with the worst of the faults that met it, unless that is the loss of its session. -/
theorem exec_stepFailed_decode {s : State} {die : Bool} {sid : Nat} {r : Row} {faults : List Status} {st : Status} (isReady : ready s.core = true)
    (rows : (s.core.sched.get die).rows = [r]) (own : r.session = sid) (small : sid < 2 ^ 24) (decodes : r.chunk = 0) (sound : r.faults = [])
    (worst : worstFault faults = some st) (present : st ≠ .lost) :
    exec (.stepFailed die sid faults) s = .next { s with core := stopTurn (partDropped s.core die sid r st) sid 8 st } := by
  have found : (s.core.sched.get die).rows.find? (fun r => r.session == sid) = some r := by simp [rows, own]
  have fails : stepFailed s.core die sid faults = stopTurn (partDropped s.core die sid r st) sid 8 st := by
    simp only [stepFailed, found, worst, sound, List.append_nil, Option.getD_some, present, decide_false, Bool.false_and, Bool.false_eq_true, if_false,
      failRow, own, Nat.not_le.mpr small, decodes, if_true]
    rfl
  rw [← fails]
  show execStepFailed die sid faults s = _
  simp [execStepFailed, whenReady, isReady]

theorem entryOf_waking (c : Core) (die : Bool) (f : Core → Core) (x : Nat) : entryOf (waking c die f) x = entryOf (f c) x := rfl

/-- Settles O23: a part of a step commits what its output gives (`exec_stepCommit_decode`, `exec_stepCommit_chunk`, with `decodeCommit_entry` for where a turn then stands); a plain decode step has an output (`decodeCommit_plain`); a fault stops the turn (`exec_stepFailed_decode`). -/
theorem stepCommitsAndFaults : Obligations.StepCommitsAndFaults := by
  unfold Obligations.StepCommitsAndFaults
  refine ⟨?_, ?_, ?_⟩
  · intro die text sid r c' s serves here rows own small quiet free sound
    refine ⟨fun decodes output => ⟨?_, removeRow_rows c' die sid true⟩, fun _ output running => decodeCommit_entry output running, fun chunk output => ?_⟩
    · rw [exec_stepCommit_decode serves here rows own small quiet sound decodes output, partCommitted_free _ _ _ free]
    · rw [exec_stepCommit_chunk serves here rows own small quiet sound chunk output, partCommitted_free _ _ _ free]
  · intro die sid tok r w t col s serves here ⟨hrun, hre, h2, h3⟩ rows own decodes sound small quiet warm turn pending e img p pass g free running going early
      resident frames hc leaves ctlLeaf good numbers room
    obtain ⟨c', output⟩ := decodeCommit_plain warm turn pending (mirrored_alone h2 h3 sid) early resident frames hc leaves ctlLeaf good numbers room
    obtain ⟨position, kept⟩ := decodeCommit_moves output running going
    have ends := decodeCommit_entry output running
    have entry : entryOf (waking s.core die fun _ => countSince (partCommitted c' die sid r) sid) sid = entryOf c' sid :=
      (entryOf_waking s.core die _ sid).trans (((countSince_kept _ sid).entryOf sid).trans (partCommitted_entry c' die sid r sid))
    refine ⟨_, exec_stepCommit_decode serves here rows own small quiet sound decodes output, ?_, ?_, ?_⟩
    · rw [waking_rows s.core die _ die, (countSince_kept _ _).2, partCommitted_rows, kept, rows]
      simp [own]
    · rw [entry]
      exact position
    · rw [entry]
      exact ends.imp_left fun ⟨goes, _, steps⟩ => ⟨goes, steps⟩
  · intro die sid r w t faults st s isReady _ rows own decodes sound small worst present warm turn going running
    have entry : entryOf (partDropped s.core die sid r st) sid = entryOf s.core sid := entryOf_congr (congrArg _ (partDropped_sess _ _ _ _ _)) sid
    obtain ⟨⟨p, q, stopped⟩, kept⟩ := stopTurn_stops (c := partDropped s.core die sid r st) (sid := sid) (st := st) (by rw [partDropped_sess]; exact warm) turn
      (by rw [entry]; exact going) (by rw [entry, running]; decide)
    refine ⟨_, exec_stepFailed_decode isReady rows own small decodes sound worst present, ?_⟩
    simp only [stopped, entry, kept die, partDropped_rows, rows]
    simp [endEntry, own]

end Sys2Proof.Machine

/-! PROOFS of the architecture statements (02_architecture): an APPEND that is refused, REVIVE, cores, clusters, regions, stacks, dies and loft frames that leave service. -/

namespace Sys2Proof.Machine

/-! ## APPEND of token ids from an address that is not aligned (R273) -/

/-- R273 check 1: token ids at an address that is not a multiple of 4 are refused, however many there are. -/
theorem run_appendBody_misaligned {d : Desc} {r : Run0} (hr : mapHas r.core.sess.reread r.sid = false) (ids : bit d.flags 1 = true)
    (ha : d.field 2 63 0 0 % 4 ≠ 0) : appendBody d r = .error (.fail .invalidField 0 0 r.core) := by
  simp [appendBody, run_leaseFirst hr, ids, ha]

/-- R273: so is the descriptor, on a device that is not paired. -/
theorem exec_append_misaligned {d : Desc} {s : State} (free : sessFree s.core d) (plain : plainSession s.core d.session) (own : ownAccount s.core d)
    (ids : bit d.flags 1 = true) (ha : d.field 2 63 0 0 % 4 ≠ 0) (env : Env) :
    exec (.append d env) s = .next { s with core := complete (beginSession s.core d) d .invalidField 0 0 } := by
  obtain ⟨hrun, hre, h2, h3⟩ := plain
  have twin := beginSession_twin hrun d
  have body := run_appendBody_misaligned (d := d) (r := begunRun s d env) (by rw [begunRun_core, beginSession_reread hrun]; exact hre) ids ha
  exact congrArg Host.Outcome.next (acceptSession_fail free hrun own body
    (mirrored_alone (by rw [twin]; exact h2) (by rw [twin]; exact h3) _))

/-- A serving device with the one IDLE session 9, of account 7; submission ring 2 completes into ring 1. -/
def idleNine : Core :=
  { setupDone := true
    power := { on := true, ready := true }
    link := { up := true }
    rings := { subs := [(2, { base := 0, log2 := 4, gen := 3, cq := 1, stream := none, prefetch := 0 })]
               cqs := [(1, { base := 0, log2 := 4, irqEn := false, vector := 0, count := 1, time := 0 })] }
    sess := { dir := [(9, { state := .idle, account := 7 })], warm := [(9, { ctlLeaf := { frame := 1 }, tables := [] })] } }

/-- APPEND of no token ids for session 9, on ring 2, from address 2. -/
def appendNone : Desc := ⟨2, 0, [BitVec.ofNat 64 (0x13 + 3 * 2 ^ 8 + 9 * 2 ^ 16 + 7 * 2 ^ 40 + 2 * 2 ^ 56), 0, 2, 0]⟩

theorem idleNine_answers : hostAnswers idleNine := by
  have open' : regGet idleNine 0x10 = 0 := by decide
  have intact : idleNine.link.insecure = 0 := rfl
  exact ⟨rfl, fun a => by simp [barredAt, slotBarred, open', intact, bit], by decide⟩

/-- The record of a completion says its status. -/
theorem appendNone_told : (complete (beginSession idleNine appendNone) appendNone .invalidField 0 0).rings.queue ≠
    (complete (beginSession idleNine appendNone) appendNone .ok 0 0).rings.queue := by decide

/-- Refutes O20: its clause for an empty segment has no premise on the address, and R273 check 1 refuses token ids at an address that is not a
multiple of 4 before R275 completes an empty segment. -/
theorem not_appendQueuesPrefill : ¬ Obligations.AppendQueuesPrefill := by
  unfold Obligations.AppendQueuesPrefill
  intro h
  let s : State := ⟨[], {}, idleNine⟩
  have free : sessFree s.core appendNone := by unfold sessFree; decide
  have plain : plainSession s.core appendNone.session := by unfold plainSession; decide
  have own : ownAccount s.core appendNone := .inr (by decide)
  obtain ⟨completes, -⟩ := h appendNone [] { ctlLeaf := { frame := 1 }, tables := [] } s free plain own idleNine_answers rfl rfl (.inl (by decide))
  have ok := completes (by decide) (.inl (by decide)) []
  rw [exec_append_misaligned free plain own (by decide) (by decide) []] at ok
  exact appendNone_told (congrArg (fun t : State => t.core.rings.queue) (Host.Outcome.next.inj ok))

end Sys2Proof.Machine
namespace Sys2Proof.Machine

/-! ## Revived ranges take frames (R394) -/

theorem freshRange_moved (c : Core) (home : Bool) : FramesMoved c (freshRange c home).core := by
  obtain ⟨frames, next, pairFree, e⟩ := freshRange_frame c home
  exact ⟨by rw [e], fun _ => by rw [e]⟩

theorem copyFrame_moved (c : Core) (die : Bool) (p f : Nat) : FramesMoved c (copyFrame c die p f).2 := ⟨rfl, fun _ => rfl⟩

theorem attachLeaf_moved {f : Nat} {x y : Range} {l : Leaf} (h : attachLeaf f x = .ok (l, y)) : FramesMoved x.core y.core := by
  simp only [attachLeaf] at h
  split at h
  · cases h
    exact addRef_moved _ _
  · split at h
    · cases h
    · split at h
      · cases h
      · cases h
        exact (reserveFree_moved _ _ _).trans (copyFrame_moved _ _ _ _)

theorem attachLeaves_moved (fs : List Nat) (x : Range) {ls : List Leaf} {y : Range} (h : attachLeaves fs x = .ok (ls, y)) :
    FramesMoved x.core y.core := by
  induction fs generalizing x ls y with
  | nil =>
    cases h
    exact .refl _
  | cons f fs ih =>
    simp only [attachLeaves] at h
    split at h
    · cases h
    next one =>
      split at h
      · cases h
      next rest =>
        cases h
        exact (attachLeaf_moved one).trans (ih _ rest)

theorem attachPages_moved (cols : List (List Nat)) (j : Nat) (x : Range) {m : Map Column} {y : Range} (h : attachPages cols j x = .ok (m, y)) :
    FramesMoved x.core y.core := by
  induction cols generalizing j x m y with
  | nil =>
    cases h
    exact .refl _
  | cons col cols ih =>
    simp only [attachPages] at h
    split at h
    · cases h
    next one =>
      split at h
      · cases h
      next rest =>
        cases h
        exact (attachLeaves_moved col x one).trans (ih _ _ rest)

theorem reviveLayers_moved {img : List Byte} {home : Bool} {cols : Map Column} {j : Nat} (ps : List (Nat × List Byte)) (x : Range)
    {ls : List Leaf} {y : Range}
    (h : reviveLayers img home cols j ps x = .ok (ls, y)) : FramesMoved x.core y.core := by
  induction ps generalizing x ls y with
  | nil =>
    cases h
    exact .refl _
  | cons p ps ih =>
    simp only [reviveLayers] at h
    split at h
    · cases h
    next took =>
      split at h
      · cases h
      next rest =>
        cases h
        exact (takeFrame_moved took).trans (ih _ rest)

theorem reviveMaps_moved {home : Bool} (ms : List Nat) (x : Range) {y : Range} (h : reviveMaps home ms x = .ok y) : FramesMoved x.core y.core := by
  induction ms generalizing x with
  | nil =>
    cases h
    exact .refl _
  | cons m ms ih =>
    simp only [reviveMaps] at h
    split at h
    · cases h
    next took =>
      have rest := ih _ h
      exact (takeFrame_moved took).trans rest

theorem reviveCols_moved {img : List Byte} {home : Bool} {p : Option Prefix} {hd : SheafHead} (cs : List (Nat × Column × List (List Byte))) (m : Map Column)
    (x : Range) {ks : Map Column} {y : Range} (h : reviveCols img home p hd cs m x = .ok (ks, y)) : FramesMoved x.core y.core := by
  induction cs generalizing m x with
  | nil =>
    cases h
    exact .refl _
  | cons c cs ih =>
    simp only [reviveCols] at h
    split at h
    · split at h
      · split at h
        · exact ih _ _ h
        · split at h
          · cases h
          next attached => exact (attachPages_moved _ _ _ attached).trans (ih _ _ h)
      · split at h
        · cases h
        next layers => exact (reviveLayers_moved _ _ layers).trans (ih _ _ h)
    · split at h
      · cases h
      next layers => exact (reviveLayers_moved _ _ layers).trans (ih _ _ h)

theorem reviveRange_moved {c : Core} {home : Bool} {p : Option Prefix} {sh : SheafRead} {x : Range} (h : reviveRange c home p sh = some x) :
    FramesMoved c x.core := by
  simp only [reviveRange] at h
  split at h
  · cases h
  · split at h
    · cases h
    next cols y built =>
      split at h
      · cases h
      · cases h
        split at built
        · cases built
        next pages =>
          split at built
          · cases built
          next maps =>
            have columns := reviveCols_moved _ _ _ built
            exact (((freshRange_moved c home).trans (mapPagesIn_moved pages)).trans (reviveMaps_moved _ _ maps)).trans columns

/-- R70, R394: wherever a sheaf is placed, frames are all that its placing takes. -/
theorem placeRevival_moved {c : Core} {sid : Nat} {sh : SheafRead} {home : Bool} {p : Option Prefix} {x : Range}
    (h : placeRevival c sid sh = some (home, p, x)) : FramesMoved c x.core := by
  have goes : ∀ home' p', (reviveRange c home' p' sh).map (fun x => (home', p', x)) = some (home, p, x) → FramesMoved c x.core := by
    intro home' p' h
    obtain ⟨y, range, e⟩ := Option.map_eq_some_iff.mp h
    cases e
    exact reviveRange_moved range
  simp only [placeRevival] at h
  split at h
  · exact (Option.or_eq_some_iff.mp h).elim (goes _ _) fun h => goes _ _ h.2
  · exact (Option.or_eq_some_iff.mp h).elim (goes _ _) fun h => goes _ _ h.2
  · exact goes _ _ h

/-- R392 check 4: a sheaf that reads well is of a session that was IDLE or WAITING. -/
theorem readSheaf_state {bs : List Byte} {sh : SheafRead} (h : readSheaf bs = some sh) :
    sh.head.entry.state = .idle ∨ sh.head.entry.state = .waiting := by
  simp only [readSheaf] at h
  split at h
  · cases h
  next good =>
    split at h
    · cases h
    · split at h
      · cases h
      · cases h
        simp only [headBad, Bool.or_eq_true, not_or, Bool.and_eq_true, bne_iff_ne, ne_eq] at good
        by_contra other
        exact good.1.2 (by simpa using other)

end Sys2Proof.Machine
namespace Sys2Proof.Machine

/-! ## What a revival leaves (R394) -/

theorem indexFramesTo_frames (ix : Map SheafIx) (c : Core) (die : Bool) : (indexFramesTo ix c die).mem.frames = c.mem.frames := by
  simp only [indexFramesTo, giveFree, takeFree]
  split <;> split <;> rfl

theorem clearIndex_frames (c : Core) (sid : Nat) : (clearIndex c sid).mem.frames = c.mem.frames := by
  simp only [clearIndex, putIndex, List.foldl, indexFramesTo_frames]

theorem freeBarn_frames (c : Core) (die : Bool) (f : Nat) : (freeBarn c die f).mem.frames = c.mem.frames := by
  simp only [freeBarn]
  split
  · rfl
  · split <;> rfl

theorem freeSpill_frames (c : Core) (unit : Nat) : (freeSpill c unit).mem.frames = c.mem.frames := rfl

/-- R393, R403: a stored sheaf that goes takes no frame of a session with it. -/
theorem freeStored_frames (c : Core) (sid : Nat) : (freeStored c sid).mem.frames = c.mem.frames := by
  simp only [freeStored]
  split
  · rfl
  · split
    · rw [freeBarn_frames, clearIndex_frames]
    · split
      · split
        · exact clearIndex_frames _ _
        · rw [freeSpill_frames, clearIndex_frames]
      · rfl

/-- R394 count0: the frames of a session are counted by where its frames lie. -/
theorem framesOn_congr {c d : Core} (h : d.mem.frames = c.mem.frames) (w : Warm) (home die : Bool) : framesOn d w home die = framesOn c w home die := by
  simp only [framesOn, frameDie, h]

/-- R394 steps 5 to 7: a revived session's index entry, its sheaf in a barn or in the spill region, and a lease of the twin's are gone. -/
def imageGone (c : Core) (sid : Nat) : Core := clearIndex (freeStored (leaseTaken c sid) sid) sid

theorem leaseTaken_mem (c : Core) (sid : Nat) : (leaseTaken c sid).mem = c.mem := rfl

theorem entryOf_regCount (c : Core) (o hi lo n sid : Nat) : entryOf (regCount c o hi lo n) sid = entryOf c sid := rfl

theorem imageGone_left (c : Core) (sid : Nat) : ∃ mem, imageGone c sid = { c with mem := mem, twin := (leaseTaken c sid).twin } ∧
    mapGet mem.index sid = none ∧ mem.frames = c.mem.frames := by
  obtain ⟨mem, stored⟩ : ∃ mem, freeStored (leaseTaken c sid) sid = { leaseTaken c sid with mem := mem } := ⟨_, freeStored_frame _ _⟩
  obtain ⟨left, cleared⟩ : ∃ left, imageGone c sid = { freeStored (leaseTaken c sid) sid with mem := left } := ⟨_, putIndex_frame _ _⟩
  have index : mapGet (imageGone c sid).mem.index sid = none := mapGet_del_same _ _
  have frames : (imageGone c sid).mem.frames = c.mem.frames := by
    rw [imageGone, clearIndex_frames, freeStored_frames, leaseTaken_mem]
  rw [cleared] at index frames
  exact ⟨left, by rw [cleared, stored]; rfl, index, frames⟩

theorem entryOf_imageGone (c : Core) (sid x : Nat) : entryOf (imageGone c sid) x = entryOf c x := by
  obtain ⟨mem, left, -⟩ := imageGone_left c sid
  rw [left]
  rfl

theorem modEntry_left (c : Core) (sid : Nat) (f : Entry → Entry) :
    ∃ dir changed, modEntry c sid f = { c with sess := { c.sess with dir := dir, changed := changed } } := by
  rw [modEntry, setEntry_frame, setEntry_sess]
  exact ⟨_, _, rfl⟩

/-- R394 step 6: storing a revived range touches the sessions alone. -/
theorem storeRevived_left (x : Range) (sid : Nat) (e : Entry) : ∃ dir changed, storeRevived x sid e =
    { x.core with sess := { x.core.sess with dir := dir, changed := changed, warm := mapSet x.core.sess.warm sid x.warm } } := by
  obtain ⟨_, _, first⟩ := modEntry_left (setWarm x.core sid x.warm) sid fun n =>
    { n with privateFrames := privateCount x.warm, reservedFrames := x.warm.room0 + x.warm.room1 }
  obtain ⟨dir, changed, second⟩ := modEntry_left (storeRange x sid) sid fun n =>
    { n with privateFrames := e.privateFrames, reservedFrames := e.reservedFrames }
  refine ⟨dir, changed, ?_⟩
  rw [storeRevived, second, storeRange, first]
  rfl

/-- R394 steps 5 to 7: the entry `e` and the range `x` of a revived session. -/
def revived (sid : Nat) (e : Entry) (x : Range) : Core :=
  regCount (storeRevived ⟨imageGone (setEntry x.core sid e) sid, x.warm⟩ sid e) 0x420008 63 32 1

section
variable (sid : Nat) (e : Entry) (x : Range)

theorem revived_def : revived sid e x = regCount (storeRevived
    ⟨clearIndex (freeStored (leaseTaken (setEntry x.core sid e) sid) sid) sid, x.warm⟩ sid e) 0x420008 63 32 1 := rfl

/-- R394: of the state in which the range was placed, sessions, memory, registers and the twin's leases are touched; no frame is. -/
theorem revived_left : ∃ dir changed regs mem, revived sid e x = { x.core with
      regs := regs, mem := mem, twin := (leaseTaken x.core sid).twin
      sess := { x.core.sess with dir := dir, changed := changed, warm := mapSet x.core.sess.warm sid x.warm } } ∧
    mapGet mem.index sid = none ∧ mem.frames = x.core.mem.frames := by
  obtain ⟨mem, gone, index, frames⟩ := imageGone_left (setEntry x.core sid e) sid
  obtain ⟨dir, changed, stored⟩ := storeRevived_left ⟨imageGone (setEntry x.core sid e) sid, x.warm⟩ sid e
  rw [setEntry_mem] at frames
  refine ⟨dir, changed, (revived sid e x).regs, mem, ?_, index, frames⟩
  generalize hregs : (revived sid e x).regs = regs
  rw [revived, regCount_frame] at hregs ⊢
  rw [hregs, stored, gone, leaseTaken, setEntry_twin, setEntry_frame, setEntry_sess]
  rfl

/-- R394 step 6: the entry is the one that was made of the header. -/
theorem entryOf_revived (hf : e.state ≠ .free) : entryOf (revived sid e x) sid = e := by
  have placed : entryOf (imageGone (setEntry x.core sid e) sid) sid = e := (entryOf_imageGone _ _ _).trans (entryOf_set_same _ _ _ hf)
  have range := entryOf_storeRange ⟨imageGone (setEntry x.core sid e) sid, x.warm⟩ sid (by rw [placed]; exact hf)
  rw [revived, entryOf_regCount, storeRevived, entryOf_modEntry _ _ _ (by rw [range, placed]; exact hf), range, placed]

theorem entryOf_revived_other {y : Nat} (h : y ≠ sid) : entryOf (revived sid e x) y = entryOf x.core y := by
  rw [revived, entryOf_regCount, storeRevived, entryOf_modEntry_other _ _ h, entryOf_storeRange_other _ h, entryOf_imageGone, entryOf_set_other _ _ _ _ h]

theorem revived_warm : mapGet (revived sid e x).sess.warm sid = some x.warm := by
  obtain ⟨_, _, _, _, left, -⟩ := revived_left sid e x
  rw [left]
  exact mapGet_set_same _ _ _

theorem revived_index : mapGet (revived sid e x).mem.index sid = none := by
  obtain ⟨_, _, _, _, left, index, -⟩ := revived_left sid e x
  rw [left]
  exact index

theorem revived_frames : (revived sid e x).mem.frames = x.core.mem.frames := by
  obtain ⟨_, _, _, _, left, -, frames⟩ := revived_left sid e x
  rw [left]
  exact frames

theorem revived_rings : (revived sid e x).rings = x.core.rings := by
  obtain ⟨_, _, _, _, left, -⟩ := revived_left sid e x
  rw [left]

theorem revived_twinState : (revived sid e x).twin.state = x.core.twin.state := by
  obtain ⟨_, _, _, _, left, -⟩ := revived_left sid e x
  rw [left]
  rfl
end

/-! ## REVIVE (R394) -/

/-- R392, R394: a PARKED session whose barn sheaf reads well, without a grammar, under a loaded model of its digest, is revived where its sheaf is placed. -/
theorem run_reviveBody_barn {d : Desc} {r : Run0} {ix : SheafIx} {sf : Sheaf} {sh : SheafRead} {m : Model} {home : Bool} {p : Option Prefix}
    {x : Range} {e : Entry}
    (hr : mapHas r.core.sess.reread r.sid = false) (h2 : r.core.twin.state ≠ 2) (h3 : r.core.twin.state ≠ 3)
    (state : (entryOf r.core d.session).state = .parked) (noLease : mapHas r.core.twin.leases d.session = false)
    (index : mapGet r.core.mem.index d.session = some ix) (barn : ix.place = 1)
    (sheaf : mapGet r.core.mem.barn (barnKey ix.die ix.locator) = some sf) (reads : readSheaf sf.bytes = some sh)
    (stamp : sh.head.stamp = ix.stamp.toNat) (loaded : loadedModel r.core sh.head.entry.modelSlot = some m) (digest : modelDigest m.image = sh.head.digest)
    (unbound : sh.head.entry.grammarBound = false) (placed : placeRevival r.core d.session sh = some (home, p, x))
    (noStep : inStep (r.core.sched.get home) = [])
    (entry : reviveEntry (entryOf r.core d.session) sh.head.entry home (nth x.warm.tables 0 0) p.isSome = e) :
    reviveBody d r = .ok (.done .ok (framesOn x.core x.warm home home) (b2n home + 2 * b2n p.isSome), { r with core := revived d.session e x }) := by
  have noTwinLease : mapGet r.core.twin.leases d.session = none := by simpa [mapHas] using noLease
  have alone : paired r.core = false := by simp [paired, h3]
  have image : imgOf r.core sh.head.entry.modelSlot = m.image := by
    simp only [loadedModel, Option.bind_eq_some_iff] at loaded
    obtain ⟨k, listed, is⟩ := loaded
    split at is
    · cases is
      simp [imgOf, listed]
    · cases is
  have moved := placeRevival_moved placed
  have quiet : mirrored (revived d.session e x) d.session = false :=
    mirrored_alone (by rw [revived_twinState, moved.twin]; exact h2) (by rw [revived_twinState, moved.twin]; exact h3) _
  have stored : storedSheaf ix r = .ok ((sh, false), r) := by
    simp [storedSheaf, readStored, barn, barnBytes, barnSheaf, sheaf, reads, stamp]
  have commits : reviveCommit d ix sh false r =
      .ok (.done .ok (framesOn x.core x.warm home home) (b2n home + 2 * b2n p.isSome), { r with core := revived d.session e x }) := by
    have noGrammar : e.grammarBound = false := by rw [← entry]; exact unbound
    simp [reviveCommit, barn, placed, entry, noGrammar, b2n, ← revived_def, run_mirrorM, quiet, revived_warm, framesOn_congr (revived_frames d.session e x)]
  simp [reviveBody, run_leaseFirst hr, state, parkState, isWarm, takeoverLease, noTwinLease, index, stored, loaded, image, digest, grammarHere, unbound,
    slotNotOnTwin, alone, placed, waitStep, noStep, commits]

/-- Settles O34: the body revives the session (`run_reviveBody_barn`), and `revived` is what the statement says of it. -/
theorem reviveBringsBack : Obligations.ReviveBringsBack := by
  unfold Obligations.ReviveBringsBack
  intro d env ix bs sf sh m home p x s free ⟨hrun, hre, h2, h3⟩ own sid state noLease index barn sheaf hbs reads stamp loaded digest unbound placed noStep
  subst hbs
  obtain ⟨dir, changed, inProg, parking, due, begun⟩ := beginSession_frame hrun d
  have moved := placeRevival_moved placed
  have entry := entryOf_beginSession hrun d (by rw [state]; decide)
  have twin := beginSession_twin hrun d
  obtain ⟨e, made⟩ : ∃ e, reviveEntry (entryOf (beginSession s.core d) sid) sh.head.entry home (nth x.warm.tables 0 0) p.isSome = e := ⟨_, rfl⟩
  have body := run_reviveBody_barn (d := d) (r := begunRun s d env) (by rw [begunRun_core, beginSession_reread hrun]; exact hre)
    (by rw [begunRun_core, twin]; exact h2) (by rw [begunRun_core, twin]; exact h3)
    (by rw [begunRun_core, entryOf_beginSession_state hrun]; exact state) (by rw [begunRun_core, twin]; exact noLease)
    (by rw [begunRun_core, beginSession_mem hrun]; exact index) barn (by rw [begunRun_core, beginSession_mem hrun]; exact sheaf) reads stamp
    (by rw [begunRun_core, begun]; exact loaded) digest unbound placed (by rw [begunRun_core, begun]; exact noStep) made
  have done := acceptSession_done free hrun own body (mirrored_alone (by rw [revived_twinState, moved.twin, twin]; exact h2)
    (by rw [revived_twinState, moved.twin, twin]; exact h3) _) rfl
  dsimp only at done
  have open' : sh.head.entry.state ≠ .parked ∧ sh.head.entry.state ≠ .free := by rcases readSheaf_state reads with h | h <;> simp [h]
  have back : e.state = sh.head.entry.state := by rw [← made]; rfl
  have account : e.account = (entryOf s.core sid).account := by rw [← made, entry]; rfl
  have new : entryOf (revived sid e x) sid = e := entryOf_revived sid e x (by rw [back]; exact open'.2)
  have others : ∀ y, y ≠ sid → entryOf (revived sid e x) y = entryOf s.core y := fun y hy =>
    (entryOf_revived_other sid e x hy).trans ((moved.entryOf y).trans (entryOf_beginSession_other hrun d hy))
  have rings := (revived_rings sid e x).trans (moved.rings.trans (beginSession_rings hrun d))
  have warm := revived_warm sid e x
  have gone := revived_index sid e x
  refine ⟨_, x.warm, congrArg Host.Outcome.next done, ?_⟩
  generalize revived sid e x = k at new others rings warm gone
  simp only [entryOf_complete, complete_warm, complete_mem, new]
  exact ⟨back, by rw [back]; exact open'.1, by rw [← made]; rfl, by rw [← made]; rfl, account, by rw [← made]; rfl, warm, trivial, gone,
    complete_rings_congr rings d .ok _ _, others⟩

end Sys2Proof.Machine
namespace Sys2Proof.Machine

/-! ## What leaves the levels as they are -/

/-- A fold whose every step keeps something of the state keeps it. -/
theorem foldl_keeps {α β γ : Type} {f : β → α → β} (g : β → γ) (h : ∀ b x, g (f b x) = g b) (l : List α) (b : β) : g (l.foldl f b) = g b := by
  induction l generalizing b with
  | nil => rfl
  | cons x l ih => exact (ih (f b x)).trans (h b x)

section
variable {c d : Core}

theorem FramesMoved.levels (h : FramesMoved c d) : d.levels = c.levels := by rw [h.frame]
theorem SessionMoved.levels (h : SessionMoved c d) : d.levels = c.levels := by rw [h]
theorem SchedMoved.levels (h : SchedMoved c d) : d.levels = c.levels := by rw [h]
theorem ToldMoved.levels (h : ToldMoved c d) : d.levels = c.levels := by rw [h]
end

theorem haspSession_levels (c : Core) (sid : Nat) : (haspSession c sid).levels = c.levels := by rw [haspSession_frame]
theorem freeStored_levels (c : Core) (sid : Nat) : (freeStored c sid).levels = c.levels := by rw [freeStored_frame]
theorem complete_levels (c : Core) (d : Desc) (st : Status) (a b : Nat) : (complete c d st a b).levels = c.levels := (complete_told c d st a b).levels

theorem leaveWarm_levels (c : Core) (sid : Nat) : (leaveWarm c sid).levels = c.levels := by
  obtain ⟨d, moved, left⟩ := leaveWarm_moved c sid
  rw [left]
  exact moved.levels

/-- R55: a session that is lost takes no level with it. -/
theorem loseSession_levels (c : Core) (sid cause : Nat) (st : Status) (op : Nat) (keep : Bool) :
    (loseSession c sid cause st op keep).levels = c.levels := by
  have queues : ∀ x : Core, (if isWarm (entryOf c sid).state = true then leaveQueues x sid else x).levels = x.levels := fun x => by
    split
    · exact (leaveQueues_sched x sid).levels
    · rfl
  have cleared : ∀ (x : Core) (b : Bool), (if b = true then clearIndex x sid else x).levels = x.levels := fun x b => by
    split
    · exact putIndex_levels _ _
    · rfl
  simp only [loseSession, setEntry_levels]
  rw [(mirrorThen_told _ sid (.closed cause) none false id .refl).levels, cleared, freeStored_levels, leaveWarm_levels, queues, sessionEvent,
    issueEvent_levels, logErr_levels, haspSession_levels]

theorem dropWaiting_levels (c : Core) (sid : Nat) : (dropWaiting c sid).levels = c.levels := rfl

theorem loseByEvent_levels (c : Core) (sid cause : Nat) : (loseByEvent c sid cause).levels = c.levels := by
  simp only [loseByEvent]
  rw [(completeLost_told _ _ _ _ _ _).levels, dropWaiting_levels, loseSession_levels]

theorem stateLost_levels (c : Core) (sid : Nat) : (stateLost c sid).levels = c.levels := by
  unfold stateLost
  split
  · rfl
  · split
    · rfl
    · split
      · exact loseByEvent_levels c sid 1
      · split
        · exact loseByEvent_levels c sid 2
        · rfl

/-! ### A step that fails (R23, R55) -/

theorem endTurn_levels (c : Core) (sid reason : Nat) (st : Status) (w : Warm) (t : Turn) : (endTurn c sid reason st w t).levels = c.levels := by
  simp only [endTurn]
  rw [(completeTurn_told _ _ _ _ _ _ _).levels, (unplan_sched _ _ _).levels, (leaveDecode_sched _ _ _ _).levels, (modEntry_moved _ _ _).levels,
    (storeRange_moved _ _).levels, (giveRoom_moved _).levels, (dropMark_moved _).levels]

theorem cancelTurn_levels (c : Core) (sid : Nat) (w : Warm) (t : Turn) : (cancelTurn c sid w t).levels = c.levels := by
  simp only [cancelTurn]
  rw [(completeTurn_told _ _ _ _ _ _ _).levels, (unplan_sched _ _ _).levels, (leaveDecode_sched _ _ _ _).levels, (modEntry_moved _ _ _).levels,
    (storeRange_moved _ _).levels, (giveRoom_moved _).levels]
  cases w.mark with
  | none => rfl
  | some m => exact (rollRange_moved w m _ c).levels

theorem pushStream_levels (c : Core) (sid : Nat) (e : Entry) (t : Turn) (n k be : Nat) (last : Bool) :
    (pushStream c sid e t n k be last).levels = c.levels := by
  unfold pushStream
  split
  · rfl
  · exact (giveRec_told c _).levels

theorem finalRecord_levels (c : Core) (sid : Nat) (e : Entry) (t : Turn) : (finalRecord c sid e t).1.levels = c.levels := by
  simp only [finalRecord]
  split
  · rfl
  · exact pushStream_levels _ _ _ _ _ _ _ _

theorem stopTurn_levels (c : Core) (sid reason : Nat) (st : Status) : (stopTurn c sid reason st).levels = c.levels := by
  unfold stopTurn
  split
  · rfl
  · split
    · rfl
    · dsimp only
      split
      · exact cancelTurn_levels _ _ _ _
      · exact (endTurn_levels _ _ _ _ _ _).trans (finalRecord_levels _ _ _ _)

theorem finishDesc_levels (c : Core) (d : Desc) (st : Status) (a b : Nat) : (finishDesc c d st a b).levels = c.levels := by
  unfold finishDesc
  split
  · exact complete_levels _ _ _ _ _
  · exact (mirrorThen_told _ _ _ _ _ _ fun c => complete_told c d st a b).levels

theorem appendFail_levels (c : Core) (sid : Nat) (st : Status) : (appendFail c sid st).levels = c.levels := by
  unfold appendFail
  split
  · rfl
  · split
    · rfl
    · dsimp only
      rw [finishDesc_levels, (leaveLane_sched _ _ _ _).levels, (storeRange_moved _ _).levels, (dropLane_moved _).levels]

theorem removeRow_levels (c : Core) (die : Bool) (sid : Nat) (committed : Bool) : (removeRow c die sid committed).levels = c.levels := by
  have kept : ∀ x : Core, (dropKeep x sid).levels = x.levels := fun x => by
    unfold dropKeep
    split <;> rfl
  simp only [removeRow]
  split <;> split <;> exact kept _

theorem giveFree_levels (c : Core) (die : Bool) (n : Nat) : (giveFree c die n).levels = c.levels := by
  simp only [giveFree]
  split <;> rfl

theorem regAbort_levels (c : Core) (ring : Nat) : (regAbort c ring).levels = c.levels := by
  unfold regAbort
  split
  · rfl
  · exact (giveFree_levels _ _ _).trans (foldl_keeps Core.levels (fun c f => (dropRef_moved c f).levels) _ c)

theorem failRow_levels (c : Core) (die : Bool) (r : Row) (st : Status) : (failRow c die r st).levels = c.levels := by
  have row : (removeRow (chargeDrop c die r.account r.bucket r.charge) die r.session false).levels = c.levels :=
    (removeRow_levels _ _ _ _).trans (chargeDrop_sched _ _ _ _ _).levels
  simp only [failRow]
  split
  · split
    · exact row
    · rw [complete_levels, regAbort_levels, (leaveLane_sched _ _ _ _).levels, row]
  · split
    · exact (stopTurn_levels _ _ _ _).trans row
    · exact (appendFail_levels _ _ _).trans row

/-- R55, R56: a step that fails leaves the levels as they are. -/
theorem failStep_levels (c : Core) (die : Bool) (st : Status) : (failStep c die st).levels = c.levels := by
  have rows : ∀ (die : Bool) (l : List Row) (c : Core), (l.foldl (fun c r => failRow c die r st) c).levels = c.levels := fun die =>
    foldl_keeps Core.levels fun c r => failRow_levels c die r st
  simp only [failStep]
  split
  · exact (rows _ _ _).trans (rows _ _ _)
  · exact rows _ _ _

theorem capacityEvent_levels (c : Core) (die : Bool) (cause f a : Nat) : (capacityEvent c die cause f a).levels = c.levels := by
  rw [capacityEvent, (rescale_sched _).levels, issueEvent_levels]

theorem repairEvent_levels (c : Core) (die : Bool) (action place cluster unit : Nat) : (repairEvent c die action place cluster unit).levels = c.levels :=
  issueEvent_levels _ _ _ _ _ _ _

theorem sendGiveUp_frame (c : Core) : sendGiveUp c = { c with twin := (sendGiveUp c).twin } := by
  unfold sendGiveUp
  split <;> rfl

/-- R176: hot copies that are trimmed are all that goes. -/
theorem trimHot_frame (c : Core) (die : Bool) : trimHot c die = { c with mem := { c.mem with hot := (trimHot c die).mem.hot } } := by
  unfold trimHot
  generalize (List.range 16).reverse = slots
  induction slots generalizing c with
  | nil => rfl
  | cons slot slots ih =>
    rw [List.foldl_cons, ih]
    dsimp only
    split <;> rfl

theorem loseSlice_levels (c : Core) (die : Bool) (n : Nat) : (loseSlice c die n).levels = c.levels := by
  rw [loseSlice, trimHot_frame]

end Sys2Proof.Machine

namespace Sys2Proof.Machine

/-! ## Levels leave service, and stay out of it (R55 to R57) -/

theorem mapHas_set_same {α : Type} (m : Map α) (i : Nat) (a : α) : mapHas (mapSet m i a) i = true := by simp [mapHas]

theorem mapHas_set_of_has {α : Type} {m : Map α} {j : Nat} (i : Nat) (a : α) (h : mapHas m j = true) : mapHas (mapSet m i a) j = true := by
  by_cases hj : j = i
  · rw [hj]
    exact mapHas_set_same m i a
  · rwa [mapHas, mapGet_set_other _ _ _ _ hj]

/-- Every cluster and region of a die that `c` has out of service, `d` has out of service too; the other die's levels are the same. -/
structure LevelsLeave (die : Bool) (c d : Core) : Prop where
  clusters : ∀ n, mapHas (c.levels.get die).clusters n = true → mapHas (d.levels.get die).clusters n = true
  regions : ∀ n, mapHas (c.levels.get die).regions n = true → mapHas (d.levels.get die).regions n = true
  other : d.levels.get (!die) = c.levels.get (!die)

namespace LevelsLeave

theorem of_levels (die : Bool) {c d : Core} (h : d.levels = c.levels) : LevelsLeave die c d :=
  ⟨fun _ hn => by rwa [h], fun _ hn => by rwa [h], by rw [h]⟩

theorem trans {die : Bool} {a b c : Core} (h : LevelsLeave die a b) (k : LevelsLeave die b c) : LevelsLeave die a c :=
  ⟨fun n hn => k.clusters n (h.clusters n hn), fun n hn => k.regions n (h.regions n hn), k.other.trans h.other⟩

theorem foldl {die : Bool} {α : Type} {f : Core → α → Core} (h : ∀ c x, LevelsLeave die c (f c x)) (l : List α) (c : Core) :
    LevelsLeave die c (l.foldl f c) := by
  induction l generalizing c with
  | nil => exact of_levels die rfl
  | cons x l ih => exact (h c x).trans (ih _)

/-- A change of a die's levels that brings no cluster and no region back. -/
theorem mod {die : Bool} (c : Core) {f : Levels → Levels}
    (clusters : ∀ n, mapHas (c.levels.get die).clusters n = true → mapHas (f (c.levels.get die)).clusters n = true)
    (regions : ∀ n, mapHas (c.levels.get die).regions n = true → mapHas (f (c.levels.get die)).regions n = true) :
    LevelsLeave die c (modLevels c die f) :=
  ⟨by simpa using clusters, by simpa using regions, by simp⟩

end LevelsLeave

/-- R57, R505: a die that is lost is logged, holds the device, and tells the twin; nothing else changes. -/
theorem loseDie_frame (c : Core) (die : Bool) : ∃ twin, loseDie c die =
    { logErr c { kind := 0x10, die := die, severity := 3, wh := { level := 3 } } with
      levels := c.levels.mod die fun l => { l with lost := true }, power := { c.power with held := true }, twin := twin } := by
  simp only [loseDie, holdDevice]
  rw [sendGiveUp_frame]
  exact ⟨_, by rw [logErr_frame]; rfl⟩

theorem loseDie_leaves (c : Core) (die : Bool) : LevelsLeave die c (loseDie c die) := by
  obtain ⟨twin, lost⟩ := loseDie_frame c die
  exact (LevelsLeave.mod c (f := fun l => { l with lost := true }) (fun _ h => h) fun _ h => h).trans (.of_levels die (by rw [lost]; rfl))

/-- R55: a cluster that leaves service takes nothing else out of it. -/
theorem dropCluster_levels {c : Core} {die : Bool} {n : Nat} (h : mapHas (c.levels.get die).clusters n = false) :
    (dropCluster c die n).levels = c.levels.mod die fun l => { l with clusters := mapSet l.clusters n () } := by
  simp only [dropCluster, h, Bool.false_eq_true, if_false]
  exact (foldl_keeps Core.levels stateLost_levels _ _).trans (loseSlice_levels _ _ _)

theorem dropCluster_leaves (c : Core) (die : Bool) (n : Nat) : LevelsLeave die c (dropCluster c die n) := by
  cases h : mapHas (c.levels.get die).clusters n with
  | true =>
    rw [dropCluster, if_pos h]
    exact .of_levels die rfl
  | false =>
    exact (LevelsLeave.mod c (f := fun l => { l with clusters := mapSet l.clusters n () }) (fun _ h => mapHas_set_of_has n () h) fun _ h => h).trans
      (.of_levels die (dropCluster_levels h))

/-- R55: it is out of service then. -/
theorem dropCluster_fenced (c : Core) (die : Bool) (n : Nat) : mapHas ((dropCluster c die n).levels.get die).clusters n = true := by
  cases h : mapHas (c.levels.get die).clusters n with
  | true => rwa [dropCluster, if_pos h]
  | false =>
    rw [dropCluster_levels h, PerDie.get_mod]
    exact mapHas_set_same _ _ _

/-- R56: clusters that leave service together are all out of it. -/
theorem dropClusters_fenced (die : Bool) (key : Nat → Nat) (ks : List Nat) (c : Core) :
    ∀ k ∈ ks, mapHas ((ks.foldl (fun c k => dropCluster c die (key k)) c).levels.get die).clusters (key k) = true := by
  induction ks generalizing c with
  | nil => simp
  | cons k ks ih =>
    intro j hj
    rcases List.mem_cons.mp hj with rfl | hj
    · exact (LevelsLeave.foldl (fun c k => dropCluster_leaves c die (key k)) ks _).clusters _ (dropCluster_fenced c die (key j))
    · exact ih _ j hj

/-- R55, R56: what follows a cluster's or a region's fencing: an entry in the log, the failing step, and the event of the new capacity. -/
def fencingTold (c : Core) (die : Bool) (cause arg : Nat) (wh : Where) : Core :=
  let k := failStep (logErr c { kind := 7, die := die, severity := 2, wh := wh }) die .fenced
  capacityEvent k die cause (factorU k die) arg

theorem fencingTold_levels (c : Core) (die : Bool) (cause arg : Nat) (wh : Where) : (fencingTold c die cause arg wh).levels = c.levels := by
  rw [fencingTold, capacityEvent_levels, failStep_levels, logErr_levels]

/-- R56: a region's clusters leave service, and then the region. -/
def regionDropped (c : Core) (die : Bool) (region : Nat) : Core :=
  modLevels ((List.range 8).foldl (fun c k => dropCluster c die (clusterKey region k)) c) die fun l =>
    { l with regions := mapSet l.regions region () }

theorem regionDropped_leaves (c : Core) (die : Bool) (region : Nat) : LevelsLeave die c (regionDropped c die region) :=
  (LevelsLeave.foldl (fun c k => dropCluster_leaves c die (clusterKey region k)) _ c).trans
    (.mod _ (fun _ h => h) fun _ h => mapHas_set_of_has region () h)

theorem regionDropped_fenced (c : Core) (die : Bool) (region : Nat) :
    mapHas ((regionDropped c die region).levels.get die).regions region = true ∧
    ∀ k, k < 8 → mapHas ((regionDropped c die region).levels.get die).clusters (8 * region + k) = true := by
  simp only [regionDropped, modLevels_levels, PerDie.get_mod]
  exact ⟨mapHas_set_same _ _ _, fun k hk => dropClusters_fenced die (clusterKey region) (List.range 8) c k (List.mem_range.mpr hk)⟩

/-- R56, R57: a region in service that is fenced stays out of service with its clusters, whether its die is lost with it or not. -/
theorem fenceRegion_dropped {c : Core} {die : Bool} {region : Nat} (hr : region < 4) (h : mapHas (c.levels.get die).regions region = false) :
    LevelsLeave die (regionDropped c die region) (fenceRegion c die region) := by
  have goes : (mapHas (c.levels.get die).regions region || decide (4 ≤ region)) = false := by simp [h, hr]
  have told : LevelsLeave die (regionDropped c die region) (fencingTold (regionDropped c die region) die 2 region _) :=
    .of_levels die (fencingTold_levels _ _ _ _ { level := 2, region := region })
  simp only [fenceRegion, goes, Bool.false_eq_true, if_false]
  split
  · exact told.trans (loseDie_leaves _ _)
  · exact told

theorem fenceRegion_leaves (c : Core) (die : Bool) (region : Nat) : LevelsLeave die c (fenceRegion c die region) := by
  by_cases h : mapHas (c.levels.get die).regions region = true ∨ 4 ≤ region
  · rw [fenceRegion, if_pos (by simpa using h)]
    exact .of_levels die rfl
  · simp only [not_or, Bool.not_eq_true, Nat.not_le] at h
    exact (regionDropped_leaves c die region).trans (fenceRegion_dropped h.2 h.1)

/-- R55: a cluster in service that is fenced stays out of service, whether its region is fenced with it or not. -/
theorem fenceCluster_dropped {c : Core} {die : Bool} {region cluster : Nat} (hr : region < 4) (hc : cluster < 8)
    (h : mapHas (c.levels.get die).clusters (clusterKey region cluster) = false) :
    LevelsLeave die (dropCluster c die (clusterKey region cluster)) (fenceCluster c die region cluster) := by
  have goes : (mapHas (c.levels.get die).clusters (clusterKey region cluster) || decide (4 ≤ region) || decide (8 ≤ cluster)) = false := by
    simp [h, hr, hc]
  have told : LevelsLeave die (dropCluster c die (clusterKey region cluster))
      (fencingTold (dropCluster c die (clusterKey region cluster)) die 1 (region + 8 * cluster) _) :=
    .of_levels die (fencingTold_levels _ _ _ _ { level := 1, region := region, cluster := cluster })
  simp only [fenceCluster, goes, Bool.false_eq_true, if_false]
  split
  · exact told.trans (fenceRegion_leaves _ _ _)
  · exact told

end Sys2Proof.Machine

namespace Sys2Proof.Machine

/-! ## A fenced stack holds no commands (R58) -/

/-- A stack with no result in its partial queue, and no command queued at or issued to one of its pairs. -/
def NoCommands (s : Stack) : Prop := s.partials = 0 ∧ ∀ q p, mapGet s.pairs q = some p → p.queue = [] ∧ p.issued = []

/-- A pair that a stack without commands does not list has none either. -/
theorem NoCommands.pair {c : Core} {p : Nat} (h : NoCommands (stackOf c (p / 512))) : (pairOf c p).queue = [] ∧ (pairOf c p).issued = [] := by
  unfold pairOf
  cases hp : mapGet (stackOf c (p / 512)).pairs (p % 512) with
  | none => exact ⟨rfl, rfl⟩
  | some x => exact h.2 _ x hp

theorem mapGet_map {α β : Type} (m : Map α) (f : α → β) (i : Nat) : mapGet (m.map fun p => (p.1, f p.2)) i = (mapGet m i).map f := by
  induction m with
  | nil => rfl
  | cons p m ih =>
    obtain ⟨k, a⟩ := p
    by_cases hk : k = i <;> simp [mapGet, hk, ih]

/-- R191: letting go of what is staged for a pair's commands queues none. -/
theorem dropStaged_noCommands {c : Core} {k : Nat} (p : Nat) (h : NoCommands (stackOf c k)) : NoCommands (stackOf (dropStaged c p) k) := by
  simp only [dropStaged]
  split
  · exact h
  · by_cases hk : k = p / 512
    · subst hk
      rw [stackOf_modPair]
      refine ⟨h.1, fun q x hx => ?_⟩
      by_cases hq : q = p % 512
      · subst hq
        rw [mapGet_set_same] at hx
        obtain rfl := Option.some.inj hx
        exact NoCommands.pair (c := c) h
      · rw [mapGet_set_other _ _ _ _ hq] at hx
        exact h.2 q x hx
    · simp only [stackOf, modPair, mapGet_set_other _ _ _ _ hk]
      exact h

/-- R58: letting go of the partials and the staging frames of issued commands queues none. -/
theorem freeIssued_noCommands {c : Core} {k : Nat} (p : Nat) (xs : List BankCmd) (h : NoCommands (stackOf c k)) :
    NoCommands (stackOf (freeIssued c p xs) k) := by
  refine dropStaged_noCommands p ?_
  by_cases hk : k = p / 512
  · subst hk
    simp only [stackOf, giveStaging, mapGet_mod_same] at h ⊢
    cases hs : mapGet c.stackTab (p / 512) with
    | none => exact ⟨rfl, by simp [mapGet]⟩
    | some s =>
      rw [hs] at h
      obtain ⟨partials, pairs⟩ := h
      exact ⟨by simp at partials ⊢; omega, pairs⟩
  · simp only [stackOf, giveStaging, mapGet_mod_other _ _ _ _ hk]
    exact h

theorem failOwner_stackTab (st : Status) (c : Core) (o : Owner) : (failOwner st c o).stackTab = c.stackTab := by cases o <;> rfl

/-- R58: a stack whose commands are dropped holds none. -/
theorem dropCommands_noCommands (c : Core) (k : Nat) : NoCommands (stackOf (dropCommands c k) k) := by
  have freed : ∀ (l : List (Nat × List BankCmd)) (c : Core), NoCommands (stackOf c k) →
      NoCommands (stackOf (l.foldl (fun c p => freeIssued c p.1 p.2) c) k) := by
    intro l
    induction l with
    | nil => exact fun _ h => h
    | cons p l ih => exact fun c h => ih _ (freeIssued_noCommands p.1 p.2 h)
  simp only [dropCommands]
  rw [stackOf_congr (foldl_keeps Core.stackTab (failOwner_stackTab .fenced) _ _)]
  refine freed _ _ ?_
  simp only [stackOf, mapGet_mod_same]
  cases mapGet c.stackTab k with
  | none => exact ⟨rfl, by simp [mapGet]⟩
  | some s =>
    refine ⟨rfl, fun q p hp => ?_⟩
    simp only [Option.map_some, Option.getD_some, mapGet_map s.pairs fun p : Pair => { p with queue := [], issued := [], clock := 0 }] at hp
    obtain ⟨x, -, rfl⟩ := Option.map_eq_some_iff.mp hp
    exact ⟨rfl, rfl⟩

theorem rebuildFrame_stackTab (c : Core) (f : Nat) : (rebuildFrame c f).stackTab = c.stackTab := by
  simp only [rebuildFrame]
  split
  · rfl
  · split <;> rfl

theorem stackSession_stackTab (k : Nat) (c : Core) (sid : Nat) : (stackSession k c sid).stackTab = c.stackTab := by
  simp only [stackSession]
  split
  · rfl
  · split
    · rfl
    · split
      · exact (askTwin_stackTab _ _).trans (foldl_keeps Core.stackTab rebuildFrame_stackTab _ c)
      · exact (loseByEvent_leaves c sid 1).2.2

theorem stackModel_stackTab (k : Nat) (c : Core) (slot : Nat) : (stackModel k c slot).stackTab = c.stackTab := by
  simp only [stackModel]
  split
  · rfl
  · split
    · rfl
    · split
      · rw [askTwin_stackTab, dropBulk_stackTab, takeFree_stackTab]
      · rfl

theorem capacityEvent_stackTab (c : Core) (die : Bool) (cause f a : Nat) : (capacityEvent c die cause f a).stackTab = c.stackTab := by
  rw [capacityEvent, (rescale_sched _).stackTab, issueEvent_stacks]

theorem dropStage_stackTab (c : Core) (k : Nat) : (dropStage c k).stackTab = c.stackTab := rfl

/-- R58: what follows once a stack's commands are dropped leaves all stacks as they are. -/
theorem fenceStack_stackTab {c : Core} {k : Nat} (hk : k < 8) (hs : (stackOf c k).state ≠ 2) : (fenceStack c k).stackTab =
    (dropCommands { c with stackTab := mapSet c.stackTab k { stackOf c k with state := 2 } } k).stackTab := by
  have go : (decide (8 ≤ k) || decide ((stackOf c k).state = 2)) = false := by simp [hs]; omega
  have sessions : ∀ (l : List Nat) (c : Core), (l.foldl (stackSession k) c).stackTab = c.stackTab := foldl_keeps Core.stackTab (stackSession_stackTab k)
  have models : ∀ (l : List Nat) (c : Core), (l.foldl (stackModel k) c).stackTab = c.stackTab := foldl_keeps Core.stackTab (stackModel_stackTab k)
  simp only [fenceStack, go, Bool.false_eq_true, if_false]
  rw [capacityEvent_stackTab, loseObjects_stackTab, models, sessions, logErr_stacks, dropStage_stackTab, reserveFree_stackTab]

theorem fenceStack_noCommands {c : Core} {k : Nat} (hk : k < 8) (hs : (stackOf c k).state ≠ 2) : NoCommands (stackOf (fenceStack c k) k) := by
  rw [stackOf_congr (fenceStack_stackTab hk hs)]
  exact dropCommands_noCommands _ k

end Sys2Proof.Machine

namespace Sys2Proof.Machine

/-! ## What is logged, and where events go -/

/-- R484: while die 0 is in service, what is not the repair of an error is entered at once. -/
theorem logErr_next_serving {c : Core} {i : LogItem} (h0 : c.levels.d0.lost = false) (hk : repairedKind i.kind = false) :
    (logErr c i).errs.next = c.errs.next + 1 := by
  simp [logErr, h0, hk, logPut]

/-! ## The first core fault of a cluster (R54, R467) -/

/-- R54: a cluster's spare takes the place of its first core that fails: `t` is `c` with the swap entered and told, and with `n` entries logged. -/
structure CoreSwapped (die : Bool) (region cluster core n : Nat) (c t : Core) : Prop where
  levels : t.levels.get die = { c.levels.get die with cores := mapSet (c.levels.get die).cores (8 * region + cluster) core }
  others : t.levels.get (!die) = c.levels.get (!die)
  rings : t.rings = (issueEvent c 6 die 0 0 1 (fieldAt 0 3 region + fieldAt 3 3 cluster + fieldAt 6 10 core)).rings
  sess : t.sess = c.sess
  logged : t.errs.next = c.errs.next + n

theorem swapCore_swaps {c : Core} {die : Bool} {region cluster core : Nat} (h0 : c.levels.d0.lost = false) (hr : region < 4) (hc : cluster < 8)
    (hk : core < 9) (inService : mapHas (c.levels.get die).clusters (8 * region + cluster) = false)
    (first : mapHas (c.levels.get die).cores (8 * region + cluster) = false) :
    CoreSwapped die region cluster core 1 c (swapCore c die region cluster core) := by
  have goes : (mapHas (c.levels.get die).clusters (8 * region + cluster) || decide (4 ≤ region) || decide (8 ≤ cluster) ||
      decide (9 ≤ core)) = false := by
    simp [inService, hr, hc, hk]
  simp only [swapCore, clusterKey, goes, first, Bool.false_eq_true, if_false]
  refine ⟨?_, ?_, ?_, ?_, ?_⟩
  · rw [repairEvent_levels, logErr_levels, modLevels_levels, PerDie.get_mod]
  · rw [repairEvent_levels, logErr_levels, modLevels_levels, PerDie.get_mod_not]
  · refine issueEvent_rings_congr ?_ (regGet_congr ?_ _) _ _ _ _ _ _
    · rw [logErr_rings, modLevels_rings]
    · rw [logErr_regs, modLevels_regs]
  · rw [repairEvent, issueEvent_sess, logErr_sess, modLevels_sess]
  · rw [repairEvent, issueEvent_errs, logErr_next_serving (by cases die <;> exact h0) rfl, modLevels_errs]

/-- R54: what was logged before the swap is one entry more. -/
theorem CoreSwapped.of_logged {die : Bool} {region cluster core n : Nat} {c t : Core} {i : LogItem} (h0 : c.levels.d0.lost = false)
    (hi : repairedKind i.kind = false) (h : CoreSwapped die region cluster core n (logErr c i) t) : CoreSwapped die region cluster core (n + 1) c t := by
  obtain ⟨levels, others, rings, sess, logged⟩ := h
  rw [logErr_levels] at levels others
  refine ⟨levels, others, rings.trans ?_, sess.trans (logErr_sess _ _), ?_⟩
  · exact issueEvent_rings_congr (logErr_rings _ _) (regGet_congr (logErr_regs _ _) _) _ _ _ _ _ _
  · rw [logged, logErr_next_serving h0 hi, Nat.add_assoc, Nat.add_comm 1 n]

/-- R467: a word that no replay brings with good parity to a core is logged, and the core fails. -/
theorem parityReplay_spent {c : Core} {die : Bool} {wh : Where} {reads : List Fetched} (sid va : Nat) (all : 4 ≤ reads.length)
    (bad : ∀ w ∈ reads.take 4, parityGood w = false) : parityReplay c die .coreQueue wh reads sid va =
      swapCore (logErr c { kind := 6, die := die, severity := 1, wh := wh, session := sid, addr := va }) die wh.region wh.cluster wh.core := by
  have noGood : (reads.take 4).findIdx? parityGood = none := List.findIdx?_eq_none_iff.mpr bad
  simp [parityReplay, parityLimit, noGood, Nat.not_lt.mpr all, parityLost, paritySpent, parityClass]

/-! ## A loft frame is retired (R179) -/

theorem writeBacks_frame (l : List Nat) (c : Core) : ∃ changed, l.foldl writeBack c = { c with sess := { c.sess with changed := changed } } := by
  induction l generalizing c with
  | nil => exact ⟨c.sess.changed, rfl⟩
  | cons sid l ih => exact ih (writeBack c sid)

/-- R176, R179: what holds a loft frame lets go of it: changed entries, hot copies and the forward table are all that is touched. -/
theorem clearLoft_frame (c : Core) (die : Bool) (f : Nat) : ∃ draws changed hot fwd next, clearLoft c die f =
    { c with draws := draws, sess := { c.sess with changed := changed }, mem := { c.mem with hot := hot, forward := fwd, nextFwd := next } } := by
  simp only [clearLoft]
  split
  · exact ⟨_, _, _, _, _, rfl⟩
  · split
    · obtain ⟨changed, e⟩ := writeBacks_frame (changedInFrame c die ((c.mem.dirRun.get die).atSlice (sliceOf f) (loftPlace c die f))) c
      rw [e]
      exact ⟨_, _, _, _, _, rfl⟩
    · split
      · unfold dropHot
        split <;> exact ⟨_, _, _, _, _, rfl⟩
      · exact ⟨_, _, _, _, _, rfl⟩

/-- R178: object-space frames that leave take hot copies with them, and nothing else. -/
theorem loseLoft_frame (c : Core) (die : Bool) (n : Nat) : ∃ hot next short, loseLoft c die n =
    { c with mem := { c.mem with loftFree := c.mem.loftFree.mod die (· - n), loftNext := next, loftShort := short, hot := hot } } := by
  simp only [loseLoft, takeLoft]
  split
  · exact ⟨_, _, _, rfl⟩
  · rw [trimHot_frame]
    exact ⟨_, _, _, rfl⟩

/-- R179: a frame that is in service, whose slice is, and that nothing keeps, is retired, and object space has one frame less. -/
theorem retireLoft_retires {c : Core} {die : Bool} {f : Nat} (hf : f < 32768) (inService : mapHas (c.mem.loftRetired.get die) f = false)
    (slice : mapHas (c.levels.get die).clusters (f / 1024) = false) (free : retireWaits c die f = false)
    (sound : ((loftMapping c die f).any fun m => loftBad m.2.1 m.2.2) = false) :
    (retireLoft c die f).levels = c.levels ∧ mapHas ((retireLoft c die f).mem.loftRetired.get die) f = true ∧
      (retireLoft c die f).mem.loftFree.get die = c.mem.loftFree.get die - 1 := by
  have goes : (decide (32768 ≤ f) || mapHas (c.mem.loftRetired.get die) f || mapHas (c.levels.get die).clusters (sliceOf f) ||
      retireWaits c die f) = false := by
    simp [hf, inService, sliceOf, slice, free]
  obtain ⟨draws, changed, hot, fwd, next, cleared⟩ := clearLoft_frame c die f
  simp only [retireLoft, goes, sound, Bool.false_eq_true, if_false, repairEvent, issueEvent_mem, issueEvent_levels, logErr_levels, logErr_mem, cleared]
  obtain ⟨hot, next, short, left⟩ := loseLoft_frame { c with
    draws := draws, sess := { c.sess with changed := changed }
    mem := { c.mem with hot := hot, forward := fwd, nextFwd := next, loftRetired := c.mem.loftRetired.mod die fun m => mapSet m f () } } die 1
  rw [left]
  exact ⟨by simp, by simp [mapHas], by simp⟩

end Sys2Proof.Machine
namespace Sys2Proof.Machine

/-! ## LevelsFenced (R54 to R58, R179, R467) -/

section
variable {s : State} {die : Bool} (h : dieServes s.core die = true)
include h

theorem exec_coreSwap_serving (region cluster core : Nat) :
    exec (.coreSwap die region cluster core) s = .next { s with core := swapCore s.core die region cluster core } := by
  show execCoreSwap die region cluster core s = _
  simp [execCoreSwap, onCore, h]

theorem exec_parityReplay_serving (place : ParityPlace) (wh : Where) (reads : List Fetched) (sid va : Nat) :
    exec (.parityReplay die place wh reads sid va) s = .next { s with core := parityReplay s.core die place wh reads sid va } := by
  show execParityReplay die place wh reads sid va s = _
  simp [execParityReplay, onCore, h]

theorem exec_clusterFence_serving (region cluster : Nat) :
    exec (.clusterFence die region cluster) s = .next { s with core := fenceCluster s.core die region cluster } := by
  show execClusterFence die region cluster s = _
  simp [execClusterFence, onCore, h]

theorem exec_regionFence_serving (region : Nat) : exec (.regionFence die region) s = .next { s with core := fenceRegion s.core die region } := by
  show execRegionFence die region s = _
  simp [execRegionFence, onCore, h]

theorem exec_loftFrameRetire_serving (f : Nat) : exec (.loftFrameRetire die f) s = .next { s with core := retireLoft s.core die f } := by
  have serves : serving s.core = true := by
    simp only [dieServes, Bool.and_eq_true] at h
    exact h.1
  show execLoftFrameRetire die f s = _
  simp [execLoftFrameRetire, onCore, serves]

theorem exec_dieLost_serving : exec (.dieLost die) s = .next { s with core := loseDie s.core die } := by
  simp only [dieServes, serving, Bool.and_eq_true, Bool.not_eq_true'] at h
  obtain ⟨⟨isReady, -⟩, there⟩ := h
  show execDieLost die s = _
  simp [execDieLost, onCore, isReady, there]
end

theorem exec_stackFence_serving {s : State} {k : Nat} (h : dieServes s.core (stackDie k) = true) :
    exec (.stackFence k) s = .next { s with core := fenceStack s.core k } := by
  show execStackFence k s = _
  simp [execStackFence, onCore, h]

/-- Settles O54, level by level: a core (`swapCore_swaps`, met at once or after four replays: `parityReplay_spent`), a cluster and a
region (`dropCluster_fenced`, `regionDropped_fenced`, which what follows keeps: `fenceCluster_dropped`, `fenceRegion_dropped`), a stack
(`fenceStack_state`, `fenceStack_noCommands`), a die (`loseDie_frame`) and a loft frame (`retireLoft_retires`). -/
theorem levelsFenced : Obligations.LevelsFenced := by
  unfold Obligations.LevelsFenced
  intro die region cluster core s serves die0 n lv
  refine ⟨fun hr hc up => ⟨fun hk first => ?_, ?_⟩, fun hr up => ?_, fun k hk kserves inService => ?_, ?_,
    fun f hf inService slice free sound => ?_⟩
  · intro swapped
    constructor
    · obtain ⟨levels, others, rings, sess, logged⟩ := swapCore_swaps die0 hr hc hk up first
      exact ⟨_, exec_coreSwap_serving serves region cluster core, ⟨levels, others, rings, sess⟩, logged⟩
    · rintro reads wh sid va all bad rfl rfl rfl
      obtain ⟨levels, others, rings, sess, logged⟩ := CoreSwapped.of_logged
        (i := { kind := 6, die := die, severity := 1, wh := wh, session := sid, addr := va }) die0 rfl
        (swapCore_swaps (by rw [logErr_levels]; exact die0) hr hc hk (by rw [logErr_levels]; exact up) (by rw [logErr_levels]; exact first))
      rw [← parityReplay_spent sid va all bad] at levels others rings sess logged
      exact ⟨_, exec_parityReplay_serving serves _ wh reads sid va, ⟨levels, others, rings, sess⟩, logged⟩
  · have dropped := fenceCluster_dropped hr hc up
    exact ⟨_, exec_clusterFence_serving serves region cluster, dropped.clusters _ (dropCluster_fenced _ _ _),
      ((dropCluster_leaves _ _ _).trans dropped).other⟩
  · have dropped := fenceRegion_dropped hr up
    obtain ⟨gone, clusters⟩ := regionDropped_fenced s.core die region
    exact ⟨_, exec_regionFence_serving serves region, dropped.regions _ gone, fun k hk => dropped.clusters _ (clusters k hk)⟩
  · obtain ⟨partials, pairs⟩ := fenceStack_noCommands hk inService
    exact ⟨_, exec_stackFence_serving kserves, fenceStack_state _ k hk inService, partials, pairs⟩
  · obtain ⟨twin, lost⟩ := loseDie_frame s.core die
    refine ⟨_, exec_dieLost_serving serves, ?_⟩
    rw [lost]
    exact ⟨by simp, rfl, logErr_next_serving die0 rfl, logErr_sess _ _, logErr_mem _ _⟩
  · obtain ⟨levels, retired, left⟩ := retireLoft_retires hf inService slice free sound
    exact ⟨_, exec_loftFrameRetire_serving serves f, retired, left, levels⟩

end Sys2Proof.Machine

/-! PROOFS of the host link statements (03_host_link): what the mailbox answers, doorbells, interrupt messages, requests that time out. -/

namespace Sys2Proof.Machine

/-! ## The mailbox while it is free (R101, R539, R542) -/

/-- R542: a free mailbox is as it was, once an object that changes the reply alone is carried out. -/
theorem mailbox_replies {s : State} (h : mailboxFree s.core = true) (x : DoeObject) (hx : x.port = false) (bs : List Byte)
    (out : carryOut (doeWith s x) x = ({ doeWith s x with core := { (doeWith s x).core with reply := .data bs } }, true)) :
    mailbox s x = { s with core := { s.core with reply := .data bs } } := by
  rw [mailbox_free h x hx, out, if_pos rfl]
  exact congrArg (fun t : State => { t with core := { t.core with reply := .data bs } }) (modDoe_doeWith h x)

/-- R101: DOE discovery answers the word of its index. -/
theorem exec_doeDiscovery_free {s : State} (h : mailboxFree s.core = true) {i : Nat} (hi : i < 256) :
    exec (.doeDiscovery i) s = .next { s with core := { s.core with reply := .data (natLe 4 (discoveryWord i)) } } := by
  have index : leAt (natLe 1 i) 0 1 = i := by
    rw [leAt, bytesAt_all _ _ (natLe_length 1 i), leNat_natLe 1 i hi]
  refine congrArg Host.Outcome.next (mailbox_replies h { kind := none, body := natLe 1 i } rfl _ ?_)
  simp only [carryOut, index]

/-- R542: CERT answers the chain as stored, and with a body nothing but a status. -/
theorem exec_cert_free {s : State} (h : mailboxFree s.core = true) (b : List Byte) :
    exec (.cert b) s = .next { s with core := { s.core with
      reply := .data (if b = [] then natLe 4 (stCode .ok) ++ Config.certChain else natLe 4 (stCode .invalidField)) } } := by
  refine congrArg Host.Outcome.next (mailbox_replies h { kind := some 2, body := b } rfl _ ?_)
  cases b <;> simp [carryOut, plainObject, respond]

/-- R542: KEM_KEY answers the key of the tenant epoch, and with a body nothing but a status. -/
theorem exec_kemKey_free {s : State} (h : mailboxFree s.core = true) (b : List Byte) :
    exec (.kemKey b) s = .next { s with core := { s.core with
      reply := .data (if b = [] then natLe 4 (stCode .ok) ++ kemKeyBytes s.rot else natLe 4 (stCode .invalidField)) } } := by
  refine congrArg Host.Outcome.next (mailbox_replies h { kind := some 3, body := b } rfl _ ?_)
  cases b <;> simp [carryOut, plainObject, respond, doeWith, modDoe]

/-- R539: a well-formed record of a paired twin's counts in its log when it is above what stands there. -/
theorem exec_signingRecord_paired {s : State} {bs : List Byte} {n : Nat} (ha : alive s.core = true)
    (hl : s.core.twin.linkUp = true) (h3 : s.core.twin.state = 3) (hr : twinRecord bs = some n) :
    exec (.signingRecord bs) s = .next { s with rot := { s.rot with twinLog := max s.rot.twinLog n } } := by
  show execSigningRecord bs s = _
  simp [execSigningRecord, ha, hl, h3, hr]

/-- Settles O40: each object by the lemma about a free mailbox, the twin's record by R539. -/
theorem mailboxAnswers : Obligations.MailboxAnswers := by
  unfold Obligations.MailboxAnswers
  intro s told
  refine ⟨fun h => ⟨fun i hi => exec_doeDiscovery_free h hi, exec_cert_free h [], exec_kemKey_free h [], fun b hb => ?_⟩,
    fun bs n ha hl h3 hr => exec_signingRecord_paired ha hl h3 hr⟩
  have cert := exec_cert_free h b
  have kemKey := exec_kemKey_free h b
  rw [if_neg hb] at cert kemKey
  exact ⟨cert, kemKey⟩

end Sys2Proof.Machine

namespace Sys2Proof.Machine

/-! ## What records leave of the submission rings (R129, R134) -/

/-- Whether a submission ring is errored, and its tail. -/
def subTail (c : Core) (n : Nat) : Option (Bool × Nat) := (mapGet c.rings.subs n).map fun r => (r.errored, r.tail)

theorem subTail_congr {c d : Core} (h : d.rings.subs = c.rings.subs) (n : Nat) : subTail d n = subTail c n := by
  rw [subTail, subTail, h]

theorem queueRec_subTail (c : Core) (r : Rec) (n : Nat) : subTail (queueRec c r) n = subTail c n := by
  simp only [queueRec]
  split
  · split <;> rfl
  · rfl

/-- R129: a descriptor that is open no more leaves its ring's tail. -/
theorem closeDesc_subTail (c : Core) (d : Desc) (n : Nat) : subTail (closeDesc c d) n = subTail c n := by
  cases h : mapGet c.rings.subs d.ring with
  | none => simp [closeDesc, subTail, h]
  | some r =>
    by_cases hn : n = d.ring
    · subst hn
      simp [closeDesc, subTail, h]
    · simp [closeDesc, subTail, h, mapGet_set_other _ _ _ _ hn]

theorem handOver_subTail (c : Core) (d : Option Desc) (r : Rec) (n : Nat) : subTail (handOver c d r) n = subTail c n := by
  cases d with
  | none => exact queueRec_subTail c r n
  | some d => exact (closeDesc_subTail _ d n).trans (queueRec_subTail c r n)

theorem pullEngines_subTail (k : Nat) (c : Core) (n : Nat) : subTail (pullEngines k c) n = subTail c n := by
  induction k generalizing c with
  | zero => rfl
  | succ k ih =>
    simp only [pullEngines]
    split
    · rfl
    · split
      · exact (ih _).trans (handOver_subTail _ _ _ n)
      · rfl

theorem overflowRecords_subs (c : Core) : (overflowRecords c).rings.subs = c.rings.subs := by
  refine foldl_keeps (fun c => c.rings.subs) (fun c p => ?_) _ c
  split
  · rfl
  next r _ =>
    split
    · exact setRecRing_subs c 3 p.1 { r with dropped := 0 }
    · rfl

/-- R134, R141: places that come free change no tail. -/
theorem queueFreed_subTail (c : Core) (n : Nat) : subTail (queueFreed c) n = subTail c n :=
  (subTail_congr (overflowRecords_subs _) n).trans (pullEngines_subTail _ c n)

/-! ## Submission tails (R122, R143) -/

/-- R143: an error of a submission ring: it is errored, its tail stays, and one entry is logged. -/
theorem ringError_sub (c : Core) {n : Nat} {r : SubRing} (h : mapGet c.rings.subs n = some r) (cause count : Nat) :
    subTail (ringError c 0 n cause count) n = some (true, r.tail) ∧ (ringError c 0 n cause count).errs.next = c.errs.next + 1 := by
  have alone : ringError c 0 n cause count = queueFreed (ringError1 c 0 n cause count) := by simp [ringError]
  have told : ringError1 c 0 n cause count =
      issueEvent (logErr (markErrored c 0 n) { kind := 0x11, severity := 1, addr := ringErrorArg 0 n cause })
        5 false 0 0 (ringErrorArg 0 n cause) count := by simp [ringError1, tellRingError]
  rw [alone]
  constructor
  · rw [queueFreed_subTail, told, subTail, issueEvent_subs, logErr_rings]
    simp [markErrored, mapGet_mod_same, h]
  · rw [queueFreed_moved (ringError1 c 0 n cause count), told, issueEvent_errs, logErr_next _ _ rfl rfl]
    rfl

/-- R122: a tail at most the ring's size ahead of the fetched count is taken. -/
theorem tailWrite_fits {c : Core} {n v : Nat} {r : SubRing} (h : mapGet c.rings.subs n = some r)
    (fits : (v % 2 ^ 32 + 2 ^ 32 - r.fetched) % 2 ^ 32 ≤ 2 ^ r.log2) :
    tailWrite c n v = { c with rings := { c.rings with subs := mapSet c.rings.subs n { r with tail := v % 2 ^ 32 } } } := by
  simp only [tailWrite, h, if_pos fits]

/-- R122, R143: a tail that runs further ahead errs the ring. -/
theorem tailWrite_runsAhead {c : Core} {n v : Nat} {r : SubRing} (h : mapGet c.rings.subs n = some r)
    (ahead : 2 ^ r.log2 < (v % 2 ^ 32 + 2 ^ 32 - r.fetched) % 2 ^ 32) : tailWrite c n v = ringError c 0 n 1 (v % 2 ^ 32) := by
  simp only [tailWrite, h, if_neg (Nat.not_le.mpr ahead)]

/-- R133: a head of a completion ring that passes no record written is taken. -/
theorem cqHeadWrite_fits {c : Core} {n v : Nat} {q : RecRing} (h : mapGet c.rings.cqs n = some q)
    (fits : headAdvance q (v % 2 ^ 32) ≤ q.written - q.head) :
    cqHeadWrite c n v = { c with rings := { c.rings with cqs := mapSet c.rings.cqs n (advanced q (v % 2 ^ 32)) } } := by
  have ring : recRing c 1 n = some q := by simpa [recRing] using h
  have named : ringExists c 1 n = true := by simp [ringExists, ring]
  have notPassed := Nat.not_lt.mpr fits
  rw [headAdvance] at notPassed
  simp only [cqHeadWrite, named, if_true, headWrite, ring, if_neg notPassed]
  rfl

/-! ## Doorbells of a device that is ready and awake (R87, R92, R94) -/

section
variable {s : State} (h : ready s.core = true) (hd : s.core.power.deep = false)
include h hd

/-- R87, R122: an 8-byte write of a submission tail is taken. -/
theorem exec_submissionTailWrite_ready (n : Nat) (v : Word) :
    exec (.submissionTailWrite n 8 v) s = .next { s with core := tailWrite s.core n v.toNat } := by
  show execSubmissionTailWrite n 8 v s = _
  simp [execSubmissionTailWrite, onCore, doorbellWrite, barReady_of_ready _ h, ringsHeld, not_held_of_ready _ h, wakeBy_awake _ _ hd]

/-- R94: a CompareAndSwap of a doorbell page answers what the page held; with the compare value matched it is a write of the tail, and
of 128 bits one of the head after it. -/
theorem exec_doorbellCompareAndSwap_ready {n : Nat} (hn : n < 4096) (wide : Bool) (compare swap : List Word) :
    exec (.doorbellCompareAndSwap .compareAndSwap 2 n 0 wide compare swap) s = .next { s with
      core :=
        let held := doorbellWords s.core n
        let c := { s.core with reply := .data (natLe 8 held.1 ++ if wide then natLe 8 held.2 else []) }
        if (compare.getD 0 0).toNat = held.1 ∧ (wide = true → (compare.getD 1 0).toNat = held.2) then
          if wide then cqHeadWrite (tailWrite c n (swap.getD 0 0).toNat) n (swap.getD 1 0).toNat
          else tailWrite c n (swap.getD 0 0).toNat
        else c } := by
  have on := on_of_barReady _ (barReady_of_ready _ h)
  have awake : ∀ r : Reply, wakeBy { s.core with reply := r } .doorbell = { s.core with reply := r } := fun r => wakeBy_awake _ _ hd
  show execDoorbellCompareAndSwap .compareAndSwap 2 n 0 wide compare swap s = _
  cases wide <;> simp [execDoorbellCompareAndSwap, onCore, on, h, awake, Nat.not_le.mpr hn]

omit hd in
/-- R92, R94: any other atomic operation, any other offset and BAR0 answer Unsupported Request. -/
theorem exec_doorbellCompareAndSwap_unsupported {op : AtomicOp} {bar n off : Nat} (other : op ≠ .compareAndSwap ∨ bar = 0 ∨ off ≠ 0)
    (wide : Bool) (compare swap : List Word) :
    exec (.doorbellCompareAndSwap op bar n off wide compare swap) s = .next { s with core := { s.core with reply := .ur } } := by
  have on := on_of_barReady _ (barReady_of_ready _ h)
  have refused : (op ≠ .compareAndSwap || bar ≠ 2 || off ≠ 0 || 4096 ≤ n) = true := by
    rcases other with other | rfl | other
    · simp [other]
    · simp
    · simp [other]
  show execDoorbellCompareAndSwap op bar n off wide compare swap s = _
  simp only [execDoorbellCompareAndSwap, onCore, on, refused, Bool.not_true, Bool.false_eq_true, if_false, if_true]
end

/-- Settles O9: tail writes by what a tail value does to its ring, swaps by what the doorbell page holds. -/
theorem tailWrites : Obligations.TailWrites := by
  unfold Obligations.TailWrites
  constructor
  · intro n v s h hd
    rw [exec_submissionTailWrite_ready h hd]
    refine ⟨fun r hr fits => ?_, fun r hr ahead => ⟨_, rfl, ?_⟩, fun none => ?_⟩
    · rw [tailWrite_fits hr fits]
    · rw [tailWrite_runsAhead hr ahead]
      exact ringError_sub s.core hr 1 _
    · simp only [tailWrite, none]
  · intro n r q v v1 w w1 s h hd hn hr
    have tail : (doorbellWords s.core n).1 = r.tail := by simp [doorbellWords, hr]
    have narrow := exec_doorbellCompareAndSwap_ready h hd hn false [v] [w]
    have both := exec_doorbellCompareAndSwap_ready h hd hn true [v, v1] [w, w1]
    simp only [tail, List.getD_cons_zero, List.getD_cons_succ, Bool.false_eq_true, false_implies, and_true, true_implies, if_true,
      if_false, List.append_nil] at narrow both
    refine ⟨fun hv fits => ?_, fun hv => ?_, fun hq => ?_,
      fun op bar off wide other => exec_doorbellCompareAndSwap_unsupported h other wide _ _⟩
    · rw [narrow, if_pos hv, tailWrite_fits (r := r) ?_ fits]
      exact hr
    · rw [narrow, if_neg hv]
    · have head : (doorbellWords s.core n).2 = q.head % 2 ^ 32 := by simp [doorbellWords, hq]
      rw [head] at both
      refine ⟨fun hv hv1 fits passes => ?_, fun differs => ?_⟩
      · rw [both, if_pos ⟨hv, hv1⟩, tailWrite_fits (r := r) ?_ fits, cqHeadWrite_fits (q := q) ?_ passes]
        · exact hq
        · exact hr
      · rw [both, if_neg (by tauto)]

end Sys2Proof.Machine

namespace Sys2Proof.Machine

/-! ## What a bus write leaves at an address (R82) -/

/-- Byte `i` of a number of `n` bytes. -/
theorem natLe_getElem? (n v i : Nat) (h : i < n) : (natLe n v)[i]? = some (BitVec.ofNat 8 (v / 256 ^ i)) := by
  induction n generalizing v i with
  | zero => omega
  | succ n ih =>
    cases i with
    | zero => simp [natLe]
    | succ i =>
      rw [natLe, List.getElem?_cons_succ, ih _ _ (by omega), Nat.div_div_eq_div_mul, Nat.pow_succ, Nat.mul_comm 256]

/-- How far an address lies behind another, over the end of the address space. -/
def busOffset (a x : Nat) : Nat := (x % 2 ^ 64 + 2 ^ 64 - a % 2 ^ 64) % 2 ^ 64

theorem busOffset_add (a i : Nat) (h : i < 2 ^ 64) : busOffset a ((a + i) % 2 ^ 64) = i := by
  unfold busOffset
  omega

/-- R82: however its data is cut into requests, a write leaves each byte at its address. -/
theorem postByte_postsOf (relaxed : Bool) {most : Nat} (hm : 0 < most) (fuel a : Nat) (bs : List Byte) (ps : List Post) (x : Nat)
    (hf : bs.length ≤ fuel) (h64 : bs.length ≤ 2 ^ 64) :
    postByte ((postsOf relaxed most fuel a bs).reverse ++ ps) x = (bs[busOffset a x]?).or (postByte ps x) := by
  induction fuel generalizing a bs ps with
  | zero =>
    rw [List.eq_nil_of_length_eq_zero (Nat.le_zero.mp hf)]
    rfl
  | succ fuel ih =>
    cases bs with
    | nil => rfl
    | cons b bs =>
      have first := Nat.mod_lt a hm
      rw [List.length_cons] at hf h64
      rw [postsOf, List.reverse_cons, List.append_assoc, List.singleton_append,
        ih _ _ _ (by rw [List.length_drop, List.length_cons]; omega) (by rw [List.length_drop, List.length_cons]; omega)]
      have post : ∀ y : List Byte, postByte (⟨a % 2 ^ 64, y, relaxed⟩ :: ps) x = (y[busOffset a x]?).or (postByte ps x) := fun y => by
        have same : (x % 2 ^ 64 + 2 ^ 64 - a % 2 ^ 64 % 2 ^ 64) % 2 ^ 64 = busOffset a x := by rw [Nat.mod_mod, busOffset]
        simp only [postByte, same]
        cases y[busOffset a x]? <;> rfl
      rw [post, ← Option.or_assoc]
      congr 1
      rw [List.getElem?_drop, List.getElem?_take]
      -- The address lies in the first request, past which the later ones start, or behind it.
      by_cases inFirst : busOffset a x < most - a % most
      · rw [if_pos inFirst]
        have past : (b :: bs).length ≤ most - a % most + busOffset (a + (most - a % most)) x := by
          rw [List.length_cons]
          unfold busOffset at *
          omega
        rw [List.getElem?_eq_none past, Option.none_or]
      · rw [if_neg inFirst, Option.or_none]
        congr 1
        unfold busOffset at *
        omega

/-- R82: the bytes of a bus write are what its addresses read. -/
theorem busByte_busWrite (c : Core) (a i : Nat) (bs : List Byte) (hi : i < bs.length) (h64 : bs.length ≤ 2 ^ 64) :
    busByte (busWrite c a bs) ((a + i) % 2 ^ 64) = bs[i]? := by
  have positive : 0 < maxPayload c := Nat.mul_pos (by decide) (Nat.two_pow_pos _)
  rw [busByte, busWrite, busPost, postByte_postsOf _ positive _ _ _ _ _ (Nat.le_refl _) h64, busOffset_add _ _ (by omega),
    List.getElem?_eq_getElem hi]
  rfl

/-! ## Messages (R95, R96) -/

/-- R95, R96: one more message has been sent on a vector: four bytes of data at an address; none is pending. -/
def MessageSent (v addr data before : Nat) (t : Core) : Prop :=
  mapGet t.rings.msixSent v = some (before + 1) ∧ mapHas t.rings.msixPending v = false ∧
  ∀ i, i < 4 → busByte t ((addr + i) % 2 ^ 64) = some (BitVec.ofNat 8 (data / 256 ^ i))

theorem sendMsix_sent (c : Core) (v : Nat) :
    MessageSent v (regGet c (0x8000 + 16 * v)) (regField c (0x8008 + 16 * v) 31 0) ((mapGet c.rings.msixSent v).getD 0) (sendMsix c v) := by
  refine ⟨by simp [sendMsix, busWrite, busPost], by simp [sendMsix, mapHas], fun i hi => ?_⟩
  have written := busByte_busWrite c (regGet c (0x8000 + 16 * v)) i (natLe 4 (regField c (0x8008 + 16 * v) 31 0))
    (by rw [natLe_length]; exact hi) (by rw [natLe_length]; decide)
  rw [natLe_getElem? _ _ _ hi] at written
  exact written

/-- R96: a message is sent without a write to a register. -/
theorem sendMsix_regs (c : Core) (v : Nat) : (sendMsix c v).regs = c.regs := rfl

/-- R96: the only pending message is sent, once nothing holds it. -/
theorem msixRelease_only {c : Core} {v : Nat} (h : c.rings.msixPending = [(v, ())]) (ho : msixOpen c v = true) :
    msixRelease c = sendMsix c v := by
  simp [msixRelease, h, ho]

/-- R96, R98, R103: nothing holds a vector's message. -/
theorem msixOpen_of {c : Core} {v : Nat} (on : c.rings.msixEnable = true) (hf : c.rings.functionMask = false)
    (hm : vectorMasked c v = false) (hl : linkHeld c = false) (hb : barredAt c 0 (regGet c (0x8000 + 16 * v)) = false) :
    msixOpen c v = true := by
  simp only [msixOpen, on, hf, hm, hl, hb, Bool.not_false, Bool.and_self]

/-- R95: a masked vector's message is held. -/
theorem msixOpen_masked {c : Core} {v : Nat} (hm : vectorMasked c v = true) : msixOpen c v = false := by
  simp only [msixOpen, hm, Bool.not_true, Bool.and_false, Bool.false_and]

section
variable (c : Core) (kind id : Nat) (r : RecRing)

/-- A record ring that is replaced leaves all of the rings' state but the record rings. -/
theorem setRecRing_rings : ∃ cqs streams events,
    (setRecRing c kind id r).rings = { c.rings with cqs := cqs, streams := streams, events := events } := by
  simp only [setRecRing]
  split
  · exact ⟨_, _, _, rfl⟩
  · split <;> exact ⟨_, _, _, rfl⟩

theorem setRecRing_msixSent : (setRecRing c kind id r).rings.msixSent = c.rings.msixSent := by
  obtain ⟨cqs, streams, events, rings⟩ := setRecRing_rings c kind id r
  rw [rings]

/-- R96: a change of a record ring holds no message and lets none go. -/
theorem msixOpen_setRecRing (v : Nat) : msixOpen (setRecRing c kind id r) v = msixOpen c v := by
  obtain ⟨cqs, streams, events, rings⟩ := setRecRing_rings c kind id r
  rw [msixOpen, rings]
  rfl
end

/-- R95: a vector's control word with its mask bit cleared, its data kept. -/
theorem unmask_control (c : Core) (o : Nat) :
    bit (regGet (regPut c o 32 32 0) o) 32 = false ∧ regField (regPut c o 32 32 0) o 31 0 = regField c o 31 0 := by
  constructor
  · rw [regPut, regGet_set_same, bit_testBit, testBit_putBits _ _ _ _ _ (Nat.le_refl _)]
    simp
  · refine Nat.eq_of_testBit_eq fun j => ?_
    rw [regField, regField, testBit_bits, testBit_bits, regPut, regGet_set_same, testBit_putBits _ _ _ _ _ (Nat.le_refl _)]
    by_cases hj : j < 31 - 0 + 1
    · rw [if_neg (by omega)]
    · simp [hj]

/-- A write to a register's field leaves the rings. -/
theorem regPut_rings (c : Core) (o hi lo x : Nat) : (regPut c o hi lo x).rings = c.rings := rfl

/-- R97, R98: a write in the MSI-X table bars no stream and opens none. -/
theorem barred_put_msix (c : Core) {o : Nat} (ho : 0x8000 ≤ o ∧ o < 0x10000) (hi lo x : Nat) :
    linkHeld (regPut c o hi lo x) = linkHeld c ∧ ∀ slot a, barredAt (regPut c o hi lo x) slot a = barredAt c slot a := by
  have kept : ∀ p, p < 0x8000 ∨ 0x10000 ≤ p → regGet (regPut c o hi lo x) p = regGet c p := fun p hp =>
    regGet_put_other c o hi lo x p (by omega)
  have slots : ∀ w, slotBarred (regPut c o hi lo x) w = slotBarred c w := fun w => by
    rw [slotBarred, slotBarred, kept 0x10 (by decide)]
    rfl
  have windows : ∀ w a, inWindow (regPut c o hi lo x) w a = inWindow c w a := fun w a => by
    simp only [inWindow, regField, kept (0x200200 + 0x20 * w) (by omega), kept (0x200208 + 0x20 * w) (by omega)]
    rfl
  refine ⟨by rw [linkHeld, linkHeld, slots]; rfl, fun slot a => ?_⟩
  simp only [barredAt, streamAt, ideStream, windows, slots]

/-- Reading back a record ring that is there. -/
theorem recRing_set_same {c : Core} {kind id : Nat} {q : RecRing} (h : recRing c kind id = some q) (r : RecRing) :
    recRing (setRecRing c kind id r) kind id = some r := by
  have kinds : kind = 1 ∨ kind = 2 ∨ kind = 3 := by
    by_contra other
    simp only [not_or] at other
    obtain ⟨h1, h2, h3⟩ := other
    simp [recRing, h1, h2, h3] at h
  rcases kinds with rfl | rfl | rfl <;> simp [recRing, setRecRing]

/-- R96: the only pending message is sent when its vector's mask bit is cleared. -/
theorem unmask_sends {c : Core} {v : Nat} (pend : c.rings.msixPending = [(v, ())]) (on : c.rings.msixEnable = true)
    (hf : c.rings.functionMask = false) (hl : linkHeld c = false) (hv : v < 2048)
    (hb : barredAt c 0 (regGet c (0x8000 + 16 * v)) = false) :
    let c' := msixRelease (regPut c (0x8008 + 16 * v) 32 32 0)
    MessageSent v (regGet c (0x8000 + 16 * v)) (regField c (0x8008 + 16 * v) 31 0) ((mapGet c.rings.msixSent v).getD 0) c' ∧
      vectorMasked c' v = false := by
  obtain ⟨cleared, data⟩ := unmask_control c (0x8008 + 16 * v)
  obtain ⟨held, barred⟩ := barred_put_msix c (o := 0x8008 + 16 * v) (by omega) 32 32 0
  have addr := regGet_put_other c (0x8008 + 16 * v) 32 32 0 (0x8000 + 16 * v) (by omega)
  have same := regPut_rings c (0x8008 + 16 * v) 32 32 0
  generalize regPut c (0x8008 + 16 * v) 32 32 0 = d at cleared data held barred addr same
  rw [← same] at pend on hf
  have goes := msixOpen_of on hf cleared (held.trans hl) (by rw [barred, addr]; exact hb)
  have sent := sendMsix_sent d v
  rw [addr, data, same] at sent
  rw [msixRelease_only pend goes]
  exact ⟨sent, (congrArg (bit · 32) (regGet_congr (sendMsix_regs d v) _)).trans cleared⟩

/-- R98, R103: fetching and record writes go on over a link that is up only. -/
theorem up_of_not_linkHeld {c : Core} (h : linkHeld c = false) : c.link.up = true := by
  simp only [linkHeld, Bool.or_eq_false_iff, Bool.not_eq_false'] at h
  exact h.1

section
variable {s : State} (h : ready s.core = true)
include h

/-- R135: when TIME runs out on a ring with records not yet signalled, its vector's message is due. -/
theorem exec_coalesceTimerExpiry_due {kind ring : Nat} {q : RecRing} (hq : recRing s.core kind ring = some q) (he : q.irqEn = true)
    (hu : 0 < q.unsignalled) :
    exec (.coalesceTimerExpiry kind ring) s = .next { s with
      core := msixDue (setRecRing s.core kind ring { q with unsignalled := 0 }) q.vector } := by
  show execCoalesceTimerExpiry kind ring s = _
  simp only [execCoalesceTimerExpiry, onCore, hq, he, hu, alive_of_ready _ h, decide_true, Bool.and_self, if_true]

/-- R96: a vector is unmasked in the table, and what is pending and open goes out. -/
theorem exec_msixUnmask_vector (hd : s.core.power.deep = false) {v : Nat} (hv : v < 2048) :
    exec (.msixUnmask 0 v) s = .next { s with core := msixRelease (regPut s.core (0x8008 + 16 * v) 32 32 0) } := by
  have aligned : alignedAccess (0x800C + 16 * v) 4 = true := by
    have whole : (0x800C + 16 * v) % 4 = 0 := by omega
    simp [alignedAccess, whole]
  have always : blockDomains (0x800C + 16 * v) = 0 := if_pos (by omega)
  show execMsixUnmask 0 v s = _
  simp only [execMsixUnmask, onCore]
  rw [bar0Write_taken _ _ _ _ (barReady_of_ready _ h) hd aligned, wakeBlock_always _ _ always, if_pos hv]

/-- R95, R96: MSI-X Enable is set, or Function Mask cleared, in configuration space, and what is pending and open goes out. -/
theorem exec_msixUnmask_function (hl : linkHeld s.core = false) (v : Nat) :
    exec (.msixUnmask 1 v) s = .next { s with
      core := msixRelease { s.core with rings := { s.core.rings with msixEnable := true } } } ∧
    exec (.msixUnmask 2 v) s = .next { s with
      core := msixRelease { s.core with rings := { s.core.rings with functionMask := false } } } := by
  have serves : configServes s.core = true := by
    simp [configServes, on_of_barReady _ (barReady_of_ready _ h), up_of_not_linkHeld hl]
  show execMsixUnmask 1 v s = _ ∧ execMsixUnmask 2 v s = _
  simp only [execMsixUnmask, onCore, serves, if_true, and_self]
end

/-- Settles O16: each command is one message due or released; what then stands on the bus is a sent message's four bytes. -/
theorem interruptMessages : Obligations.InterruptMessages := by
  unfold Obligations.InterruptMessages
  intro kind ring v q s h hd hl hv hb told
  refine ⟨fun hq hqv he hu on unmasked => ?timer, fun pend => ⟨fun on unmasked => ?vector, fun unmasked hm => ?enable,
    fun on hm => ?function⟩⟩
  case timer =>
    subst hqv
    rw [exec_coalesceTimerExpiry_due h hq he hu, msixDue, msixOpen_setRecRing]
    refine ⟨fun hm => ⟨_, rfl, ?_⟩, fun hm => ⟨_, rfl, ?_⟩⟩
    · rw [msixOpen_of on unmasked hm hl hb, if_pos rfl]
      have sent := sendMsix_sent (setRecRing s.core kind ring { q with unsignalled := 0 }) q.vector
      rw [setRecRing_msixSent] at sent
      exact ⟨sent, recRing_set_same hq _⟩
    · rw [msixOpen_masked hm, if_neg Bool.false_ne_true]
      exact ⟨setRecRing_msixSent _ _ _ _, by simp [mapHas], rfl⟩
  case vector =>
    rw [exec_msixUnmask_vector h hd hv]
    exact ⟨_, rfl, unmask_sends pend on unmasked hl hv hb⟩
  case enable =>
    have goes := msixRelease_only (c := { s.core with rings := { s.core.rings with msixEnable := true } }) pend
      (msixOpen_of rfl unmasked hm hl hb)
    rw [(exec_msixUnmask_function h hl v).1, goes]
    exact ⟨_, rfl, sendMsix_sent _ v, rfl⟩
  case function =>
    have goes := msixRelease_only (c := { s.core with rings := { s.core.rings with functionMask := false } }) pend
      (msixOpen_of on rfl hm hl hb)
    rw [(exec_msixUnmask_function h hl v).2, goes]
    exact ⟨_, rfl, sendMsix_sent _ v, rfl⟩

end Sys2Proof.Machine

namespace Sys2Proof.Machine

/-! ## A request that times out beside a model slot that is listed twice (R201, R402) -/

/-- A VEC_DELETE of one id of index 3, whose read of the host's memory waits. -/
def listedDelete : Waiting := { desc := ⟨2, 0, [0x62, 0, 4096, 3 + 2 ^ 8]⟩, env := [], slot := 0 }

/-- An index without a vector. -/
def listedIndex : Index := { die := false, metric := 0, format := 8, dim := 1, capacity := 4, centroids := [] }

/-- A serving device with a host tier timeout of 1, on which the delete waits; its models list slot 3 twice, with code lengths for sheaves
and without. -/
def modelTwice : Core :=
  { setupDone := true
    power := { on := true, ready := true }
    link := { up := true }
    regs := [(0x200110, 2 ^ 32)]
    sess := { waiting := [listedDelete] }
    obj := { indexes := [(3, listedIndex)]
             models := [(3, { state := 2, image := [], codes := [1] }), (3, { state := 2, image := [] })] } }

/-- Every premise of the statement's clause of a tier timeout holds there. -/
theorem modelTwice_premises : let d := listedDelete.desc
    serving modelTwice = true ∧ d.session = 0 ∧ d.opcode = 0x62 ∧ modelTwice.obj.jobs = [] ∧ d.field 2 63 0 0 % 4 = 0 ∧
    1 ≤ d.field 3 28 8 0 ∧ d.field 3 28 8 0 ≤ 1048576 ∧ mapGet modelTwice.obj.indexes (indexIdOf d) = some listedIndex ∧
    mapGet modelTwice.mem.windows 0 = none ∧ barredAt modelTwice 0 (d.field 2 63 0 0) = false ∧
    regField modelTwice 0x200110 63 32 ≠ 0 := by decide

/-- The timeout of the delete, as the device carries it out. -/
def modelTwiceTimedOut : State :=
  timeOut ⟨[], {}, modelTwice⟩ true 2 (fun w => tierLimit modelTwice w.slot != 0) fun c => wakeBy c (.scheduler false)

/-- R402: the failed item keeps the code lengths of slot 3, those of its first listing, and writes them into the second too. -/
theorem modelTwice_codes : modelTwiceTimedOut.core.obj.models.map (·.2.codes) = [[1], [1]] := by decide

/-- Refutes O47: the statement ranges over states whose models list a slot twice (`mapWf` fails), and there the failed read of R201 changes
an object: keeping the slots' code lengths (R402) gives the second listing those of the first. -/
theorem not_requestsEnd : ¬ Obligations.RequestsEnd := by
  unfold Obligations.RequestsEnd
  rintro ⟨timeouts, -⟩
  obtain ⟨serves, session, opcode, jobs, aligned, atLeast, atMost, index, windows, barred, limit⟩ := modelTwice_premises
  obtain ⟨ends, -⟩ := timeouts listedDelete.desc listedDelete listedIndex ⟨[], {}, modelTwice⟩ serves rfl rfl rfl rfl rfl session opcode
    jobs aligned atLeast atMost index windows barred
  obtain ⟨t, ran, -, -, -, objects, -⟩ := ends limit
  have left : modelTwiceTimedOut.core.obj = modelTwice.obj := by
    cases ran
    exact objects
  have codes := modelTwice_codes
  rw [left] at codes
  exact absurd codes (by decide)

end Sys2Proof.Machine

/-! PROOFS of the ring statements (04_rings): completions, NOP and FENCE, descriptors of the wrong generation, rings created and destroyed, fetch visits, head writes. -/

namespace Sys2Proof.Machine

/-! ## A completion that is queued at once (R129, R130) -/

/-- R130: the words of a completion that is not replayed. -/
theorem completionWords_new (d : Desc) (st : Status) (c0 c1 : Nat) : completionWords d st c0 c1 false = [d.tag,
    stCode st + d.opcode % 2 ^ 8 * 2 ^ 8 + d.generation % 2 ^ 2 * 2 ^ 16 + d.session % 2 ^ 24 * 2 ^ 24 + d.ring % 2 ^ 12 * 2 ^ 48,
    c0 % 2 ^ 32 + c1 % 2 ^ 32 * 2 ^ 32] := by
  simp [completionWords, fieldAt, b2n]

/-- R129: a descriptor of a ring that stands is open no more, and nothing else of the rings changes. -/
theorem closeDesc_rings {c : Core} {d : Desc} {r : SubRing} (h : mapGet c.rings.subs d.ring = some r) :
    (closeDesc c d).rings = { c.rings with subs := mapSet c.rings.subs d.ring { r with opened := r.opened.erase d.count } } := by
  simp only [closeDesc, h]

/-- R129, R134: a completion whose ring takes records goes to the end of the queue while a place is free and no engine waits. -/
theorem complete_queued {c : Core} {d : Desc} {r : SubRing} {q : RecRing} (hr : mapGet c.rings.subs d.ring = some r)
    (hq : mapGet c.rings.cqs r.cq = some q) (takes : takesRecords q = true) (room : queueRoom c = true) (idle : c.rings.engines = [])
    (st : Status) (c0 c1 : Nat) :
    complete c d st c0 c1 = closeDesc (pushRec c ⟨1, r.cq, completionWords d st c0 c1 false, d.irq, [], 0⟩) d := by
  have named : cqOf c d.ring = some r.cq := by simp [cqOf, hr]
  have ring : recRing c 1 r.cq = some q := by simpa [recRing] using hq
  simp [complete, named, completeRec, giveRec, room, idle, handOver, queueRec, ring, takes]

/-- Settles O7: the completion is queued (`complete_queued`), and closing its descriptor changes its submission ring alone. -/
theorem completionRecord : Obligations.CompletionRecord := by
  unfold Obligations.CompletionRecord
  intro c d st c0 c1 r q hr hq errored destroying room engines
  have takes : takesRecords q = true := by simp [takesRecords, errored, destroying]
  have rings := closeDesc_rings (c := pushRec c ⟨1, r.cq, completionWords d st c0 c1 false, d.irq, [], 0⟩) (d := d) hr
  rw [← complete_queued hr hq takes (decide_eq_true room) engines, completionWords_new] at rings
  rw [rings]
  exact ⟨rfl, engines, mapGet_set_same _ _ _, complete_bus _ _ _ _ _, complete_mem _ _ _ _ _, complete_obj _ _ _ _ _⟩

/-! ## NOP and FENCE (R120, R127) -/

/-- R127: the fetcher keeps a descriptor of a ring that exists in the ring's buffer, and queues no record. -/
theorem fetcherKeep_buffers {c : Core} {d : Desc} {q : SubRing} (h : mapGet c.rings.subs d.ring = some q) :
    (fetcherKeep c d).rings.queue = c.rings.queue ∧ (fetcherKeep c d).rings.engines = c.rings.engines ∧
      ∃ r, mapGet (fetcherKeep c d).rings.subs d.ring = some r ∧ r.buffer.contains d = true := by
  by_cases there : q.buffer.contains d = true
  · have same : fetcherKeep c d = c := by simp only [fetcherKeep, h, there, if_true]
    rw [same]
    exact ⟨rfl, rfl, q, h, there⟩
  · simp only [fetcherKeep, h, there]
    exact ⟨rfl, rfl, _, mapGet_set_same _ _ _, by simp⟩

section
variable {s : State} (h : serving s.core = true) (d : Desc)
include h

/-- R120: what NOP does on a device that serves. -/
theorem exec_nop_serving : exec (.nop d) s = .next { s with
    core := if d.fenceBefore && earlierOpen s.core d then fetcherKeep s.core d else complete s.core d .ok 0 0 } := by
  show execNop d s = _
  simp [execNop, onCore, h]

/-- R127: what FENCE does on a device that serves. -/
theorem exec_fence_serving : exec (.fence d) s = .next { s with
    core := if earlierOpen s.core d then fetcherKeep s.core d else complete s.core d .ok 0 0 } := by
  show execFence d s = _
  simp [execFence, onCore, h]
end

/-- Settles O6: both complete when nothing that they wait for is open, and else stay in the buffer (`fetcherKeep_buffers`). -/
theorem nopAndFence : Obligations.NopAndFence := by
  unfold Obligations.NopAndFence
  intro d s h
  rw [exec_nop_serving h, exec_fence_serving h]
  refine ⟨fun first => ?_, fun first => ?_, fun q hq earlier => ⟨fun fenced => ?_, ?_⟩⟩
  · have goes : (d.fenceBefore && earlierOpen s.core d) = false := by simpa using first
    rw [goes]
    rfl
  · rw [first]
    rfl
  · rw [fenced, earlier]
    exact ⟨_, rfl, fetcherKeep_buffers hq⟩
  · rw [earlier]
    exact ⟨_, rfl, fetcherKeep_buffers hq⟩

/-! ## A descriptor of the wrong generation (R117, R601) -/

/-- R117, R601: the generation is the first of the generic checks, and no FENCE_BEFORE of the descriptor's own holds a refusal. -/
theorem routable_wrongGeneration {c : Core} {ring : Nat} {r : SubRing} {d : Desc} {ds : List Desc} (hf : fenceOpen c ring = false)
    (hb : r.buffer = d :: ds) (hg : d.generation ≠ r.gen) : routable c ring r = some (d, some .invalidField) := by
  have bad : genericCheck c r.gen d = some .invalidField := if_pos hg
  simp [routable, hf, hb, routableFrom, bad]

/-- Settles O12: the descriptor is refused (`routable_wrongGeneration`) and leaves the buffer (`leaveBuffer_first`). -/
theorem wrongGenerationRefused : Obligations.WrongGenerationRefused := by
  unfold Obligations.WrongGenerationRefused
  intro ring r d ds s hs hr hf hb hring hg
  subst hring
  show Host.Outcome.next (descriptorRoute s d.ring) = _
  simp [descriptorRoute, hr, hs, routable_wrongGeneration hf hb hg, leaveBuffer_first hr hb]

end Sys2Proof.Machine

namespace Sys2Proof.Machine

/-! ## What handing records over leaves of the rings (R129, R134, R141) -/

/-- A submission ring apart from which of its descriptors are open. -/
def SubRing.besidesOpen (r : SubRing) : SubRing := { r with opened := [] }

/-- R114, R143: a record ring stands as `q`, and none of its records is queued. -/
def RingStopped (kind id : Nat) (q : RecRing) (c : Core) : Prop :=
  recRing c kind id = some q ∧ (c.rings.queue.any fun x => x.kind == kind && x.ring == id) = false

/-- What records that are handed over leave: the command window, the submission rings but for their open descriptors, and every stopped
ring that takes no records. -/
structure RecordsHanded (c d : Core) : Prop where
  window : d.rings.window = c.rings.window
  subs : ∀ n, (mapGet d.rings.subs n).map SubRing.besidesOpen = (mapGet c.rings.subs n).map SubRing.besidesOpen
  stopped : ∀ kind id q, takesRecords q = false → RingStopped kind id q c → RingStopped kind id q d

namespace RecordsHanded

theorem of_rings {c d : Core} (h : d.rings = c.rings) : RecordsHanded c d :=
  ⟨by rw [h], fun n => by rw [h], fun kind id q _ => by simp only [RingStopped, recRing, h, imp_self]⟩

theorem refl (c : Core) : RecordsHanded c c := of_rings rfl

theorem trans {a b c : Core} (h : RecordsHanded a b) (k : RecordsHanded b c) : RecordsHanded a c :=
  ⟨k.window.trans h.window, fun n => (k.subs n).trans (h.subs n), fun kind id q no was => k.stopped kind id q no (h.stopped kind id q no was)⟩

theorem foldl {α : Type} {f : Core → α → Core} (h : ∀ c x, RecordsHanded c (f c x)) (l : List α) (c : Core) : RecordsHanded c (l.foldl f c) := by
  induction l generalizing c with
  | nil => exact refl c
  | cons x l ih => exact (h c x).trans (ih _)

end RecordsHanded

/-- A record of a ring that takes records joins the queue of no stopped ring. -/
theorem pushRec_handed {c : Core} {x : Rec} {q : RecRing} (hq : recRing c x.kind x.ring = some q) (takes : takesRecords q = true) :
    RecordsHanded c (pushRec c x) := by
  refine ⟨rfl, fun _ => rfl, fun kind id p no ⟨ring, clear⟩ => ⟨ring, ?_⟩⟩
  have other : (x.kind == kind && x.ring == id) = false := by
    by_contra same
    simp only [Bool.not_eq_false, Bool.and_eq_true, beq_iff_eq] at same
    obtain ⟨rfl, rfl⟩ := same
    rw [Option.some.inj (hq.symm.trans ring), no] at takes
    exact Bool.false_ne_true takes
  simp only [pushRec, List.any_append, clear, List.any_cons, other, List.any_nil, Bool.or_self]

theorem queueRec_handed (c : Core) (x : Rec) : RecordsHanded c (queueRec c x) := by
  simp only [queueRec]
  split
  next q hq =>
    split
    next takes => exact pushRec_handed hq takes
    next => exact .refl c
  next => exact .refl c

theorem closeDesc_handed (c : Core) (d : Desc) : RecordsHanded c (closeDesc c d) := by
  cases h : mapGet c.rings.subs d.ring with
  | none => exact .of_rings (by simp only [closeDesc, h])
  | some r =>
    have rings := closeDesc_rings h
    refine ⟨by rw [rings], fun n => ?_, fun kind id q _ was => by simpa only [RingStopped, recRing, rings] using was⟩
    rw [rings]
    by_cases hn : n = d.ring
    · subst hn
      rw [mapGet_set_same, h]
      rfl
    · rw [mapGet_set_other _ _ _ _ hn]

theorem handOver_handed (c : Core) (d : Option Desc) (x : Rec) : RecordsHanded c (handOver c d x) := by
  cases d with
  | none => exact queueRec_handed c x
  | some d => exact (queueRec_handed c x).trans (closeDesc_handed _ d)

theorem pullEngines_handed (n : Nat) (c : Core) : RecordsHanded c (pullEngines n c) := by
  induction n generalizing c with
  | zero => exact .refl c
  | succ n ih =>
    simp only [pullEngines]
    split
    · exact .refl c
    · split
      next es _ _ =>
        have taken : RecordsHanded c { c with rings := { c.rings with engines := es } } := ⟨rfl, fun _ => rfl, fun _ _ _ _ was => was⟩
        exact (taken.trans (handOver_handed _ _ _)).trans (ih _)
      · exact .refl c

/-- An event ring that takes records may be changed: a stopped ring is another one. -/
theorem setEventRing_handed {c : Core} {id : Nat} {r : RecRing} (hr : mapGet c.rings.events id = some r) (takes : takesRecords r = true)
    (r' : RecRing) : RecordsHanded c (setRecRing c 3 id r') := by
  refine ⟨rfl, fun _ => rfl, fun kind i q no ⟨ring, clear⟩ => ⟨?_, clear⟩⟩
  by_cases same : kind = 3 ∧ i = id
  · obtain ⟨rfl, rfl⟩ := same
    rw [Option.some.inj (hr.symm.trans ring), no] at takes
    exact absurd takes Bool.false_ne_true
  · rw [← ring]
    by_cases hk : kind = 3
    · subst hk
      exact mapGet_set_other _ _ _ _ fun h => same ⟨rfl, h⟩
    · simp [recRing, setRecRing, hk]

theorem overflowRecords_handed (c : Core) : RecordsHanded c (overflowRecords c) := by
  refine .foldl (fun c p => ?_) _ c
  split
  next => exact .refl c
  next r hr =>
    split
    next told =>
      simp only [Bool.and_eq_true] at told
      obtain ⟨⟨⟨_, takes⟩, _⟩, _⟩ := told
      exact (setEventRing_handed hr takes { r with dropped := 0 }).trans (pushRec_handed (recRing_set_same (kind := 3) hr _) takes)
    next => exact .refl c

/-- R134, R141: places that come free are taken by records that are handed over. -/
theorem queueFreed_handed (c : Core) : RecordsHanded c (queueFreed c) := (pullEngines_handed _ c).trans (overflowRecords_handed _)

/-! ## A record ring is stopped (R114, R143) -/

theorem retracted_rings (l : List Rec) (c : Core) : (l.foldr retractRec c).rings = c.rings := by
  induction l with
  | nil => rfl
  | cons x l ih =>
    rw [List.foldr_cons, retractRec]
    split <;> exact ih

/-- R114: a ring that takes no records is stopped once its queued records are discarded. -/
theorem discardRecs_stops {c : Core} {kind id : Nat} {q : RecRing} (hq : recRing c kind id = some q) (no : takesRecords q = false) :
    RingStopped kind id q (discardRecs c kind id) := by
  refine (RecordsHanded.foldl closeDesc_handed _ _).stopped kind id q no ?_
  rw [RingStopped, recRing, retracted_rings]
  refine ⟨hq, List.any_eq_false.mpr fun x hx => ?_⟩
  obtain ⟨_, kept⟩ := List.mem_filter.mp hx
  exact ne_true_of_eq_false ((Bool.not_eq_true' _).mp kept)

end Sys2Proof.Machine

namespace Sys2Proof.Machine

/-! ## Create and destroy commands (R109 to R114, R600) -/

section
variable {s : State} (h : ready s.core = true) (hd : s.core.power.deep = false) (idle : s.core.rings.window = none)
include h hd

/-- R86: a write of the window's command register is taken, and wakes no block. -/
theorem windowWrite_ready (f : Core → Core) : bar0Write s.core 0x10000 8 f = f s.core := by
  rw [bar0Write_taken _ _ _ _ (barReady_of_ready _ h) hd (by decide), wakeBlock_always _ _ (by decide)]

include idle

/-- R109: while no command is carried out, a create command that passes its checks makes its ring and sets STATUS. -/
theorem exec_ringCreate_passes {kind id : Nat} (passes : createCheck s.core kind id = none) :
    exec (.ringCreate kind id) s = .next { s with core := windowStatus (createRing s.core kind id) .ok } := by
  show execRingCreate kind id s = _
  simp [execRingCreate, onCore, windowWrite_ready h hd, ringCreate, ringsHeld, not_held_of_ready _ h, idle, passes]

/-- R600: while no command is carried out, a destroy command that passes its checks is taken up. -/
theorem exec_ringDestroy_passes {kind id : Nat} (passes : destroyCheck s.core kind id = none) :
    exec (.ringDestroy kind id) s = .next { s with core := startDestroy s.core kind id } := by
  show execRingDestroy kind id s = _
  simp [execRingDestroy, onCore, windowWrite_ready h hd, ringDestroy, ringsHeld, not_held_of_ready _ h, idle, passes]
end

/-- R112: a submission ring whose completion ring is not errored is made as the window's fields say, and nothing else changes. -/
theorem createRing_sub {c : Core} (sound : ringErrored c 1 (regField c 0x10020 11 0) = false) (id : Nat) :
    createRing c 0 id = { c with rings := { c.rings with
      subs := mapSet c.rings.subs id
        { base := regField c 0x10010 63 12 * 4096, log2 := regField c 0x10018 4 0
          gen := regField c 0x10018 6 5, cq := regField c 0x10020 11 0
          stream := if regField c 0x10020 22 22 = 1 then some (regField c 0x10020 21 12) else none
          prefetch := regField c 0x10020 30 24 } } } := by
  have same : ∀ subs, ringErrored { c with rings := { c.rings with subs := subs } } 1 (regField c 0x10020 11 0) = false := fun _ => sound
  simp [createRing, same]

/-- R109: the checks of a create command for a submission ring. -/
theorem createCheck_sub {c : Core} {id : Nat} (hid : id < 4096) (free : mapHas c.rings.subs id = false)
    (small : 4 ≤ regField c 0x10018 4 0) (large : regField c 0x10018 4 0 ≤ 16) (gen : 1 ≤ regField c 0x10018 6 5)
    (pre : 1 ≤ regField c 0x10020 30 24) (most : regField c 0x10020 30 24 ≤ 64)
    (cq : mapHas c.rings.cqs (regField c 0x10020 11 0) = true)
    (stream : regField c 0x10020 22 22 = 1 → mapHas c.rings.streams (regField c 0x10020 21 12) = true) : createCheck c 0 id = none := by
  have inRange : ¬ ringLimit 0 ≤ id := Nat.not_le.mpr hid
  have absent : ringExists c 0 id = false := free
  have completes : ringExists c 1 (regField c 0x10020 11 0) = true := cq
  have streams : regField c 0x10020 22 22 = 1 → ringExists c 2 (regField c 0x10020 21 12) = true := stream
  have size : (regField c 0x10018 4 0 < 4 || 16 < regField c 0x10018 4 0) = false := by simp; omega
  have fields : ¬ (regField c 0x10018 6 5 = 0 ∨ regField c 0x10020 30 24 = 0) ∧ ¬ 64 < regField c 0x10020 30 24 := by omega
  simpa [createCheck, inRange, absent, size, fields, completes] using streams

/-- R109: the checks of a create command for a record ring. -/
theorem createCheck_rec {c : Core} {kind id : Nat} (hk : kind ≠ 0) (hid : id < ringLimit kind) (free : recRing c kind id = none)
    (small : 4 ≤ regField c 0x10018 4 0) (large : regField c 0x10018 4 0 ≤ 16) (vector : regField c 0x10018 18 8 ≤ 2047)
    (count : 1 ≤ regField c 0x10028 7 0) (time : 1 ≤ regField c 0x10028 31 16) : createCheck c kind id = none := by
  have absent : ringExists c kind id = false := by simp [ringExists, hk, free]
  have size : (regField c 0x10018 4 0 < 4 || 16 < regField c 0x10018 4 0) = false := by simp; omega
  have fields : (2047 < regField c 0x10018 18 8 || regField c 0x10028 7 0 = 0 || regField c 0x10028 31 16 = 0) = false := by
    simp; omega
  simp [createCheck, Nat.not_le.mpr hid, absent, size, hk, fields]

/-- R600: a submission ring may be destroyed. -/
theorem destroyCheck_sub {c : Core} {id : Nat} {r : SubRing} (hid : id < 4096) (hr : mapGet c.rings.subs id = some r) :
    destroyCheck c 0 id = none := by
  have inRange : ¬ ringLimit 0 ≤ id := Nat.not_le.mpr hid
  have there : ringExists c 0 id = true := by simp [ringExists, mapHas, hr]
  simp [destroyCheck, inRange, there]

/-- R600: a record ring that no submission ring and no taken-over turn needs may be destroyed. -/
theorem destroyCheck_rec {c : Core} {kind id : Nat} {q : RecRing} (hk : kind ≠ 0) (hid : id < ringLimit kind)
    (hq : recRing c kind id = some q) (needs : takeNeeds c = false)
    (unnamed : (c.rings.subs.any fun p => (kind == 1 && p.2.cq == id) || (kind == 2 && p.2.stream == some id)) = false) :
    destroyCheck c kind id = none := by
  have there : ringExists c kind id = true := by simp [ringExists, hk, hq]
  have completes : kind = 1 → (c.rings.subs.any fun p => p.2.cq == id) = false := fun h1 => by simpa [h1] using unnamed
  have streams : kind = 2 → (c.rings.subs.any fun p => p.2.stream == some id) = false := fun h2 => by simpa [h2] using unnamed
  have named : (kind = 1 && (c.rings.subs.any fun p => p.2.cq == id) || (kind = 2 && c.rings.subs.any fun p => p.2.stream == some id)) = false := by
    by_cases h1 : kind = 1
    · simp [h1, completes h1]
    · by_cases h2 : kind = 2
      · simp [h2, streams h2]
      · simp [h1, h2]
  simp only [destroyCheck, Nat.not_le.mpr hid, there, named, needs]
  simp

/-- R114: a record ring whose destruction begins stands stopped in the window. -/
theorem startDestroy_rec {c : Core} {kind id : Nat} {q : RecRing} (hk : kind ≠ 0) (hq : recRing c kind id = some q) :
    (startDestroy c kind id).rings.window = some (kind, id) ∧
      RingStopped kind id { q with destroying := true } (startDestroy c kind id) := by
  have no : takesRecords { q with destroying := true } = false := by simp [takesRecords]
  have stops := discardRecs_stops (recRing_set_same hq { q with destroying := true }) no
  have handed := queueFreed_handed { discardRecs (setRecRing c kind id { q with destroying := true }) kind id with
    rings := { (discardRecs (setRecRing c kind id { q with destroying := true }) kind id).rings with window := some (kind, id) } }
  simp only [startDestroy, hk, if_false, hq]
  exact ⟨handed.window, handed.stopped _ _ _ no stops⟩

/-- R113, R114: the rings once the one in the window is gone. -/
def ringGone (g : Rings) (kind id : Nat) : Rings :=
  if kind = 0 then { g with subs := mapDel g.subs id, window := none }
  else if kind = 1 then { g with cqs := mapDel g.cqs id, window := none }
  else if kind = 2 then { g with streams := mapDel g.streams id, window := none }
  else { g with events := mapDel g.events id, window := none }

section
variable {s : State} {kind id : Nat} (live : alive s.core = true) (window : s.core.rings.window = some (kind, id))
include live window

/-- R113: the destruction of a submission ring that has not drained goes on. -/
theorem exec_ringDestroyDone_busy (sub : kind = 0) (busy : subDrained s.core id = false) : exec .ringDestroyDone s = .next s := by
  show execRingDestroyDone s = _
  simp [execRingDestroyDone, onCore, window, live, sub, busy]

/-- R113, R114: the destruction of a submission ring that has drained ends, and so does one of a record ring. -/
theorem exec_ringDestroyDone_ends (drained : kind = 0 → subDrained s.core id = true) : exec .ringDestroyDone s = .next { s with
    core := windowStatus { s.core with rings := ringGone s.core.rings kind id } .ok } := by
  have goes : (!alive s.core || (kind = 0 && !subDrained s.core id)) = false := by simpa [live] using drained
  show execRingDestroyDone s = _
  simp only [execRingDestroyDone, onCore, window, goes, Bool.false_eq_true, if_false]
  rfl
end

/-- Settles O8: the checks pass (`createCheck_sub`, `destroyCheck_rec` and their likes), the ring is made or stopped, and when its destruction is
done it is gone. -/
theorem ringsCreatedAndDestroyed : Obligations.RingsCreatedAndDestroyed := by
  unfold Obligations.RingsCreatedAndDestroyed
  refine ⟨fun id kind s h hd idle small large => ⟨?_, ?_⟩, fun id kind r q s h hd idle => ⟨?_, ?_⟩, ?_⟩
  · intro hid free gen pre most cq sound stream
    rw [exec_ringCreate_passes h hd idle (createCheck_sub hid free small large gen pre most cq stream), createRing_sub sound]
    rfl
  · intro hk hid free vector count time
    have kind0 : kind ≠ 0 := by omega
    rw [exec_ringCreate_passes h hd idle (createCheck_rec kind0 hid free small large vector count time)]
    simp only [createRing, kind0, if_false]
    rfl
  · intro hid hr
    rw [exec_ringDestroy_passes h hd idle (destroyCheck_sub hid hr)]
    simp [startDestroy, mapMod, hr]
  · intro hk hid hq needs unnamed
    have kind0 : kind ≠ 0 := by omega
    obtain ⟨window, ring, clear⟩ := startDestroy_rec kind0 hq
    exact ⟨_, exec_ringDestroy_passes h hd idle (destroyCheck_rec kind0 hid hq needs unnamed), window, ring, clear⟩
  · intro id kind s live window
    refine ⟨fun sub busy => exec_ringDestroyDone_busy live window sub busy, fun sub drained => ?_, fun record => ?_, fun record => ?_, fun record => ?_⟩
    · subst sub
      exact exec_ringDestroyDone_ends live window fun _ => drained
    all_goals
      subst record
      exact exec_ringDestroyDone_ends live window (by simp)

end Sys2Proof.Machine

namespace Sys2Proof.Machine

/-! ## Fetch visits (R91, R125, R143) -/

/-- R143: an error of a submission ring errs it, and changes nothing else of it but which of its descriptors are open. -/
theorem ringError_besidesOpen {c : Core} {n : Nat} {r : SubRing} (hr : mapGet c.rings.subs n = some r) (cause count : Nat) :
    (mapGet (ringError c 0 n cause count).rings.subs n).map SubRing.besidesOpen = some { r.besidesOpen with errored := true } := by
  have alone : ringError c 0 n cause count = queueFreed (ringError1 c 0 n cause count) := by simp [ringError]
  rw [alone, (queueFreed_handed _).subs n]
  simp [ringError1, tellRingError, markErrored, mapGet_mod_same, hr, SubRing.besidesOpen]

/-- R91: what is logged of a failed fetch leaves the rings. -/
theorem logFetch_rings (c : Core) (addr : Nat) (sent : Bool) (a : Ans) : (logFetch c addr sent a).rings = c.rings := by
  rw [logFetch, logErr_rings]
  split <;> rfl

section
variable {c : Core} {ring : Nat} {r : SubRing} (hs : serving c = true) (hl : linkHeld c = false) (ha : hostAnswers c)
  (next : nextRing c = some ring) (hr : mapGet c.rings.subs ring = some r) (positive : 0 < visitCount c r)
include hs hl ha next positive

/-- R88, R98, R125: nothing holds the visit. -/
theorem visit_goes : (!serving c || linkHeld c || nextRing c ≠ some ring || visitCount c r = 0 || tagsFree c = 0) = false := by
  obtain ⟨_, _, tags⟩ := ha
  simp [hs, hl, next, positive.ne', tags.ne']

include hr

/-- R125: a visit that gets its data buffers the entries, spends as many credits and counts them fetched. -/
theorem fetchVisit_data (bs : List Byte) : fetchVisit c ring (.data bs) = { c with rings := { c.rings with
    lastRing := ring
    subs := mapSet c.rings.subs ring { r with
      fetched := (r.fetched + visitCount c r) % 2 ^ 32
      spent := r.spent + visitCount c r
      buffer := r.buffer ++ (List.range (visitCount c r)).map fun i =>
        descOf ring ((r.fetched + i) % 2 ^ 32) (bytesAt bs (entryBytes r.gen * i) (entryBytes r.gen))
      opened := r.opened ++ (List.range (visitCount c r)).map fun i => (r.fetched + i) % 2 ^ 32 } } } := by
  have goes := visit_goes hs hl ha next positive
  obtain ⟨_, unbarred, _⟩ := ha
  simp only [fetchVisit, hr, goes, unbarred, Bool.false_eq_true, if_false, List.map_map]
  rfl

/-- R91, R125, R143: a visit whose read fails errs the ring. -/
theorem fetchVisit_fails {a : Ans} (fails : ∀ b, a ≠ .data b) : ∃ addr, fetchVisit c ring a =
    ringError (logFetch { c with rings := { c.rings with lastRing := ring } } addr true a) 0 ring 2 r.fetched := by
  have goes := visit_goes hs hl ha next positive
  obtain ⟨_, unbarred, _⟩ := ha
  refine ⟨r.base + r.fetched % 2 ^ r.log2 * entryBytes r.gen, ?_⟩
  cases a with
  | data b => exact absurd rfl (fails b)
  | _ => simp only [fetchVisit, hr, goes, unbarred, Bool.false_eq_true, if_false, Bool.not_false]
end

/-- Settles O11: the count of R125 is `visitCount`; data are buffered (`fetchVisit_data`), and a failed read errs the ring alone
(`ringError_besidesOpen`). -/
theorem fetchVisitTakesEntries : Obligations.FetchVisit := by
  unfold Obligations.FetchVisit
  intro ring n r bs a s hs hl ha next hr positive count
  have visited : n = visitCount s.core r := count
  subst visited
  constructor
  · show Host.Outcome.next { s with core := Machine.fetchVisit s.core ring (.data bs) } = _
    rw [fetchVisit_data hs hl ha next hr positive]
  · intro fails
    obtain ⟨addr, visit⟩ := fetchVisit_fails hs hl ha next hr positive fails
    refine ⟨{ s with core := fetchVisit s.core ring a }, rfl, ?_⟩
    rw [visit]
    have errs := ringError_besidesOpen (c := logFetch { s.core with rings := { s.core.rings with lastRing := ring } } addr true a)
      (n := ring) (r := r) (by rw [logFetch_rings]; exact hr) 2 r.fetched
    have told := congrArg (Option.map fun x : SubRing => (x.errored, x.fetched, x.buffer)) errs
    rw [Option.map_map] at told
    exact told

end Sys2Proof.Machine

namespace Sys2Proof.Machine

/-! ## A head write whose ring id lies beyond the head registers (R108, R581) -/

/-- R585: a stream head write is one of the ring's head register. -/
theorem exec_streamHeadWrite (n off size : Nat) (v : Word) (s : State) : exec (.streamHeadWrite n off size v) s =
    .next { s with core := headRegWrite s.core 0x20000 2 n off size v } := rfl

/-- R451: waking leaves the power that the change leaves. -/
theorem wakingBoth_power (c : Core) (f : Core → Core) : (wakingBoth c f).power = (f c).power := rfl

/-- An empty stream ring. -/
def strayRing : RecRing := { base := 0, log2 := 4, irqEn := false, vector := 0, count := 1, time := 1 }

/-- A ready device whose switched domains are all off, with a stream ring under id 114688, which R108 does not allow: its head register would
lie at 0x20000 + 8 × 114688 = 0x100000, in the block of the translation walker. -/
def strayStream : Core :=
  { power := { on := true, ready := true }
    rings := { streams := [(114688, strayRing)] } }

/-- Every premise of the statement's clause of a stream head holds there. -/
theorem strayStream_premises : ready strayStream = true ∧ strayStream.power.deep = false ∧
    strayRing.written - strayRing.head < 2 ^ 32 ∧ mapGet strayStream.rings.streams 114688 = some strayRing ∧
    strayStream.rings.events = [] ∧ headAdvance strayRing ((0 : Word).toNat % 2 ^ 32) ≤ strayRing.written - strayRing.head := by decide

/-- R581: the write powers the walker's domain on. -/
theorem strayStream_wakes : (headRegWrite strayStream 0x20000 2 114688 0 8 0).power.domains = 2 ^ 93 := by decide

/-- Refutes O10: the statement ranges over all ring ids, not the 1024 of a stream ring (R108). Under a greater id a head write can reach the
block of the translation walker, and powers its domain on (R581), where the statement has the device's power as it was. -/
theorem not_headAndRecordWrites : ¬ Obligations.HeadAndRecordWrites := by
  unfold Obligations.HeadAndRecordWrites
  rintro ⟨heads, -⟩
  obtain ⟨isReady, awake, written, ring, events, passes⟩ := strayStream_premises
  obtain ⟨-, -, stream, -⟩ := heads 114688 0 strayRing ⟨[], {}, strayStream⟩ isReady awake written
  have ran := stream ring events passes
  rw [exec_streamHeadWrite] at ran
  have kept := congrArg (fun t : State => t.core.power.domains) (Host.Outcome.next.inj ran)
  simp only [strayStream_wakes, wakingBoth_power] at kept
  exact absurd kept (by decide)

end Sys2Proof.Machine

namespace Sys2Proof.Machine

/-! ## A sequencer's descriptor that is carried out to its end (R126) -/

/-- The run of a sequencer's descriptor that has begun. -/
def begunSeqRun (s : State) (d : Desc) (env : Env) : Run0 := descRun { s with core := beginSeq s.core d } d env none

@[simp] theorem begunSeqRun_core (s : State) (d : Desc) (env : Env) : (begunSeqRun s d env).core = beginSeq s.core d := rfl

section
variable {s : State} {d : Desc} {env : Env} {m : M Done} {r : Run0} (free : seqFree s.core d) (he : r.ext = [])
include free he

/-- R126: with nothing ahead of it, a descriptor without a session whose body ends completes on what the body leaves. -/
theorem acceptSeq_done {st : Status} {a b : Nat} (h0 : d.session = 0) (h : m (begunSeqRun s d env) = .ok (.done st a b, r)) :
    acceptSeq s d env m = { s with core := complete r.core d st a b } := by
  rw [acceptSeq_free s d env m free, settle, show m (descRun _ d env none) = _ from h]
  simp only [he, finishDesc_seq _ _ _ _ _ h0]
  rfl

/-- The same of a body that leaves its descriptor in progress. -/
theorem acceptSeq_running (h : m (begunSeqRun s d env) = .ok (.running, r)) : acceptSeq s d env m = { s with core := r.core } := by
  rw [acceptSeq_free s d env m free, settle, show m (descRun _ d env none) = _ from h]
  simp only [he]
  rfl
end

/-! ## Folds over dies -/

section
variable {α β γ : Type}

/-- Steps of which each may fail, of a list with an element in front: the first makes a state that the others go on from. -/
theorem foldl_bind_cons {f : β → α → Option β} {x : α} {l : List α} {b c : β}
    (h : (x :: l).foldl (fun o x => o.bind (f · x)) (some b) = some c) :
    ∃ b', f b x = some b' ∧ l.foldl (fun o x => o.bind (f · x)) (some b') = some c := by
  have stuck : ∀ l : List α, l.foldl (fun o x => o.bind (f · x)) none = none := fun l => by
    induction l with
    | nil => rfl
    | cons _ _ ih => exact ih
  rw [List.foldl_cons, Option.bind_some] at h
  cases hx : f b x with
  | none => rw [hx, stuck] at h; cases h
  | some b' => exact ⟨b', rfl, by rw [← hx]; exact h⟩

/-- Steps that all succeed, and keep something each, keep it. -/
theorem foldl_bind_keeps {f : β → α → Option β} (g : β → γ) (keeps : ∀ b b' x, f b x = some b' → g b' = g b) (l : List α) {b c : β}
    (h : l.foldl (fun o x => o.bind (f · x)) (some b) = some c) : g c = g b := by
  induction l generalizing b with
  | nil => cases h; rfl
  | cons x l ih =>
    obtain ⟨b', first, rest⟩ := foldl_bind_cons h
    exact (ih rest).trans (keeps b b' x first)

/-- Steps that cannot fail. -/
theorem foldl_bind_some (f : β → α → β) (l : List α) (b : β) :
    l.foldl (fun o x => o.bind fun b => some (f b x)) (some b) = some (l.foldl f b) := by
  induction l generalizing b with
  | nil => rfl
  | cons x l ih => exact ih (f b x)
end

theorem mem_diesOf {d : Desc} {die : Bool} : die ∈ diesOf d ↔ onDie (xDies d) die = true := by
  cases die <;> simp [diesOf]

theorem nodup_diesOf (d : Desc) : (diesOf d).Nodup := List.Nodup.filter _ (by decide)

/-- A step made once on each of some dies, which changes one part of the state on that die only: the part of a die among them is changed once,
and that of another stays. -/
theorem foldl_dies {α : Type} {f : Core → Bool → Option Core} (part : Core → Bool → α) (changed : α → α → Prop)
    (own : ∀ c c' die, f c die = some c' → changed (part c die) (part c' die))
    (other : ∀ c c' die, f c die = some c' → part c' (!die) = part c (!die)) {dies : List Bool} (nodup : dies.Nodup) {b c : Core}
    (h : dies.foldl (fun o die => o.bind (f · die)) (some b) = some c) (die : Bool) :
    (die ∈ dies → changed (part b die) (part c die)) ∧ (die ∉ dies → part c die = part b die) := by
  induction dies generalizing b with
  | nil =>
    cases h
    exact ⟨nofun, fun _ => rfl⟩
  | cons a dies ih =>
    obtain ⟨b', first, rest⟩ := foldl_bind_cons h
    obtain ⟨fresh, nodup⟩ := List.nodup_cons.mp nodup
    obtain ⟨among, apart⟩ := ih nodup rest
    by_cases ha : die = a
    · subst ha
      rw [apart fresh]
      exact ⟨fun _ => own _ _ _ first, fun no => absurd List.mem_cons_self no⟩
    · obtain rfl : die = !a := by cases die <;> cases a <;> trivial
      rw [other _ _ _ first] at among apart
      exact ⟨fun named => among (List.mem_of_ne_of_mem ha named), fun no => apart fun named => no (List.mem_cons_of_mem _ named)⟩

/-- The same of the dies that a descriptor names. -/
theorem foldl_diesOf {α : Type} {d : Desc} {f : Core → Bool → Option Core} (part : Core → Bool → α) (changed : α → α → Prop)
    (own : ∀ c c' die, f c die = some c' → changed (part c die) (part c' die))
    (other : ∀ c c' die, f c die = some c' → part c' (!die) = part c (!die)) {b c : Core}
    (h : (diesOf d).foldl (fun o die => o.bind (f · die)) (some b) = some c) (die : Bool) :
    (onDie (xDies d) die = true → changed (part b die) (part c die)) ∧ (onDie (xDies d) die = false → part c die = part b die) := by
  rw [← Bool.not_eq_true, ← mem_diesOf]
  exact foldl_dies part changed own other (nodup_diesOf d) h die

/-- The same of steps that cannot fail. -/
theorem foldl_diesOf_total {α : Type} {d : Desc} {f : Core → Bool → Core} (part : Core → Bool → α) (changed : α → α → Prop)
    (own : ∀ c die, changed (part c die) (part (f c die) die)) (other : ∀ c die, part (f c die) (!die) = part c (!die)) (b : Core) (die : Bool) :
    (onDie (xDies d) die = true → changed (part b die) (part ((diesOf d).foldl f b) die)) ∧
    (onDie (xDies d) die = false → part ((diesOf d).foldl f b) die = part b die) :=
  foldl_diesOf part changed (fun c _ die h => by cases h; exact own c die) (fun c _ die h => by cases h; exact other c die)
    (foldl_bind_some f (diesOf d) b) die

/-! ## Frames of a host-managed page (R149, R168) -/

theorem sizeFrames_dvd (size : Nat) : sizeFrames size ∣ 16384 := by
  simp only [sizeFrames]
  split
  · decide
  · split <;> decide

theorem sizeFrames_pos (size : Nat) : 0 < sizeFrames size := Nat.pos_of_dvd_of_pos (sizeFrames_dvd size) (by decide)

end Sys2Proof.Machine

namespace Sys2Proof.Machine

/-! ## Pages entered one after another (R170) -/

/-- A map with `k` pages entered, `n` apart from the first. -/
def pagesSet (m : Map XPage) (first n : Nat) (page : Nat → XPage) (k : Nat) : Map XPage :=
  (List.range k).foldl (fun m i => mapSet m (first + n * i) (page i)) m

theorem pagesSet_succ (m : Map XPage) (first n : Nat) (page : Nat → XPage) (k : Nat) :
    pagesSet m first n page (k + 1) = mapSet (pagesSet m first n page k) (first + n * k) (page k) := by
  simp only [pagesSet, List.range_succ, List.foldl_append, List.foldl_cons, List.foldl_nil]

/-- Places of different pages of a mapping are different. -/
theorem pagePlace_ne {n i j : Nat} (hn : 0 < n) (h : i ≠ j) (first : Nat) : first + n * i ≠ first + n * j := by
  intro same
  exact h (Nat.eq_of_mul_eq_mul_left hn (Nat.add_left_cancel same))

theorem mapGet_pagesSet {n : Nat} (hn : 0 < n) (m : Map XPage) (first : Nat) (page : Nat → XPage) {i k : Nat} (h : i < k) :
    mapGet (pagesSet m first n page k) (first + n * i) = some (page i) := by
  induction k with
  | zero => omega
  | succ k ih =>
    rw [pagesSet_succ]
    by_cases hk : i = k
    · rw [hk, mapGet_set_same]
    · rw [mapGet_set_other _ _ _ _ (pagePlace_ne hn hk first), ih (by omega)]

/-- Entering pages on a die changes that die's mappings only. -/
theorem foldl_setPage (c : Core) (die : Bool) (first n : Nat) (page : Nat → XPage) (k : Nat) :
    (List.range k).foldl (fun c i => setPage c die (first + n * i) (page i)) c =
      { c with mem := { c.mem with xmap := c.mem.xmap.set die (pagesSet (c.mem.xmap.get die) first n page k) } } := by
  induction k with
  | zero => cases die <;> rfl
  | succ k ih =>
    rw [List.range_succ, List.foldl_append, ih, pagesSet_succ]
    simp only [List.foldl_cons, List.foldl_nil, setPage, PerDie.mod, PerDie.get_set, PerDie.set_set]

/-! ## Outbound and loft pages of a die (R170, R174) -/

/-- What a state holds besides memory and draws. -/
def outsideMem (c : Core) : Core := { c with mem := {}, draws := 0 }

section
variable {c d : Core} (h : outsideMem d = outsideMem c)
include h

theorem rings_of_outsideMem : d.rings = c.rings := congrArg (·.rings) h
theorem sess_of_outsideMem : d.sess = c.sess := congrArg (·.sess) h
theorem stackTab_of_outsideMem : d.stackTab = c.stackTab := congrArg (·.stackTab) h
end

/-- R170: outbound pages change the die's mappings alone. -/
theorem xEnter_outbound (d : Desc) (c : Core) (die : Bool) : xEnter d 0 c die = { c with mem := { c.mem with
    xmap := c.mem.xmap.set die (pagesSet (c.mem.xmap.get die) (xVa d / 65536) (sizeFrames (xSize d))
      (fun i => xNew d 0 (d.field 3 63 0 0 + 65536 * sizeFrames (xSize d) * i)) (xPages d)) } } := by
  simp only [xEnter, foldl_setPage]
  rfl

/-- R174, R176: taking loft frames lowers the die's count, turns its rotation and may take hot copies back. -/
theorem takeLoft_frame (c : Core) (die : Bool) (n : Nat) : ∃ next hot, takeLoft c die n = { c with mem := { c.mem with
    loftFree := c.mem.loftFree.mod die fun f => f - n, loftNext := next, hot := hot } } := by
  simp only [takeLoft]
  split
  · exact ⟨_, c.mem.hot, rfl⟩
  · exact ⟨_, _, trimHot_frame _ die⟩

/-- R170, R174: loft pages change the die's mappings and its loft's counts. -/
theorem xEnter_loft (d : Desc) (c : Core) (die : Bool) : ∃ next hot, xEnter d 2 c die = { c with
    draws := c.draws + xPages d
    mem := { c.mem with
      loftFree := c.mem.loftFree.mod die fun f => f - xPages d * sizeFrames (xSize d), loftNext := next, hot := hot
      xmap := c.mem.xmap.set die (pagesSet (c.mem.xmap.get die) (xVa d / 65536) (sizeFrames (xSize d))
        (fun i => xNew d 2 (loftPage c die (sizeFrames (xSize d)) i)) (xPages d)) } } := by
  obtain ⟨next, hot, took⟩ := takeLoft_frame c die (xPages d * sizeFrames (xSize d))
  refine ⟨next, hot, ?_⟩
  simp only [xEnter, foldl_setPage, took]
  rfl

/-- R174: a page of no more frames than a slice has a size that divides a slice's. -/
theorem sizeFrames_dvd_slice {size : Nat} (h : sizeFrames size ≤ 1024) : sizeFrames size ∣ 1024 := by
  simp only [sizeFrames] at h ⊢
  split at h
  next h1 => rw [if_pos h1]; decide
  next h1 =>
    rw [if_neg h1]
    split at h
    · omega
    next h2 => rw [if_neg h2]; decide

/-- R149: a loft page that the device allocates lies at a multiple of its size. -/
theorem loftPage_aligned (c : Core) (die : Bool) (size i : Nat) : loftPage c die (sizeFrames size) i % (sizeFrames size * 65536) = 0 := by
  have big := sizeFrames_dvd size
  have base : sizeFrames size ∣ 2 ^ 24 + (if die then 32768 else 0) := by
    refine Nat.dvd_add (big.trans (by decide)) ?_
    split
    · exact big.trans (by decide)
    · exact Nat.dvd_zero _
  have factor : ∀ at0, 0x10000000000 + 65536 * ((if die then 32768 else 0) + at0) = (2 ^ 24 + (if die then 32768 else 0) + at0) * 65536 := by
    intro at0; omega
  refine Nat.mod_eq_zero_of_dvd ?_
  simp only [loftPage, factor]
  refine Nat.mul_dvd_mul_right (Nat.dvd_add base ?_) 65536
  split
  next small => exact Nat.dvd_add (Nat.dvd_mul_left_of_dvd (sizeFrames_dvd_slice small) _) (Nat.dvd_mul_left _ _)
  next => exact Nat.dvd_mul_left_of_dvd big _

/-! ## Stacked pages of a die (R145, R149, R211) -/

/-- R149: a free block begins at a multiple of its size. -/
theorem freeBlock_aligned {c : Core} {die : Bool} {n : Nat} (hn : n ∣ 1048576) {k b f : Nat} (h : freeBlock c die n k b = some f) : n ∣ f := by
  induction k generalizing b with
  | zero => cases h
  | succ k ih =>
    have base : n ∣ if die then 1048576 else 0 := by
      split
      · exact hn
      · exact Nat.dvd_zero _
    simp only [freeBlock] at h
    generalize (if die = true then 1048576 else 0) = start at h base
    split at h
    · cases h
      exact Nat.dvd_add base (Nat.dvd_mul_left _ _)
    · exact ih h

/-- R170, R211: a stacked page that finds a block takes its frames, in their pairs and in the die's count, and is entered at an aligned place. -/
theorem enterStacked_some {d : Desc} {die : Bool} {i : Nat} {c c' : Core} (h : enterStacked d die i c = some c') : ∃ f pairFree,
    sizeFrames (xSize d) ∣ f ∧ c' = setPage { c with
      draws := c.draws + 1
      mem := { c.mem with free := c.mem.free.mod die fun k => k - sizeFrames (xSize d), pairFree := pairFree } }
      die (xVa d / 65536 + sizeFrames (xSize d) * i) (xNew d 1 (65536 * f)) := by
  obtain ⟨f, found, rfl⟩ := Option.map_eq_some_iff.mp h
  have rooms : ∀ (l : List Nat) (b : Core), ∃ pairFree, l.foldl (fun c i => modRoom c (pairOfNo (f + i)) (· - 1)) b =
      { b with mem := { b.mem with pairFree := pairFree } } := by
    intro l
    induction l with
    | nil => exact fun b => ⟨_, rfl⟩
    | cons x l ih => exact fun b => ih (modRoom b (pairOfNo (f + x)) (· - 1))
  obtain ⟨pairFree, room⟩ := rooms (List.range (sizeFrames (xSize d))) (reserveFree c die (sizeFrames (xSize d)))
  exact ⟨f, pairFree, freeBlock_aligned ((sizeFrames_dvd _).trans (by decide)) found, by rw [room]; rfl⟩

/-- R170: a part of the state that a stacked page does not touch, nor do the stacked pages of the dies that a descriptor names. -/
theorem enterStack_keeps {α : Type} {d : Desc} {die : Bool} (g : Core → α) (keeps : ∀ c c' i, enterStacked d die i c = some c' → g c' = g c)
    {c c' : Core} (h : enterStack d c die = some c') : g c' = g c :=
  foldl_bind_keeps (f := fun c i => enterStacked d die i c) g keeps _ h

/-- R170, R211: the stacked pages of a die stand at aligned places, and have taken their frames. -/
theorem enterStack_some {d : Desc} {die : Bool} {c c' : Core} (h : enterStack d c die = some c') :
    (∀ i < xPages d, ∃ f, sizeFrames (xSize d) ∣ f ∧
      mapGet (c'.mem.xmap.get die) (xVa d / 65536 + sizeFrames (xSize d) * i) = some (xNew d 1 (65536 * f))) ∧
    c'.mem.free.get die = c.mem.free.get die - xPages d * sizeFrames (xSize d) := by
  simp only [enterStack] at h
  generalize xPages d = k at h ⊢
  induction k generalizing c' with
  | zero =>
    cases h
    exact ⟨fun i hi => by omega, by omega⟩
  | succ k ih =>
    rw [List.range_succ, List.foldl_append, List.foldl_cons, List.foldl_nil] at h
    obtain ⟨b, before, last⟩ := Option.bind_eq_some_iff.mp h
    obtain ⟨pages, free⟩ := ih before
    obtain ⟨f, pairFree, aligned, rfl⟩ := enterStacked_some last
    refine ⟨fun i hi => ?_, ?_⟩
    · rw [setPage_xmap, PerDie.get_mod]
      by_cases hk : i = k
      · exact ⟨f, aligned, by rw [hk, mapGet_set_same]⟩
      · rw [mapGet_set_other _ _ _ _ (pagePlace_ne (sizeFrames_pos _) hk _)]
        exact pages i (by omega)
    · show (b.mem.free.mod die _).get die = _
      rw [PerDie.get_mod, free, Nat.sub_sub, Nat.succ_mul]

/-- R170: the stacked pages of one die leave the other as it was. -/
theorem enterStack_other {d : Desc} {die : Bool} {c c' : Core} (h : enterStack d c die = some c') :
    c'.mem.xmap.get (!die) = c.mem.xmap.get (!die) ∧ c'.mem.free.get (!die) = c.mem.free.get (!die) := by
  constructor
  · refine enterStack_keeps (fun c => c.mem.xmap.get (!die)) (fun b b' i h => ?_) h
    obtain ⟨f, pairFree, -, rfl⟩ := enterStacked_some h
    exact PerDie.get_mod_not ..
  · refine enterStack_keeps (fun c => c.mem.free.get (!die)) (fun b b' i h => ?_) h
    obtain ⟨f, pairFree, -, rfl⟩ := enterStacked_some h
    exact PerDie.get_mod_not ..

/-- R170: the stacked pages of a die change memory and draws alone. -/
theorem enterStack_frame {d : Desc} {die : Bool} {c c' : Core} (h : enterStack d c die = some c') : outsideMem c' = outsideMem c := by
  refine enterStack_keeps outsideMem (fun b b' i h => ?_) h
  obtain ⟨f, pairFree, -, rfl⟩ := enterStacked_some h
  rfl

/-! ## FILL commands of the stacked pages (R58, R211, R219) -/

/-- R58: no stack is fenced. -/
def NoneFenced (c : Core) : Prop := ∀ k, (stackOf c k).state ≠ 2

/-- Commands have joined queues of stacks of which none is fenced, and nothing else has changed. -/
structure Queued (c d : Core) : Prop where
  unfenced : NoneFenced d
  frame : d = { c with stackTab := d.stackTab }

theorem Queued.foldl {α : Type} {f : Core → α → Core} (h : ∀ c x, NoneFenced c → Queued c (f c x)) (l : List α) {c : Core}
    (h0 : NoneFenced c) : Queued c (l.foldl f c) := by
  induction l generalizing c with
  | nil => exact ⟨h0, rfl⟩
  | cons x l ih =>
    obtain ⟨unfenced, frame⟩ := h c x h0
    obtain ⟨last, rest⟩ := ih unfenced
    exact ⟨last, by rw [List.foldl_cons, rest, frame]⟩

/-- A command for a stack joins its queue or waits for it. -/
theorem enqueue_queued {c : Core} (h : NoneFenced c) (p : Nat) (x : BankCmd) : Queued c (enqueue c p x) := by
  simp only [enqueue, if_neg (h (p / 512))]
  split
  · exact ⟨fun k => by rw [putCmd, modPair_stays c p _ k]; exact h k, rfl⟩
  · refine ⟨fun k => ?_, rfl⟩
    by_cases hk : k = p / 512
    · subst hk
      simp only [stackOf, mapGet_set_same, Option.getD_some]
      exact h (p / 512)
    · simp only [stackOf, mapGet_set_other _ _ _ _ hk]
      exact h k

theorem fillCmds_queued {c : Core} (h : NoneFenced c) (ring : Nat) (die : Bool) (page frames : Nat) : Queued c (fillCmds c ring die page frames) := by
  simp only [fillCmds]
  split
  · exact ⟨h, rfl⟩
  · exact .foldl (fun c i hc => enqueue_queued hc _ _) _ h

/-- A descriptor has begun to wait for commands of bank units. -/
def jobStarted (d : Desc) (c : Core) : Core := { c with obj := { c.obj with jobs := mapSet c.obj.jobs d.ring { desc := d } } }

/-- R170: the FILL commands of a mapping's stacked pages. -/
def fillPages (d : Desc) (c : Core) : Core :=
  (diesOf d).foldl (fun c die => (List.range (xPages d)).foldl (fun c i =>
    fillCmds c d.ring die (xVa d / 65536 + sizeFrames (xSize d) * i) (sizeFrames (xSize d))) c) c

theorem fillPages_queued (d : Desc) {c : Core} (h : NoneFenced c) : Queued c (fillPages d c) :=
  .foldl (fun _ _ hc => .foldl (fun _ _ hc => fillCmds_queued hc _ _ _ _) _ hc) _ h

end Sys2Proof.Machine

namespace Sys2Proof.Machine

/-! ## XLT_MAP (R168 to R170) -/

/-- R169: the fields of a mapping request that its checks 1 to 3 let through. -/
structure RangeSound (d : Desc) : Prop where
  session : d.session = 0
  size : xSize d ≠ 3
  dies : xDies d ≠ 0
  tier : d.field 4 37 36 0 < 2
  low : hostHalf ≤ xVa d
  high : xVa d < globalEnd
  aligned : xVa d % (sizeFrames (xSize d) * 65536) = 0
  ends : xVa d + xPages d * (sizeFrames (xSize d) * 65536) ≤ globalEnd

/-- R169: checks 1 to 3 pass. -/
theorem run_xCheck {d : Desc} (sound : RangeSound d) (r : Run0) : xCheck d r = .ok ((), r) := by
  obtain ⟨session, size, dies, tier, low, high, aligned, ends⟩ := sound
  have first : (d.session != 0) = false := by simp [session]
  have second : (xVa d < hostHalf || globalEnd ≤ xVa d || (xSize d != 3 && xVa d % (sizeFrames (xSize d) * 65536) != 0) ||
      globalEnd < xVa d + xPages d * (sizeFrames (xSize d) * 65536)) = false := by
    simp [aligned, Nat.not_lt.mpr low, Nat.not_le.mpr high, Nat.not_lt.mpr ends]
  have third : (xSize d == 3 || xDies d == 0 || 2 ≤ d.field 4 37 36 0) = false := by
    simp [size, dies, Nat.not_le.mpr tier]
  simp only [xCheck, run_bind_ok (run_check_passes first _ _), run_bind_ok (run_check_passes second _ _), run_check_passes third]

/-- What no die that a descriptor names meets. -/
theorem any_diesOf {d : Desc} {p : Bool → Bool} (h : ∀ die, onDie (xDies d) die = true → p die = false) : (diesOf d).any p = false := by
  simpa [diesOf] using h

/-- R176: a loft mapping does not wait where no hot copy is in the way of a die whose steps run. -/
theorem run_waitRoom {d : Desc} {n : Nat} {r : Run0} (room : ∀ die, onDie (xDies d) die = true → stepRuns r.core die = true →
    hotOn r.core die + n ≤ r.core.mem.loftFree.get die) : waitRoom (diesOf d) n r = .ok ((), r) := by
  have cool : ((diesOf d).any fun die => r.core.mem.loftFree.get die < hotOn r.core die + n && stepRuns r.core die) = false := by
    refine any_diesOf fun die named => ?_
    cases runs : stepRuns r.core die with
    | false => exact Bool.and_false _
    | true => simp [Nat.not_lt.mpr (room die named runs)]
  rw [waitRoom, run_bind, run_getC]
  simp only [cool, Bool.false_eq_true, if_false, run_pure]

section
variable {d : Desc} (sound : RangeSound d) {r : Run0}
include sound

/-- R169: a request of no pages ends at once. -/
theorem run_xltMapBody_none (empty : xPages d = 0) : xltMapBody d r = .ok (.done .ok 0 0, r) := by
  rw [xltMapBody, run_bind_ok (run_xCheck sound r), if_pos empty]
  rfl

/-- R171: so does an unmapping of no pages. -/
theorem run_xltUnmapBody_none (empty : xPages d = 0) : xltUnmapBody d r = .ok (.done .ok 0 0, r) := by
  rw [xltUnmapBody, run_bind_ok (run_xCheck sound r), if_pos empty]
  rfl

variable (nonzero : xPages d ≠ 0)
include nonzero

section
variable (clear : ∀ die, onDie (xDies d) die = true →
  xOverlaps (r.core.mem.xmap.get die) (xVa d / 65536) (xPages d * sizeFrames (xSize d)) = false)
include clear

/-- R169, R170: outbound pages within the outbound range are entered on each die. -/
theorem run_xltMapBody_outbound (out : d.field 4 35 35 0 = 0) (low : outboundBase ≤ d.field 3 63 0 0)
    (aligned : d.field 3 63 0 0 % (65536 * sizeFrames (xSize d)) = 0)
    (ends : d.field 3 63 0 0 + xPages d * sizeFrames (xSize d) * 65536 ≤ outboundEnd) :
    xltMapBody d r = .ok (.done .ok (xPages d) 0, { r with core := (diesOf d).foldl (xEnter d 0) r.core }) := by
  have meets := any_diesOf clear
  simp [xltMapBody, run_xCheck sound, nonzero, out, aligned, Nat.not_lt.mpr low, Nat.not_lt.mpr ends, meets]

/-- R169, R170, R176: loft pages that object space has room for are entered on each die. -/
theorem run_xltMapBody_loft (alloc : d.field 4 35 35 0 = 1) (loft : d.field 4 37 36 0 = 1)
    (room : ∀ die, onDie (xDies d) die = true → xPages d * sizeFrames (xSize d) ≤ r.core.mem.loftFree.get die ∧
      (stepRuns r.core die = true → hotOn r.core die + xPages d * sizeFrames (xSize d) ≤ r.core.mem.loftFree.get die)) :
    xltMapBody d r = .ok (.done .ok (xPages d) 0, { r with core := (diesOf d).foldl (xEnter d 2) r.core }) := by
  have meets := any_diesOf clear
  have fits : ((diesOf d).any fun die => !fitsLoft r.core die (xPages d * sizeFrames (xSize d))) = false :=
    any_diesOf fun die h => by simp [fitsLoft, (room die h).1]
  have cool : waitRoom (diesOf d) (xPages d * sizeFrames (xSize d)) r = .ok ((), r) := run_waitRoom fun die h runs => (room die h).2 runs
  simp [xltMapBody, run_xCheck sound, nonzero, alloc, loft, meets, fits, cool]

/-- R169, R170: stacked pages that find aligned blocks are entered, and their frames are to be zeroed. -/
theorem run_xltMapBody_stacks (alloc : d.field 4 35 35 0 = 1) (stacked : d.field 4 37 36 0 = 0)
    (room : ∀ die, onDie (xDies d) die = true → xPages d * sizeFrames (xSize d) ≤ r.core.mem.free.get die) {c : Core}
    (entered : (diesOf d).foldl (fun c die => c.bind (enterStack d · die)) (some r.core) = some c) :
    xltMapBody d r = .ok (.running, { r with core := fillPages d (jobStarted d c) }) := by
  have meets := any_diesOf clear
  have fits : ((diesOf d).any fun die => decide (freeOf r.core die < xPages d * sizeFrames (xSize d))) = false :=
    any_diesOf fun die h => decide_eq_false (Nat.not_lt.mpr (room die h))
  simp [xltMapBody, run_xCheck sound, nonzero, alloc, stacked, meets, fits, entered, startJob, jobStarted, fillPages]
end

/-- R171: with no request waiting and no job running, the mappings of the range and size are removed at once. -/
theorem run_xltUnmapBody_quiet (noWait : r.core.sess.waiting = []) (noJob : r.core.obj.jobs = []) :
    let found := (diesOf d).map fun die => (die, xMapped r.core d die)
    xltUnmapBody d r = .ok (.done .ok (found.flatMap fun p => p.2.map (·.1)).eraseDups.length 0,
      { r with core := found.foldl (fun c p => p.2.foldl (fun c e => xRemove c p.1 e.1 e.2) c) r.core }) := by
  simp [xltUnmapBody, run_xCheck sound, nonzero, noWait, noJob]
end

/-! ## What the clauses of XLT_MAP tell of the pages (R170) -/

/-- R170: page by page, what a die's mappings hold under the pages of a mapping. -/
def PagesEntered (d : Desc) (holds : Nat → XPage → Prop) (m : Map XPage) : Prop :=
  ∀ i < xPages d, ∃ x, mapGet m (xVa d / 65536 + sizeFrames (xSize d) * i) = some x ∧ holds i x

/-- R149, R170: a page that the device has allocated. -/
def Allocated (d : Desc) (kind : Nat) (x : XPage) : Prop :=
  x.size = xSize d ∧ x.write = (d.field 4 34 34 0 == 1) ∧ x.kind = kind ∧ x.pa % (sizeFrames (xSize d) * 65536) = 0

/-- R170: outbound pages of the dies named, and of those alone. -/
theorem xEnter_outbound_pages (d : Desc) (c : Core) (die : Bool) :
    (onDie (xDies d) die = true → PagesEntered d (fun i x => x = xNew d 0 (d.field 3 63 0 0 + 65536 * sizeFrames (xSize d) * i))
      (((diesOf d).foldl (xEnter d 0) c).mem.xmap.get die)) ∧
    (onDie (xDies d) die = false → ((diesOf d).foldl (xEnter d 0) c).mem.xmap.get die = c.mem.xmap.get die) := by
  refine foldl_diesOf_total (fun c die => c.mem.xmap.get die) (fun _ m => PagesEntered d _ m) (fun c die i hi => ?_) (fun c die => ?_) c die
  · rw [xEnter_outbound, PerDie.get_set]
    exact ⟨_, mapGet_pagesSet (sizeFrames_pos _) _ _ _ hi, rfl⟩
  · rw [xEnter_outbound]
    exact PerDie.get_set_not ..

/-- R170: loft pages of the dies named. -/
theorem xEnter_loft_pages (d : Desc) (c : Core) (die : Bool) (named : onDie (xDies d) die = true) :
    PagesEntered d (fun _ => Allocated d 2) (((diesOf d).foldl (xEnter d 2) c).mem.xmap.get die) := by
  refine (foldl_diesOf_total (fun c die => c.mem.xmap.get die) (fun _ m => PagesEntered d _ m) (fun c die i hi => ?_)
    (fun c die => ?_) c die).1 named
  · obtain ⟨next, hot, enters⟩ := xEnter_loft d c die
    rw [enters, PerDie.get_set]
    exact ⟨_, mapGet_pagesSet (sizeFrames_pos _) _ _ _ hi, rfl, rfl, rfl, loftPage_aligned c die (xSize d) i⟩
  · obtain ⟨next, hot, enters⟩ := xEnter_loft d c die
    rw [enters]
    exact PerDie.get_set_not ..

/-- R170: the loft frames that the pages of each die named take. -/
theorem xEnter_loft_free (d : Desc) (c : Core) (die : Bool) : ((diesOf d).foldl (xEnter d 2) c).mem.loftFree.get die =
    c.mem.loftFree.get die - if onDie (xDies d) die = true then xPages d * sizeFrames (xSize d) else 0 := by
  obtain ⟨takes, stays⟩ := foldl_diesOf_total (d := d) (f := xEnter d 2) (fun c die => c.mem.loftFree.get die)
    (fun before after => after = before - xPages d * sizeFrames (xSize d))
    (fun c die => by obtain ⟨next, hot, enters⟩ := xEnter_loft d c die; rw [enters]; exact PerDie.get_mod ..)
    (fun c die => by obtain ⟨next, hot, enters⟩ := xEnter_loft d c die; rw [enters]; exact PerDie.get_mod_not ..) c die
  split
  next named => exact takes named
  next named => exact stays (by simpa using named)

/-- R170: loft pages change memory and draws alone. -/
theorem xEnter_loft_frame (d : Desc) (c : Core) : outsideMem ((diesOf d).foldl (xEnter d 2) c) = outsideMem c :=
  foldl_keeps outsideMem (fun c die => by obtain ⟨next, hot, enters⟩ := xEnter_loft d c die; rw [enters]; rfl) _ _

/-- R170: outbound pages change the mappings alone. -/
theorem xEnter_outbound_frame (d : Desc) (c : Core) : ∃ xmap, (diesOf d).foldl (xEnter d 0) c = { c with mem := { c.mem with xmap := xmap } } := by
  generalize diesOf d = dies
  induction dies generalizing c with
  | nil => exact ⟨_, rfl⟩
  | cons die dies ih =>
    obtain ⟨xmap, rest⟩ := ih (xEnter d 0 c die)
    exact ⟨xmap, by rw [List.foldl_cons, rest, xEnter_outbound]⟩

section
variable {d : Desc} {b c : Core} (h : (diesOf d).foldl (fun c die => c.bind (enterStack d · die)) (some b) = some c)
include h

/-- R170: stacked pages of the dies named. -/
theorem enterStacks_pages {die : Bool} (named : onDie (xDies d) die = true) : PagesEntered d (fun _ => Allocated d 1) (c.mem.xmap.get die) := by
  refine (foldl_diesOf (fun c die => c.mem.xmap.get die) (fun _ m => PagesEntered d _ m) (fun c c' die entered i hi => ?_)
    (fun c c' die entered => (enterStack_other entered).1) h die).1 named
  obtain ⟨f, aligned, at'⟩ := (enterStack_some entered).1 i hi
  exact ⟨_, at', rfl, rfl, rfl, Nat.mod_eq_zero_of_dvd (Nat.mul_comm f 65536 ▸ Nat.mul_dvd_mul_right aligned 65536)⟩

/-- R170: the stacked frames that the pages of each die named take. -/
theorem enterStacks_free (die : Bool) :
    c.mem.free.get die = b.mem.free.get die - if onDie (xDies d) die = true then xPages d * sizeFrames (xSize d) else 0 := by
  obtain ⟨takes, stays⟩ := foldl_diesOf (fun c die => c.mem.free.get die)
    (fun before after => after = before - xPages d * sizeFrames (xSize d))
    (fun c c' die entered => (enterStack_some entered).2) (fun c c' die entered => (enterStack_other entered).2) h die
  split
  next named => exact takes named
  next named => exact stays (by simpa using named)

/-- R170: the stacked pages of the dies named change memory and draws alone. -/
theorem enterStacks_frame : outsideMem c = outsideMem b :=
  foldl_bind_keeps (f := enterStack d) outsideMem (fun _ _ _ => enterStack_frame) _ h
end

end Sys2Proof.Machine

namespace Sys2Proof.Machine

/-! ## The commands XLT_MAP, XLT_UNMAP and TILE_COPY (R168 to R171, R184) -/

/-- R169, R171, R184: the commands of the three rows are their descriptors' bodies, as the sequencer takes them. -/
theorem exec_xltMap (d : Desc) (s : State) : exec (.xltMap d) s = .next (acceptSeq s d [] (xltMapBody d)) := rfl
theorem exec_xltUnmap (d : Desc) (s : State) : exec (.xltUnmap d) s = .next (acceptSeq s d [] (xltUnmapBody d)) := rfl
theorem exec_tileCopy (d : Desc) (env : Env) (s : State) : exec (.tileCopy d env) s = .next (acceptSeq s d env (tileCopyBody d)) := rfl

section
variable {d : Desc} {s : State} (free : seqFree s.core d) (sound : RangeSound d)
include free sound

theorem exec_xltMap_none (empty : xPages d = 0) : exec (.xltMap d) s = .next { s with core := complete (beginSeq s.core d) d .ok 0 0 } := by
  rw [exec_xltMap, acceptSeq_done free rfl sound.session (run_xltMapBody_none sound empty)]
  rfl

theorem exec_xltUnmap_none (empty : xPages d = 0) : exec (.xltUnmap d) s = .next { s with core := complete (beginSeq s.core d) d .ok 0 0 } := by
  rw [exec_xltUnmap, acceptSeq_done free rfl sound.session (run_xltUnmapBody_none sound empty)]
  rfl

variable (nonzero : xPages d ≠ 0)
include nonzero

theorem exec_xltUnmap_quiet (noWait : s.core.sess.waiting = []) (noJob : s.core.obj.jobs = []) :
    let found := (diesOf d).map fun die => (die, xMapped s.core d die)
    exec (.xltUnmap d) s = .next { s with
      core := complete (found.foldl (fun c p => p.2.foldl (fun c e => xRemove c p.1 e.1 e.2) c) (beginSeq s.core d)) d .ok
        ((found.flatMap fun p => p.2.map (·.1)).eraseDups.length) 0 } := by
  intro found
  rw [exec_xltUnmap, acceptSeq_done free rfl sound.session (run_xltUnmapBody_quiet sound nonzero noWait noJob)]
  rfl

variable (clear : ∀ die, onDie (xDies d) die = true →
  xOverlaps (s.core.mem.xmap.get die) (xVa d / 65536) (xPages d * sizeFrames (xSize d)) = false)
include clear

theorem exec_xltMap_outbound (out : d.field 4 35 35 0 = 0) (low : outboundBase ≤ d.field 3 63 0 0)
    (aligned : d.field 3 63 0 0 % (65536 * sizeFrames (xSize d)) = 0)
    (ends : d.field 3 63 0 0 + xPages d * sizeFrames (xSize d) * 65536 ≤ outboundEnd) : exec (.xltMap d) s = .next { s with
      core := complete ((diesOf d).foldl (xEnter d 0) (beginSeq s.core d)) d .ok (xPages d) 0 } := by
  rw [exec_xltMap, acceptSeq_done free rfl sound.session (run_xltMapBody_outbound sound nonzero clear out low aligned ends)]
  rfl

theorem exec_xltMap_loft (alloc : d.field 4 35 35 0 = 1) (loft : d.field 4 37 36 0 = 1)
    (room : ∀ die, onDie (xDies d) die = true → xPages d * sizeFrames (xSize d) ≤ s.core.mem.loftFree.get die ∧
      (stepRuns s.core die = true → hotOn s.core die + xPages d * sizeFrames (xSize d) ≤ s.core.mem.loftFree.get die)) :
    exec (.xltMap d) s = .next { s with core := complete ((diesOf d).foldl (xEnter d 2) (beginSeq s.core d)) d .ok (xPages d) 0 } := by
  rw [exec_xltMap, acceptSeq_done free rfl sound.session (run_xltMapBody_loft sound nonzero clear alloc loft room)]
  rfl

theorem exec_xltMap_stacks (alloc : d.field 4 35 35 0 = 1) (stacked : d.field 4 37 36 0 = 0)
    (room : ∀ die, onDie (xDies d) die = true → xPages d * sizeFrames (xSize d) ≤ s.core.mem.free.get die) {c : Core}
    (entered : (diesOf d).foldl (fun c die => c.bind (enterStack d · die)) (some (beginSeq s.core d)) = some c) :
    exec (.xltMap d) s = .next { s with core := fillPages d (jobStarted d c) } := by
  rw [exec_xltMap, acceptSeq_running free rfl (run_xltMapBody_stacks sound nonzero clear alloc stacked room entered)]
end

/-! ## Walks of host-managed pages (R144, R150, R156) -/

/-- R144: an aligned address of the host-managed half is that of a page of it. -/
theorem hostVa_page {va : Nat} (h : badHostVa va 65536 65536 = false) :
    hostHalf / 65536 ≤ va / 65536 ∧ va / 65536 < globalEnd / 65536 ∧ 65536 * (va / 65536) = va := by
  simp only [badHostVa, Bool.or_eq_false_iff, decide_eq_false_iff_not, bne_eq_false_iff_eq] at h
  simp only [hostHalf, globalEnd] at h ⊢
  omega

section
variable {die : Bool} {va : Nat} {x : XPage} {r : Run0} (host : badHostVa va 65536 65536 = false) (noWait : r.core.sess.waiting = [])
  (mapped : mapGet (r.core.mem.xmap.get die) (va / 65536) = some x) (size : x.size = 0)
include host noWait mapped size

/-- R156: a page of 64 KiB is found under its own number, where no unmap waits. -/
theorem run_xPage_mapped : xPage die (va / 65536) r = .ok (some (va / 65536, x), r) := by
  have high := (hostVa_page host).1
  have found : xFind (r.core.mem.xmap.get die) (va / 65536) = some (va / 65536, x) := by simp [xFind, mapped, size]
  simp [xPage, Nat.not_lt.mpr high, found, unmapping, noWait]

/-- R182: a run of one page has that page's tier. -/
theorem run_rangeTier_one {write : Bool} (writable : write = true → x.write = true) :
    rangeTier die write (va / 65536) 1 r = .ok (some x.kind, r) := by
  have refused : ¬ (write = true ∧ x.write = false) := fun ⟨asked, no⟩ => by simp [writable asked] at no
  simp [rangeTier, run_xPage_mapped host noWait mapped size, refused]

/-- R144, R166: the walk of such a page's first address, on a die without forwarded frames. -/
theorem run_pageOf_mapped (quiet : r.core.mem.forward.get die = []) {write : Bool}
    (valid : (walkEntry (pageWord x) false write).isOk = true) : pageOf die write va r = .ok ((va / 65536, x, 0), r) := by
  obtain ⟨-, low, number⟩ := hostVa_page host
  have inside : ¬ 2 ^ 48 ≤ va := by simp only [globalEnd] at low; omega
  have still : walkPage r.core die (va / 65536) = r.core := by simp [walkPage, quiet]
  have small : (x.size == 2) = false := by simp [size]
  have walks : walk die va write r = .ok (.ok (va / 65536, x, 0), r) := by
    rw [walk, if_neg inside, run_bind_ok (run_xPage_mapped host noWait mapped size)]
    cases entry : walkEntry (pageWord x) false write with
    | error f => rw [entry] at valid; cases valid
    | ok e => simp [small, entry, still, mapped, number]
  rw [pageOf, run_bind_ok walks]
  rfl
end

/-! ## Outbound requests (R97, R192) -/

/-- A core that answers for host memory still does where what counts for it reads alike. -/
theorem hostAnswers_congr {c d : Core} (h : hostAnswers c) (link : d.link = c.link) (cfg : d.cfg = c.cfg)
    (waiting : d.sess.waiting = c.sess.waiting) (barred : regGet d 0x10 = regGet c 0x10) (streams : ∀ a, ideStream d a = ideStream c a) :
    hostAnswers d := by
  obtain ⟨up, opens, tags⟩ := h
  refine ⟨link ▸ up, fun a => ?_, ?_⟩
  · have same := opens a
    simp only [barredAt, streamAt, slotBarred, if_true] at same ⊢
    rw [streams a, barred, link]
    exact same
  · rw [tagsFree, tagLimit, tagsUsed] at tags ⊢
    rw [cfg, waiting]
    exact tags

/-- R97: the streams of addresses follow from the windows' states and their registers. -/
theorem ideStream_congr {c d : Core} (states : ∀ w, (mapGet d.mem.windows w).map (·.state) = (mapGet c.mem.windows w).map (·.state))
    (regs : ∀ o, 0x200200 ≤ o → regGet d o = regGet c o) (a : Nat) : ideStream d a = ideStream c a := by
  have inside : ∀ w, inWindow d w a = inWindow c w a := by
    intro w
    have base := regs (0x200200 + 0x20 * w) (by omega)
    have length := regs (0x200208 + 0x20 * w) (by omega)
    rw [inWindow, inWindow, regField, regField, regField, regField, states w, base, length]
  simp only [ideStream, inside]

/-- R197: what a request that is answered changes: the failures that its window counts, never a window's state. -/
structure WindowsCounted (c d : Core) : Prop where
  frame : ∃ windows, d = { c with mem := { c.mem with windows := windows } }
  states : ∀ w, (mapGet d.mem.windows w).map (·.state) = (mapGet c.mem.windows w).map (·.state)

namespace WindowsCounted
variable {c d : Core} (h : WindowsCounted c d)
include h

theorem xmap : d.mem.xmap = c.mem.xmap := by obtain ⟨_, rfl⟩ := h.frame; rfl
theorem forward : d.mem.forward = c.mem.forward := by obtain ⟨_, rfl⟩ := h.frame; rfl
theorem waiting : d.sess.waiting = c.sess.waiting := by obtain ⟨_, rfl⟩ := h.frame; rfl
theorem bus : d.bus = c.bus := by obtain ⟨_, rfl⟩ := h.frame; rfl
theorem rings : d.rings = c.rings := by obtain ⟨_, rfl⟩ := h.frame; rfl
theorem cfg : d.cfg = c.cfg := by obtain ⟨_, rfl⟩ := h.frame; rfl
theorem link : d.link = c.link := by obtain ⟨_, rfl⟩ := h.frame; rfl
theorem regGet (o : Nat) : Machine.regGet d o = Machine.regGet c o := by obtain ⟨_, rfl⟩ := h.frame; rfl

theorem hostAnswers (answers : Machine.hostAnswers c) : Machine.hostAnswers d :=
  hostAnswers_congr answers h.link h.cfg h.waiting (h.regGet _) (ideStream_congr h.states fun o _ => h.regGet o)
end WindowsCounted

theorem windowOutcome_counted (c : Core) (w : Nat) : WindowsCounted c (windowOutcome c w false false) := by
  unfold windowOutcome
  split
  · exact ⟨⟨_, rfl⟩, fun _ => rfl⟩
  next x hx =>
    refine ⟨⟨_, rfl⟩, fun v => ?_⟩
    by_cases hv : v = w
    · subst hv
      simp [hx]
    · rw [mapGet_set_other _ _ _ _ hv]

/-- The count of walks stands in a register of its own (log entry 16). -/
theorem regGet_countWalks (c : Core) {o : Nat} (h : o ≠ 0x100008) : regGet (countWalks c) o = regGet c o := by
  simp only [countWalks, regCount, regPut]
  rw [regGet_set_other _ _ _ _ h, regGet_set_other _ _ _ _ h]
  rfl

theorem hostAnswers_countWalks {c : Core} (h : hostAnswers c) : hostAnswers (countWalks c) :=
  hostAnswers_congr h rfl rfl rfl (regGet_countWalks c (by decide))
    (ideStream_congr (fun _ => rfl) fun o ho => regGet_countWalks c (by omega))

/-- R97: a core that answers for host memory bars no stream of an outbound address, named by its slot or by the address alone. -/
theorem ideStream_open {c : Core} (h : hostAnswers c) (a : Nat) :
    slotBarred c (ideStream c a) = false ∧ streamAt c (ideStream c a) a = ideStream c a := by
  refine ⟨h.2.1 a, ?_⟩
  unfold streamAt
  split <;> rfl

/-- R91, R192: a read at an outbound address that is answered with data gives the bytes. -/
theorem run_readOutbound_data {r : Run0} {bs : List Byte} {env : Env} (he : r.env = .data bs :: env) (hh : hostAnswers r.core)
    (unsent : r.sent = false) (a n : Nat) : readOutbound a n r = .ok (bytesAt bs 0 n, { r with
      env := env, had := r.had - 1, core := windowOutcome r.core (ideStream r.core a) false false }) := by
  have up := hh.1
  obtain ⟨opens, stream⟩ := ideStream_open hh a
  have tags : tagsFree r.core ≠ 0 := Nat.ne_of_gt hh.2.2
  have answer : nextAns (ideStream r.core a) (streamAt r.core (ideStream r.core a) a) (readNeed r.core n) r =
      .ok (.data bs, { r with env := env, had := r.had - 1 }) := by
    by_cases had : 0 < r.had
    · simp [nextAns, takeAns, noteAns, he, had]
    · have notHad : r.had = 0 := by omega
      simp [nextAns, takeAns, noteAns, he, notHad, unsent, stream, opens, up, tags]
  simp [readOutbound, readBus, request, answer, ansStatus]

/-- R192, R599: a write at an outbound address is posted at once. -/
theorem run_writeOutbound_up {r : Run0} (hh : hostAnswers r.core) (a : Nat) (bs : List Byte) :
    writeOutbound a bs r = .ok ((), { r with core := busPayload r.core a bs }) := by
  have opens : barredAt r.core (ideStream r.core a) a = false := by
    rw [barredAt, (ideStream_open hh a).2]
    exact (ideStream_open hh a).1
  simp [writeOutbound, postBus, postGate, opens, hh.1]

/-! ## TILE_COPY (R181 to R183) -/

/-- R182: the fields of a copy of one tile without check arrays whose addresses pass the checks. -/
structure OneTile (d : Desc) : Prop where
  session : d.session = 0
  src : badHostVa (tcSrc d) 65536 65536 = false
  dst : badHostVa (tcDst d) 65536 65536 = false
  apart : tcSrc d / 65536 ≠ tcDst d / 65536
  tiles : tcTiles d = 1
  srcCheck : d.field 5 63 0 0 = 0
  dstCheck : d.field 6 63 0 0 = 0

/-- R146: a posted write at an outbound page, of the bus and of what counts for it. -/
theorem busPayload_congr {c d : Core} (bus : d.bus = c.bus) (cfg : d.cfg = c.cfg) (a : Nat) (bs : List Byte) :
    (busPayload d a bs).bus = (busPayload c a bs).bus := by
  simp only [busPayload, busPost, maxPayload, bus, cfg]

section
variable {d : Desc} (one : OneTile d) {x : XPage} {r : Run0} (noWait : r.core.sess.waiting = [])
  (quiet : r.core.mem.forward.get (tcDie d) = [])
include one noWait quiet

/-- R183: the tile of an outbound page is read from its bus address, that of a page in device memory from its bytes. -/
theorem run_sourceTile_one {a : List Byte} (mapped : mapGet (r.core.mem.xmap.get (tcDie d)) (tcSrc d / 65536) = some x) (size : x.size = 0)
    (sound : x.bad = []) (valid : (walkEntry (pageWord x) false false).isOk = true)
    (answers : x.kind = 0 → hostAnswers r.core) (env : r.env = if x.kind = 0 then [.data a] else []) (unsent : r.sent = false) :
    ∃ r', sourceTile d 0 r = .ok (if x.kind = 0 then bytesAt a 0 65536 else cellsRead x.bytes 0 65536, r') ∧ r'.ext = r.ext ∧
      WindowsCounted r.core r'.core := by
  have walks := run_pageOf_mapped one.src noWait mapped size quiet valid
  by_cases outbound : x.kind = 0
  · rw [if_pos outbound] at env
    have read := run_readOutbound_data env (answers outbound) unsent (outBus r.core x.pa) 65536
    refine ⟨{ r with env := [], had := r.had - 1, core := windowOutcome r.core (ideStream r.core (outBus r.core x.pa)) false false }, ?_, rfl,
      windowOutcome_counted _ _⟩
    simp [sourceTile, walks, outbound, readOut, read, one.srcCheck]
  · refine ⟨r, ?_, rfl, ⟨r.core.mem.windows, rfl⟩, fun _ => rfl⟩
    simp [sourceTile, walks, outbound, sound]

/-- R183: a tile for an outbound page is posted to its bus address. -/
theorem run_destTile_outbound (mapped : mapGet (r.core.mem.xmap.get (tcDie d)) (tcDst d / 65536) = some x) (size : x.size = 0)
    (valid : (walkEntry (pageWord x) false true).isOk = true) (outbound : x.kind = 0) (answers : hostAnswers r.core) (bs : List Byte) :
    destTile d 0 bs r = .ok ((), { r with core := busPayload r.core (outBus r.core x.pa) bs }) := by
  have walks := run_pageOf_mapped one.dst noWait mapped size quiet valid
  simp [destTile, walks, outbound, writeOut, run_writeOutbound_up answers, one.dstCheck]

/-- R183: a page of 64 KiB with a tile's bytes and sound check blocks. -/
def tileWritten (bs : List Byte) (x : XPage) : XPage :=
  { x with bytes := cellsWrite x.bytes 0 bs, bad := x.bad.filter fun b => !(0 ≤ b && b < 256) }

/-- R183: a tile for a page in device memory is written there. -/
theorem run_destTile_device (mapped : mapGet (r.core.mem.xmap.get (tcDie d)) (tcDst d / 65536) = some x) (size : x.size = 0)
    (valid : (walkEntry (pageWord x) false true).isOk = true) (device : x.kind ≠ 0) (bs : List Byte) :
    destTile d 0 bs r = .ok ((), { r with core := setPage r.core (tcDie d) (tcDst d / 65536) (tileWritten bs x) }) := by
  have walks := run_pageOf_mapped one.dst noWait mapped size quiet valid
  simp [destTile, walks, device, tileWritten, setPage, PerDie.mod, mapMod, mapped]
end

/-- R182, R183: one tile whose pages pass the checks is read and written, its walks counted first. -/
theorem run_tileCopyBody_one {d : Desc} (one : OneTile d) {x y : XPage} {bs : List Byte} {r r' r'' : Run0}
    (noWait : r.core.sess.waiting = [])
    (srcMapped : mapGet (r.core.mem.xmap.get (tcDie d)) (tcSrc d / 65536) = some x) (srcSize : x.size = 0)
    (dstMapped : mapGet (r.core.mem.xmap.get (tcDie d)) (tcDst d / 65536) = some y) (dstSize : y.size = 0)
    (writable : y.write = true)
    (reads : sourceTile d 0 { r with core := countWalks r.core } = .ok (bs, r')) (writes : destTile d 0 bs r' = .ok ((), r'')) :
    tileCopyBody d r = .ok (.done .ok 1 0, r'') := by
  obtain ⟨-, -, srcNumber⟩ := hostVa_page one.src
  obtain ⟨-, -, dstNumber⟩ := hostVa_page one.dst
  have source := run_rangeTier_one one.src noWait srcMapped srcSize (write := false) nofun
  have dest := run_rangeTier_one one.dst noWait dstMapped dstSize (write := true) fun _ => writable
  have apart : ¬ (tcSrc d < tcDst d + 65536 ∧ tcDst d < tcSrc d + 65536) := by
    have := one.apart
    omega
  have copies : copyTiles d [0] { r with core := countWalks r.core } = .ok ((), r'') := by
    simp [copyTiles, reads, writes]
  simp [tileCopyBody, one.session, one.tiles, one.src, one.dst, one.srcCheck, one.dstCheck, apart, source, dest, copies]

end Sys2Proof.Machine

namespace Sys2Proof.Machine

/-! ## What a copied tile leaves (R181 to R183) -/

/-- R181 to R183: what a copied tile leaves: its bytes on the bus or in the page, with sound check blocks, and every other page as it was. -/
structure TileCopied (c : Core) (die : Bool) (dst : Nat) (y : XPage) (bytes : List Byte) (t : Core) : Prop where
  posted : y.kind = 0 → t.mem.xmap = c.mem.xmap ∧ t.bus = (busPayload c (outBus c y.pa) bytes).bus
  written : y.kind ≠ 0 → t.bus = c.bus ∧ ∃ y', mapGet (t.mem.xmap.get die) dst = some y' ∧ y'.bytes = cellsWrite y.bytes 0 bytes ∧
    ∀ b, b < 256 → ¬ b ∈ y'.bad
  others : ∀ p, p ≠ dst → mapGet (t.mem.xmap.get die) p = mapGet (c.mem.xmap.get die) p
  otherDie : t.mem.xmap.get (!die) = c.mem.xmap.get (!die)

/-- R183: check blocks of a tile that is written are sound. -/
theorem tileWritten_sound (bs : List Byte) (x : XPage) {b : Nat} (h : b < 256) : ¬ b ∈ (tileWritten bs x).bad := by
  simp [tileWritten, h]

section
variable {d : Desc} (one : OneTile d) {y : XPage} {r : Run0} (noWait : r.core.sess.waiting = [])
  (quiet : r.core.mem.forward.get (tcDie d) = [])
  (mapped : mapGet (r.core.mem.xmap.get (tcDie d)) (tcDst d / 65536) = some y) (size : y.size = 0)
  (valid : (walkEntry (pageWord y) false true).isOk = true) (answers : y.kind = 0 → hostAnswers r.core)
include one noWait quiet mapped size valid answers

/-- R183: whichever the destination's tier, its tile is written. -/
theorem run_destTile_one (bs : List Byte) : ∃ r', destTile d 0 bs r = .ok ((), r') ∧ r'.ext = r.ext ∧ r'.core.rings = r.core.rings ∧
    TileCopied r.core (tcDie d) (tcDst d / 65536) y bs r'.core := by
  by_cases outbound : y.kind = 0
  · exact ⟨_, run_destTile_outbound one noWait quiet mapped size valid outbound (answers outbound) bs, rfl, rfl,
      ⟨fun _ => ⟨rfl, rfl⟩, fun device => absurd outbound device, fun _ _ => rfl, rfl⟩⟩
  · refine ⟨_, run_destTile_device one noWait quiet mapped size valid outbound bs, rfl, rfl, ⟨fun h => absurd h outbound, fun _ => ⟨rfl, ?_⟩,
      fun p hp => ?_, ?_⟩⟩
    · exact ⟨tileWritten bs y, by rw [setPage_xmap, PerDie.get_mod, mapGet_set_same], rfl, fun b => tileWritten_sound bs y⟩
    · rw [setPage_xmap, PerDie.get_mod, mapGet_set_other _ _ _ _ hp]
    · rw [setPage_xmap, PerDie.get_mod_not]
end

/-- R146: the bus address of an outbound page, of states whose outbound base reads alike. -/
theorem outBus_congr {c d : Core} (h : regGet d 0x100000 = regGet c 0x100000) (pa : Nat) : outBus d pa = outBus c pa := by
  rw [outBus, outBus, h]

/-- R181 to R183: what a copied tile leaves of a state is what it leaves of another with the same mappings, bus and bus settings. -/
theorem TileCopied.of_same {b c t : Core} {die : Bool} {dst : Nat} {y : XPage} {bytes : List Byte} (h : TileCopied b die dst y bytes t)
    (xmap : b.mem.xmap = c.mem.xmap) (bus : b.bus = c.bus) (cfg : b.cfg = c.cfg) (base : regGet b 0x100000 = regGet c 0x100000) :
    TileCopied c die dst y bytes t where
  posted outbound := by
    obtain ⟨pages, sent⟩ := h.posted outbound
    exact ⟨pages.trans xmap, by rw [sent, outBus_congr base, busPayload_congr bus cfg]⟩
  written device := by
    obtain ⟨silent, page⟩ := h.written device
    exact ⟨silent.trans bus, page⟩
  others p hp := by rw [h.others p hp, xmap]
  otherDie := by rw [h.otherDie, xmap]

/-- R181 to R183: TILE_COPY of one tile. -/
theorem exec_tileCopy_one {d : Desc} {a : List Byte} {x y : XPage} {s : State} (free : seqFree s.core d) (one : OneTile d)
    (noWait : s.core.sess.waiting = []) (quiet : s.core.mem.forward.get (tcDie d) = [])
    (srcMapped : mapGet (s.core.mem.xmap.get (tcDie d)) (tcSrc d / 65536) = some x) (srcSize : x.size = 0) (sound : x.bad = [])
    (readable : (walkEntry (pageWord x) false false).isOk = true)
    (dstMapped : mapGet (s.core.mem.xmap.get (tcDie d)) (tcDst d / 65536) = some y) (dstSize : y.size = 0) (write : y.write = true)
    (writable : (walkEntry (pageWord y) false true).isOk = true) (answers : x.kind = 0 ∨ y.kind = 0 → hostAnswers s.core) :
    ∃ c, exec (.tileCopy d (if x.kind = 0 then [.data a] else [])) s = .next { s with core := complete c d .ok 1 0 } ∧
      c.rings = s.core.rings ∧
      TileCopied s.core (tcDie d) (tcDst d / 65536) y (if x.kind = 0 then bytesAt a 0 65536 else cellsRead x.bytes 0 65536) c := by
  let r := begunSeqRun s d (if x.kind = 0 then [.data a] else [])
  have counted : hostAnswers s.core → hostAnswers (countWalks r.core) := fun h =>
    hostAnswers_countWalks (hostAnswers_congr h rfl rfl rfl rfl fun _ => rfl)
  obtain ⟨r1, reads, ext1, kept⟩ := run_sourceTile_one (r := { r with core := countWalks r.core }) (a := a) one noWait quiet srcMapped srcSize
    sound readable (fun h => counted (answers (.inl h))) rfl rfl
  obtain ⟨r2, writes, ext2, rings, copied⟩ := run_destTile_one (r := r1) one (kept.waiting.trans noWait) (by rw [kept.forward]; exact quiet)
    (by rw [kept.xmap]; exact dstMapped) dstSize writable (fun h => kept.hostAnswers (counted (answers (.inr h)))) _
  have body := run_tileCopyBody_one (r := r) one noWait srcMapped srcSize dstMapped dstSize write reads writes
  refine ⟨r2.core, ?_, rings.trans kept.rings, copied.of_same kept.xmap kept.bus kept.cfg ?_⟩
  · rw [exec_tileCopy, acceptSeq_done free (ext2.trans ext1) one.session body]
  · rw [kept.regGet]
    exact regGet_countWalks r.core (by decide)

/-! ## What XLT_MAP leaves (R170) -/

section
variable {d : Desc} {s : State} (free : seqFree s.core d) (sound : RangeSound d) (nonzero : xPages d ≠ 0)
  (clear : ∀ die, onDie (xDies d) die = true →
    xOverlaps (s.core.mem.xmap.get die) (xVa d / 65536) (xPages d * sizeFrames (xSize d)) = false)
include free sound nonzero clear

/-- R170: outbound pages lie at consecutive physical addresses, on the dies named alone, and take no frames. -/
theorem xltMap_mapsOutbound (out : d.field 4 35 35 0 = 0) (low : outboundBase ≤ d.field 3 63 0 0)
    (aligned : d.field 3 63 0 0 % (65536 * sizeFrames (xSize d)) = 0)
    (ends : d.field 3 63 0 0 + xPages d * sizeFrames (xSize d) * 65536 ≤ outboundEnd) : ∃ t, exec (.xltMap d) s = .next t ∧
      (∀ die i, onDie (xDies d) die = true → i < xPages d → mapGet (t.core.mem.xmap.get die) (xVa d / 65536 + sizeFrames (xSize d) * i) =
        some (xNew d 0 (d.field 3 63 0 0 + 65536 * sizeFrames (xSize d) * i))) ∧
      (∀ die, onDie (xDies d) die = false → t.core.mem.xmap.get die = s.core.mem.xmap.get die) ∧
      t.core.mem.free = s.core.mem.free ∧ t.core.mem.loftFree = s.core.mem.loftFree ∧
      t.core.rings = (complete s.core d .ok (xPages d) 0).rings ∧ t.core.sess.dir = s.core.sess.dir ∧ t.core.obj = s.core.obj := by
  refine ⟨_, exec_xltMap_outbound free sound nonzero clear out low aligned ends, ?_⟩
  have pages := xEnter_outbound_pages d (beginSeq s.core d)
  obtain ⟨xmap, frame⟩ := xEnter_outbound_frame d (beginSeq s.core d)
  generalize (diesOf d).foldl (xEnter d 0) (beginSeq s.core d) = c at pages frame
  have rings : c.rings = s.core.rings := by rw [frame]; rfl
  rw [complete_mem, complete_dir, complete_obj]
  refine ⟨fun die i named hi => ?_, fun die => (pages die).2, by rw [frame]; rfl, by rw [frame]; rfl, complete_rings_congr rings d .ok _ 0,
    by rw [frame]; rfl, by rw [frame]; rfl⟩
  obtain ⟨x, entered, rfl⟩ := (pages die).1 named i hi
  exact entered

/-- R170, R174: loft pages lie at aligned places of the dies named, whose lofts have given their frames. -/
theorem xltMap_mapsLoft (alloc : d.field 4 35 35 0 = 1) (loft : d.field 4 37 36 0 = 1)
    (room : ∀ die, onDie (xDies d) die = true → xPages d * sizeFrames (xSize d) ≤ s.core.mem.loftFree.get die ∧
      (stepRuns s.core die = true → hotOn s.core die + xPages d * sizeFrames (xSize d) ≤ s.core.mem.loftFree.get die)) :
    ∃ t, exec (.xltMap d) s = .next t ∧
      (∀ die, onDie (xDies d) die = true → PagesEntered d (fun _ => Allocated d 2) (t.core.mem.xmap.get die)) ∧
      (∀ die, t.core.mem.loftFree.get die =
        s.core.mem.loftFree.get die - if onDie (xDies d) die = true then xPages d * sizeFrames (xSize d) else 0) ∧
      t.core.rings = (complete s.core d .ok (xPages d) 0).rings ∧ t.core.sess.dir = s.core.sess.dir := by
  refine ⟨_, exec_xltMap_loft free sound nonzero clear alloc loft room, ?_⟩
  have frame := xEnter_loft_frame d (beginSeq s.core d)
  have rings : ((diesOf d).foldl (xEnter d 2) (beginSeq s.core d)).rings = s.core.rings := (rings_of_outsideMem frame).trans rfl
  have sess := congrArg (·.dir) (sess_of_outsideMem frame)
  rw [complete_mem, complete_dir]
  exact ⟨xEnter_loft_pages d _, xEnter_loft_free d _, complete_rings_congr rings d .ok (xPages d) 0, sess⟩

/-- R170, R219: stacked pages lie at aligned places of the dies named, whose stacks have given their frames; the request stays in progress
while FILL commands zero them. -/
theorem xltMap_mapsStacks (alloc : d.field 4 35 35 0 = 1) (stacked : d.field 4 37 36 0 = 0)
    (room : ∀ die, onDie (xDies d) die = true → xPages d * sizeFrames (xSize d) ≤ s.core.mem.free.get die) (unfenced : NoneFenced s.core)
    (found : ((diesOf d).foldl (fun c die => c.bind (enterStack d · die)) (some (beginSeq s.core d))).isSome = true) :
    ∃ t, exec (.xltMap d) s = .next t ∧
      (∀ die, onDie (xDies d) die = true → PagesEntered d (fun _ => Allocated d 1) (t.core.mem.xmap.get die)) ∧
      mapGet t.core.obj.jobs d.ring = some { desc := d } ∧
      (∀ die, t.core.mem.free.get die =
        s.core.mem.free.get die - if onDie (xDies d) die = true then xPages d * sizeFrames (xSize d) else 0) ∧
      t.core.rings = s.core.rings := by
  obtain ⟨c, entered⟩ := Option.isSome_iff_exists.mp found
  have frame := enterStacks_frame entered
  have pages := fun die => enterStacks_pages entered (die := die)
  have taken := enterStacks_free entered
  have stackTab : c.stackTab = s.core.stackTab := (stackTab_of_outsideMem frame).trans rfl
  have rings : c.rings = s.core.rings := (rings_of_outsideMem frame).trans rfl
  have startable : NoneFenced (jobStarted d c) := fun k => by
    rw [show stackOf (jobStarted d c) k = stackOf s.core k from stackOf_congr stackTab k]
    exact unfenced k
  refine ⟨_, exec_xltMap_stacks free sound nonzero clear alloc stacked room entered, ?_⟩
  rw [(fillPages_queued d startable).frame]
  exact ⟨pages, mapGet_set_same .., taken, rings⟩
end

/-- Settles O28: each way XLT_MAP, XLT_UNMAP and TILE_COPY run under the clauses' premises, with what each leaves of the pages and frames. -/
theorem mappingsAndTiles : Obligations.MappingsAndTiles := by
  unfold Obligations.MappingsAndTiles
  refine ⟨?_, ?_⟩
  · intro d s free session va n pages allocated size dies tier low high aligned ends
    have sound : RangeSound d := ⟨session, size, dies, tier, low, high, aligned, ends⟩
    refine ⟨fun empty => ⟨exec_xltMap_none free sound empty, exec_xltUnmap_none free sound empty⟩, fun positive clear => ⟨?_, ?_, ?_⟩,
      fun positive noWait noJob => exec_xltUnmap_quiet free sound (Nat.ne_of_gt positive) noWait noJob⟩
    · exact xltMap_mapsOutbound free sound (Nat.ne_of_gt positive) clear
    · intro alloc loft room
      obtain ⟨t, runs, entered, left⟩ := xltMap_mapsLoft free sound (Nat.ne_of_gt positive) clear alloc loft room
      exact ⟨t, runs, fun die i named hi => entered die named i hi, left⟩
    · intro alloc stacked room unfenced found
      obtain ⟨t, runs, entered, left⟩ := xltMap_mapsStacks free sound (Nat.ne_of_gt positive) clear alloc stacked room unfenced found
      exact ⟨t, runs, fun die i named hi => entered die named i hi, left⟩
  · intro d a x y s free session noWait src dst srcVa dstVa apart tiles srcCheck dstCheck srcMapped dstMapped quiet srcSize dstSize srcKind
      dstKind write sound readable writable answers bytes
    obtain ⟨c, runs, rings, copied⟩ := exec_tileCopy_one (a := a) free ⟨session, srcVa, dstVa, apart, tiles, srcCheck, dstCheck⟩ noWait quiet
      srcMapped srcSize sound readable dstMapped dstSize write writable fun h => (answers h).1
    obtain ⟨posted, written, others, otherDie⟩ := copied
    refine ⟨_, runs, ?_⟩
    simp only [complete_mem, complete_bus]
    exact ⟨posted, written, others, otherDie, complete_rings_congr rings d .ok 1 0⟩

end Sys2Proof.Machine

namespace Sys2Proof.Machine

/-! ## An account's levels after a change to the accounts of a die (R446, R451, R453) -/

@[simp] theorem acctOf_modAcct_same (c : Core) (die : Bool) (a : Nat) (f : Acct → Acct) :
    acctOf (modAcct c die a f) die a = f (acctOf c die a) := by
  simp [acctOf, modAcct, setAcct]

@[simp] theorem acctOf_modAcct_otherDie (c : Core) (die : Bool) (a b : Nat) (f : Acct → Acct) :
    acctOf (modAcct c die a f) (!die) b = acctOf c (!die) b := by
  simp [acctOf, modAcct, setAcct]

/-- Where one account is set, a change to every account changes that one. -/
theorem eachAcct_one {c : Core} {a : Nat} {g : AcctCfg} (only : c.acctCfg = [(a, g)]) (die : Bool) (f : AcctCfg → Acct → Acct) :
    eachAcct c die f = modAcct c die a (f g) := by
  simp [eachAcct, only]

/-- A change of a map's values, each by its key, changes the value that is read. -/
theorem mapGet_mapKeyed {α β : Type} (m : Map α) (f : Nat → α → β) (i : Nat) :
    mapGet (m.map fun p => (p.1, f p.1 p.2)) i = (mapGet m i).map (f i) := by
  induction m with
  | nil => rfl
  | cons p m ih =>
    obtain ⟨k, a⟩ := p
    simp only [List.map_cons, mapGet]
    split
    next same => simp [same]
    next => exact ih

/-- R451: an account of a die as the change of `c` to `d` leaves it: one that gains an eligible row wakes. -/
def wokenAcct (c d : Core) (die : Bool) (a : Nat) (x : Acct) : Acct :=
  if hasRow d die a && !hasRow c die a then { x with tag := max x.tag (d.sched.get die).vtime } else x

/-- R451: waking changes an account's tag alone. -/
theorem wokenAcct_frame (c d : Core) (die : Bool) (a : Nat) (x : Acct) : ∃ tag, wokenAcct c d die a x = { x with tag := tag } := by
  unfold wokenAcct
  split
  · exact ⟨_, rfl⟩
  · exact ⟨x.tag, rfl⟩

theorem waking_accts (c : Core) (die : Bool) (f : Core → Core) :
    ((waking c die f).sched.get die).accts = ((f c).sched.get die).accts.map fun p => (p.1, wokenAcct c (f c) die p.1 p.2) := by
  simp only [waking, PerDie.get_set]
  refine List.map_congr_left fun p _ => ?_
  unfold wokenAcct
  split <;> rfl

/-- R451: after a change that may wake accounts, each is as the change left it but for its tag. -/
theorem acctOf_waking (c : Core) (die : Bool) (f : Core → Core) (a : Nat) :
    ∃ tag, acctOf (waking c die f) die a = { acctOf (f c) die a with tag := tag } := by
  rw [acctOf, acctOf, waking_accts, mapGet_mapKeyed]
  cases mapGet ((f c).sched.get die).accts a with
  | none => exact ⟨_, rfl⟩
  | some x => exact wokenAcct_frame c (f c) die a x

@[simp] theorem acctOf_waking_otherDie (c : Core) (die : Bool) (f : Core → Core) (a : Nat) :
    acctOf (waking c die f) (!die) a = acctOf (f c) (!die) a := by
  simp [acctOf, waking]

/-! ## Refills (R446, R453, R564) -/

section
variable {die : Bool} {s : State} (up : ready s.core = true) (n : Nat)
include up

/-- R564: refills that fall due while the die's step scheduler is off are counted. -/
theorem exec_bucketRefill_held (off : domainOn s.core (schedDomain die) = false) : exec (.bucketRefill die n) s =
    .next { s with core := withSched s.core (s.core.sched.mod die fun x => { x with dueBuckets := x.dueBuckets + n }) } := by
  show execBucketRefill die n s = _
  simp [execBucketRefill, whenReady, up, off, withSched]

theorem exec_meterRefill_held (off : domainOn s.core (schedDomain die) = false) : exec (.meterRefill die n) s =
    .next { s with core := withSched s.core (s.core.sched.mod die fun x => { x with dueMeters := x.dueMeters + n }) } := by
  show execMeterRefill die n s = _
  simp [execMeterRefill, whenReady, up, off, withSched]

/-- R446, R453: otherwise they are applied. -/
theorem exec_bucketRefill_on (on : domainOn s.core (schedDomain die) = true) :
    exec (.bucketRefill die n) s = .next { s with core := refillBuckets s.core die n } := by
  show execBucketRefill die n s = _
  simp [execBucketRefill, whenReady, up, on]

theorem exec_meterRefill_on (on : domainOn s.core (schedDomain die) = true) :
    exec (.meterRefill die n) s = .next { s with core := refillMeters s.core die n } := by
  show execMeterRefill die n s = _
  simp [execMeterRefill, whenReady, up, on]
end

/-- A change to a die's step scheduler that keeps its accounts keeps every account of both dies. -/
theorem acctOf_modSched (c : Core) (die : Bool) (f : Sched → Sched) (keeps : ∀ x, (f x).accts = x.accts) (d : Bool) (a : Nat) :
    acctOf (withSched c (c.sched.mod die f)) d a = acctOf c d a := by
  rcases Bool.eq_or_eq_not d die with rfl | rfl
  · simp [acctOf, withSched, keeps]
  · simp [acctOf, withSched]

section
variable {c : Core} {a : Nat} {g : AcctCfg} (only : c.acctCfg = [(a, g)]) (die : Bool) (n : Nat)
include only

/-- R446, R451: bucket refills refill the one account that is set, and may wake it. -/
theorem acctOf_refillBuckets_one (positive : 0 < n) : ∃ tag, acctOf (refillBuckets c die n) die a =
    { refillAcct g (c.sched.get die).scale n (acctOf c die a) with tag := tag } := by
  rw [refillBuckets, if_neg (Nat.ne_of_gt positive)]
  obtain ⟨tag, woken⟩ := acctOf_waking c die (fun c => eachAcct c die fun g x => refillAcct g (c.sched.get die).scale n x) a
  exact ⟨tag, by rw [woken, eachAcct_one only, acctOf_modAcct_same]⟩

theorem acctOf_refillBuckets_otherDie (b : Nat) : acctOf (refillBuckets c die n) (!die) b = acctOf c (!die) b := by
  unfold refillBuckets
  split
  · rfl
  · rw [acctOf_waking_otherDie, eachAcct_one only, acctOf_modAcct_otherDie]

/-- R453: meter refills refill its meter. -/
theorem acctOf_refillMeters_one : acctOf (refillMeters c die n) die a = refillMeter g n (acctOf c die a) := by
  rw [refillMeters, eachAcct_one only, acctOf_modAcct_same]

theorem acctOf_refillMeters_otherDie (b : Nat) : acctOf (refillMeters c die n) (!die) b = acctOf c (!die) b := by
  rw [refillMeters, eachAcct_one only, acctOf_modAcct_otherDie]
end

theorem refillBuckets_rings (c : Core) (die : Bool) (n : Nat) : (refillBuckets c die n).rings = c.rings := by
  obtain ⟨y, frame⟩ := refillBuckets_frame c die n
  rw [frame]
  rfl

theorem refillMeters_rings (c : Core) (die : Bool) (n : Nat) : (refillMeters c die n).rings = c.rings := by
  obtain ⟨y, frame⟩ := eachAcct_frame c die fun g x => refillMeter g n x
  rw [refillMeters, frame]
  rfl

/-! ## Hot copies (R176) -/

/-- R176: the hot copies of each slot on a die after those of one slot are set. -/
theorem hot_setHot (c : Core) (die : Bool) (slot n k : Nat) : (mapGet (setHot c die slot n).mem.hot (2 * k + b2n die)).getD 0 =
    if k = slot then n else (mapGet c.mem.hot (2 * k + b2n die)).getD 0 := by
  simp only [setHot]
  by_cases same : k = slot
  · subst same
    by_cases empty : n = 0 <;> simp [empty]
  · have other : 2 * k + b2n die ≠ 2 * slot + b2n die := by omega
    by_cases empty : n = 0 <;> simp [empty, same, mapGet_del_other _ _ _ other, mapGet_set_other _ _ _ _ other]

/-- A sum over the numbers below `n` of which one alone counts. -/
theorem foldl_add_single (v i n : Nat) : (List.range n).foldl (fun a k => a + if k = i then v else 0) 0 = if i < n then v else 0 := by
  induction n with
  | zero => rfl
  | succ n ih =>
    rw [List.range_succ, List.foldl_append, ih]
    simp only [List.foldl_cons, List.foldl_nil]
    split <;> split <;> split <;> omega

theorem hotOn_none {c : Core} (empty : c.mem.hot = []) (die : Bool) : hotOn c die = 0 := by
  simp [hotOn, empty, mapGet, List.foldl_fixed]

/-- R176: where no other slot has hot copies, those of a slot are all. -/
theorem hotOn_setHot_only {c : Core} (empty : c.mem.hot = []) (die : Bool) {slot : Nat} (inTable : slot < 16) (n : Nat) :
    hotOn (setHot c die slot n) die = n := by
  simp only [hotOn, hot_setHot, empty, mapGet, Option.getD_none]
  rw [foldl_add_single, if_pos inTable]

/-- R176: with one model, loaded and available, and no hot copies yet, free object space takes its tiles as far as it reaches. -/
theorem hotCopyFill_one {c : Core} {slot : Nat} {m : Model} (only : c.obj.models = [(slot, m)]) (loaded : m.state = 2)
    (available : m.available = true) (empty : c.mem.hot = []) (die : Bool) :
    hotCopyFill c die = setHot c die slot (min (c.mem.loftFree.get die) (hotTiles m die)) := by
  simp [hotCopyFill, only, loaded, available, hotOn_none empty, empty, mapGet]

/-- Settles O57: refills are counted while the step scheduler is off (`exec_bucketRefill_held`) and otherwise refill the account (`acctOf_refillBuckets_one`, `acctOf_refillMeters_one`); hot copies fill what object space has (`hotCopyFill_one`). -/
theorem refillsAndHotCopies : Obligations.RefillsAndHotCopies := by
  unfold Obligations.RefillsAndHotCopies
  intro die s
  refine ⟨fun n up off => ⟨?_, ?_⟩, fun n a g up on positive only => ⟨?_, ?_⟩, fun slot m serves only loaded available inTable empty => ?_⟩
  · exact ⟨_, exec_bucketRefill_held up n off, by simp [withSched], acctOf_modSched _ _ _ (by intro; rfl) _⟩
  · exact ⟨_, exec_meterRefill_held up n off, by simp [withSched], acctOf_modSched _ _ _ (by intro; rfl) _⟩
  · obtain ⟨tag, refilled⟩ := acctOf_refillBuckets_one only die n positive
    refine ⟨_, exec_bucketRefill_on up n on, ?_, ?_, ?_, acctOf_refillBuckets_otherDie only die n a, refillBuckets_rings _ _ _⟩
    all_goals simp [refilled, refillAcct]
  · have refilled := acctOf_refillMeters_one only die n
    refine ⟨_, exec_meterRefill_on up n on, ?_, ?_, ?_, acctOf_refillMeters_otherDie only die n a, refillMeters_rings _ _ _⟩
    all_goals rw [refilled]; rfl
  · have fills : exec (.hotCopyFill die) s = .next { s with core := hotCopyFill s.core die } := by
      show onCore s _ = _
      simp [onCore, serves]
    rw [fills, hotCopyFill_one only loaded available empty]
    exact ⟨_, rfl, hotOn_setHot_only empty die inTable _, rfl, rfl⟩

end Sys2Proof.Machine

namespace Sys2Proof.Machine

/-! ## The carve (R173, R189, R574) -/

/-- R574, R589: what the carve keeps: every register but the stacks' command counts, the stacks and the rings. -/
structure CarveKeeps (c d : Core) : Prop where
  regs : ∀ o, (∀ k, k < 8 → o ≠ hbcStat k) → regGet d o = regGet c o
  stackTab : d.stackTab = c.stackTab
  rings : d.rings = c.rings

namespace CarveKeeps
variable {c d e : Core}

/-- A change that stores no register, and keeps stacks and rings. -/
theorem of_regs (regs : d.regs = c.regs) (stackTab : d.stackTab = c.stackTab) (rings : d.rings = c.rings) : CarveKeeps c d :=
  ⟨fun o _ => regGet_congr regs o, stackTab, rings⟩

theorem trans (first : CarveKeeps c d) (second : CarveKeeps d e) : CarveKeeps c e :=
  ⟨fun o other => (second.regs o other).trans (first.regs o other), second.stackTab.trans first.stackTab, second.rings.trans first.rings⟩

variable (h : CarveKeeps c d)
include h

/-- R582: TIER_BARN is none of the stacks' command counts. -/
theorem barn : regGet d 0x200100 = regGet c 0x200100 := h.regs _ fun k _ => by rw [hbcStat]; omega

theorem stageFrames : Machine.stageFrames d = Machine.stageFrames c := by
  rw [Machine.stageFrames, Machine.stageFrames, regField, regField, h.barn]

theorem carveNeed : Machine.carveNeed d = Machine.carveNeed c := by
  rw [Machine.carveNeed, Machine.carveNeed, h.stageFrames, barnFrames, barnFrames, regField, regField, h.barn]

theorem carvable (die : Bool) : Machine.carvable d die = Machine.carvable c die :=
  congrArg (fun tab => Machine.carvable { stackTab := tab } die) h.stackTab
end CarveKeeps

/-- A part of the carve that takes `n` free frames of a die, and none of the other's. -/
structure FramesCarved (c d : Core) (die : Bool) (n : Nat) : Prop where
  keeps : CarveKeeps c d
  free : freeOf d die = freeOf c die - n
  otherDie : freeOf d (!die) = freeOf c (!die)

namespace FramesCarved
variable {c d e : Core} {die : Bool} {m n : Nat}

theorem of_free (keeps : CarveKeeps c d) (free : d.mem.free = c.mem.free) : FramesCarved c d die 0 :=
  ⟨keeps, by rw [freeOf, free, Nat.sub_zero, freeOf], by rw [freeOf, free, freeOf]⟩

theorem of_taken (keeps : CarveKeeps c d) (free : d.mem.free = c.mem.free.mod die (· - n)) : FramesCarved c d die n :=
  ⟨keeps, by rw [freeOf, free, PerDie.get_mod, freeOf], by rw [freeOf, free, PerDie.get_mod_not, freeOf]⟩

theorem trans (first : FramesCarved c d die m) (second : FramesCarved d e die n) : FramesCarved c e die (m + n) :=
  ⟨first.keeps.trans second.keeps, by rw [second.free, first.free, Nat.sub_sub], second.otherDie.trans first.otherDie⟩

theorem then_none (first : FramesCarved c d die n) (second : FramesCarved d e die 0) : FramesCarved c e die n := first.trans second
end FramesCarved

/-- R189: an object or a region takes frames that are free. -/
theorem takeFree_carved (c : Core) (die : Bool) (n : Nat) : FramesCarved c (takeFree c die n) die n := by
  refine .of_taken (.of_regs (by rw [takeFree_frame]) (takeFree_stackTab c die n) (by rw [takeFree_frame])) ?_
  simp only [takeFree]
  split <;> rfl

/-- R574: the FILL commands of a die's tables, counted on its stacks. -/
def countFills (c : Core) (die : Bool) (fills : Nat → Nat) : Core :=
  (List.range 4).foldl (fun c i => regCount c (hbcStat (i + if die then 4 else 0)) 31 0 (fills i)) c

theorem countFills_carved (c : Core) (die : Bool) (fills : Nat → Nat) : FramesCarved c (countFills c die fills) die 0 := by
  refine List.foldlRecOn (motive := fun d => FramesCarved c d die 0) _ _ (.of_free (.of_regs rfl rfl rfl) rfl) fun d kept i inDie => ?_
  have stack : i + (if die then 4 else 0) < 8 := by
    have := List.mem_range.mp inDie
    split <;> omega
  exact kept.then_none (.of_free ⟨fun o other => regGet_put_other _ _ _ _ _ _ (other _ stack), rfl, rfl⟩ rfl)

/-- R574: filling the tables takes their frames, charges the die's allowance and counts the commands. -/
theorem fillTables_carved (c : Core) (die : Bool) : FramesCarved c (fillTables c die) die metaFrames := by
  have charged : FramesCarved (takeFree c die metaFrames) { takeFree c die metaFrames with
      gov := (takeFree c die metaFrames).gov.mod die fun g => { g with allow := g.allow - (65536 * metaFrames : Nat) } } die 0 :=
    .of_free (.of_regs rfl rfl rfl) rfl
  exact ((takeFree_carved c die metaFrames).then_none charged).then_none (countFills_carved _ die _)

theorem carveStage_carved (c : Core) (die : Bool) : FramesCarved c (carveStage c die) die (stageFrames c) :=
  .of_taken (.of_regs rfl rfl rfl) rfl

theorem carveLoft_carved (c : Core) (die : Bool) : FramesCarved c (carveLoft c die) die 0 := .of_free (.of_regs rfl rfl rfl) rfl

theorem freshPairs_keeps (c : Core) (die : Bool) : CarveKeeps c (freshPairs c die) := .of_regs rfl rfl rfl

theorem metaFrames_le (c : Core) : metaFrames + stageFrames c ≤ carveNeed c := by
  rw [carveNeed, metaFrames]
  omega

/-- R189: beside the tables, the carve of a die takes the regions' frames, and the staging frames from what they leave. -/
theorem carveRegions_carved (c : Core) (die : Bool) :
    FramesCarved c (carveLoft (carveStage (takeFree c die (carveNeed c - stageFrames c - metaFrames)) die) die) die (carveNeed c - metaFrames) := by
  have regions := takeFree_carved c die (carveNeed c - stageFrames c - metaFrames)
  have all := (regions.trans (carveStage_carved _ die)).then_none (carveLoft_carved _ die)
  have amount : carveNeed c - stageFrames c - metaFrames + stageFrames c = carveNeed c - metaFrames := by
    have := metaFrames_le c
    omega
  rwa [regions.keeps.stageFrames, amount] at all

/-- R189: the carve of a die takes the frames of the six regions from all that its stacks in service have. -/
theorem carveDie_carved (c : Core) (die : Bool) : FramesCarved (freshPairs c die) (carveDie c die) die (carveNeed c) := by
  have tables := fillTables_carved (freshPairs c die) die
  have need : carveNeed (fillTables (freshPairs c die) die) = carveNeed c := ((freshPairs_keeps c die).trans tables.keeps).carveNeed
  have amount : metaFrames + (carveNeed (fillTables (freshPairs c die) die) - metaFrames) = carveNeed c := by
    have := metaFrames_le c
    omega
  have all := tables.trans (carveRegions_carved _ die)
  rwa [amount] at all

theorem carveDie_keeps (c : Core) (die : Bool) : CarveKeeps c (carveDie c die) := (freshPairs_keeps c die).trans (carveDie_carved c die).keeps

theorem carveDie_free (c : Core) (die : Bool) : freeOf (carveDie c die) die = carvable c die - carveNeed c := by
  rw [(carveDie_carved c die).free]
  simp [freeOf, freshPairs]

theorem carveDie_otherDie (c : Core) (die : Bool) : freeOf (carveDie c die) (!die) = freeOf c (!die) := by
  rw [(carveDie_carved c die).otherDie]
  simp [freeOf, freshPairs]

/-- R189, R191: the last of the carve: the staging frames and the barn's frames are set free. -/
def freeStaging (c : Core) (staging barn : PerDie Nat) : Core :=
  { c with mem := { c.mem with stagingFree := staging, barnFree := barn } }

theorem freeStaging_keeps (c : Core) (staging barn : PerDie Nat) : CarveKeeps c (freeStaging c staging barn) := .of_regs rfl rfl rfl

theorem freeOf_freeStaging (c : Core) (staging barn : PerDie Nat) (die : Bool) : freeOf (freeStaging c staging barn) die = freeOf c die := rfl

theorem carved_eq (c : Core) : ∃ staging barn, carved c = freeStaging (carveDie (carveDie c false) true) staging barn := ⟨_, _, rfl⟩

theorem carved_keeps (c : Core) : CarveKeeps c (carved c) := by
  obtain ⟨_, _, last⟩ := carved_eq c
  rw [last]
  exact ((carveDie_keeps c false).trans (carveDie_keeps _ true)).trans (freeStaging_keeps _ _ _)

/-- R189: each die is left the frames of its stacks in service less those of the six regions. -/
theorem carved_free (c : Core) (die : Bool) : freeOf (carved c) die = carvable c die - carveNeed c := by
  obtain ⟨_, _, last⟩ := carved_eq c
  rw [last, freeOf_freeStaging]
  cases die with
  | false => exact (carveDie_otherDie _ true).trans (carveDie_free c false)
  | true => rw [carveDie_free, (carveDie_keeps c false).carvable, (carveDie_keeps c false).carveNeed]

end Sys2Proof.Machine

namespace Sys2Proof.Machine

/-! ## TIER_POOL_CFG (R192, R579) -/

/-- R192: TIER_POOL_CFG of a window stores two flags. -/
def poolCfgFields : List Field := [{ lo := 0, width := 1, acc := .rw }, { lo := 1, width := 1, acc := .rw }]

/-- R193: TIER_POOL_CFG with EN set and its other flag cleared. -/
def enabledValue (old : Nat) : Nat := putBits (putBits old 0 0 1) 1 1 0

theorem enabledValue_en (old : Nat) : bits (enabledValue old) 0 0 = 1 := by
  simp only [enabledValue, putBits, bits]
  omega

theorem writtenValue_poolCfg (locked : Bool) (old : Nat) : writtenValue locked old poolCfgFields 0 8 1 = enabledValue old := by
  simp [writtenValue, poolCfgFields, accessLo, enabledValue, bit, b2n]

theorem locksChange_poolCfg (old : Nat) : locksChange old poolCfgFields 0 8 1 = false := by
  simp [locksChange, poolCfgFields, writtenValue]

/-- A field of one bit reads 0 or 1. -/
theorem bits_one_le (v i : Nat) : bits v i i ≤ 1 := by
  rw [bits, Nat.sub_self]
  omega

theorem inRange_poolCfg {off : Nat} (fields : regFields off = poolCfgFields) (notSteps : off ≠ 0x500100) (v : Nat) : inRange off v = true := by
  have flag : ∀ i, bits v i i ≤ 2 ^ 64 := fun i => (bits_one_le v i).trans (by decide)
  simpa [inRange, fields, poolCfgFields, notSteps] using And.intro (flag 0) (flag 1)

section
variable {w : Nat} (first : 1 ≤ w) (last : w ≤ 15)
include first last

theorem regFields_poolCfg : regFields (poolCfg w) = poolCfgFields :=
  have fields : ∀ w < 16, 1 ≤ w → regFields (poolCfg w) = poolCfgFields := by decide +kernel
  fields w (by omega) first

/-- R579: the write of 1 to TIER_POOL_CFG stores both flags. -/
theorem plainWrite_enables (c : Core) : plainWrite c (poolCfg w) 8 1 = regSet c (poolCfg w) (enabledValue (regGet c (poolCfg w))) := by
  have aligned : poolCfg w % 8 = 0 := by rw [poolCfg]; omega
  have base : poolCfg w / 8 * 8 = poolCfg w := by omega
  have fields := regFields_poolCfg first last
  have fits := inRange_poolCfg fields (by rw [poolCfg]; omega)
  simp [plainWrite, base, aligned, fields, fits, writtenValue_poolCfg, locksChange_poolCfg]

/-- R560, R581: the TIER block has no switched domain, so it always serves. -/
theorem wakeBlock_poolCfg (c : Core) : wakeBlock c (poolCfg w) = c := by
  refine wakeBlock_always c _ ?_
  have low : 0x200000 ≤ poolCfg w ∧ poolCfg w < 0x300000 := by rw [poolCfg]; omega
  simp only [blockDomains, Bool.and_eq_true, decide_eq_true_eq]
  repeat rw [if_neg (by omega)]
end

/-! ## A pool window is enabled (R193) -/

/-- R193: a window as the write that enables it leaves it, before its header is read. -/
def windowEnabled (c : Core) (w : Nat) : Core := setWin (regSet c (poolCfg w) (enabledValue (regGet c (poolCfg w)))) w {}

theorem windowEnabled_en (c : Core) (w : Nat) : regField (windowEnabled c w) (poolCfg w) 0 0 = 1 := by
  rw [regField, windowEnabled, regGet_congr (setWin_regs _ _ _), regGet_set_same, enabledValue_en]

theorem windowEnabled_regs (c : Core) (w o : Nat) (h : o ≠ poolCfg w) : regGet (windowEnabled c w) o = regGet c o := by
  rw [windowEnabled, regGet_congr (setWin_regs _ _ _), regGet_set_other _ _ _ _ h]

/-- R193: enabling the window changes nothing that its header is judged by. -/
theorem headerOk_windowEnabled (c : Core) (w : Nat) (h : List Byte) : headerOk (windowEnabled c w) w h = headerOk c w h := by
  have size := windowEnabled_regs c w (0x200208 + 0x20 * w) (by rw [poolCfg]; omega)
  have base := windowEnabled_regs c w (0x200200 + 0x20 * w) (by rw [poolCfg]; omega)
  have origin := windowEnabled_regs c w 0x100000 (by rw [poolCfg]; omega)
  unfold headerOk regField
  rw [size, base, origin]

theorem slotBarred_windowEnabled (c : Core) (w slot : Nat) : slotBarred (windowEnabled c w) slot = slotBarred c slot := by
  rw [slotBarred, slotBarred, windowEnabled_regs c w 0x10 (by rw [poolCfg]; omega)]
  rfl

/-- R197: of a window that an answer counts for, an answer with data ends the run of failures. -/
theorem windowOutcome_data {c : Core} {w : Nat} {x : Window} (known : mapGet c.mem.windows w = some x) :
    windowOutcome c w false false = setWin c w { x with failures := 0 } := by
  simp [windowOutcome, known, setWin]

theorem windowOutcome_windowEnabled (c : Core) (w : Nat) : windowOutcome (windowEnabled c w) w false false = windowEnabled c w := by
  rw [windowOutcome_data (mapGet_set_same _ _ _)]
  simp only [windowEnabled, setWin, mapSet_set]

theorem eventRun_ok {s : State} {env : Env} {m : M Unit} {r : Run0} (runs : m (runOf s s.core (env ++ noAnswers)) = .ok ((), r)) :
    eventRun s env m = { s with core := r.core, rot := extendAll s.rot r.ext } := by
  rw [eventRun, runs]

/-- R193: what the header read as `h` makes of a window. -/
def headerJudged (c : Core) (w : Nat) (h : List Byte) : Core :=
  match headerOk c w h with
  | some (lg, units, data) => setWin c w { winOf c w with state := 1, unitLog2 := lg, units := units, dataOffset := data, cursor := 0 }
  | none => setWin c w { winOf c w with state := 3 }

section
variable {r : Run0} {w : Nat} {env : Env} (fresh : r.had = 0) (unsent : r.sent = false) (isWindow : w ≠ 0)
  (opens : slotBarred r.core w = false) (up : r.core.link.up = true) (tags : 0 < tagsFree r.core)
include fresh unsent isWindow opens up tags

/-- R88, R97: a request to a window over a link that is up, on a stream that is open, with a tag free, gets the next answer. -/
theorem run_nextAns_window {a : Ans} (answered : r.env = a :: env) (addr need : Nat) :
    nextAns w (streamAt r.core w addr) need r = .ok (a, { r with env := env, core := noteAns r.core r.resumed a }) := by
  have stream : streamAt r.core w addr = w := if_neg isWindow
  have someTag : tagsFree r.core ≠ 0 := Nat.ne_of_gt tags
  simp [nextAns, takeAns, answered, fresh, unsent, stream, opens, up, someTag]

/-- R193: a header that is answered is judged. -/
theorem run_readHeader_data {h : List Byte} (answered : r.env = .data h :: env) : readHeader w r =
    .ok ((), { r with env := env, core := headerJudged (windowOutcome r.core w false false) w h }) := by
  have answer := run_nextAns_window fresh unsent isWindow opens up tags answered
  have asked : winTry w 0 8 r = .ok (.data h, { r with env := env, core := windowOutcome r.core w false false }) := by
    simp [winTry, request, answer, ansStatus, noteAns]
  rw [readHeader, run_bind_ok asked]
  rfl

/-- R193: a header that is refused leaves the window failed. -/
theorem run_readHeader_refused (answered : r.env = .refused :: env) : ∃ c, readHeader w r =
    .ok ((), { r with env := env, core := setWin c w { winOf c w with state := 2 } }) := by
  have answer := run_nextAns_window fresh unsent isWindow opens up tags answered
  have asked : ∃ c, winTry w 0 8 r = .ok (.refused, { r with env := env, core := c }) := by
    simp [winTry, request, answer, ansStatus]
  obtain ⟨c, asked⟩ := asked
  rw [readHeader, run_bind_ok asked]
  exact ⟨c, rfl⟩
end

section
variable {w : Nat} {s : State} (first : 1 ≤ w) (last : w ≤ 15) (serves : barReady s.core = true) (awake : s.core.power.deep = false)
  (off : regField s.core (poolCfg w) 0 0 = 0) (unlisted : mapGet s.core.mem.windows w = none)
include first last serves awake off unlisted

/-- R193: the write that enables a window that was off has its header read. -/
theorem exec_poolWindowEnable_off (env : Env) : exec (.poolWindowEnable w 0 8 1 env) s =
    .next (eventRun { s with core := windowEnabled s.core w } env (readHeader w)) := by
  have aligned : alignedAccess (poolCfg w + 0) 8 = true := by
    have : poolCfg w % 8 = 0 := by rw [poolCfg]; omega
    simp [alignedAccess, this]
  have named : ¬ (w = 0 ∨ 15 < w ∨ 7 < 0) := by omega
  have enabled : regField (regSet s.core (poolCfg w) (enabledValue (regGet s.core (poolCfg w)))) (poolCfg w) 0 0 ≠ 0 := by
    rw [regField, regGet_set_same, enabledValue_en]; decide
  have entered : ensureWin (regSet s.core (poolCfg w) (enabledValue (regGet s.core (poolCfg w)))) w = windowEnabled s.core w :=
    if_neg (by simp [mapHas, regSet, unlisted])
  have write : poolCfgWrite s w 0 8 1 env = eventRun { s with core := windowEnabled s.core w } env (readHeader w) := by
    simp [poolCfgWrite, plainWrite_enables first last, enabled, off, entered]
  show Host.Outcome.next (bar0WriteS s (poolCfg w + 0) 8 _) = _
  rw [bar0WriteS_taken _ _ _ _ serves awake aligned, Nat.add_zero, wakeBlock_poolCfg first last, if_neg named]
  exact congrArg Host.Outcome.next write

variable (opens : slotBarred s.core w = false) (up : s.core.link.up = true) (tags : 0 < tagsFree s.core)
include opens up tags

/-- R193: a header that is answered is judged. -/
theorem exec_poolWindowEnable_data (h : List Byte) : exec (.poolWindowEnable w 0 8 1 [.data h]) s =
    .next { s with core := headerJudged (windowEnabled s.core w) w h } := by
  have stillOpens : slotBarred (windowEnabled s.core w) w = false := (slotBarred_windowEnabled _ _ _).trans opens
  have read := run_readHeader_data (r := runOf s (windowEnabled s.core w) ([.data h] ++ noAnswers)) rfl rfl (by omega) stillOpens up tags rfl
  rw [exec_poolWindowEnable_off first last serves awake off unlisted, eventRun_ok (s := { s with core := windowEnabled s.core w }) read,
    runOf, windowOutcome_windowEnabled]
  rfl

/-- R193: a header that is refused leaves the window failed. -/
theorem exec_poolWindowEnable_refused : ∃ c, exec (.poolWindowEnable w 0 8 1 [.refused]) s =
    .next { s with core := setWin c w { winOf c w with state := 2 } } := by
  have stillOpens : slotBarred (windowEnabled s.core w) w = false := (slotBarred_windowEnabled _ _ _).trans opens
  obtain ⟨c, read⟩ := run_readHeader_refused (r := runOf s (windowEnabled s.core w) ([.refused] ++ noAnswers)) rfl rfl (by omega) stillOpens up
    tags rfl
  rw [exec_poolWindowEnable_off first last serves awake off unlisted, eventRun_ok (s := { s with core := windowEnabled s.core w }) read]
  exact ⟨c, rfl⟩
end

end Sys2Proof.Machine

namespace Sys2Proof.Machine

/-! ## The lock sequence (R588, R589) -/

/-- R588: DONE starts the lock sequence, unless it runs or has completed. -/
theorem exec_setupDoneWrite {s : State} (serves : barReady s.core = true) (awake : s.core.power.deep = false)
    (idle : s.core.setupBusy = false) (unlocked : s.core.setupDone = false) :
    exec .setupDoneWrite s = .next { s with core := { s.core with setupBusy := true, setupRefused := false } } := by
  show Host.Outcome.next { s with core := bar0Write s.core 0x8 8 setupWrite } = _
  rw [bar0Write_taken _ _ _ _ serves awake rfl, wakeBlock_always _ _ rfl]
  simp [setupWrite, idle, unlocked]

/-- R588: the core with its set-up locked. -/
def setupLocked (c : Core) : Core := { c with setupBusy := false, setupDone := true }

theorem setupLocked_keeps (c : Core) : CarveKeeps c (setupLocked c) := .of_regs rfl rfl rfl

theorem freeOf_setupLocked (c : Core) (die : Bool) : freeOf (setupLocked c) die = freeOf c die := rfl

section
variable {s : State} (up : ready s.core = true) (busy : s.core.setupBusy = true)
include up busy

/-- R588, R589: a carve that fits both dies is made, the locked registers are measured, and the set-up is locked. -/
theorem exec_setupLockDone_fits (fits : ∀ die, carveNeed s.core + floorOf s.core ≤ carvable s.core die) :
    exec .setupLockDone s = .next { s with core := setupLocked (carved s.core), rot := extendMr s.rot (5, rwsString s.core) } := by
  show Host.Outcome.next (lockDone s) = _
  simp [lockDone, up, busy, carveOk, fits, setupLocked]

/-- R588: one that fits no die is refused. -/
theorem exec_setupLockDone_refused {die : Bool} (excess : carvable s.core die < carveNeed s.core + floorOf s.core) :
    exec .setupLockDone s = .next { s with core := logHost { s.core with setupBusy := false, setupRefused := true } 0x0C 0x8 } := by
  have unfit : (carveOk s.core false && carveOk s.core true) = false := by
    have this : carveOk s.core die = false := by simpa [carveOk] using excess
    cases die <;> simp [this]
  show Host.Outcome.next (lockDone s) = _
  simp [lockDone, up, busy, unfit]
end

/-- Settles O44: DONE starts the sequence (`exec_setupDoneWrite`), whose end carves and locks (`carved_keeps`, `carved_free`) or refuses; the write that enables a window has its header judged (`exec_poolWindowEnable_data`), or finds no answer (`exec_poolWindowEnable_refused`). -/
theorem setUpLocks : Obligations.SetUpLocks := by
  unfold Obligations.SetUpLocks
  intro s awake
  refine ⟨fun serves idle unlocked => exec_setupDoneWrite serves awake idle unlocked, fun up busy => ⟨fun fits => ?_, fun die excess => ?_⟩,
    fun w serves first last off unlisted opens up tags => ⟨fun h lg units data good => ?_, fun h bad => ?_, ?_⟩⟩
  · have kept := (carved_keeps s.core).trans (setupLocked_keeps _)
    exact ⟨_, exec_setupLockDone_fits up busy fits, rfl, rfl, fun die => (freeOf_setupLocked _ die).trans (carved_free s.core die), rfl,
      kept.regs, kept.rings⟩
  · exact exec_setupLockDone_refused up busy excess
  · rw [exec_poolWindowEnable_data first last serves awake off unlisted opens up tags, headerJudged, headerOk_windowEnabled, good]
    exact ⟨_, _, rfl, windowEnabled_en s.core w, mapGet_set_same _ _ _, rfl, rfl, rfl, rfl, rfl, rfl⟩
  · rw [exec_poolWindowEnable_data first last serves awake off unlisted opens up tags, headerJudged, headerOk_windowEnabled, bad]
    exact ⟨_, _, rfl, mapGet_set_same _ _ _, rfl⟩
  · obtain ⟨c, runs⟩ := exec_poolWindowEnable_refused first last serves awake off unlisted opens up tags
    exact ⟨_, _, runs, mapGet_set_same _ _ _, rfl⟩

end Sys2Proof.Machine

namespace Sys2Proof.Machine

/-! ## Refresh (R227, R228) -/

/-- A stack that lists a pair is listed itself. -/
theorem stackOf_listed {c : Core} {k q : Nat} {p : Pair} (h : mapGet (stackOf c k).pairs q = some p) :
    mapGet c.stackTab k = some (stackOf c k) := by
  unfold stackOf at h ⊢
  cases hk : mapGet c.stackTab k with
  | none => simp [hk, mapGet] at h
  | some s => rfl

/-- Changes a stack that is listed. -/
def modStack (c : Core) (k : Nat) (f : Stack → Stack) : Core := { c with stackTab := mapMod c.stackTab k f }

/-- R227: a stack whose every pair has ticked. -/
def Stack.ticked (c : Core) (s : Stack) : Stack := { s with pairs := s.pairs.map fun p => (p.1, tickPair c s.doubled p.2) }

/-- R227: a tick of a stack in service ticks each of its pairs; beyond that it counts in a register alone. -/
theorem refreshTick_ticks {c : Core} {k : Nat} (ha : alive c = true) (hk : k < 8) (hs : (stackOf c k).state ≠ 2) :
    ∃ top, refreshTick c k = regPut (modStack c k (Stack.ticked c)) (hbcStat k) 35 32 top := by
  unfold refreshTick
  rw [if_neg (by simp [ha, hs, hk])]
  exact ⟨_, rfl⟩

theorem stackOf_regPut (c : Core) (o hi lo x k : Nat) : stackOf (regPut c o hi lo x) k = stackOf c k := rfl

/-- A stack changed where it is listed. -/
theorem stackOf_modStack {c : Core} {k : Nat} {s : Stack} (h : mapGet c.stackTab k = some s) (f : Stack → Stack) :
    stackOf (modStack c k f) k = f s := by
  simp [stackOf, modStack, mapGet_mod_same, h]

theorem stackOf_modStack_other (c : Core) {k j : Nat} (h : j ≠ k) (f : Stack → Stack) :
    stackOf (modStack c k f) j = stackOf c j := by
  simp only [stackOf, modStack, mapGet_mod_other _ _ _ _ h]

/-- R227: an idle pair's banks are refreshed at once. -/
theorem tickPair_idle (c : Core) (doubled : Bool) {p : Pair} (h : p.issued = []) :
    tickPair c doubled p = { p with debt0 := 0, debt1 := 0, clock := 0 } := by
  simp only [tickPair, h]

/-- R224, R227: the debts of a pair that runs a command rise by one, less what its refresh slots have repaid. -/
theorem tickPair_running (c : Core) (doubled : Bool) {p : Pair} {x : BankCmd} {xs : List BankCmd} (h : p.issued = x :: xs) :
    tickPair c doubled p =
      let now := p.clock + refreshPeriod doubled
      let slots := slotsBy c x now - slotsBy c x p.clock
      { p with clock := now, debt0 := min 8 (p.debt0 - slots + 1), debt1 := min 8 (p.debt1 - slots + 1) } := by
  simp only [tickPair, h]

/-- R228: what a reading of a stack's temperature leaves of it. -/
theorem refreshMode_stack {c : Core} {k : Nat} (ha : alive c = true) (hk : k < 8) (h : Int) :
    refreshMode c k h = { c with stackTab := mapSet c.stackTab k { stackOf c k with
      temp := coarseTemp h
      doubled := if 85 ≤ h then true else if h < 80 then false else (stackOf c k).doubled } } := by
  unfold refreshMode
  rw [if_neg (by simp [ha, hk])]

/-! ## The activity governor (R229 to R231) -/

/-- R229: too much power or heat raises the level. -/
theorem govLevel_raised {power : Nat} {h : Int} (hot : 1400 < power ∨ 90 ≤ h) (g : Gov) : (govLevel g power h).1 = min (g.level + 1) 7 := by
  simp [govLevel, hot]

/-- R229: the fourth calm period in a row lowers the level. -/
theorem govLevel_calm {power : Nat} {h : Int} (low : power < 1330) (cool : h < 85) (g : Gov) :
    (govLevel g power h).1 = if g.calm + 1 = 4 then g.level - 1 else g.level := by
  have quiet : ¬ (1400 < power ∨ 90 ≤ h) := by omega
  simp only [govLevel, low, cool, Bool.or_eq_true, decide_eq_true_eq, quiet, if_false, decide_true, Bool.and_self, if_true]
  split <;> rfl

/-- R231: `d` has the governors and power readings of `c` but for the level that is told of a die. -/
structure HoldTold (die : Bool) (c d : Core) : Prop where
  gov : ∃ held, d.gov = c.gov.mod die fun g => { g with holding := held }
  power : d.power = c.power

/-- R463: a CAPACITY record leaves governors and power readings. -/
theorem capacityEvent_gov (c : Core) (die : Bool) (cause f a : Nat) :
    (capacityEvent c die cause f a).gov = c.gov ∧ (capacityEvent c die cause f a).power = c.power := by
  have told := rescale_sched (issueEvent c 3 die 0 0 (fieldAt 0 17 f + fieldAt 32 8 cause) a)
  rw [capacityEvent, told, issueEvent_frame]
  exact ⟨rfl, rfl⟩

/-- R231: what is told of a level that is held, or of the return to 0, changes of the governors the level told. -/
theorem govHold_told (c : Core) (die : Bool) (before now : Nat) : HoldTold die c (govHold c die before now) := by
  have same : c.gov = c.gov.mod die fun g => { g with holding := (c.gov.get die).holding } := by cases die <;> rfl
  have tells : ∀ held cause f, HoldTold die c
      (capacityEvent { c with gov := c.gov.mod die fun g => { g with holding := held } } die cause f 0) := fun held cause f =>
    ⟨⟨held, (capacityEvent_gov _ die cause f 0).1⟩, (capacityEvent_gov _ die cause f 0).2⟩
  simp only [govHold]
  split
  · split
    · exact ⟨⟨_, same⟩, rfl⟩
    · exact tells 0 6 65536
  · split
    · exact ⟨⟨_, same⟩, rfl⟩
    · exact tells now 5 _

/-- R554: the average is reported once its span has passed. -/
theorem readWatts_watts (p : Power) (aon power : Nat) :
    (readWatts p aon power).watts = if p.wattFrom + wattSpan ≤ aon then (p.wattSum + power) / (p.wattReads + 1) else p.watts := by
  by_cases h : p.wattFrom + wattSpan ≤ aon
  · rw [if_pos h, readWatts, if_pos h]
  · rw [if_neg h, readWatts, if_neg h]

/-- R229: the governor of a die as a period sets it that ends at a level, with a count of calm periods. -/
def govSet (c : Core) (die : Bool) (lv : Nat × Nat) : Gov :=
  let g := c.gov.get die
  { g with
    level := lv.1, calm := lv.2, allow := min g.allow 0 + (govShare c lv.1 : Int), loan := 0
    lent := if regField c 0x300200 8 8 = 1 then (max (g.allow - (g.loan : Int)) 0).toNat else 0 }

/-- R229: what a period sets: the die's governor and the power readings. -/
structure PeriodSet (die : Bool) (g : Gov) (w : Power) (c d : Core) : Prop where
  gov : d.gov = c.gov.set die g
  watts : d.power.watts = w.watts

/-- R229, R554: what a period sets first, whatever the readings of power and temperature are. -/
theorem PeriodSet.started (c : Core) (die : Bool) (g : Gov) (w : Power) (temps : PerDie Nat) :
    PeriodSet die g w c { c with gov := c.gov.set die g, power := { w with temps := temps } } := ⟨rfl, rfl⟩

/-- R141: an event record leaves what a period has set. -/
theorem PeriodSet.told {die : Bool} {g : Gov} {w : Power} {c d : Core} (h : PeriodSet die g w c d) (type a b : Nat) :
    PeriodSet die g w c (issueEvent d type die 0 0 a b) := by
  rw [issueEvent_frame]
  exact ⟨h.gov, h.watts⟩

/-- R229: the count of loans sent leaves what a period has set. -/
theorem PeriodSet.counted {die : Bool} {g : Gov} {w : Power} {c d : Core} (h : PeriodSet die g w c d) (sent : Nat) :
    PeriodSet die g w c (if 0 < sent then regCount d 0x300208 47 16 1 else d) := by
  split
  · exact ⟨h.gov, h.watts⟩
  · exact h

/-- R229: a governor period sets the die's governor and the readings, and tells of a level that is held. -/
theorem governorPeriod_runs {c : Core} {die : Bool} (ha : alive c = true) (hl : (c.levels.get die).lost = false) (power : Nat) (h : Int) :
    ∃ d, PeriodSet die (govSet c die (govLevel (c.gov.get die) power h)) (readWatts c.power c.aon power) c d ∧
      governorPeriod c die power h = govHold d die (c.gov.get die).level (govLevel (c.gov.get die) power h).1 := by
  unfold governorPeriod
  rw [if_neg (by simp [ha, hl])]
  dsimp only
  generalize govLevel (c.gov.get die) power h = lv
  refine ⟨_, ?_, rfl⟩
  split
  · exact .counted (.started c die (govSet c die lv) _ _) _
  · exact .told (.counted (.started c die (govSet c die lv) _ _) _) _ _ _

/-- R229: a governor period sets its die's level and allowance, lets the other die's governor be, and takes the power reading. -/
theorem governorPeriod_sets {c : Core} {die : Bool} (ha : alive c = true) (hl : (c.levels.get die).lost = false) (power : Nat) (h : Int) :
    ((governorPeriod c die power h).gov.get die).level = (govLevel (c.gov.get die) power h).1 ∧
    ((governorPeriod c die power h).gov.get die).allow =
      min (c.gov.get die).allow 0 + (govShare c (govLevel (c.gov.get die) power h).1 : Int) ∧
    (governorPeriod c die power h).gov.get (!die) = c.gov.get (!die) ∧
    (governorPeriod c die power h).power.watts = (readWatts c.power c.aon power).watts := by
  obtain ⟨d, sets, runs⟩ := governorPeriod_runs ha hl power h
  generalize govLevel (c.gov.get die) power h = lv at sets runs ⊢
  obtain ⟨⟨held, gov⟩, pow⟩ := govHold_told d die (c.gov.get die).level lv.1
  rw [sets.gov] at gov
  rw [runs, gov, pow, sets.watts]
  simp only [PerDie.get_mod, PerDie.get_mod_not, PerDie.get_set, PerDie.get_set_not, govSet, and_self]

/-- R229: a loan that was sent adds to the allowance of the die it reaches, and is no longer under way. -/
theorem governorLoan_arrives {c : Core} {die : Bool} {bytes : Nat} (ha : alive c = true) (some' : 0 < bytes)
    (sent : (c.gov.get (!die)).lent = bytes) :
    governorLoan c die bytes = { c with gov := (c.gov.mod (!die) fun g => { g with lent := 0 }).mod die fun g =>
      { g with allow := g.allow + (bytes : Int), loan := g.loan + bytes } } := by
  unfold governorLoan
  rw [if_neg (by simp [ha, sent]; omega)]

/-- Settles O53, command by command: a tick (`tickPair_idle`, `tickPair_running`), a reading of a stack's temperature, a governor period (`govLevel_raised`, `govLevel_calm`) and a loan. That the ticks count the time inside a running command, and so the slots that repay its debts, is log entry 70. -/
theorem refreshAndGovernor : Obligations.RefreshAndGovernor := by
  unfold Obligations.RefreshAndGovernor
  intro s ha
  refine ⟨fun k q p hk hs hp => ?_, fun k h hk => ?_, fun die power h hl _ => ?_, fun die bytes some' sent => ?_⟩
  · obtain ⟨top, ticks⟩ := refreshTick_ticks ha hk hs
    have ran : exec (.refreshTick k) s = .next { s with core := refreshTick s.core k } := rfl
    rw [ticks] at ran
    refine ⟨_, tickPair s.core (stackOf s.core k).doubled p, ran, ?_, tickPair_idle _ _, fun x xs hx => tickPair_running _ _ hx,
      fun j hj => ?_, regPut_rings _ _ _ _ _⟩
    · rw [stackOf_regPut, stackOf_modStack (stackOf_listed hp), Stack.ticked, mapGet_map _ (tickPair s.core (stackOf s.core k).doubled), hp]
      rfl
    · rw [stackOf_regPut, stackOf_modStack_other _ hj]
  · have ran : exec (.refreshModeChange k h) s = .next { s with core := refreshMode s.core k h } := rfl
    rw [refreshMode_stack ha hk] at ran
    exact ⟨_, ran, by simp [stackOf], by simp [stackOf], fun j hj => by simp only [stackOf, mapGet_set_other _ _ _ _ hj]⟩
  · obtain ⟨level, allow, other, watts⟩ := governorPeriod_sets ha hl power h
    refine ⟨{ s with core := governorPeriod s.core die power h }, rfl, fun hot => ?_, fun low cool => ?_, ?_, other, ?_⟩
    · rw [level, govLevel_raised hot]
    · rw [level, govLevel_calm low cool]
    · rw [allow, level, govShare]
    · rw [watts, readWatts_watts, wattSpan]
  · have ran : exec (.governorLoan die bytes) s = .next { s with core := governorLoan s.core die bytes } := rfl
    rw [governorLoan_arrives ha some' sent] at ran
    refine ⟨_, ran, ?_, ?_, rfl⟩
    · cases die <;> rfl
    · cases die <;> rfl

end Sys2Proof.Machine

namespace Sys2Proof.Machine

/-! ## Stacks and pairs (R210, R221) -/

theorem stackOf_modPair_other (c : Core) {p k : Nat} (f : Pair → Pair) (h : k ≠ p / 512) : stackOf (modPair c p f) k = stackOf c k := by
  simp only [stackOf, modPair, mapGet_set_other _ _ _ _ h]

theorem pairOf_modPair_other (c : Core) {p q : Nat} (f : Pair → Pair) (h : q ≠ p) : pairOf (modPair c p f) q = pairOf c q := by
  by_cases hk : q / 512 = p / 512
  · have apart : q % 512 ≠ p % 512 := by omega
    rw [pairOf, hk, stackOf_modPair]
    show (mapGet (mapSet _ (p % 512) _) (q % 512)).getD ({} : Pair) = _
    rw [mapGet_set_other _ _ _ _ apart, pairOf, hk]
  · rw [pairOf, stackOf_modPair_other c f hk, pairOf]

/-- A change of one pair leaves what the stacks hold beside their pairs. -/
theorem modPair_partials (c : Core) (p k : Nat) (f : Pair → Pair) : (stackOf (modPair c p f) k).partials = (stackOf c k).partials := by
  by_cases hk : k = p / 512
  · rw [hk, stackOf_modPair]
  · rw [stackOf_modPair_other c f hk]

/-- The stack of a changed pair is listed. -/
theorem modPair_listed (c : Core) (p : Nat) (f : Pair → Pair) :
    mapGet (modPair c p f).stackTab (p / 512) = some (stackOf (modPair c p f) (p / 512)) := by
  simp [modPair, stackOf]

/-- A change of a stack that keeps its pairs. -/
theorem pairOf_modStack (c : Core) (k p : Nat) {f : Stack → Stack} (h : ∀ s, (f s).pairs = s.pairs) :
    pairOf (modStack c k f) p = pairOf c p := by
  by_cases hk : p / 512 = k
  · subst hk
    simp only [pairOf, stackOf, modStack, mapGet_mod_same]
    cases mapGet c.stackTab (p / 512) with
    | none => rfl
    | some s => simp [h]
  · rw [pairOf, stackOf_modStack_other c hk, pairOf]

/-! ## Commands that waited for their stack's queue (R50, R59) -/

/-- Commands join the queues of pairs; nothing else changes that a command's issue or report reads. -/
structure QueuesGrow (c d : Core) : Prop where
  frame : d = { c with stackTab := d.stackTab }
  pair : ∀ p, ∃ ys, pairOf d p = { pairOf c p with queue := (pairOf c p).queue ++ ys }
  partials : ∀ k, (stackOf d k).partials = (stackOf c k).partials

theorem QueuesGrow.refl (c : Core) : QueuesGrow c c := ⟨rfl, fun _ => ⟨[], by simp⟩, fun _ => rfl⟩

theorem QueuesGrow.trans {a b c : Core} (h : QueuesGrow a b) (k : QueuesGrow b c) : QueuesGrow a c where
  frame := by rw [k.frame, h.frame]
  pair p := by
    obtain ⟨ys, hy⟩ := h.pair p
    obtain ⟨zs, hz⟩ := k.pair p
    exact ⟨ys ++ zs, by rw [hz, hy, List.append_assoc]⟩
  partials i := (k.partials i).trans (h.partials i)

theorem putCmd_grows (c : Core) (p : Nat) (x : BankCmd) : QueuesGrow c (putCmd c p x) where
  frame := rfl
  pair q := by
    by_cases hq : q = p
    · subst hq
      exact ⟨[x], pairOf_modPair _ _ _⟩
    · exact ⟨[], by simp [putCmd, pairOf_modPair_other c _ hq]⟩
  partials k := modPair_partials c p k _

/-- R50: a command that waits no longer. -/
theorem setDelayed_grows (c : Core) (k : Nat) (ds : List (Nat × BankCmd)) :
    QueuesGrow c { c with stackTab := mapSet c.stackTab k { stackOf c k with delayed := ds } } := by
  have stack : ∀ i, (stackOf { c with stackTab := mapSet c.stackTab k { stackOf c k with delayed := ds } } i).pairs = (stackOf c i).pairs ∧
      (stackOf { c with stackTab := mapSet c.stackTab k { stackOf c k with delayed := ds } } i).partials = (stackOf c i).partials := by
    intro i
    by_cases hi : i = k
    · subst hi
      simp [stackOf]
    · simp [stackOf, mapGet_set_other _ _ _ _ hi]
  exact ⟨rfl, fun p => ⟨[], by simp [pairOf, (stack (p / 512)).1]⟩, fun i => (stack i).2⟩

theorem refillStack_grows (n : Nat) (c : Core) (k : Nat) : QueuesGrow c (refillStack n c k) := by
  induction n generalizing c with
  | zero => exact .refl c
  | succ n ih =>
    simp only [refillStack]
    split
    · exact .refl c
    · split
      · exact ((setDelayed_grows c k _).trans (putCmd_grows _ _ _)).trans (ih _)
      · exact .refl c

/-- R50: where no command waits, none joins. -/
theorem refillStack_none {c : Core} {k : Nat} (h : (stackOf c k).delayed = []) (n : Nat) : refillStack n c k = c := by
  cases n with
  | zero => rfl
  | succ n => simp only [refillStack, h]

/-- R221: the front of a pair's queue leaves it, and commands that waited for the stack's queue may join the queue. -/
theorem dropFront_leaves (c : Core) (p : Nat) :
    dropFront c p = { c with stackTab := (dropFront c p).stackTab } ∧
    (∃ ys, pairOf (dropFront c p) p = { pairOf c p with queue := (pairOf c p).queue.drop 1 ++ ys } ∧
      ((stackOf c (p / 512)).delayed = [] → ys = [])) ∧
    ∀ k, (stackOf (dropFront c p) k).partials = (stackOf c k).partials := by
  have grows := refillStack_grows queueMax (modPair c p fun x => { x with queue := x.queue.drop 1 }) (p / 512)
  refine ⟨grows.frame, ?_, fun k => (grows.partials k).trans (modPair_partials _ _ _ _)⟩
  by_cases hd : (stackOf c (p / 512)).delayed = []
  · refine ⟨[], ?_, fun _ => rfl⟩
    rw [dropFront, refillStack_none (by rw [stackOf_modPair]; exact hd), pairOf_modPair, List.append_nil]
  · obtain ⟨ys, joined⟩ := grows.pair p
    rw [pairOf_modPair] at joined
    exact ⟨ys, joined, fun none => absurd none hd⟩

/-! ## Issue (R221, R222, R229, R330) -/

/-- R330: the pages that a command brings stand in its pair's staging frames. -/
theorem stagePages_leaves (c : Core) (p : Nat) (x : BankCmd) :
    (∃ tab, stagePages c p x = { takeStaging c (stackDie (p / 512)) (stageNeed (pairOf c p) x) with stackTab := tab }) ∧
    pairOf (stagePages c p x) p = { pairOf c p with staged := (pairOf c p).staged ++
      (x.pages.toList.filter fun _ => stageNeed (pairOf c p) x != 0).map fun k => (k, stageNeed (pairOf c p) x) } ∧
    ∀ k, (stackOf (stagePages c p x) k).partials = (stackOf c k).partials := by
  cases hx : x.pages with
  | none =>
    simp only [stagePages, hx]
    exact ⟨⟨c.stackTab, rfl⟩, by simp [pairOf_congr (c := takeStaging c _ _) (d := c) rfl], fun k => rfl⟩
  | some k =>
    simp only [stagePages, hx]
    by_cases h0 : stageNeed (pairOf c p) x = 0
    · simp only [h0, if_true]
      exact ⟨⟨c.stackTab, rfl⟩, by simp [pairOf_congr (c := takeStaging c _ _) (d := c) rfl], fun k => rfl⟩
    · rw [if_neg h0]
      refine ⟨⟨_, rfl⟩, ?_, fun i => modPair_partials _ _ _ _⟩
      rw [pairOf_modPair]
      simp [h0, pairOf_congr (c := takeStaging c _ _) (d := c) rfl]

/-- R222: a command enters its unit, in a refresh mode, and takes its places of the partial queue. -/
def enterUnit (c : Core) (p : Nat) (x : BankCmd) (doubled : Bool) : Core :=
  modStack (modPair c p fun a => { a with issued := a.issued ++ [{ x with doubled := doubled }], clock := 0 }) (p / 512)
    fun k => { k with partials := k.partials + x.parts, selfRefresh := false }

theorem enterUnit_leaves (c : Core) (p : Nat) (x : BankCmd) (doubled : Bool) :
    enterUnit c p x doubled = { c with stackTab := (enterUnit c p x doubled).stackTab } ∧
    pairOf (enterUnit c p x doubled) p =
      { pairOf c p with issued := (pairOf c p).issued ++ [{ x with doubled := doubled }], clock := 0 } ∧
    (stackOf (enterUnit c p x doubled) (p / 512)).partials = (stackOf c (p / 512)).partials + x.parts := by
  refine ⟨rfl, ?_, ?_⟩
  · rw [enterUnit, pairOf_modStack, pairOf_modPair]
    exact fun _ => rfl
  · rw [enterUnit, stackOf_modStack (modPair_listed c p _), stackOf_modPair]

/-- R221, R229: a command that starts is charged to its die and counted. -/
theorem chargeCmd_frame (c : Core) (p : Nat) (x : BankCmd) : chargeCmd c p x = { c with
    regs := (chargeCmd c p x).regs
    gov := c.gov.mod (stackDie (p / 512)) fun g => { g with allow := g.allow - (x.cost : Int) } } := by
  rw [chargeCmd, regCount_frame]

/-- R221, R222: the command at the front of a pair's queue issues when it lies in the pair, or in staging frames of a pair that serves. -/
theorem bankCommandIssue_issues {c : Core} {p : Nat} {x : BankCmd} {xs : List BankCmd} (ha : alive c = true)
    (queued : (pairOf c p).queue = x :: xs) (lives : ownerLives c x = true) (may : mayIssue c p x = true)
    (place : cmdPlace c x = .at p ∨ (cmdPlace c x = .own ∧ (pairOf c p).state ≠ 2)) :
    bankCommandIssue c p = chargeCmd (enterUnit (stagePages (dropFront c p) p x) p x (stackOf c (p / 512)).doubled) p x := by
  have goes : bankCommandIssue.go c p x = chargeCmd (enterUnit (stagePages (dropFront c p) p x) p x (stackOf c (p / 512)).doubled) p x := by
    simp only [bankCommandIssue.go, may, Bool.not_true, Bool.false_eq_true, if_false]
    rfl
  have unit : (pairOf c p).unitFenced = false := by
    simp only [mayIssue, mayStartCmd, Bool.and_eq_true, Bool.not_eq_true'] at may
    tauto
  rcases place with at_ | ⟨own, state⟩
  · simp [bankCommandIssue, queued, ha, lives, at_, goes]
  · simp [bankCommandIssue, queued, ha, lives, own, unit, state, goes]

end Sys2Proof.Machine

namespace Sys2Proof.Machine

/-! ## Commands leave their pair (R191, R222, R330) -/

/-- Commands have left a pair: `d` is `c` but for the stacks and the free staging frames, and of the pair but for what is staged. -/
structure CmdsFreed (p : Nat) (c d : Core) : Prop where
  frame : d = { c with stackTab := d.stackTab, mem := { c.mem with stagingFree := d.mem.stagingFree } }
  pair : ∃ staged, pairOf d p = { pairOf c p with staged := staged }

theorem dropStaged_freed (c : Core) (p : Nat) : CmdsFreed p c (dropStaged c p) := by
  simp only [dropStaged]
  split
  · exact ⟨rfl, _, rfl⟩
  · exact ⟨rfl, _, pairOf_modPair _ _ _⟩

theorem dropStaged_partials (c : Core) (p k : Nat) : (stackOf (dropStaged c p) k).partials = (stackOf c k).partials := by
  simp only [dropStaged]
  split
  · rfl
  · exact modPair_partials _ _ _ _

/-- R330: a pair with nothing staged has nothing to drop. -/
theorem dropStaged_none {c : Core} {p : Nat} (h : (pairOf c p).staged = []) : dropStaged c p = c := by
  simp [dropStaged, h]

/-- R191: staging frames that commands attend alone. -/
def stagedAlone (xs : List BankCmd) : Nat := xs.foldl (fun n x => n + if x.pages.isSome then 0 else x.stage) 0

/-- R222: places of the partial queue that commands hold. -/
def partsOf (xs : List BankCmd) : Nat := xs.foldl (fun n x => n + x.parts) 0

/-- R191, R222: the places of the partial queue and the staging frames that commands held alone come free. -/
def partsFreed (c : Core) (p : Nat) (xs : List BankCmd) : Core :=
  modStack (giveStaging c (stackDie (p / 512)) (stagedAlone xs)) (p / 512) fun k => { k with partials := k.partials - partsOf xs }

theorem pairOf_partsFreed (c : Core) (p : Nat) (xs : List BankCmd) : pairOf (partsFreed c p xs) p = pairOf c p := by
  rw [partsFreed, pairOf_modStack]
  · rfl
  · exact fun _ => rfl

theorem partsFreed_partials (c : Core) (p : Nat) (xs : List BankCmd) :
    (stackOf (partsFreed c p xs) (p / 512)).partials = (stackOf c (p / 512)).partials - partsOf xs := by
  cases hk : mapGet c.stackTab (p / 512) with
  | none => simp [stackOf, partsFreed, modStack, giveStaging, mapGet_mod_same, hk]
  | some s => rw [partsFreed, stackOf_modStack (by exact hk), stackOf, hk, Option.getD_some]

theorem freeIssued_eq (c : Core) (p : Nat) (xs : List BankCmd) : freeIssued c p xs = dropStaged (partsFreed c p xs) p := rfl

theorem freeIssued_freed (c : Core) (p : Nat) (xs : List BankCmd) : CmdsFreed p c (freeIssued c p xs) := by
  obtain ⟨frame, staged, pair⟩ := dropStaged_freed (partsFreed c p xs) p
  rw [freeIssued_eq]
  exact ⟨by rw [frame]; rfl, staged, by rw [pair, pairOf_partsFreed]⟩

theorem freeIssued_partials (c : Core) (p : Nat) (xs : List BankCmd) :
    (stackOf (freeIssued c p xs) (p / 512)).partials = (stackOf c (p / 512)).partials - partsOf xs := by
  rw [freeIssued_eq, dropStaged_partials, partsFreed_partials]

/-- R191: with nothing staged, what the commands attended alone comes free. -/
theorem freeIssued_staging {c : Core} {p : Nat} (h : (pairOf c p).staged = []) (xs : List BankCmd) :
    (freeIssued c p xs).mem.stagingFree = c.mem.stagingFree.mod (stackDie (p / 512)) (· + stagedAlone xs) := by
  rw [freeIssued_eq, dropStaged_none (by rw [pairOf_partsFreed]; exact h)]
  rfl

/-! ## Reports of commands that are done (R213) -/

/-- What a report tells of the units is the same in `c` and `d`. -/
structure UnitsKept (c d : Core) : Prop where
  rings : d.rings = c.rings
  stackTab : d.stackTab = c.stackTab
  stagingFree : d.mem.stagingFree = c.mem.stagingFree

/-- R213, R222: a command has left its unit with a result. -/
structure Reported (p : Nat) (x : BankCmd) (bs : List Byte) (c d : Core) : Prop where
  pair : ∃ staged, pairOf d p =
    { pairOf c p with issued := (pairOf c p).issued.drop 1, clock := 0, result := bs, staged := staged }
  partials : (stackOf d (p / 512)).partials = (stackOf c (p / 512)).partials - x.parts
  staging : x.pages = none → (pairOf c p).staged = [] →
    d.mem.stagingFree.get (stackDie (p / 512)) = c.mem.stagingFree.get (stackDie (p / 512)) + x.stage
  rings : d.rings = c.rings

theorem Reported.kept {p : Nat} {x : BankCmd} {bs : List Byte} {c d e : Core} (h : Reported p x bs c d) (k : UnitsKept d e) :
    Reported p x bs c e where
  pair := by rw [pairOf_congr k.stackTab]; exact h.pair
  partials := by rw [stackOf_congr k.stackTab]; exact h.partials
  staging := by rw [k.stagingFree]; exact h.staging
  rings := k.rings.trans h.rings

theorem finishCmd_eq (c : Core) (p : Nat) (x : BankCmd) (bs : List Byte) : finishCmd (setResult c p bs) p x =
    freeIssued (modPair c p fun a => { a with issued := a.issued.drop 1, clock := 0, result := bs }) p [x] := by
  rw [finishCmd, setResult, modPair_modPair]

theorem finishCmd_frame (c : Core) (p : Nat) (x : BankCmd) (bs : List Byte) :
    ∃ tab free, finishCmd (setResult c p bs) p x = { c with stackTab := tab, mem := { c.mem with stagingFree := free } } := by
  rw [finishCmd_eq]
  exact ⟨_, _, (freeIssued_freed (modPair c p fun a => { a with issued := a.issued.drop 1, clock := 0, result := bs }) p [x]).frame⟩

/-- R213, R222: a command leaves its unit with its result. -/
theorem finishCmd_reported (c : Core) (p : Nat) (x : BankCmd) (bs : List Byte) : Reported p x bs c (finishCmd (setResult c p bs) p x) := by
  rw [finishCmd_eq]
  obtain ⟨frame, staged, pair⟩ := freeIssued_freed (modPair c p fun a => { a with issued := a.issued.drop 1, clock := 0, result := bs }) p [x]
  refine ⟨⟨staged, by rw [pair, pairOf_modPair]⟩, ?_, fun alone none => ?_, by rw [frame]; rfl⟩
  · rw [freeIssued_partials, stackOf_modPair]
    simp [partsOf]
  · rw [freeIssued_staging (by rw [pairOf_modPair]; exact none)]
    simp [stagedAlone, alone]

/-- R213: a command that is done has left its unit with its bytes. -/
def doneCmd (c : Core) (p : Nat) (x : BankCmd) : Core := finishCmd (setResult c p (cmdBytes c x)) p x

theorem doneCmd_frame (c : Core) (p : Nat) (x : BankCmd) :
    ∃ tab free, doneCmd c p x = { c with stackTab := tab, mem := { c.mem with stagingFree := free } } := finishCmd_frame c p x _

theorem doneCmd_obj (c : Core) (p : Nat) (x : BankCmd) : (doneCmd c p x).obj = c.obj := by
  obtain ⟨tab, free, frame⟩ := doneCmd_frame c p x
  rw [frame]

theorem doneCmd_frames (c : Core) (p : Nat) (x : BankCmd) : (doneCmd c p x).mem.frames = c.mem.frames := by
  obtain ⟨tab, free, frame⟩ := doneCmd_frame c p x
  rw [frame]

theorem doneCmd_xmap (c : Core) (p : Nat) (x : BankCmd) : (doneCmd c p x).mem.xmap = c.mem.xmap := by
  obtain ⟨tab, free, frame⟩ := doneCmd_frame c p x
  rw [frame]

/-- R213, R214 to R219: the command of a pair that is done, with no check failure that ends it, leaves its bytes and gives its result. -/
theorem unitReport_done {c : Core} {p : Nat} {x : BankCmd} {xs : List BankCmd} (ha : alive c = true) (runs : (pairOf c p).issued = x :: xs)
    (unfaulted : x.faulted = false) (sound : unitCode x.op = 1 ∨ unitCode x.op = 3 → cmdBad c x = false) :
    unitReport c (unitCode x.op) p .done = unitResult (doneCmd c p x) x := by
  have ends : ((UnitOutcome.done = .checkFailure || cmdBad c x) && (decide (unitCode x.op = 1) || decide (unitCode x.op = 3))) = false := by
    by_cases code : unitCode x.op = 1 ∨ unitCode x.op = 3
    · simp [sound code]
    · simp only [not_or] at code
      simp [code]
  have goes : (decide (unitCode x.op ≠ unitCode x.op) || x.faulted || !alive c) = false := by simp [unfaulted, ha]
  simp only [unitReport, runs, goes, ends, Bool.false_eq_true, if_false]
  cases x.op <;> rfl

end Sys2Proof.Machine

namespace Sys2Proof.Machine

/-! ## What the work of a command gets (R215 to R219) -/

/-- R211: frames that objects let go change no staging frame. -/
theorem freePlaces_staging (c : Core) (die : Bool) (pairs : List Nat) : (freePlaces c die pairs).mem.stagingFree = c.mem.stagingFree := by
  refine foldl_keeps (fun c : Core => c.mem.stagingFree) (fun c q => ?_) pairs c
  simp only [freeFrame]
  split <;> rfl

/-- R422: letting go of replaced lists changes no job, and nothing of the units. -/
theorem freeLate_leaves (c : Core) (id : Nat) : (freeLate c id).obj.jobs = c.obj.jobs ∧ UnitsKept c (freeLate c id) := by
  have moved : ∀ (c : Core) die pairs, FramesMoved c (freePlaces c die pairs) := fun c die pairs =>
    .foldl (fun c q => freeFrame_moved c die q) pairs c
  unfold freeLate
  split
  · exact ⟨rfl, rfl, rfl, rfl⟩
  next x _ =>
    dsimp only
    generalize List.filter _ _ = gone
    have all : FramesMoved c (gone.foldl (fun c p => freePlaces c x.die p.pairs) c) := .foldl (fun c p => moved c x.die p.pairs) gone c
    have staging := foldl_keeps (fun c : Core => c.mem.stagingFree) (fun c (p : LateList) => freePlaces_staging c x.die p.pairs) gone c
    exact ⟨by rw [all.obj], all.rings, all.stackTab, staging⟩

/-- R217: the hits of a scan join its search's. -/
theorem unitResult_scan {c : Core} {x : BankCmd} {o : ScanOp} {ring : Nat} {j : Job} (op : x.op = .scan o) (owner : x.owner = .job ring)
    (job : mapGet c.obj.jobs ring = some j) : UnitsKept c (unitResult c x) ∧
    mapGet (unitResult c x).obj.jobs ring = some { j with hits := j.hits ++ scanHits o, skipped := j.skipped + scanSkipped o } := by
  obtain ⟨regs, counts⟩ : ∃ regs, regCount c 0x430000 63 32 (scanSkipped o) = { c with regs := regs } := ⟨_, rfl⟩
  simp only [unitResult, op, owner, counts]
  obtain ⟨jobs, rings, tab, free⟩ := freeLate_leaves (modJob { c with regs := regs } (.job ring)
    fun j => { j with hits := j.hits ++ scanHits o, skipped := j.skipped + scanSkipped o }) o.index
  rw [jobs]
  exact ⟨⟨rings, tab, free⟩, by simp [modJob, mapGet_mod_same, job]⟩

/-- R218: the pooled row joins its job's. -/
theorem unitResult_gather {c : Core} {x : BankCmd} {o : GatherOp} {ring : Nat} {j : Job} {t : Table} (op : x.op = .gather o)
    (owner : x.owner = .job ring) (job : mapGet c.obj.jobs ring = some j) (table : mapGet c.obj.tables o.table = some t) :
    UnitsKept c (unitResult c x) ∧ mapGet (unitResult c x).obj.jobs ring = some { j with rows := j.rows ++ [(o.bag, gatherOut t o)] } := by
  simp only [unitResult, op, owner, table]
  exact ⟨⟨rfl, rfl, rfl⟩, by simp [modJob, mapGet_mod_same, job]⟩

/-! ## Filled frames (R219) -/

/-- A map of which some keys are kept. -/
theorem mapGet_filterKeys {α : Type} (m : Map α) (q : Nat → Bool) (i : Nat) :
    mapGet (m.filter fun p => q p.1) i = if q i then mapGet m i else none := by
  induction m with
  | nil => simp [mapGet]
  | cons p m ih =>
    obtain ⟨k, a⟩ := p
    by_cases hk : k = i
    · subst hk
      by_cases hq : q k = true
      · simp [hq, mapGet]
      · simp [hq, ih]
    · by_cases hq : q k = true
      · simp [hq, mapGet, hk, ih]
      · simp [hq, mapGet, hk, ih]

/-- Bytes written at addresses that count up from `lo`. -/
theorem cellGet_writeRange (m : Cells) (lo n : Nat) (f : Nat → Byte) (a : Nat) :
    cellGet ((List.range n).foldl (fun m i => cellSet m (lo + i) (f i)) m) a =
      if lo ≤ a ∧ a < lo + n then f (a - lo) else cellGet m a := by
  induction n with
  | zero => rw [if_neg (by omega)]; rfl
  | succ n ih =>
    rw [List.range_succ, List.foldl_append, List.foldl_cons, List.foldl_nil]
    by_cases ha : a = lo + n
    · rw [ha, cellGet_set_same, if_pos (by omega), Nat.add_sub_cancel_left]
    · rw [cellGet_set_other _ _ _ _ ha, ih]
      by_cases inside : lo ≤ a ∧ a < lo + n
      · rw [if_pos inside, if_pos (by omega)]
      · rw [if_neg inside, if_neg (by omega)]

/-- The bytes of a word whose value is 0. -/
theorem nth_natLe_zero (n i : Nat) : nth (natLe n 0) i 0 = 0 := by
  by_cases h : i < n
  · simp [nth, natLe_getElem? n 0 i h]
  · simp [nth, Nat.not_lt.mp h]

/-- R219: a page of which a range holds a pattern, byte by byte. -/
theorem fillPage_bytes {c : Core} {o : FillOp} {pg : XPage} (n : Nat) (h : mapGet (c.mem.xmap.get o.die) o.page = some pg) :
    ∃ pg', mapGet ((fillPage c o n).mem.xmap.get o.die) o.page = some pg' ∧ ∀ a, cellGet pg'.bytes a =
      if 65536 * o.first ≤ a ∧ a < 65536 * o.first + 65536 * n then nth (natLe 8 o.pattern.toNat) ((a - 65536 * o.first) % 8) 0
      else cellGet pg.bytes a := by
  simp only [fillPage, PerDie.get_mod, mapGet_mod_same, h, Option.map_some]
  refine ⟨_, rfl, fun a => ?_⟩
  have kept : cellGet (pg.bytes.filter fun b => !(decide (65536 * o.first ≤ b.1) && decide (b.1 < 65536 * o.first + 65536 * n))) a =
      if 65536 * o.first ≤ a ∧ a < 65536 * o.first + 65536 * n then 0 else cellGet pg.bytes a := by
    rw [cellGet, mapGet_filterKeys pg.bytes fun b => !(decide (65536 * o.first ≤ b) && decide (b < 65536 * o.first + 65536 * n))]
    by_cases inside : 65536 * o.first ≤ a ∧ a < 65536 * o.first + 65536 * n
    · rw [if_pos inside, if_neg (by simp [inside])]
      rfl
    · rw [if_neg inside, if_pos (by rw [← Bool.decide_and]; simp only [inside, decide_false, Bool.not_false]), cellGet]
  by_cases zero : o.pattern = 0
  · rw [if_pos zero, kept, zero]
    rw [show (0 : Word).toNat = 0 from rfl, nth_natLe_zero]
  · rw [if_neg zero, Nat.add_sub_cancel_left, cellGet_writeRange _ _ _ fun i => nth (natLe 8 o.pattern.toNat) (i % 8) 0, kept]
    by_cases inside : 65536 * o.first ≤ a ∧ a < 65536 * o.first + 65536 * n
    · rw [if_pos inside, if_pos inside]
    · rw [if_neg inside, if_neg inside, if_neg inside]

/-- R219: frames that are filled change nothing of the units. -/
theorem fillPage_kept (c : Core) (o : FillOp) (n : Nat) : UnitsKept c (fillPage c o n) := ⟨rfl, rfl, rfl⟩

theorem unitResult_fill {c : Core} {x : BankCmd} {o : FillOp} (op : x.op = .fill o) (work : o.test = false) :
    unitResult c x = fillPage c o x.n := by
  simp [unitResult, op, work]

/-! ## Errors of a pair (R234, R482) -/

/-- R234: what entering draining leaves of a pair. -/
def drained (p : Pair) : Pair := if p.state = 0 then { p with state := 1, errors := 0 } else p

theorem pairOf_startDrain (c : Core) (p : Nat) : pairOf (startDrain c p) p = drained (pairOf c p) := by
  unfold startDrain drained
  by_cases h : (pairOf c p).state = 0
  · simp [h]
  · simp [h]

theorem startDrain_frame (c : Core) (p : Nat) : ∃ tab free, startDrain c p = { c with stackTab := tab, mem := { c.mem with free := free } } := by
  unfold startDrain
  split
  · exact ⟨c.stackTab, c.mem.free, rfl⟩
  · exact ⟨_, _, rfl⟩

/-- R476, R484: a failing check block is logged and counted, and its pair drains. -/
theorem noteBlock_leaves (c : Core) (session opcode status p pa : Nat) :
    (noteBlock c session opcode status p pa).obj = c.obj ∧
    pairOf (noteBlock c session opcode status p pa) p = drained { pairOf c p with errors := (pairOf c p).errors + 1 } := by
  unfold noteBlock
  dsimp only
  refine ⟨?_, ?_⟩
  · obtain ⟨tab, free, frame⟩ := startDrain_frame (modPair (logErr c _) p fun a => { a with errors := a.errors + 1 }) p
    rw [frame]
    exact logErr_obj c _
  · rw [pairOf_startDrain, pairOf_modPair, pairOf_congr (logErr_stacks c _)]

/-- R233: a failing gather marks rows of its table alone. -/
theorem markBad_gather {c : Core} {x : BankCmd} {o : GatherOp} (op : x.op = .gather o) :
    ∃ tables, markBad c x = { c with obj := { c.obj with tables := tables } } := by
  unfold markBad
  split
  · exact ⟨c.obj.tables, rfl⟩
  · simp only [op, markRow]
    split
    · exact ⟨_, rfl⟩
    · exact ⟨c.obj.tables, rfl⟩

/-- R233: the check failure of a gather fails its job, and its pair drains. -/
theorem checkFailure_gather {c : Core} {p ring : Nat} {x : BankCmd} {o : GatherOp} {j : Job} (op : x.op = .gather o)
    (owner : x.owner = .job ring) (job : mapGet c.obj.jobs ring = some j) (frames : x.frames = []) :
    mapGet (checkFailure c p x).obj.jobs ring = some { j with failed := some .partFailed } ∧
    pairOf (checkFailure c p x) p = drained { pairOf c p with errors := (pairOf c p).errors + 1 } := by
  obtain ⟨tables, marks⟩ := markBad_gather (c := c) op
  have fails : checkFailure c p x = noteBlock (failOwner .partFailed (markBad c x) x.owner)
      (ownerOf (failOwner .partFailed (markBad c x) x.owner) x).1 (ownerOf (failOwner .partFailed (markBad c x) x.owner) x).2
      (stCode .partFailed) p (cmdBadPa (failOwner .partFailed (markBad c x) x.owner) x) := by
    simp only [checkFailure, frames, List.filter_nil, List.foldl_nil]
  obtain ⟨obj, pair⟩ := noteBlock_leaves (failOwner .partFailed (markBad c x) x.owner)
    (ownerOf (failOwner .partFailed (markBad c x) x.owner) x).1 (ownerOf (failOwner .partFailed (markBad c x) x.owner) x).2
    (stCode .partFailed) p (cmdBadPa (failOwner .partFailed (markBad c x) x.owner) x)
  rw [fails, obj, pair, marks, owner]
  exact ⟨by simp [failOwner, modJob, mapGet_mod_same, job], rfl⟩

/-- R233: a unit that reports the check failure of a gather ends it so. -/
theorem unitReport_gatherFails {c : Core} {p : Nat} {x : BankCmd} {xs : List BankCmd} {o : GatherOp} (ha : alive c = true)
    (runs : (pairOf c p).issued = x :: xs) (unfaulted : x.faulted = false) (op : x.op = .gather o) :
    unitReport c 3 p .checkFailure = checkFailure (finishCmd (setResult c p (resultBytes [] 1 0)) p x) p x := by
  simp [unitReport, runs, unfaulted, ha, op, unitCode]

/-- R232: a command that faults stays for its second try. -/
theorem unitReport_faults {c : Core} {p : Nat} {x : BankCmd} {xs : List BankCmd} (ha : alive c = true)
    (runs : (pairOf c p).issued = x :: xs) (unfaulted : x.faulted = false) :
    unitReport c (unitCode x.op) p .unitFault = modPair c p fun a =>
      { a with issued := { x with faulted := true } :: a.issued.drop 1, result := resultBytes [] 2 0 } := by
  simp only [unitReport, runs, unfaulted, ha, setResult, modPair_modPair, ne_eq, not_true_eq_false, decide_false, Bool.or_self,
    Bool.not_true, Bool.false_eq_true, if_false]

end Sys2Proof.Machine

namespace Sys2Proof.Machine

@[simp] theorem drained_state (p : Pair) : (drained p).state = if p.state = 0 then 1 else p.state := by unfold drained; split <;> simp [*]
@[simp] theorem drained_errors (p : Pair) : (drained p).errors = if p.state = 0 then 0 else p.errors := by unfold drained; split <;> rfl
@[simp] theorem drained_issued (p : Pair) : (drained p).issued = p.issued := by unfold drained; split <;> rfl
@[simp] theorem drained_unitFenced (p : Pair) : (drained p).unitFenced = p.unitFenced := by unfold drained; split <;> rfl

/-- R221, R222, R229, R330: what the issue of the command at the front of a pair's queue leaves. -/
theorem bankCommandIssue_leaves {c : Core} {p : Nat} {x : BankCmd} {xs : List BankCmd} (ha : alive c = true)
    (queued : (pairOf c p).queue = x :: xs) (lives : ownerLives c x = true) (may : mayIssue c p x = true)
    (place : cmdPlace c x = .at p ∨ (cmdPlace c x = .own ∧ (pairOf c p).state ≠ 2)) :
    ∃ ys tab regs, bankCommandIssue c p = { c with
        stackTab := tab, regs := regs
        mem := { c.mem with stagingFree := c.mem.stagingFree.mod (stackDie (p / 512)) (· - stageNeed (pairOf c p) x) }
        gov := c.gov.mod (stackDie (p / 512)) fun g => { g with allow := g.allow - (x.cost : Int) } } ∧
      pairOf (bankCommandIssue c p) p = { pairOf c p with
        queue := xs ++ ys, clock := 0, issued := [{ x with doubled := (stackOf c (p / 512)).doubled }]
        staged := (pairOf c p).staged ++
          (x.pages.toList.filter fun _ => stageNeed (pairOf c p) x != 0).map fun k => (k, stageNeed (pairOf c p) x) } ∧
      ((stackOf c (p / 512)).delayed = [] → ys = []) ∧
      (stackOf (bankCommandIssue c p) (p / 512)).partials = (stackOf c (p / 512)).partials + x.parts := by
  have idle : (pairOf c p).issued = [] := by
    simp only [mayIssue, Bool.and_eq_true, List.isEmpty_iff] at may
    exact may.1.2
  obtain ⟨front, ⟨ys, pair1, none⟩, partials1⟩ := dropFront_leaves c p
  have need : stageNeed (pairOf (dropFront c p) p) x = stageNeed (pairOf c p) x := by rw [pair1]; rfl
  obtain ⟨⟨tab2, frame2⟩, pair2, partials2⟩ := stagePages_leaves (dropFront c p) p x
  obtain ⟨enters, pair3, partials3⟩ := enterUnit_leaves (stagePages (dropFront c p) p x) p x (stackOf c (p / 512)).doubled
  have charges := chargeCmd_frame (enterUnit (stagePages (dropFront c p) p x) p x (stackOf c (p / 512)).doubled) p x
  have issues := bankCommandIssue_issues ha queued lives may place
  have tables : (bankCommandIssue c p).stackTab = (enterUnit (stagePages (dropFront c p) p x) p x (stackOf c (p / 512)).doubled).stackTab := by
    rw [issues, charges]
  obtain ⟨tab1, frame1⟩ : ∃ tab, dropFront c p = { c with stackTab := tab } := ⟨_, front⟩
  obtain ⟨tab3, frame3⟩ : ∃ tab, enterUnit (stagePages (dropFront c p) p x) p x (stackOf c (p / 512)).doubled =
    { stagePages (dropFront c p) p x with stackTab := tab } := ⟨_, enters⟩
  refine ⟨ys, tab3, (bankCommandIssue c p).regs, ?_, ?_, none, ?_⟩
  · rw [← issues] at charges
    rw [charges, frame3, frame2, need, frame1]
    rfl
  · rw [pairOf_congr tables, pair3, pair2, need, pair1, queued, idle]
    rfl
  · rw [stackOf_congr tables, partials3, partials2, partials1]

/-! ## The second try (R232) -/

theorem countError_frame (c : Core) (die : Bool) (cls : Nat) :
    ∃ errs regs rings, countError c die cls = { c with errs := errs, regs := regs, rings := rings } := by
  unfold countError
  split
  · exact ⟨c.errs, c.regs, c.rings, rfl⟩
  · dsimp only
    split
    · exact ⟨_, c.regs, c.rings, rfl⟩
    · rw [issueEvent_frame]
      exact ⟨_, _, _, rfl⟩

/-- R234, R482: an error counts in its pair, which drains at its threshold. -/
theorem pairOf_pairError (c : Core) (p : Nat) : pairOf (pairError c p) p =
    if pairThreshold c ≤ (pairOf c p).errors + 1 then drained { pairOf c p with errors := (pairOf c p).errors + 1 }
    else { pairOf c p with errors := (pairOf c p).errors + 1 } := by
  have same : pairThreshold (modPair c p fun a => { a with errors := a.errors + 1 }) = pairThreshold c := rfl
  simp only [pairError, same, pairOf_modPair]
  split
  · rw [pairOf_startDrain, pairOf_modPair]
  · rw [pairOf_modPair]

theorem pairError_gov (c : Core) (p : Nat) : (pairError c p).gov = c.gov := by
  simp only [pairError]
  split
  · obtain ⟨tab, free, frame⟩ := startDrain_frame (modPair c p fun a => { a with errors := a.errors + 1 }) p
    rw [frame]
    rfl
  · rfl

/-- The threshold of pairs stands in another register than the counts of their commands. -/
theorem pairThreshold_chargeCmd (c : Core) {p : Nat} (h : p / 512 < 8) (x : BankCmd) : pairThreshold (chargeCmd c p x) = pairThreshold c := by
  have apart : 0x600108 ≠ hbcStat (p / 512) := by
    unfold hbcStat
    omega
  rw [pairThreshold, regField, chargeCmd, regCount, regGet_put_other _ _ _ _ _ _ apart, pairThreshold, regField]
  rfl

/-- R232: a command as its second try starts. -/
def secondTry (c : Core) (p : Nat) (x : BankCmd) : BankCmd := { x with faulted := false, doubled := (stackOf c (p / 512)).doubled }

section
variable {c : Core} {p : Nat} {x : BankCmd} {xs : List BankCmd} (ha : alive c = true) (runs : (pairOf c p).issued = x :: xs)
  (faulted : x.faulted = true) (may : mayStartCmd c p 0 = true)
include ha runs faulted may

/-- R232, R482: a second try that succeeds runs on, and is an error of its pair and a repaired one of class 6. -/
theorem unitFaultRetry_runsOn : unitFaultRetry c p false = countError (pairError (modPair (chargeCmd c p (secondTry c p x)) p
    fun a => { a with issued := secondTry c p x :: xs, clock := 0 }) p) (stackDie (p / 512)) 6 := by
  have goes : (!x.faulted || !alive c || !mayStartCmd c p 0) = false := by simp [faulted, ha, may]
  simp only [unitFaultRetry, runs, goes, Bool.false_eq_true, if_false, Bool.not_false, if_true]
  rfl

/-- R232: a second try that faults again waits in its pair's queue, and the unit is fenced. -/
theorem unitFaultRetry_fences : unitFaultRetry c p true = fenceUnit (freeIssued (modPair (chargeCmd c p (secondTry c p x)) p
    fun a => { a with issued := xs, queue := secondTry c p x :: a.queue }) p [secondTry c p x]) p := by
  have goes : (!x.faulted || !alive c || !mayStartCmd c p 0) = false := by simp [faulted, ha, may]
  simp only [unitFaultRetry, runs, goes, Bool.false_eq_true, if_false, Bool.not_true]
  rfl

/-- R229, R232: the second try is charged like the first. -/
theorem unitFaultRetry_charged : (unitFaultRetry c p false).gov =
    c.gov.mod (stackDie (p / 512)) fun g => { g with allow := g.allow - ((x.n * x.w : Nat) : Int) } := by
  rw [unitFaultRetry_runsOn ha runs faulted may]
  obtain ⟨errs, regs, rings, frame⟩ := countError_frame (pairError (modPair (chargeCmd c p (secondTry c p x)) p
    fun a => { a with issued := secondTry c p x :: xs, clock := 0 }) p) (stackDie (p / 512)) 6
  rw [frame]
  show (pairError _ p).gov = _
  rw [pairError_gov, modPair_gov, chargeCmd_frame]
  rfl

/-- R232, R482: below the threshold of errors the pair serves on; at it, the pair drains. -/
theorem unitFaultRetry_pair (hk : p / 512 < 8) : pairOf (unitFaultRetry c p false) p =
    if pairThreshold c ≤ (pairOf c p).errors + 1
    then drained { pairOf c p with issued := secondTry c p x :: xs, clock := 0, errors := (pairOf c p).errors + 1 }
    else { pairOf c p with issued := secondTry c p x :: xs, clock := 0, errors := (pairOf c p).errors + 1 } := by
  rw [unitFaultRetry_runsOn ha runs faulted may]
  obtain ⟨errs, regs, rings, frame⟩ := countError_frame (pairError (modPair (chargeCmd c p (secondTry c p x)) p
    fun a => { a with issued := secondTry c p x :: xs, clock := 0 }) p) (stackDie (p / 512)) 6
  have charged : pairOf (chargeCmd c p (secondTry c p x)) p = pairOf c p := pairOf_congr (by rw [chargeCmd_frame]) p
  have threshold : pairThreshold (modPair (chargeCmd c p (secondTry c p x)) p fun a => { a with issued := secondTry c p x :: xs, clock := 0 }) =
      pairThreshold c := pairThreshold_chargeCmd c hk _
  rw [frame]
  show pairOf (pairError _ p) p = _
  rw [pairOf_pairError, threshold, pairOf_modPair, charged]
end

/-- R232, R333: a fenced unit keeps none of its attention blocks, and its pair drains. -/
theorem fenceUnit_pair (c : Core) (p : Nat) : (pairOf (fenceUnit c p) p).unitFenced = true ∧
    (pairOf (fenceUnit c p) p).state = (if (pairOf c p).state = 0 then 1 else (pairOf c p).state) ∧
    (pairOf (fenceUnit c p) p).issued = (pairOf c p).issued.filter fun y => unitCode y.op != 1 := by
  unfold fenceUnit
  dsimp only
  generalize hm : modPair c p _ = m
  have pair : pairOf m p = { pairOf c p with
      unitFenced := true, queue := (pairOf c p).queue.filter fun y => !(unitCode y.op == 1)
      issued := (pairOf c p).issued.filter fun y => !(unitCode y.op == 1) } := by
    rw [← hm, pairOf_modPair]
  obtain ⟨-, staged, freed⟩ := freeIssued_freed m p ((pairOf c p).issued.filter fun y => unitCode y.op == 1)
  obtain ⟨ys, grown⟩ := (refillStack_grows queueMax (freeIssued m p ((pairOf c p).issued.filter fun y => unitCode y.op == 1)) (p / 512)).pair p
  rw [pairOf_startDrain, pairOf_congr (logErr_stacks _ _), grown, freed, pair]
  simp only [drained_unitFenced, drained_state, drained_issued]
  exact ⟨trivial, trivial, rfl⟩

/-- R232: what a unit that is fenced after a second try keeps. -/
theorem unitFaultRetry_fenced {c : Core} {p : Nat} {x : BankCmd} {xs : List BankCmd} (ha : alive c = true)
    (runs : (pairOf c p).issued = x :: xs) (faulted : x.faulted = true) (may : mayStartCmd c p 0 = true) :
    (pairOf (unitFaultRetry c p true) p).unitFenced = true ∧
    (pairOf (unitFaultRetry c p true) p).state = (if (pairOf c p).state = 0 then 1 else (pairOf c p).state) ∧
    (pairOf (unitFaultRetry c p true) p).issued = xs.filter fun y => unitCode y.op != 1 := by
  rw [unitFaultRetry_fences ha runs faulted may]
  obtain ⟨-, staged, freed⟩ := freeIssued_freed (modPair (chargeCmd c p (secondTry c p x)) p
    fun a => { a with issued := xs, queue := secondTry c p x :: a.queue }) p [secondTry c p x]
  have charged : pairOf (chargeCmd c p (secondTry c p x)) p = pairOf c p := pairOf_congr (by rw [chargeCmd_frame]) p
  obtain ⟨fenced, state, issued⟩ := fenceUnit_pair (freeIssued (modPair (chargeCmd c p (secondTry c p x)) p
    fun a => { a with issued := xs, queue := secondTry c p x :: a.queue }) p [secondTry c p x]) p
  rw [freed, pairOf_modPair, charged] at state issued
  exact ⟨fenced, state, issued⟩

end Sys2Proof.Machine

namespace Sys2Proof.Machine

/-! ## Reports, issues and second tries as commands (R213, R222, R232) -/

section
variable {stack pair : Nat} (hs : stack < 8) (hp : pair < 512) (s : State)
include hs hp

theorem exec_bankCommandIssue :
    exec (.bankCommandIssue stack pair) s = .next { s with core := bankCommandIssue s.core (512 * stack + pair) } := by
  show execBankCommandIssue stack pair s = _
  simp [execBankCommandIssue, onCore, hs, hp]

theorem exec_unitFaultRetry (again : Bool) :
    exec (.unitFaultRetry stack pair again) s = .next { s with core := unitFaultRetry s.core (512 * stack + pair) again } := by
  show execUnitFaultRetry stack pair again s = _
  simp [execUnitFaultRetry, onCore, hs, hp]

/-- R213: a report of a pair's unit is judged by the code of the command it runs. -/
theorem reportOn_runs (code : Nat) (o : UnitOutcome) :
    reportOn s code stack pair o = .next { s with core := unitReport s.core code (512 * stack + pair) o } := by
  simp [reportOn, onCore, hs, hp]
end

section
variable {stack pair : Nat} (hs : stack < 8) (hp : pair < 512) {s : State} (ha : alive s.core = true) {x : BankCmd} {xs : List BankCmd}
  (runs : (pairOf s.core (512 * stack + pair)).issued = x :: xs) (unfaulted : x.faulted = false)
include hs hp ha runs unfaulted

/-- R215: the result of a SCORE_PARTIAL stays in its pair. -/
theorem exec_scorePartial_done (code : unitCode x.op = 1) (sound : cmdBad s.core x = false) :
    exec (.scorePartial stack pair .done) s = .next { s with core := doneCmd s.core (512 * stack + pair) x } := by
  have stays : ∀ c, unitResult c x = c := by
    intro c
    cases hx : x.op <;> simp [hx, unitCode, unitResult] at code ⊢
  show reportOn s 1 stack pair .done = _
  rw [reportOn_runs hs hp, ← code, unitReport_done ha runs unfaulted fun _ => sound, stays]

/-- R217: the hits of a DIST_SCAN that is done go to its search. -/
theorem exec_distScan_done {o : ScanOp} (op : x.op = .scan o) :
    exec (.distScan stack pair .done) s = .next { s with core := unitResult (doneCmd s.core (512 * stack + pair) x) x } := by
  have code : unitCode x.op = 2 := by rw [op]; rfl
  show reportOn s 2 stack pair .done = _
  rw [reportOn_runs hs hp, ← code, unitReport_done ha runs unfaulted (by simp [code])]

/-- R218: the row of a GATHER_MAX that is done goes to its job. -/
theorem exec_gatherMax_done {o : GatherOp} (op : x.op = .gather o) (sound : cmdBad s.core x = false) :
    exec (.gatherMax stack pair .done) s = .next { s with core := unitResult (doneCmd s.core (512 * stack + pair) x) x } := by
  have code : unitCode x.op = 3 := by rw [op]; rfl
  show reportOn s 3 stack pair .done = _
  rw [reportOn_runs hs hp, ← code, unitReport_done ha runs unfaulted fun _ => sound]

/-- R219: a FILL that is done writes its frames. -/
theorem exec_fill_done {o : FillOp} (op : x.op = .fill o) (work : o.test = false) :
    exec (.fill stack pair .done) s = .next { s with core := fillPage (doneCmd s.core (512 * stack + pair) x) o x.n } := by
  have code : unitCode x.op = 4 := by rw [op]; rfl
  show reportOn s 4 stack pair .done = _
  rw [reportOn_runs hs hp, ← code, unitReport_done ha runs unfaulted (by simp [code]), unitResult_fill op work]

/-- R233: a GATHER_MAX that reports a check failure. -/
theorem exec_gatherMax_checkFailure {o : GatherOp} (op : x.op = .gather o) :
    exec (.gatherMax stack pair .checkFailure) s = .next { s with
      core := checkFailure (finishCmd (setResult s.core (512 * stack + pair) (resultBytes [] 1 0)) (512 * stack + pair) x) (512 * stack + pair) x } := by
  show reportOn s 3 stack pair .checkFailure = _
  rw [reportOn_runs hs hp, unitReport_gatherFails ha runs unfaulted op]

/-- R232: a FILL whose unit reports a fault waits for its second try. -/
theorem exec_fill_unitFault (code : unitCode x.op = 4) :
    exec (.fill stack pair .unitFault) s = .next { s with core := modPair s.core (512 * stack + pair) fun a =>
      { a with issued := { x with faulted := true } :: a.issued.drop 1, result := resultBytes [] 2 0 } } := by
  show reportOn s 4 stack pair .unitFault = _
  rw [reportOn_runs hs hp, ← code, unitReport_faults ha runs unfaulted]
end

/-- R233: a gather whose check fails leaves its unit, its job fails, and the pair counts the error and drains. -/
theorem gatherFails_leaves {c : Core} {p ring : Nat} {x : BankCmd} {o : GatherOp} {j : Job} (op : x.op = .gather o)
    (owner : x.owner = .job ring) (job : mapGet c.obj.jobs ring = some j) (frames : x.frames = []) (bs : List Byte) :
    mapGet (checkFailure (finishCmd (setResult c p bs) p x) p x).obj.jobs ring = some { j with failed := some .partFailed } ∧
    ∃ staged, pairOf (checkFailure (finishCmd (setResult c p bs) p x) p x) p = drained { pairOf c p with
      issued := (pairOf c p).issued.drop 1, clock := 0, result := bs, staged := staged, errors := (pairOf c p).errors + 1 } := by
  obtain ⟨tab, free, frame⟩ := finishCmd_frame c p x bs
  obtain ⟨staged, finished⟩ := (finishCmd_reported c p x bs).pair
  obtain ⟨jobs, left⟩ := checkFailure_gather (c := finishCmd (setResult c p bs) p x) (p := p) op owner (by rw [frame]; exact job) frames
  exact ⟨jobs, staged, by rw [left, finished]⟩

/-- Settles O51. Issue is `bankCommandIssue_leaves`: its places of the partial queue are taken at issue and come free at the report (log entry 69), and pages that its pair has staged already take no frames again (log entry 54). Reports of commands that are done are `doneCmd` with what each gives its work (`unitResult_scan`, `unitResult_gather`, `fillPage_bytes`); failing and faulting ones are `gatherFails_leaves` and `exec_fill_unitFault`; the second try is `unitFaultRetry_pair` or `unitFaultRetry_fenced`. -/
theorem unitCommands : Obligations.UnitCommands := by
  unfold Obligations.UnitCommands
  intro stack pair x xs s hs hp ha p old d
  have hk : p / 512 = stack := by simp only [p]; omega
  have die : stackDie (p / 512) = d := by rw [hk]
  refine ⟨fun queued lives may place => ?_, fun runs unfaulted => ?_, fun runs faulted may => ⟨?_, ?_⟩⟩
  · obtain ⟨ys, tab, regs, frame, left, none, partials⟩ := bankCommandIssue_leaves ha queued lives may place
    rw [hk] at left none partials
    rw [die] at frame
    have ran : exec (.bankCommandIssue stack pair) s = .next { s with core := bankCommandIssue s.core p } := exec_bankCommandIssue hs hp s
    refine ⟨_, ys, ran, left, none, partials, ?_, ?_, ?_, ?_, ?_⟩
    · simp only [frame, PerDie.get_mod]
      rfl
    · simp only [frame, PerDie.get_mod]
      rfl
    · simp only [frame, PerDie.get_mod_not]
    · simp only [frame]
    · simp only [frame]
  · intro reported
    have tells : ∀ t : State, UnitsKept (doneCmd s.core p x) t.core → reported t := by
      intro t kept
      obtain ⟨⟨staged, left⟩, partials, staging, rings⟩ := (finishCmd_reported s.core p x (cmdBytes s.core x)).kept kept
      rw [hk] at partials
      rw [die] at staging
      exact ⟨by rw [left]; exact congrArg (List.drop 1) runs, by rw [left], by rw [left], partials, staging, rings⟩
    refine ⟨fun code sound => ?_, fun o ring j op owner job => ?_, fun o ring j tb op owner job sound table => ?_, fun o pg op work page => ?_,
      fun ring j o op owner job frames => ?_, fun code => ?_⟩
    · exact ⟨_, exec_scorePartial_done hs hp ha runs unfaulted code sound, tells _ ⟨rfl, rfl, rfl⟩, doneCmd_obj _ _ _, doneCmd_frames _ _ _⟩
    · obtain ⟨kept, jobs⟩ := unitResult_scan (c := doneCmd s.core p x) op owner (by rw [doneCmd_obj]; exact job)
      exact ⟨_, exec_distScan_done hs hp ha runs unfaulted op, tells _ kept, jobs⟩
    · obtain ⟨kept, jobs⟩ := unitResult_gather (c := doneCmd s.core p x) op owner (by rw [doneCmd_obj]; exact job) (by rw [doneCmd_obj]; exact table)
      exact ⟨_, exec_gatherMax_done hs hp ha runs unfaulted op sound, tells _ kept, jobs⟩
    · obtain ⟨pg', filled, bytes⟩ := fillPage_bytes (c := doneCmd s.core p x) x.n (by rw [doneCmd_xmap]; exact page)
      refine ⟨_, pg', exec_fill_done hs hp ha runs unfaulted op work, tells _ (fillPage_kept _ _ _), filled, fun i hi => ?_, fun a out => ?_⟩
      · rw [bytes, if_pos ⟨Nat.le_add_right _ _, Nat.add_lt_add_left hi _⟩, Nat.add_sub_cancel_left]
      · rw [bytes, if_neg (by omega)]
    · obtain ⟨jobs, staged, left⟩ := gatherFails_leaves (p := p) op owner job frames (resultBytes [] 1 0)
      refine ⟨_, exec_gatherMax_checkFailure hs hp ha runs unfaulted op, jobs, ?_, ?_, ?_⟩
      · rw [left, drained_issued]
        exact congrArg (List.drop 1) runs
      · rw [left, drained_errors]
      · rw [left, drained_state]
    · refine ⟨_, exec_fill_unitFault hs hp ha runs unfaulted code, ?_, rfl⟩
      rw [pairOf_modPair, runs]
      rfl
  · have left := unitFaultRetry_pair ha runs faulted may (by rw [hk]; exact hs)
    refine ⟨_, exec_unitFaultRetry hs hp s false, ?_, fun below => ?_, fun reached => ?_⟩
    · rw [unitFaultRetry_charged ha runs faulted may, die, PerDie.get_mod]
    · rw [left, if_neg (by exact Nat.not_le.mpr below), secondTry, hk]
    · rw [left, if_pos (by exact reached), drained_state]
  · exact ⟨_, exec_unitFaultRetry hs hp s true, unitFaultRetry_fenced ha runs faulted may⟩

end Sys2Proof.Machine

/-! PROOFS of the numerics and model statements (08_numerics_models): models, vocabularies and grammars unloaded and loaded. -/

namespace Sys2Proof.Machine

/-! ## A sequencer's descriptor that measures, or fails (R126, R537) -/

section
variable {s : State} {d : Desc} {env : Env} {m : M Done} {st : Status} {a b : Nat} (free : seqFree s.core d) (h0 : d.session = 0)
include free h0

/-- R126, R537: a descriptor without a session whose body ends and measures once extends one register and completes. -/
theorem acceptSeq_measured {r : Run0} {x : Nat × List Byte} (h : m (begunSeqRun s d env) = .ok (.done st a b, r)) (he : r.ext = [x]) :
    acceptSeq s d env m = { s with core := complete r.core d st a b, rot := extendMr s.rot x } := by
  rw [acceptSeq_free s d env m free, settle, show m (descRun _ d env none) = _ from h]
  simp only [he, finishDesc_seq _ _ _ _ _ h0]
  rfl

/-- R126: one whose body fails completes with the status it fails with. -/
theorem acceptSeq_fails {c : Core} (h : m (begunSeqRun s d env) = .error (.fail st a b c)) :
    acceptSeq s d env m = { s with core := complete c d st a b } := by
  rw [acceptSeq_free s d env m free, settle, show m (descRun _ d env none) = _ from h]
  simp only [finishDesc_seq _ _ _ _ _ h0]
end

/-- A check that nothing settled before it has passed. -/
theorem run_checkFresh_passes {b : Bool} (h : b = false) (st : Status) (r : Run0) : checkFresh b st r = .ok ((), r) := by
  rw [checkFresh, run_bind_ok (run_settled r)]
  split
  · exact run_check_passes h st r
  · rfl

/-! ## Unloading (R265, R271, R376) -/

/-- R265, R271, R376: the commands of the three rows are their descriptors' bodies, as the sequencer takes them. -/
theorem exec_modelUnload (d : Desc) (env : Env) (s : State) : exec (.modelUnload d env) s = .next (acceptSeq s d env (modelUnloadBody d)) := rfl
theorem exec_vocabUnload (d : Desc) (s : State) : exec (.vocabUnload d) s = .next (acceptSeq s d [] (vocabUnloadBody d)) := rfl
theorem exec_grammarUnload (d : Desc) (s : State) : exec (.grammarUnload d) s = .next (acceptSeq s d [] (grammarUnloadBody d)) := rfl

/-- What stands under a key before it is removed does not matter. -/
theorem mapDel_mapSet {α : Type} (m : Map α) (i : Nat) (x : α) : mapDel (mapSet m i x) i = mapDel m i := by
  induction m with
  | nil => simp [mapSet, mapDel]
  | cons p m ih =>
    obtain ⟨k, a⟩ := p
    rw [mapSet]
    split
    · rw [mapDel, if_pos rfl]
    · split
      next same => rw [mapDel, mapDel, if_pos rfl, if_pos same.symm]
      next other => rw [mapDel, mapDel, ih]

theorem mapDel_mapMod {α : Type} (m : Map α) (i : Nat) (f : α → α) : mapDel (mapMod m i f) i = mapDel m i := by
  rw [mapMod]
  split
  · rfl
  · exact mapDel_mapSet m i _

/-- Frames go back to a die whatever the device's objects are. -/
theorem giveFree_obj (c : Core) (die : Bool) (n : Nat) (o : Objects) : giveFree { c with obj := o } die n = { giveFree c die n with obj := o } := by
  simp only [giveFree]
  split <;> rfl

/-- R262, R265: emptying a slot is the same in each of its states. -/
theorem emptySlot_setSlotState (c : Core) (slot st : Nat) : emptySlot (setSlotState slot st c) slot = emptySlot c slot := by
  have models : mapGet (setSlotState slot st c).obj.models slot = (mapGet c.obj.models slot).map fun m => { m with state := st } :=
    mapGet_mod_same ..
  rw [emptySlot, emptySlot, models]
  cases model : mapGet c.obj.models slot with
  | none =>
    show setSlotState slot st c = c
    rw [setSlotState, mapMod, model]
  | some m =>
    have hot : setHot (setHot (setSlotState slot st c) false slot 0) true slot 0 =
      { setHot (setHot c false slot 0) true slot 0 with obj := (setSlotState slot st c).obj } := rfl
    simp only [Option.map_some, hot, giveFree_obj]
    rw [giveFree_frame, giveFree_frame]
    simp [setSlotState, mapDel_mapMod]

/-- R265: a loaded slot that nothing names and that has no prefixes is emptied and measured. -/
theorem run_modelUnloadBody_empties {d : Desc} {m : Model} {r : Run0} (h0 : d.session = 0) (fresh : r.past = [])
    (still : slotLoading r.core d (slotOf d) = false) (model : mapGet r.core.obj.models (slotOf d) = some m) (loaded : m.state = 2)
    (alone : slotNamed r.core (slotOf d) = false) (bare : slotPrefixes r.core (slotOf d) = []) :
    modelUnloadBody d r = .ok (.done .ok m.frames.d0 m.frames.d1, { r with
      core := emptySlot r.core (slotOf d), base := setSlotState (slotOf d) 3 r.base, memo := r.memo ++ [0]
      ext := r.ext ++ [(6, modelMeasure (slotOf d) none)] }) := by
  have may : (m.state != 2 || slotNamed r.core (slotOf d)) = false := by simp [loaded, alone]
  rw [modelUnloadBody, run_bind_ok (run_check_passes (by simp [h0]) _ _), run_bind_ok (run_getC r), run_bind_ok (run_check_passes still _ _)]
  simp only [model]
  rw [run_bind_ok (run_checkFresh_passes may _ _), run_bind_ok (run_once_new _ _ fresh), bare, releaseAll,
    run_bind_ok (orUndo_ok _ _ _ _ (run_pure () _)), run_bind_ok (run_modC _ _), emptySlot_setSlotState]
  rfl

/-- R271: a vocabulary that nothing names is removed and measured. -/
theorem run_vocabUnloadBody_removes {d : Desc} {v : Vocab} {r : Run0} (h0 : d.session = 0)
    (vocab : mapGet r.core.obj.vocabs (d.field 4 63 0 0) = some v) (alone : vocabNamed r.core d (d.field 4 63 0 0) = false) :
    let c := giveBoth r.core v.frames v.loft
    vocabUnloadBody d r = .ok (.done .ok 0 0, { r with
      core := { c with obj := { c.obj with vocabs := mapDel c.obj.vocabs (d.field 4 63 0 0) } }
      ext := r.ext ++ [(7, 1 :: natLe 8 (d.field 4 63 0 0))] }) := by
  simp [vocabUnloadBody, h0, vocab, alone]

/-- R376: a grammar that no session names is removed and measured. -/
theorem run_grammarUnloadBody_removes {d : Desc} {g : Grammar} {r : Run0} (h0 : d.session = 0)
    (grammar : mapGet r.core.obj.grammars (grId d) = some g) (alone : grammarUsers r.core (grId d) = 0) :
    let c := giveBoth r.core g.frames g.loft
    grammarUnloadBody d r = .ok (.done .ok (g.frames + g.loft) (g.frames + g.loft), { r with
      core := { c with obj := { c.obj with grammars := mapDel c.obj.grammars (grId d) } }
      ext := r.ext ++ [(7, 2 :: natLe 8 (grDigest g.image))] }) := by
  simp [grammarUnloadBody, h0, grammar, alone]

/-- R376: one that sessions name is refused, with their number. -/
theorem run_grammarUnloadBody_named {d : Desc} {g : Grammar} {r : Run0} (h0 : d.session = 0)
    (grammar : mapGet r.core.obj.grammars (grId d) = some g) (named : 0 < grammarUsers r.core (grId d)) :
    grammarUnloadBody d r = .error (.fail .wrongState (grammarUsers r.core (grId d)) 0 r.core) := by
  simp [grammarUnloadBody, h0, grammar, named]

/-- Settles O24: each way the bodies run, on a descriptor that begins at once. What its checks read of the state is the same once it has begun. -/
theorem unloadsRemoveObject : Obligations.UnloadsRemoveObject := by
  unfold Obligations.UnloadsRemoveObject
  refine ⟨fun d env s free h0 => ⟨fun m model loaded still alone bare => ?_, fun v vocab alone => ?_, fun g grammar alone => ?_⟩,
    fun d g s free h0 grammar named => ?_⟩
  · have run := run_modelUnloadBody_empties (r := begunSeqRun s d env) h0 rfl still model loaded alone bare
    rw [exec_modelUnload, acceptSeq_measured free h0 run rfl]
    rfl
  · rw [exec_vocabUnload, acceptSeq_measured free h0 (run_vocabUnloadBody_removes (r := begunSeqRun s d []) h0 vocab alone) rfl]
    rfl
  · rw [exec_grammarUnload, acceptSeq_measured free h0 (run_grammarUnloadBody_removes (r := begunSeqRun s d []) h0 grammar alone) rfl]
    rfl
  · rw [exec_grammarUnload, acceptSeq_fails free h0 (run_grammarUnloadBody_named (r := begunSeqRun s d []) h0 grammar named)]
    rfl

end Sys2Proof.Machine

namespace Sys2Proof.Machine

/-! ## The frames of an object and its loft part (R174, R207, R208) -/

/-- R207: frames of a die that are taken lower the counts of free ones. -/
theorem takeFree_counts (c : Core) (die : Bool) (n : Nat) : ∃ free pairFree pairBulk,
    takeFree c die n = { c with mem := { c.mem with free := free, pairFree := pairFree, pairBulk := pairBulk } } := by
  simp only [takeFree]
  split <;> exact ⟨_, _, _, rfl⟩

/-- R207: so do frames taken of both dies. -/
theorem takeFrees_counts (c : Core) (n0 n1 : Nat) : ∃ free pairFree pairBulk,
    takeFree (takeFree c false n0) true n1 = { c with mem := { c.mem with free := free, pairFree := pairFree, pairBulk := pairBulk } } := by
  obtain ⟨_, _, _, first⟩ := takeFree_counts c false n0
  obtain ⟨free, pairFree, pairBulk, second⟩ := takeFree_counts (takeFree c false n0) true n1
  exact ⟨free, pairFree, pairBulk, by rw [second, first]⟩

/-- R174: loft frames that are taken turn the die's rotation by as many. -/
theorem takeLoft_turns (c : Core) (die : Bool) (n : Nat) : ∃ loftFree hot,
    takeLoft c die n = { c with mem := { c.mem with loftFree := loftFree, loftNext := c.mem.loftNext.mod die (· + n), hot := hot } } := by
  simp only [takeLoft]
  split
  · exact ⟨_, _, rfl⟩
  · exact ⟨_, _, trimHot_frame _ die⟩

/-- R174, R208: what an object takes is counted in memory alone, and its loft part turns both rotations. -/
theorem takeBoth_counts (c : Core) (n loft : Nat) : ∃ free pairFree pairBulk loftFree hot, takeBoth c n loft = { c with mem := { c.mem with
    free := free, pairFree := pairFree, pairBulk := pairBulk, loftFree := loftFree, hot := hot
    loftNext := ⟨c.mem.loftNext.d0 + loft, c.mem.loftNext.d1 + loft⟩ } } := by
  obtain ⟨free, pairFree, pairBulk, frees⟩ := takeFrees_counts c n n
  obtain ⟨_, _, loft0⟩ := takeLoft_turns (takeFree (takeFree c false n) true n) false loft
  obtain ⟨loftFree, hot, loft1⟩ := takeLoft_turns (takeLoft (takeFree (takeFree c false n) true n) false loft) true loft
  refine ⟨free, pairFree, pairBulk, loftFree, hot, ?_⟩
  rw [takeBoth, loft1, loft0, frees]
  rfl

@[simp] theorem takeBoth_obj (c : Core) (n loft : Nat) : (takeBoth c n loft).obj = c.obj := by
  obtain ⟨_, _, _, _, _, counts⟩ := takeBoth_counts c n loft
  rw [counts]

/-! ## Reads of host memory (R91, R598) -/

/-- R91, R598: a run that has sent nothing before, on a device whose requests to host memory are answered. -/
structure ReadsHost (r : Run0) : Prop where
  had : r.had = 0
  unsent : r.sent = false
  answers : hostAnswers r.core
  noWindow : mapGet r.core.mem.windows 0 = none

namespace ReadsHost
variable {r : Run0} (h : ReadsHost r)
include h

/-- R91: its read takes the next answer. -/
theorem run_readBus {bs : List Byte} {env : Env} (answered : r.env = .data bs :: env) (a n : Nat) :
    readBus 0 a n r = .ok (bytesAt bs 0 n, { r with env := env }) := by
  have stays : r.had - 1 = r.had := by rw [h.had]
  rw [readBus_data r bs env a n answered h.answers h.unsent h.noWindow, stays]

theorem answered (env : Env) : ReadsHost { r with env := env } := ⟨h.had, h.unsent, h.answers, h.noWindow⟩

/-- It goes on to read where only memory besides the pool windows has changed. -/
theorem of_mem {r' : Run0} (had : r'.had = r.had) (sent : r'.sent = r.sent) (frame : r'.core = { r.core with mem := r'.core.mem })
    (windows : r'.core.mem.windows = r.core.mem.windows) : ReadsHost r' := by
  have regs : ∀ o, regGet r'.core o = regGet r.core o := fun o => by rw [frame]; rfl
  exact ⟨had.trans h.had, sent.trans h.unsent,
    hostAnswers_congr h.answers (by rw [frame]) (by rw [frame]) (by rw [frame]) (regs _)
      (ideStream_congr (fun w => by rw [windows]) fun o _ => regs o),
    by rw [windows]; exact h.noWindow⟩
end ReadsHost

/-! ## Loading a vocabulary or a grammar (R270, R374) -/

/-- R208: a run whose object has taken its frames, which a wait would keep. -/
def takenRun (r : Run0) (n loft : Nat) : Run0 :=
  { r with core := takeBoth r.core n loft, base := takeBoth r.base n loft
           memo := r.memo ++ [r.core.mem.loftNext.d0] ++ [(takeBoth r.core n loft).mem.loftNext.d1 - loft] }

theorem ReadsHost.taken {r : Run0} (h : ReadsHost r) (n loft : Nat) : ReadsHost (takenRun r n loft) := by
  obtain ⟨_, _, _, _, _, counts⟩ := takeBoth_counts r.core n loft
  exact h.of_mem rfl rfl (by simp only [takenRun, counts]) (by simp only [takenRun, counts])

/-- R176: a run waits for no hot copy that object space has room for. -/
theorem run_waitHot {die : Bool} {r : Run0} (cool : hotOn r.core die ≤ r.core.mem.loftFree.get die) : waitHot die r = .ok ((), r) := by
  simp [waitHot, cool]

/-- R174: the frames that an object has taken of a die's loft are the next ones of its rotation. -/
theorem runAt_takeBoth (c : Core) (n loft : Nat) (die : Bool) :
    (if loft = 0 then {} else { first := c.mem.loftNext.get die, frames := loft, slices := sliceList (takeBoth c n loft) die }) = runAt c die loft := by
  obtain ⟨_, _, _, _, _, counts⟩ := takeBoth_counts c n loft
  rw [counts]
  rfl

/-- R174, R208: an object that fits takes its frames and goes on with its runs of loft frames. -/
theorem run_withBoth {α : Type} {n loft : Nat} {k : PerDie LoftRun → M α} {r : Run0} {x : α × Run0} (fresh : r.past = [])
    (fits : fitsBoth r.core n loft = true) (cool : ∀ die, hotOn (takeBoth r.core n loft) die ≤ (takeBoth r.core n loft).mem.loftFree.get die)
    (goes : k (runsAt r.core loft) (takenRun r n loft) = .ok x) : withBoth n loft k r = .ok x := by
  rw [withBoth, run_bind_ok (run_getC r), run_bind_ok (run_checkFresh_passes (by simp [fits]) _ _), run_bind_ok (run_once_new _ _ fresh),
    run_bind_ok (run_once_new _ _ (by exact fresh))]
  refine orUndo_ok _ _ _ _ ?_
  change (waitHot false >>= _) (takenRun r n loft) = _
  rw [run_bind_ok (run_waitHot (r := takenRun r n loft) (cool false)), run_bind_ok (run_waitHot (r := takenRun r n loft) (cool true)),
    run_bind_ok (run_getC _)]
  obtain ⟨_, _, _, _, _, counts⟩ := takeBoth_counts r.core n loft
  have turned : (takeBoth r.core n loft).mem.loftNext.d1 - loft = r.core.mem.loftNext.d1 := by rw [counts, Nat.add_sub_cancel]
  rw [runsAt, ← runAt_takeBoth r.core n, ← runAt_takeBoth r.core n] at goes
  simp only [turned]
  exact goes

/-- R208: what carries an object out once its frames are taken begins with the read of its image. -/
theorem run_withBoth_image {α : Type} {n loft image bytes : Nat} {k : PerDie LoftRun → List Byte → M α} {r t : Run0} {x : α × Run0}
    {b : List Byte} {env : Env} (host : ReadsHost r) (given : r.env = .data b :: env) (fresh : r.past = [])
    (fits : fitsBoth r.core n loft = true) (cool : ∀ die, hotOn (takeBoth r.core n loft) die ≤ (takeBoth r.core n loft).mem.loftFree.get die)
    (read : t = { takenRun r n loft with env := env }) (goes : k (runsAt r.core loft) (bytesAt b 0 bytes) t = .ok x) :
    withBoth n loft (fun runs => readBus 0 image bytes >>= k runs) r = .ok x := by
  refine run_withBoth fresh fits cool ?_
  rw [run_bind_ok ((host.taken n loft).run_readBus given _ _), ← read]
  exact goes

/-- R267, R368: an image whose check values match goes on. -/
theorem run_checkHost_passes {b : Bool} (h : b = true) (r : Run0) : checkHost (!b) r = .ok ((), r) := by
  rw [h]
  rfl

/-- R270, R374: the commands of the two rows are their descriptors' bodies. -/
theorem exec_vocabLoad (d : Desc) (env : Env) (s : State) : exec (.vocabLoad d env) s = .next (acceptSeq s d env (vocabLoadBody d)) := rfl
theorem exec_grammarLoad (d : Desc) (env : Env) (s : State) : exec (.grammarLoad d env) s = .next (acceptSeq s d env (grammarLoadBody d)) := rfl

/-- R263, R270, R374: check 1 of the loads passes. -/
theorem imageField_sound {d : Desc} (h0 : d.session = 0) (aligned : d.field 2 63 0 0 % 65536 = 0) (nonempty : d.field 3 63 0 0 ≠ 0) :
    (d.session != 0 || d.field 2 63 0 0 % frameSize != 0 || d.field 3 63 0 0 == 0) = false := by
  simp [h0, frameSize, aligned, nonempty]

section
variable {d : Desc} {a b : List Byte} {r t : Run0} (h0 : d.session = 0) (aligned : d.field 2 63 0 0 % 65536 = 0)
  (nonempty : d.field 3 63 0 0 ≠ 0) (host : ReadsHost r) (fresh : r.past = []) (env : r.env = [.data a, .data b])
  (header : hdrCheckBad (bytesAt a 0 64) = false)
include h0 aligned nonempty host fresh env header

/-- R270: a vocabulary that passes its checks and fits takes its frames, stands under its digest and is measured. -/
theorem run_vocabLoadBody_loads (few : r.core.obj.vocabs.length + vocabLoading r.core d < 16) :
    let bytes := d.field 3 63 0 0
    let img := bytesAt b 0 bytes
    let n := framesOf bytes
    let loft := vocabLoft (bytesAt a 0 64)
    vocabHeaderBad (bytesAt a 0 64) bytes = false → fitsBoth r.core n loft = true → checksMatch img (vocabCheckAt img) = true →
    vocabHeaderBad img bytes = false → vocabBodyBad img = false → mapHas r.core.obj.vocabs (digest8 img) = false →
    (∀ die, hotOn (takeBoth r.core n loft) die ≤ (takeBoth r.core n loft).mem.loftFree.get die) →
    t = { takenRun r n loft with env := [] } →
    vocabLoadBody d r = .ok (.done .ok (digest8 img % 2 ^ 32) (digest8 img / 2 ^ 32), { t with
      core := { t.core with obj := { t.core.obj with
        vocabs := mapSet t.core.obj.vocabs (digest8 img) ⟨img, n, loft, runsAt r.core loft⟩ } }
      ext := t.ext ++ [(7, 1 :: natLe 8 (digest8 img))] }) := by
  intro bytes img n loft shape fits checks shape' body new cool read
  have objects : t.core.obj = r.core.obj := by
    rw [read]
    exact takeBoth_obj ..
  have absent : mapHas t.core.obj.vocabs (digest8 img) = false := by
    rw [objects]
    exact new
  rw [vocabLoadBody, run_bind_ok (run_check_passes (imageField_sound h0 aligned nonempty) _ _), run_bind_ok (run_getC r),
    run_bind_ok (run_check_passes (by simpa using few) _ _), run_bind_ok (host.run_readBus env _ _),
    run_bind_ok (run_check_passes shape _ _), run_bind_ok (run_check_passes header _ _)]
  refine (run_bind_ok (run_withBoth_image (host.answered _) rfl fresh fits cool read (x := (digest8 img, { t with
    core := { t.core with obj := { t.core.obj with
      vocabs := mapSet t.core.obj.vocabs (digest8 img) ⟨img, n, loft, runsAt r.core loft⟩ } } })) ?_)).trans rfl
  rw [run_bind_ok (run_checkHost_passes checks _), run_bind_ok (run_check_passes (Bool.or_eq_false_iff.mpr ⟨shape', body⟩) _ _),
    run_bind_ok (run_getC _), run_bind_ok (run_check_passes absent _ _), run_bind_ok (run_modC _ _)]
  rfl

/-- R374: a grammar under a free id, whose vocabulary is loaded, that passes its checks and fits takes its frames, stands under the id and is
measured. -/
theorem run_grammarLoadBody_loads {v : Vocab} (unused : mapHas r.core.obj.grammars (grId d) = false)
    (still : grLoading r.core d (grId d) = false) (vocab : mapGet r.core.obj.vocabs (grammarVocab (bytesAt a 0 64)) = some v)
    (tokens : vocabTokens v.image = grTokens (bytesAt a 0 64)) :
    let bytes := d.field 3 63 0 0
    let img := bytesAt b 0 bytes
    let n := framesOf bytes
    grHeaderBad (bytesAt a 0 64) bytes = false → fitsBoth r.core n n = true → checksMatch img (grCheckAt img) = true →
    grHeaderBad img bytes = false → grBodyBad img = false →
    (∀ die, hotOn (takeBoth r.core n n) die ≤ (takeBoth r.core n n).mem.loftFree.get die) →
    t = { takenRun r n n with env := [] } →
    grammarLoadBody d r = .ok (.done .ok (2 * n) (grDigest img % 2 ^ 32), { t with
      core := { t.core with obj := { t.core.obj with
        grammars := mapSet t.core.obj.grammars (grId d) ⟨img, n, n, runsAt r.core n⟩ } }
      ext := t.ext ++ [(7, 2 :: natLe 8 (grDigest img))] }) := by
  intro bytes img n shape fits checks shape' body cool read
  rw [grammarLoadBody, run_bind_ok (run_check_passes (imageField_sound h0 aligned nonempty) _ _), run_bind_ok (run_getC r),
    run_bind_ok (run_check_passes (Bool.or_eq_false_iff.mpr ⟨unused, still⟩) _ _), run_bind_ok (host.run_readBus env _ _),
    run_bind_ok (run_check_passes shape _ _), run_bind_ok (run_check_passes header _ _), run_bind_ok (run_getC _)]
  simp only [vocab]
  rw [run_bind_ok (run_check_passes (by simp [tokens]) _ _)]
  refine (run_bind_ok (run_withBoth_image (host.answered _) rfl fresh fits cool read (x := (img, { t with
    core := { t.core with obj := { t.core.obj with
      grammars := mapSet t.core.obj.grammars (grId d) ⟨img, n, n, runsAt r.core n⟩ } } })) ?_)).trans rfl
  rw [run_bind_ok (run_checkHost_passes checks _), run_bind_ok (run_check_passes (Bool.or_eq_false_iff.mpr ⟨shape', body⟩) _ _),
    run_bind_ok (run_modC _ _)]
  rfl
end

end Sys2Proof.Machine

namespace Sys2Proof.Machine

/-! ## Bytes put into an image -/

theorem le_putBytes_length (m : List Byte) (off : Nat) (bs : List Byte) : m.length ≤ (putBytes m off bs).length := by
  simp only [putBytes, List.length_append, List.length_take, List.length_drop]
  omega

/-- Bytes before those put stay. -/
theorem bytesAt_putBytes_before {m : List Byte} {o n off : Nat} (before : o + n ≤ off) (inside : o + n ≤ m.length) (bs : List Byte) :
    bytesAt (putBytes m off bs) o n = bytesAt m o n := by
  have reach : o + n ≤ (m.take off).length := by rw [List.length_take]; omega
  rw [putBytes, List.append_assoc, bytesAt_left _ _ _ _ reach, ← bytesAt_left _ (m.drop off) _ _ reach, List.take_append_drop]

/-- Bytes at an offset begin with fewer bytes at it. -/
theorem bytesAt_take (bs : List Byte) (o : Nat) {k n : Nat} (h : k ≤ n) : (bytesAt bs o n).take k = bytesAt bs o k := by
  simp only [bytesAt, List.take_append, List.take_take, List.take_replicate, List.length_take, Nat.min_eq_left h]
  congr 2
  omega

/-- Bytes put at the end of a first part take the place of as many. -/
theorem putBytes_mid (front old rest bs : List Byte) (h : old.length = bs.length) :
    putBytes (front ++ (old ++ rest)) front.length bs = front ++ bs ++ rest := by
  rw [putBytes, List.take_left, ← h, List.drop_length_add_append, List.drop_left]

/-- The first of some bytes, put again, change nothing. -/
theorem putBytes_again {m : List Byte} {off : Nat} (inside : off ≤ m.length) (bs : List Byte) (k : Nat) :
    putBytes (putBytes m off bs) off (bs.take k) = putBytes m off bs := by
  have front : off = (m.take off).length := by rw [List.length_take]; omega
  have parts : putBytes m off bs = m.take off ++ (bs.take k ++ (bs.drop k ++ m.drop (off + bs.length))) := by
    rw [putBytes, List.append_assoc, ← List.append_assoc (bs.take k), List.take_append_drop]
  calc putBytes (putBytes m off bs) off (bs.take k)
      = putBytes (m.take off ++ (bs.take k ++ (bs.drop k ++ m.drop (off + bs.length)))) (m.take off).length (bs.take k) := by rw [parts, ← front]
    _ = putBytes m off bs := by rw [putBytes_mid _ _ _ _ rfl, parts, List.append_assoc]

/-! ## Tiles as they stream (R263, R547) -/

/-- R263: an image with a tile and its check values in place, as the host's copy `e` has them, before a seal's tag. -/
def withoutTag (e : List Byte) (s : Section) (p : Nat) (m : List Byte) : List Byte :=
  putBytes (putBytes m (s.offset + 65536 * p) (bytesAt e (s.offset + 65536 * p) 65536))
    (s.offset + 65536 * s.tiles + 1024 * p) (bytesAt e (s.offset + 65536 * s.tiles + 1024 * p) 1024)

/-- R263, R547: of an image that is then sealed, the tag follows. -/
theorem withTile_eq (e : List Byte) (i p : Nat) (m : List Byte) : let s := sectionAt (m.drop 64) i
    withTile e i p m = if miSealed (withoutTag e s p m) = true then
      putBytes (withoutTag e s p m) (s.offset + 66560 * s.tiles + 16 * p) (bytesAt e (s.offset + 66560 * s.tiles + 16 * p) 16)
    else withoutTag e s p m := rfl

theorem le_withoutTag_length (e : List Byte) (s : Section) (p : Nat) (m : List Byte) : m.length ≤ (withoutTag e s p m).length :=
  (le_putBytes_length ..).trans (le_putBytes_length ..)

theorem le_withTile_length (e : List Byte) (i p : Nat) (m : List Byte) : m.length ≤ (withTile e i p m).length := by
  rw [withTile_eq]
  split
  · exact (le_withoutTag_length ..).trans (le_putBytes_length ..)
  · exact le_withoutTag_length ..

/-- R257: whether an image is sealed stands in its first word. -/
theorem miSealed_congr {m m' : List Byte} (h : bytesAt m 0 8 = bytesAt m' 0 8) : miSealed m = miSealed m' := by
  simp only [miSealed, hdrField, wordAt, leAt, Nat.mul_zero, h]

/-- R547: a tag does not change whether the image is sealed, although check 6 of R263 lets a section lie over the header: the tag lies behind
the first word, or begins where its tile does, whose bytes it then repeats. -/
theorem miSealed_withTile (e : List Byte) (i p : Nat) {m : List Byte} (word : 8 ≤ m.length) :
    miSealed (withTile e i p m) = miSealed (withoutTag e (sectionAt (m.drop 64) i) p m) := by
  rw [withTile_eq]
  generalize sectionAt (m.drop 64) i = s
  split
  · by_cases behind : 8 ≤ s.offset + 66560 * s.tiles + 16 * p
    · exact miSealed_congr (bytesAt_putBytes_before (by omega) (by have := le_withoutTag_length e s p m; omega) _)
    · have first : p = 0 := by omega
      have noTiles : s.tiles = 0 := by omega
      have inside : s.offset ≤ m.length := by omega
      simp only [withoutTag, first, noTiles, Nat.mul_zero, Nat.add_zero]
      rw [← bytesAt_take e s.offset (show 1024 ≤ 65536 by omega), ← bytesAt_take e s.offset (show 16 ≤ 65536 by omega)]
      rw [putBytes_again inside, putBytes_again inside]
  · rfl

/-- R263: a part of an image that is answered from a copy `e` is put into its place. -/
theorem ReadsHost.run_readPart {r : Run0} (h : ReadsHost r) {e : List Byte} {off n : Nat} {env : Env}
    (given : r.env = .data (bytesAt e off n) :: env) (image : Nat) (m : List Byte) :
    readPart image off n m r = .ok (putBytes m off (bytesAt e off n), { r with env := env }) := by
  rw [readPart, run_bind_ok (h.run_readBus given _ _), bytesAt_all _ _ (bytesAt_length ..)]
  rfl

/-- R263, R547: the answers to the reads of a tile, from a copy `e`. -/
def tileReads (e : List Byte) (s : Section) (p : Nat) (isSealed : Bool) : Env :=
  .data (bytesAt e (s.offset + 65536 * p) 65536) :: .data (bytesAt e (s.offset + 65536 * s.tiles + 1024 * p) 1024) ::
    if isSealed then [.data (bytesAt e (s.offset + 66560 * s.tiles + 16 * p) 16)] else []

/-- R263, R547: a tile's reads are as many as the image with the tile in place asks for, sealed or not. -/
theorem run_readTile {r : Run0} (h : ReadsHost r) {e m : List Byte} {i p : Nat} {env : Env} (word : 8 ≤ m.length)
    (given : r.env = tileReads e (sectionAt (m.drop 64) i) p (miSealed (withTile e i p m)) ++ env) (image : Nat) :
    readTile image (sectionAt (m.drop 64) i) p m r = .ok (withTile e i p m, { r with env := env }) := by
  rw [miSealed_withTile e i p word] at given
  rw [withTile_eq]
  generalize sectionAt (m.drop 64) i = s at given ⊢
  simp only [tileReads, List.cons_append] at given
  rw [readTile, run_bind_ok (h.run_readPart given _ _), run_bind_ok ((h.answered _).run_readPart rfl _ _), ← withoutTag]
  cases miSealed (withoutTag e s p m) with
  | false => rfl
  | true => exact (h.answered _).run_readPart (e := e) rfl image (withoutTag e s p m)

/-- R263, R547: tiles that stream from a copy `e` of the image and pass their checks leave the image with its tiles in plaintext. -/
theorem run_streamTiles {key e plain : List Byte} (image : Nat) {ts : List (Nat × Nat)} {m : List Byte} {r : Run0} (h : ReadsHost r)
    (word : 8 ≤ m.length) (given : r.env = tileAnswers key e ts m) (streams : streamed key e ts m = .ok plain) :
    streamTiles key image ts m r = .ok (plain, { r with env := [] }) := by
  induction ts generalizing m r with
  | nil =>
    cases streams
    rw [← show r.env = [] from given]
    rfl
  | cons t ts ih =>
    obtain ⟨i, p⟩ := t
    simp only [streamed] at streams
    cases admitted : admitTile key (withTile e i p m) i (sectionAt (m.drop 64) i) p with
    | error st => simp [admitted] at streams
    | ok tile =>
      simp only [admitted] at streams
      have reads : r.env = tileReads e (sectionAt (m.drop 64) i) p (miSealed (withTile e i p m)) ++
          tileAnswers key e ts (putBytes (withTile e i p m) ((sectionAt (m.drop 64) i).offset + 65536 * p) tile) := by
        rw [given]
        simp only [tileAnswers, tileReads, admitted, List.cons_append]
      rw [streamTiles, run_bind_ok (run_readTile h word reads image)]
      simp only [admitted]
      exact ih (h.answered _) ((word.trans (le_withTile_length ..)).trans (le_putBytes_length ..)) rfl streams

/-! ## Loading a model (R263, R264) -/

/-- R263: the command of MODEL_LOAD is its descriptor's body. -/
theorem exec_modelLoad (d : Desc) (env : Env) (s : State) : exec (.modelLoad d env) s = .next (acceptSeq s d env (modelLoadBody d)) := rfl

theorem emptySlot_none {c : Core} {slot : Nat} (empty : mapGet c.obj.models slot = none) : emptySlot c slot = c := by
  rw [emptySlot, empty]

/-- R263, R264: a run whose model has found its slot empty and has taken its frames, which a wait would keep. -/
def modelRun (r : Run0) (slot n0 n1 : Nat) (env : Env) : Run0 :=
  { r with core := takeFree (takeFree r.core false n0) true n1, base := takeFree (takeFree (emptySlot r.base slot) false n0) true n1
           memo := r.memo ++ [0] ++ [0], env := env }

theorem ReadsHost.model {r : Run0} (h : ReadsHost r) (slot n0 n1 : Nat) (env : Env) : ReadsHost (modelRun r slot n0 n1 env) := by
  obtain ⟨_, _, _, frees⟩ := takeFrees_counts r.core n0 n1
  exact h.of_mem rfl rfl (by simp only [modelRun, frees]) (by simp only [modelRun, frees])

/-- R263: what the checks before the fit ask of a model image's header `h` and section table `tb`. -/
structure ModelSound (d : Desc) (c : Core) (rot : Rot) (h tb : List Byte) (v : Vocab) : Prop where
  session : d.session = 0
  aligned : d.field 2 63 0 0 % 65536 = 0
  nonempty : d.field 3 63 0 0 ≠ 0
  empty : mapGet c.obj.models (slotOf d) = none
  still : slotLoading c d (slotOf d) = false
  shape : miHeaderBad h (d.field 3 63 0 0) = false
  header : hdrCheckBad h = false
  limits : miLimits h = true
  sections : sectionTableBad h tb (d.field 3 63 0 0) = false
  vocab : mapGet c.obj.vocabs (modelVocab h) = some v
  tokens : vocabTokens v.image = miVocab h
  key : miSealed h = true → mapHas rot.sealKeys (miKeyId h) = true

/-- R263, R264: an image that passes its checks, fits and streams stands in the slot with its tiles in plaintext, and is measured. -/
theorem run_modelLoadBody_loads {d : Desc} {a b e h tb m key plain : List Byte} {v : Vocab} {r t : Run0} (host : ReadsHost r)
    (fresh : r.past = []) (head : bytesAt a 0 64 = h) (table : bytesAt b 0 (48 * miSections h) = tb)
    (whole : h ++ tb ++ List.replicate (d.field 3 63 0 0 - 64 - 48 * miSections h) 0 = m)
    (unseals : (mapGet r.rot.sealKeys (miKeyId h)).getD [] = key)
    (env : r.env = .data a :: .data b :: tileAnswers key e (imageTiles m) m) (sound : ModelSound d r.core r.rot h tb v)
    (fits0 : fitsStack r.core false (miFrames h tb false) = true) (fits1 : fitsStack r.core true (miFrames h tb true) = true)
    (streams : streamed key e (imageTiles m) m = .ok plain)
    (taken : t = modelRun r (slotOf d) (miFrames h tb false) (miFrames h tb true) (tileAnswers key e (imageTiles m) m)) :
    let x : Model := { state := 2, image := plain, frames := ⟨miFrames h tb false, miFrames h tb true⟩ }
    modelLoadBody d r = .ok (.done .ok (miFrames h tb false) (miFrames h tb true), { t with
      env := []
      core := { t.core with obj := { t.core.obj with models := mapSet t.core.obj.models (slotOf d) x } }
      ext := t.ext ++ [(6, modelMeasure (slotOf d) (some plain))] }) := by
  obtain ⟨session, aligned, nonempty, empty, still, shape, header, limits, sections, vocab, tokens, hasKey⟩ := sound
  have free : (((mapGet r.core.obj.models (slotOf d)).map fun m => m.available || m.state == 3).getD false ||
      slotLoading r.core d (slotOf d)) = false := by simp [empty, still]
  have opens : (miSealed h && !mapHas r.rot.sealKeys (miKeyId h)) = false := by
    cases isSealed : miSealed h with
    | false => rfl
    | true => simp [hasKey isSealed]
  have once0 : once (fun c => (0, emptySlot c (slotOf d))) r = .ok (0, { r with base := emptySlot r.base (slotOf d), memo := r.memo ++ [0] }) := by
    rw [run_once_new _ _ fresh, emptySlot_none empty]
  have reads : ReadsHost { r with base := emptySlot r.base (slotOf d), memo := r.memo ++ [0] } :=
    ⟨host.had, host.unsent, host.answers, host.noWindow⟩
  rw [modelLoadBody, run_bind_ok (run_check_passes (imageField_sound session aligned nonempty) _ _), run_bind_ok (run_getC r),
    run_bind_ok (run_check_passes free _ _), run_bind_ok once0, run_bind_ok (reads.run_readBus env _ _), head,
    run_bind_ok (run_check_passes shape _ _), run_bind_ok (run_check_passes header _ _), run_bind_ok (run_check_passes (by rw [limits]; rfl) _ _),
    run_bind_ok ((reads.answered _).run_readBus rfl _ _), table, run_bind_ok (run_check_passes sections _ _), run_bind_ok (run_getC _)]
  simp only [vocab]
  rw [run_bind_ok (run_check_passes (by simp [tokens]) _ _), run_bind_ok (run_get _), run_bind_ok (run_check_passes opens _ _),
    run_bind_ok (run_checkFresh_passes (by simp [fits0, fits1]) _ _), run_bind_ok (run_once_new _ _ (by exact fresh))]
  refine orUndo_ok _ _ _ _ ?_
  change (streamTiles _ _ _ _ >>= _) (modelRun r (slotOf d) (miFrames h tb false) (miFrames h tb true) (tileAnswers key e (imageTiles m) m)) = _
  rw [← taken, unseals, whole]
  have long : 8 ≤ m.length := by
    have front : h.length = 64 := by rw [← head, bytesAt_length]
    rw [← whole, List.append_assoc, List.length_append]
    omega
  rw [run_bind_ok (run_streamTiles _ (taken ▸ host.model _ _ _ _) long (by rw [taken]; rfl) streams), run_bind_ok (run_modC _ _),
    run_bind_ok (run_measure _ _ _)]
  rfl

/-- The run of a sequencer's descriptor that has begun reads host memory as the device answers for it. -/
theorem begunSeqRun_reads {s : State} (answers : hostAnswers s.core) (noWindow : mapGet s.core.mem.windows 0 = none) (d : Desc) (env : Env) :
    ReadsHost (begunSeqRun s d env) := ⟨rfl, rfl, answers, noWindow⟩

/-- Settles O25: the bodies of the three loads run to their ends on a descriptor that begins at once, whose reads are answered in turn
(`run_withBoth_image` for what takes frames of both dies, `run_streamTiles` for a model's tiles). -/
theorem loadsFillObjects : Obligations.LoadsFillObjects := by
  unfold Obligations.LoadsFillObjects
  refine ⟨fun d a b s free h0 answers noWindow aligned nonempty header => ?_,
    fun d a b e v plain s free h0 answers noWindow aligned nonempty empty still shape header limits sections vocab tokens hasKey fits0
      fits1 streams => ?_⟩
  · have host := begunSeqRun_reads answers noWindow d [.data a, .data b]
    refine ⟨fun few shape fits checks shape' body new cool => ?_, fun v unused still shape vocab tokens fits checks shape' body cool => ?_⟩
    · rw [exec_vocabLoad, acceptSeq_measured free h0 (run_vocabLoadBody_loads h0 aligned nonempty host rfl rfl header few shape fits checks shape'
        body new cool rfl) rfl]
      rfl
    · rw [exec_grammarLoad, acceptSeq_measured free h0 (run_grammarLoadBody_loads h0 aligned nonempty host rfl rfl header unused still vocab tokens
        shape fits checks shape' body cool rfl) rfl]
      rfl
  · rw [exec_modelLoad, acceptSeq_measured free h0 (run_modelLoadBody_loads (begunSeqRun_reads answers noWindow d _) rfl rfl rfl rfl rfl rfl
      ⟨h0, aligned, nonempty, empty, still, shape, header, limits, sections, vocab, tokens, hasKey⟩ fits0 fits1 streams rfl) rfl]
    rfl

end Sys2Proof.Machine

/-! PROOFS of the statements about shared prefixes (12_prefixes): registering and releasing them. -/

namespace Sys2Proof.Machine

/-! ## Registering prefixes in stacked frames (R354, R355) -/

/-- R354: the command of PREFIX_REGISTER is its descriptor's body. -/
theorem exec_prefixRegister (d : Desc) (env : Env) (s : State) :
    exec (.prefixRegister d env) s = .next (acceptSeq s d env (prefixRegisterBody d)) := rfl

/-- R354: what checks 1 and 2 ask for prefixes in stacked frames, on a ring that has no registration in progress. -/
structure RegisterSound (d : Desc) (c : Core) (m : Model) : Prop where
  session : d.session = 0
  aligned : d.field 2 63 0 0 % 4 = 0
  length : d.field 3 20 0 0 ≤ 1048576
  stacked : regWindow d = 0
  dies : regDies d ≠ 0
  unused : mapGet c.obj.registering d.ring = none
  model : loadedModel c (regSlot d) = some m

/-- R354: the fields of such a descriptor pass check 1. -/
theorem RegisterSound.fields {d : Desc} {c : Core} {m : Model} (h : RegisterSound d c m) :
    (d.session != 0 || d.field 2 63 0 0 % 4 != 0 || decide (1048576 < d.field 3 20 0 0) || regWindow d == 0 && regDies d == 0) = false := by
  simp [h.session, h.aligned, h.length, h.dies]

/-- R354: a list of no tokens registers nothing. -/
theorem run_prefixRegisterBody_empty {d : Desc} {m : Model} {r : Run0} (sound : RegisterSound d r.core m) (empty : d.field 3 20 0 0 = 0) :
    prefixRegisterBody d r = .ok (.done .ok 0 0, r) := by
  rw [prefixRegisterBody, run_bind_ok (run_getC r)]
  simp only [sound.unused]
  rw [run_bind_ok (run_check_passes sound.fields _ _)]
  simp only [sound.model, empty, if_pos]
  rfl

/-- R350: an empty tree matches no block. -/
theorem matchTree_noNodes {o : Objects} (empty : o.nodes = []) (slot dies : Nat) (toks : List Nat) (fuel n : Nat) (h : Word) (parent : Nat) :
    matchTree o slot dies toks fuel n h parent = ([], false) := by
  cases fuel with
  | zero => rfl
  | succ fuel =>
    rw [matchTree]
    split
    · rfl
    · simp [findNode, empty]

@[simp] theorem reserveFree_zero (c : Core) (die : Bool) : reserveFree c die 0 = c := by
  cases die <;> rfl

/-- Which frames of a die are taken does not depend on the descriptors in progress. -/
theorem takeFree_beginSeq_mem (c : Core) (d : Desc) (die : Bool) (n : Nat) : (takeFree (beginSeq c d) die n).mem = (takeFree c die n).mem := by
  simp only [takeFree, apply_ite Core.mem]
  rfl

/-- R354, R355: the registration, in stacked frames, of tokens that match nothing in the tree, before its first position. -/
def newRegistration (c : Core) (d : Desc) (toks : List Nat) : Registration :=
  { desc := d, slot := regSlot d, die := regDie c d, toks := toks, listFrames := tokenFrames toks.length }

/-- A registration stands, with the frames of its token list taken. -/
def withRegistration (c : Core) (d : Desc) (toks : List Nat) : Core :=
  let c' := takeFree c false (tokenFrames toks.length)
  { c' with obj := { c'.obj with registering := mapSet c'.obj.registering d.ring (newRegistration c d toks) } }

/-- Its first chunk waits as a lane of its account. -/
def registered (c : Core) (d : Desc) (toks : List Nat) : Core :=
  waking (withRegistration c d toks) (regDie c d) fun c' => joinLane c' (regDie c d) d.account (regLane d.ring)

/-- R355: the die that computes prefixes in stacked frames. -/
theorem regDie_stacked {d : Desc} (stacked : regWindow d = 0) (c : Core) :
    regDie c d = if regDies d = 3 then decide (freeOf c false < freeOf c true) else regDies d == 2 := by
  simp [regDie, stacked, freerDie]

section
variable (c : Core) (d : Desc) (toks : List Nat)

theorem registered_mem : (registered c d toks).mem = (takeFree c false (tokenFrames toks.length)).mem := rfl

theorem registered_rings : (registered c d toks).rings = c.rings := by
  change (takeFree c false (tokenFrames toks.length)).rings = c.rings
  rw [takeFree_frame]

theorem mapGet_registered : mapGet (registered c d toks).obj.registering d.ring = some (newRegistration c d toks) := mapGet_set_same ..
end

/-- R354, R355: tokens of the vocabulary, for which the tree holds no node and whose frames there is room for, begin a registration. -/
theorem run_prefixRegisterBody_begins {d : Desc} {m : Model} {bs : List Byte} {toks : List Nat} {r : Run0} (sound : RegisterSound d r.core m)
    (nonempty : 0 < d.field 3 20 0 0) (host : ReadsHost r) (env : r.env = [.data bs]) (replicated : miSpanned m.image = false)
    (few : r.core.obj.prefixes.length + r.core.obj.registering.length < 4096) (empty : r.core.obj.nodes = [])
    (read : ((List.range (d.field 3 20 0 0)).map fun i => leAt (bytesAt bs 0 (4 * d.field 3 20 0 0)) (4 * i) 4) = toks)
    (known : ∀ t ∈ toks, t < miVocab m.image)
    (fits : regShort r.core m.image d (d.field 3 20 0 0) (cdiv (d.field 3 20 0 0) (pageP m.image))
      (nodesWith r.core.obj (regSlot d) toks (d.field 3 20 0 0 / 64)) = false) :
    prefixRegisterBody d r = .ok (.running, { r with core := registered r.core d toks, env := [] }) := by
  have long : toks.length = d.field 3 20 0 0 := by simp [← read]
  have nonzero : d.field 3 20 0 0 ≠ 0 := by omega
  have vocab : (toks.any fun t => decide (miVocab m.image ≤ t)) = false := by simpa using known
  rw [prefixRegisterBody, run_bind_ok (run_getC r)]
  simp only [sound.unused]
  rw [run_bind_ok (run_check_passes sound.fields _ _)]
  simp only [sound.model, nonzero, if_false]
  rw [run_bind_ok (run_check_passes (by simp [replicated, sound.stacked]) _ _), run_bind_ok (run_check_passes (by simp [sound.stacked]) _ _),
    run_bind_ok (run_check_passes (by simpa using few) _ _), run_bind_ok (host.run_readBus env _ _), read,
    run_bind_ok (run_check_passes vocab _ _), run_bind_ok (run_getC _)]
  -- Nothing matched: no column is reused, so no frame is shared or copied, and the fit test is of the whole list.
  simp only [sound.stacked, matchTree_noNodes empty, Bool.false_eq_true, ite_self, if_false, List.getLast?_nil, Option.bind_none,
    List.length_nil, Nat.mul_zero, Nat.zero_mul, Nat.zero_div, Nat.sub_zero, Nat.min_zero, List.append_nil, List.flatMap_nil,
    List.filter_nil, List.find?_nil, reserveFree_zero, treeRefs_nil]
  rw [run_bind_ok (run_putC _ _), run_bind_ok (run_check_passes (by simpa using fits) _ _), if_neg (by simp [nonzero.symm]),
    run_bind_ok (run_putC _ _), ← long]
  rfl

/-! ## Releasing (R364, R365) -/

/-- R364: the command of PREFIX_RELEASE is its descriptor's body. -/
theorem exec_prefixRelease (d : Desc) (env : Env) (s : State) :
    exec (.prefixRelease d env) s = .next (acceptSeq s d env (prefixReleaseBody d)) := rfl

/-- R365: what lies in stacked frames goes, and the frames it freed are counted by die. -/
theorem run_releasePrefix_stacked {h : Nat} {p : Prefix} {r : Run0} (live : mapGet r.core.obj.prefixes h = some p) (stacked : p.dies ≠ 0) :
    let c := dropPrefix r.core h
    releasePrefix h r = .ok ((freeOf c false - freeOf r.core false, freeOf c true - freeOf r.core true), { r with core := c }) := by
  rw [releasePrefix, run_bind_ok (run_getC r)]
  simp only [live, stacked, if_false]
  rw [run_bind_ok (run_putC _ _)]
  rfl

section
variable {d : Desc} {r : Run0} (h0 : d.session = 0)
include h0

/-- R364: a handle that is not live is refused. -/
theorem run_prefixReleaseBody_unknown (dead : mapGet r.core.obj.prefixes (d.field 2 31 0 0) = none) :
    prefixReleaseBody d r = .error (.fail .unknownHandle 0 0 r.core) := by
  rw [prefixReleaseBody, run_bind_ok (run_check_passes (by simp [h0]) _ _), run_bind_ok (run_getC r), run_bind, run_check,
    if_pos (by simp [mapHas, dead])]

variable {p : Prefix} (nonzero : d.field 2 31 0 0 ≠ 0) (live : mapGet r.core.obj.prefixes (d.field 2 31 0 0) = some p)
include nonzero live

/-- R364: what sessions name stays, and their number is told. -/
theorem run_prefixReleaseBody_named (named : 0 < prefixUsers r.core (d.field 2 31 0 0)) :
    prefixReleaseBody d r = .error (.fail .wrongState (prefixUsers r.core (d.field 2 31 0 0)) 0 r.core) := by
  rw [prefixReleaseBody, run_bind_ok (run_check_passes (by simp [h0]) _ _), run_bind_ok (run_getC r),
    run_bind_ok (run_check_passes (by simp [mapHas, nonzero, live]) _ _), if_pos named]
  rfl

/-- R364, R365: what lies in stacked frames and no session names is dropped. -/
theorem run_prefixReleaseBody_drops (stacked : p.dies ≠ 0) (alone : prefixUsers r.core (d.field 2 31 0 0) = 0) :
    let c := dropPrefix r.core (d.field 2 31 0 0)
    prefixReleaseBody d r = .ok (.done .ok (freeOf c false - freeOf r.core false) (freeOf c true - freeOf r.core true), { r with core := c }) := by
  rw [prefixReleaseBody, run_bind_ok (run_check_passes (by simp [h0]) _ _), run_bind_ok (run_getC r),
    run_bind_ok (run_check_passes (by simp [mapHas, nonzero, live]) _ _), if_neg (by simp [alone])]
  exact run_bind_ok (run_releasePrefix_stacked live stacked)
end

/-- Settles O26: the two bodies run to their ends on a descriptor that begins at once. An empty tree matches no block, so a registration
starts with nothing reused and nothing computed (`run_prefixRegisterBody_begins`); a release goes by what the handle names. -/
theorem prefixesRegisteredAndReleased : Obligations.PrefixesRegisteredAndReleased := by
  unfold Obligations.PrefixesRegisteredAndReleased
  refine ⟨fun d bs m s free h0 aligned length stacked dies unused model => ?_, fun d env p s free h0 =>
    ⟨fun nonzero live stacked alone => ?_, fun nonzero live named => ?_, fun dead => ?_⟩⟩
  · have sound : RegisterSound d (beginSeq s.core d) m := ⟨h0, aligned, length, stacked, dies, unused, model⟩
    refine ⟨fun empty => ?_, fun nonempty answers noWindow replicated few empty known => ?_⟩
    · rw [exec_prefixRegister, acceptSeq_done (r := begunSeqRun s d []) free rfl h0 (run_prefixRegisterBody_empty sound empty)]
      rfl
    · intro toks fits
      have long : toks.length = d.field 3 20 0 0 := by simp [toks]
      have run := run_prefixRegisterBody_begins (r := begunSeqRun s d [.data bs]) (toks := toks) sound nonempty
        (begunSeqRun_reads answers noWindow d _) rfl replicated few empty rfl (by simpa [toks] using known) fits
      refine ⟨_, _, by rw [exec_prefixRegister, acceptSeq_running free rfl run], mapGet_registered .., rfl, rfl, ?_, ?_, ?_, ?_⟩
      · rw [← long]; rfl
      · exact regDie_stacked stacked _
      · exact registered_rings ..
      · rw [← long]
        exact (registered_mem ..).trans (takeFree_beginSeq_mem ..)
  · rw [exec_prefixRelease, acceptSeq_done free rfl h0 (run_prefixReleaseBody_drops (r := begunSeqRun s d env) h0 nonzero live stacked alone)]
    rfl
  · rw [exec_prefixRelease, acceptSeq_fails free h0 (run_prefixReleaseBody_named (r := begunSeqRun s d env) h0 nonzero live named)]
    rfl
  · rw [exec_prefixRelease, acceptSeq_fails free h0 (run_prefixReleaseBody_unknown (r := begunSeqRun s d env) h0 dead)]
    rfl

end Sys2Proof.Machine
namespace Sys2Proof.Machine

/-! ## Requests to a pool window (R88, R93, R197) -/

/-- Bytes make a number below 256 to their count. -/
theorem leNat_lt (bs : List Byte) : leNat bs < 256 ^ bs.length := by
  induction bs with
  | nil => simp [leNat]
  | cons b bs ih =>
    have byte : b.toNat < 256 := b.isLt
    rw [leNat, List.length_cons, Nat.pow_succ]
    omega

theorem leAt_lt (bs : List Byte) (o n : Nat) : leAt bs o n < 256 ^ n := by
  have short := leNat_lt (bytesAt bs o n)
  rwa [bytesAt_length] at short

theorem leAt_natLe {n v : Nat} (h : v < 256 ^ n) : leAt (natLe n v) 0 n = v := by
  rw [leAt, bytesAt_all _ _ (natLe_length n v), leNat_natLe n v h]

/-- R404: a lease word has 16 bytes. -/
theorem heldWord_lt (c : Core) (g : Nat) : heldWord c g < 256 ^ 16 := by
  have owner : deviceNo c % 2 ^ 32 < 2 ^ 32 := Nat.mod_lt _ (by decide)
  have gen : g % 2 ^ 32 < 2 ^ 32 := Nat.mod_lt _ (by decide)
  rw [heldWord, leaseWord]
  omega

/-- A part that ends well moves no session. -/
theorem run_movingWhile {α : Type} {m : M α} {r : Run0} {x : α × Run0} (h : m r = .ok x) : movingWhile m r = .ok x := by
  simp [movingWhile, h]

/-- R197: a request to a window has been answered with data: its run of failures has ended. -/
def windowHeard (c : Core) (w : Nat) (x : Window) : Core := setWin c w { x with failures := 0 }

section
variable (c : Core) (w : Nat) (x : Window)

@[simp] theorem heldWord_heard (g : Nat) : heldWord (windowHeard c w x) g = heldWord c g := rfl
@[simp] theorem mayTake_heard (v : Nat) : mayTake (windowHeard c w x) v = mayTake c v := rfl
@[simp] theorem paired_heard : paired (windowHeard c w x) = paired c := rfl
end

/-- R93: a swap at a window offset has landed. -/
def swapped (c : Core) (w : Nat) (x : Window) (off new : Nat) : Core := busWrite (windowHeard c w x) (winAddr c w off) (natLe 16 new)

/-- R82, R197: requests and posted writes touch the bus and the windows alone. -/
structure BusUsed (c d : Core) : Prop where
  frame : d = { c with bus := d.bus, mem := { c.mem with windows := d.mem.windows } }

namespace BusUsed
variable {c d e : Core}

theorem trans (h : BusUsed c d) (k : BusUsed d e) : BusUsed c e := ⟨by rw [k.frame, h.frame]⟩

theorem payload (c : Core) (a : Nat) (bs : List Byte) : BusUsed c (busPayload c a bs) := ⟨rfl⟩

theorem heard (c : Core) (w : Nat) (x : Window) : BusUsed c (windowHeard c w x) := ⟨rfl⟩

theorem swapped (c : Core) (w : Nat) (x : Window) (off new : Nat) : BusUsed c (swapped c w x off new) :=
  (heard c w x).trans ⟨busWrite_frame _ _ _⟩

theorem twin (h : BusUsed c d) : d.twin = c.twin := by rw [h.frame]
theorem rings (h : BusUsed c d) : d.rings = c.rings := by rw [h.frame]
theorem entryOf (h : BusUsed c d) (sid : Nat) : entryOf d sid = entryOf c sid := entryOf_congr (by rw [h.frame]) sid

theorem unmirrored (h : BusUsed c d) (alone : c.twin.state ≠ 2 ∧ c.twin.state ≠ 3) (sid : Nat) : mirrored d sid = false :=
  mirrored_alone (by rw [h.twin]; exact alone.1) (by rw [h.twin]; exact alone.2) sid
end BusUsed

/-- R88, R197: a run that has sent nothing before, on a device whose requests to a pool window are answered. -/
structure ReadsWindow (r : Run0) (w : Nat) (x : Window) : Prop where
  had : r.had = 0
  unsent : r.sent = false
  isWindow : w ≠ 0
  opens : slotBarred r.core w = false
  up : r.core.link.up = true
  tags : 0 < tagsFree r.core
  known : mapGet r.core.mem.windows w = some x

namespace ReadsWindow
variable {r : Run0} {w : Nat} {x : Window} (h : ReadsWindow r w x)
include h

theorem winOf_known : winOf r.core w = x := by simp [winOf, h.known]

/-- It goes on to ask after an answer of another slot's. -/
theorem answered (env : Env) : ReadsWindow { r with env := env } w x := ⟨h.had, h.unsent, h.isWindow, h.opens, h.up, h.tags, h.known⟩

/-- It goes on to ask after an answer. -/
theorem heard (env : Env) : ReadsWindow { r with env := env, core := windowHeard r.core w x } w { x with failures := 0 } :=
  ⟨h.had, h.unsent, h.isWindow, h.opens, h.up, h.tags, mapGet_set_same _ _ _⟩

/-- It goes on to ask after a posted write. -/
theorem posted (a : Nat) (bs : List Byte) : ReadsWindow { r with core := busPayload r.core a bs } w x :=
  ⟨h.had, h.unsent, h.isWindow, h.opens, h.up, h.tags, h.known⟩

variable {bs : List Byte} {env : Env}

/-- R91, R197: its request takes the next answer. -/
theorem run_request (answered : r.env = .data bs :: env) (a n : Nat) :
    request w a n r = .ok (.data bs, { r with env := env, core := windowHeard r.core w x }) := by
  have answer := run_nextAns_window h.had h.unsent h.isWindow h.opens h.up h.tags answered a (readNeed r.core n)
  simp [request, answer, ansStatus, noteAns, windowOutcome_data h.known, windowHeard]

theorem run_winRead (answered : r.env = .data bs :: env) (off n : Nat) :
    winRead w off n r = .ok (bytesAt bs 0 n, { r with env := env, core := windowHeard r.core w x }) := by
  rw [winRead, run_bind_ok (run_getC r), readBus, run_bind_ok (h.run_request answered _ n)]
  rfl

/-- R93: a swap whose answer is the expected word lands. -/
theorem run_swapWord {v : Nat} (answered : r.env = .data (natLe 16 v) :: env) (short : v < 256 ^ 16) (off new : Nat) :
    swapWord w off v new r = .ok (.old v, { r with env := env, core := swapped r.core w x off new }) := by
  have swap : casBus w (winAddr r.core w off) 16 r = .ok (.old v, { r with env := env, core := windowHeard r.core w x }) := by
    rw [casBus, run_bind_ok (h.run_request answered _ 16)]
    simp [leAt_natLe short]
  rw [swapWord, run_bind_ok (run_getC r), run_bind_ok swap]
  simp [swapped]
end ReadsWindow

/-- R89: what a write puts on the bus goes by the bus and by what counts for it. -/
theorem busWrite_congr {c d : Core} (bus : d.bus = c.bus) (cfg : d.cfg = c.cfg) (a : Nat) (bs : List Byte) :
    (busWrite d a bs).bus = (busWrite c a bs).bus := by
  simp only [busWrite, busPost, maxPayload, bus, cfg]

/-! ## HANDOVER_OUT (R405, R407) -/

/-- R391, R407: the ticket of an offer has been written. -/
def ticketed (c : Core) (d : Desc) (ix : SheafIx) : Core :=
  busPayload c (d.field 3 63 0 0) (ticketBytes (winAddr c ix.window (sheafOff c ix)) ix.stamp.toNat (ix.generation + 1) (deviceNo c) ix.size d.session)

/-- R405, R407: the ticket is written and the lease word offered. -/
def offered (c : Core) (d : Desc) (ix : SheafIx) (x : Window) : Core :=
  swapped (ticketed c d ix) ix.window x (sheafOff (ticketed c d ix) ix) (leaseWord (d.field 2 31 0 0) 2 (ix.generation + 1) (deviceNo (ticketed c d ix)))

theorem offered_used (c : Core) (d : Desc) (ix : SheafIx) (x : Window) : BusUsed c (offered c d ix x) :=
  (BusUsed.payload c _ _).trans (.swapped _ _ _ _ _)

/-- R407: an offer whose swap finds the expected word has landed. -/
theorem run_offer_lands {d : Desc} {ix : SheafIx} {x : Window} {r : Run0} {env : Env} {exp : Nat} (window : ReadsWindow r ix.window x)
    (answered : r.env = .data (natLe 16 exp) :: env) (short : exp < 256 ^ 16) (gen : Nat) : offer d ix exp gen r = .ok (true, { r with
      env := env, core := swapped r.core ix.window x (sheafOff r.core ix) (leaseWord (d.field 2 31 0 0) 2 gen (deviceNo r.core)) }) := by
  rw [offer, run_bind_ok (run_getC r), run_bind_ok (run_movingWhile (window.run_swapWord answered short _ _))]
  simp

/-- R10: a session that is not MOVING has no swap in flight. -/
theorem run_backFrom_still {sid : Nat} {r : Run0} (still : (entryOf r.core sid).state ≠ .moving) (st : SState) : backFrom sid st r = .ok ((), r) := by
  simp [backFrom, still]

/-- R507: a lease that is not a dead twin's is not taken over. -/
theorem run_takeoverLease_none {sid : Nat} {r : Run0} (own : mapHas r.core.twin.leases sid = false) : takeoverLease sid r = .ok ((), r) := by
  have none : mapGet r.core.twin.leases sid = none := by simpa [mapHas] using own
  simp [takeoverLease, none]

section
variable (c : Core) (sid : Nat)

theorem entryOf_passLease : entryOf (passLease c sid) sid = {} := by simp [passLease, entryOf]

theorem entryOf_passLease_other {y : Nat} (h : y ≠ sid) : entryOf (passLease c sid) y = entryOf c y := by
  rw [passLease, entryOf_set_other _ _ _ _ h, clearIndex, putIndex_frame]
  rfl

theorem passLease_index : mapGet (passLease c sid).mem.index sid = none := by simp [passLease, clearIndex]

theorem passLease_bus : (passLease c sid).bus = c.bus := by
  rw [passLease, setEntry_bus, clearIndex, putIndex_bus]
  rfl

theorem passLease_rings : (passLease c sid).rings = c.rings := by
  rw [passLease, setEntry_rings, clearIndex, putIndex_rings]
  rfl

theorem passLease_twinState : (passLease c sid).twin.state = c.twin.state := by
  rw [passLease, setEntry_twin, clearIndex, putIndex_twin]
  rfl

theorem passLease_unmirrored (alone : c.twin.state ≠ 2 ∧ c.twin.state ≠ 3) : mirrored (passLease c sid) sid = false :=
  mirrored_alone (by rw [passLease_twinState]; exact alone.1) (by rw [passLease_twinState]; exact alone.2) sid
end

/-- R405, R407: the bus carries the ticket, and then the lease word. -/
theorem offered_bus {b c : Core} (d : Desc) (ix : SheafIx) (x : Window) (same : ∃ sess, b = { c with sess := sess }) :
    (offered b d ix x).bus = (busWrite
      (busPayload c (d.field 3 63 0 0)
        (ticketBytes (winAddr c ix.window (sheafOff c ix)) ix.stamp.toNat (ix.generation + 1) (deviceNo c) ix.size d.session))
      (winAddr c ix.window (sheafOff c ix)) (natLe 16 (leaseWord (d.field 2 31 0 0) 2 (ix.generation + 1) (deviceNo c)))).bus := by
  obtain ⟨sess, rfl⟩ := same
  exact busWrite_congr (d := windowHeard (ticketed { c with sess := sess } d ix) ix.window x) (busPayload_congr rfl rfl _ _) rfl _ _

section
variable {d : Desc} {r : Run0} {x : Window} (reread : mapHas r.core.sess.reread r.sid = false)
  (alone : r.core.twin.state ≠ 2 ∧ r.core.twin.state ≠ 3)
include reread alone

/-- R405, R407: a POOLED session whose lease is found held is offered and passes. -/
theorem run_handoverOutBody_offers {ix : SheafIx} (host : hostAnswers r.core) (window : ReadsWindow r ix.window x)
    (idle : r.core.ckpt.running = none) (pooled : (entryOf r.core d.session).state = .pooled) (own : mapHas r.core.twin.leases d.session = false)
    (aligned : d.field 3 63 0 0 % 32 = 0) (index : mapGet r.core.mem.index d.session = some ix)
    (answered : r.env = [.data (natLe 16 (heldWord r.core ix.generation))]) :
    handoverOutBody d r = .ok (.done .ok 0 0, { r with env := [], core := passLease (offered r.core d ix x) d.session }) := by
  have writes : writeTicket d ix (ix.generation + 1) r = .ok ((), { r with core := ticketed r.core d ix }) := by
    rw [writeTicket, run_bind_ok (run_getC r)]
    exact postBus_up r _ _ host
  have asks : ReadsWindow { r with core := ticketed r.core d ix } ix.window x := window.posted _ _
  have offers : offer d ix (heldWord r.core ix.generation) (ix.generation + 1) { r with core := ticketed r.core d ix } =
    .ok (true, { r with env := [], core := offered r.core d ix x }) := run_offer_lands asks answered (heldWord_lt _ _) _
  have quiet := (offered_used r.core d ix x).unmirrored alone d.session
  have copied : uncopied r.core d.session 2 = false := by simp [uncopied, idle]
  rw [handoverOutBody, run_bind_ok (run_backFrom_still (by simp [pooled]) _), run_bind_ok (run_leaseFirst reread),
    run_bind_ok (run_check_passes (by simp [aligned]) _ _), run_bind_ok (run_getC r),
    run_bind_ok (run_check_passes (by simp [pooled]) _ _), run_bind_ok (run_check_passes (by simp [pooled]) _ _),
    run_bind_ok (run_takeoverLease_none own), run_bind_ok (run_getC r)]
  simp [index, copied, writes, offers, run_mirrorM (r := { r with env := [], core := offered r.core d ix x }) quiet]
end

/-! ## HANDOVER_IN (R406, R408) -/

/-- R406, R408: the header of a sheaf has been read and its offered lease word swapped to held. -/
def claimed (c : Core) (w : Nat) (x : Window) (unit v : Nat) : Core :=
  swapped (windowHeard c w x) w { x with failures := 0 } (unitOff x unit) (heldWord c (leaseGen v + 1))

theorem claimed_used (c : Core) (w : Nat) (x : Window) (unit v : Nat) : BusUsed c (claimed c w x unit v) :=
  (BusUsed.heard c _ _).trans (.swapped _ _ _ _ _)

/-- R408: the index entry of a take, from the ticket `t` and the lease word `v`. -/
def takenIx (w unit v : Nat) (t : List Byte) : SheafIx :=
  { place := 2, window := w, locator := unit, generation := (leaseGen v + 1) % 2 ^ 32, stamp := BitVec.ofNat 64 (leAt t 8 8), size := leAt t 24 4 }

/-- R405: the bus carries the word held. -/
theorem claimed_bus {b c : Core} (w : Nat) (x : Window) (unit v : Nat) (same : ∃ sess, b = { c with sess := sess }) :
    (claimed b w x unit v).bus = (busWrite c (winAddr c w (unitOff x unit)) (natLe 16 (heldWord c (leaseGen v + 1)))).bus := by
  obtain ⟨sess, rfl⟩ := same
  exact busWrite_congr (d := windowHeard (windowHeard { c with sess := sess } w x) w { x with failures := 0 }) rfl rfl _ _

section
variable (c : Core) (d : Desc) (ix : SheafIx)

theorem entryOf_commitTake : entryOf (commitTake c d ix) d.session = { state := .pooled, imagePlace := 2, account := d.account } :=
  entryOf_set_same _ _ _ (by simp)

theorem entryOf_commitTake_other {y : Nat} (h : y ≠ d.session) : entryOf (commitTake c d ix) y = entryOf c y := by
  rw [commitTake, entryOf_set_other _ _ _ _ h, setIndex, putIndex_frame]
  rfl

theorem commitTake_index : mapGet (commitTake c d ix).mem.index d.session = some ix := by simp [commitTake, setIndex]
theorem commitTake_bus : (commitTake c d ix).bus = c.bus := by rw [commitTake, setEntry_bus, setIndex, putIndex_bus]
theorem commitTake_rings : (commitTake c d ix).rings = c.rings := by rw [commitTake, setEntry_rings, setIndex, putIndex_rings]
theorem commitTake_twin : (commitTake c d ix).twin = c.twin := by rw [commitTake, setEntry_twin, setIndex, putIndex_twin]

theorem commitTake_unmirrored (alone : c.twin.state ≠ 2 ∧ c.twin.state ≠ 3) : mirrored (commitTake c d ix) d.session = false :=
  mirrored_alone (by rw [commitTake_twin]; exact alone.1) (by rw [commitTake_twin]; exact alone.2) d.session
end

/-- R408, R501: a take that has its word enters the session, and completes. -/
theorem run_commitTake {d : Desc} {ix : SheafIx} {r : Run0} (quiet : mirrored (commitTake r.core d ix) d.session = false) :
    (do
      modC fun c => commitTake c d ix
      mirrorM d.session (.opened (entryOf (← getC) d.session) none)
      return Done.done .ok 0 0) r = .ok (.done .ok 0 0, { r with core := commitTake r.core d ix }) := by
  rw [run_bind_ok (run_modC _ _), run_bind_ok (run_getC _), run_bind_ok (run_mirrorM (r := { r with core := commitTake r.core d ix }) quiet _)]
  rfl

section
variable {d : Desc} {r : Run0} {x : Window} (reread : mapHas r.core.sess.reread r.sid = false)
  (alone : r.core.twin.state ≠ 2 ∧ r.core.twin.state ≠ 3)
include reread alone

/-- R406, R408: a FREE session takes the sheaf that a ticket names and whose lease is offered to this device. -/
theorem run_handoverInBody_takes {tk hd t h : List Byte} {w unit v : Nat} (host : ReadsHost r) (window : ReadsWindow r w x)
    (free : (entryOf r.core d.session).state = .free) (account : mapHas r.core.acctCfg d.account = true) (aligned : d.field 2 63 0 0 % 32 = 0)
    (ticket : bytesAt tk 0 32 = t) (header : bytesAt hd 0 512 = h) (lease : leAt h 0 16 = v)
    (place : ticketPlace r.core (leAt t 0 8) (leAt t 24 4) = some (w, unit)) (magic : leAt h 256 4 = 0x4F565348)
    (stamp : leAt h 288 8 = leAt t 8 8) (may : mayTake r.core v = true)
    (answered : r.env = [.data tk, .data hd, .data (natLe 16 v)]) :
    handoverInBody d r = .ok (.done .ok 0 0, { r with env := [], core := commitTake (claimed r.core w x unit v) d (takenIx w unit v t) }) := by
  have unpaired : paired r.core = false := by simp [paired, alone.2]
  have ticketRead := host.run_readBus answered (d.field 2 63 0 0) 32
  have asks := window.answered [.data hd, .data (natLe 16 v)]
  have headRead := asks.run_winRead rfl (unitOff x unit) 512
  have swap : swapWord w (unitOff x unit) v (heldWord r.core (leaseGen v + 1)) { r with env := [.data (natLe 16 v)], core := windowHeard r.core w x } =
      .ok (.old v, { r with env := [], core := claimed r.core w x unit v }) :=
    (asks.heard [.data (natLe 16 v)]).run_swapWord rfl (lease ▸ leAt_lt h 0 16) _ _
  have quiet := commitTake_unmirrored (claimed r.core w x unit v) d (takenIx w unit v t) (by rw [(claimed_used ..).twin]; exact alone)
  rw [handoverInBody, run_bind_ok (run_backFrom_still (by simp [free]) _), run_bind_ok (run_leaseFirst reread),
    run_bind_ok (run_check_passes (by simp [aligned]) _ _), run_bind_ok (run_getC r),
    run_bind_ok (run_check_passes (by simp [free]) _ _), run_bind_ok (run_getC r),
    run_bind_ok (run_check_passes (by simp [free, idOnTwin, unpaired]) _ _), run_bind_ok (run_getC r),
    run_bind_ok (run_check_passes (by simp [account]) _ _), run_bind_ok ticketRead, ticket, run_bind_ok (run_getC _)]
  simp only [place]
  rw [run_bind_ok (run_getC _)]
  simp only [window.winOf_known]
  rw [run_bind_ok headRead, header, run_bind_ok (run_getC _)]
  simp only [lease]
  rw [run_bind_ok (run_check_passes (by simp [magic, stamp, may]) _ _), run_bind_ok (run_check_passes (by simp [unpaired]) _ _), heldWord_heard,
    run_bind_ok (run_movingWhile swap)]
  dsimp only
  rw [run_bind_ok (run_check_passes (by simp) _ _)]
  exact run_commitTake (r := { r with env := [], core := claimed r.core w x unit v }) quiet
end

/-! ## Both rows, from the state on which they begin -/

section
variable {s : State} {d : Desc}

theorem exec_handoverOut (env : Env) : exec (.handoverOut d env) s = .next (acceptSession s d env (handoverOutBody d)) := rfl
theorem exec_handoverIn (env : Env) : exec (.handoverIn d env) s = .next (acceptSession s d env (handoverInBody d)) := rfl

/-- R11: a body that ends well with nothing measured leaves the state `c`, on which its descriptor completes. -/
theorem acceptSession_leaves {env left : Env} {m : M Done} {st : Status} {a b : Nat} {c : Core} (free : sessFree s.core d)
    (idle : s.core.ckpt.running = none) (own : ownAccount s.core d)
    (h : m (begunRun s d env) = .ok (.done st a b, { begunRun s d env with env := left, core := c })) (alone : mirrored c d.session = false) :
    acceptSession s d env m = { s with core := complete c d st a b } := acceptSession_done free idle own h alone rfl

variable (idle : s.core.ckpt.running = none) (env : Env)
include idle

theorem begunRun_sess : ∃ sess, (begunRun s d env).core = { s.core with sess := sess } := by
  obtain ⟨_, _, _, _, _, begun⟩ := beginSession_frame idle d
  exact ⟨_, begun⟩

theorem begunRun_readsHost (answers : hostAnswers s.core) (noWindow : mapGet s.core.mem.windows 0 = none) : ReadsHost (begunRun s d env) := by
  obtain ⟨_, _, _, _, _, begun⟩ := beginSession_frame idle d
  exact ⟨rfl, rfl, by rw [begunRun_core, begun]; exact answers, by rw [begunRun_core, begun]; exact noWindow⟩

theorem begunRun_readsWindow {w : Nat} {x : Window} (answers : hostAnswers s.core) (isWindow : w ≠ 0) (opens : slotBarred s.core w = false)
    (known : mapGet s.core.mem.windows w = some x) : ReadsWindow (begunRun s d env) w x := by
  obtain ⟨up, -, tags⟩ := answers
  obtain ⟨_, _, _, _, _, begun⟩ := beginSession_frame idle d
  refine ⟨rfl, rfl, isWindow, ?_, ?_, ?_, ?_⟩ <;> rw [begunRun_core, begun] <;> assumption
end

section
variable {s : State} {d : Desc} {w : Nat} {x : Window} (free : sessFree s.core d) (plain : plainSession s.core d.session)
  (answers : hostAnswers s.core) (noWindow : mapGet s.core.mem.windows 0 = none) (known : mapGet s.core.mem.windows w = some x)
  (opens : slotBarred s.core w = false) (isWindow : w ≠ 0)
include free plain answers noWindow known opens isWindow

/-- R405, R407: HANDOVER_OUT of a POOLED session whose lease is found held. -/
theorem exec_handoverOut_offers {ix : SheafIx} {env : Env} (own : ownAccount s.core d) (pooled : (entryOf s.core d.session).state = .pooled)
    (noLease : mapHas s.core.twin.leases d.session = false) (aligned : d.field 3 63 0 0 % 32 = 0)
    (index : mapGet s.core.mem.index d.session = some ix) (isIn : ix.window = w) (held : env = [.data (natLe 16 (heldWord s.core ix.generation))]) :
    exec (.handoverOut d env) s = .next { s with
      core := complete (passLease (offered (begunRun s d env).core d ix x) d.session) d .ok 0 0 } := by
  subst isIn
  obtain ⟨idle, reread, h2, h3⟩ := plain
  obtain ⟨_, same⟩ := begunRun_sess (d := d) idle env
  have alone : (begunRun s d env).core.twin.state ≠ 2 ∧ (begunRun s d env).core.twin.state ≠ 3 := by rw [same]; exact ⟨h2, h3⟩
  have quiet := passLease_unmirrored (offered (begunRun s d env).core d ix x) d.session (by rw [(offered_used ..).twin]; exact alone)
  have body := run_handoverOutBody_offers (r := begunRun s d env) (by rw [begunRun_core, beginSession_reread idle]; exact reread) alone
    (begunRun_readsHost idle env answers noWindow).answers (begunRun_readsWindow idle env answers isWindow opens known) (by rw [same]; exact idle)
    ((entryOf_beginSession_state idle d).trans pooled) (by rw [same]; exact noLease) aligned (by rw [same]; exact index) (by rw [same]; exact held)
  exact (exec_handoverOut env).trans (congrArg Host.Outcome.next (acceptSession_leaves free idle own body quiet))

/-- R406, R408: HANDOVER_IN of a FREE session, of the sheaf that a ticket names and whose lease word is offered to this device. -/
theorem exec_handoverIn_takes {tk hd t h : List Byte} {unit v : Nat} {env : Env} (unused : (entryOf s.core d.session).state = .free)
    (account : mapHas s.core.acctCfg d.account = true) (aligned : d.field 2 63 0 0 % 32 = 0)
    (ticket : bytesAt tk 0 32 = t) (header : bytesAt hd 0 512 = h) (lease : leAt h 0 16 = v)
    (place : ticketPlace s.core (leAt t 0 8) (leAt t 24 4) = some (w, unit)) (magic : leAt h 256 4 = 0x4F565348)
    (stamp : leAt h 288 8 = leAt t 8 8) (may : mayTake s.core v = true) (answered : env = [.data tk, .data hd, .data (natLe 16 v)]) :
    exec (.handoverIn d env) s = .next { s with
      core := complete (commitTake (claimed (begunRun s d env).core w x unit v) d (takenIx w unit v t)) d .ok 0 0 } := by
  obtain ⟨idle, reread, h2, h3⟩ := plain
  obtain ⟨_, same⟩ := begunRun_sess (d := d) idle env
  have alone : (begunRun s d env).core.twin.state ≠ 2 ∧ (begunRun s d env).core.twin.state ≠ 3 := by rw [same]; exact ⟨h2, h3⟩
  have quiet := commitTake_unmirrored (claimed (begunRun s d env).core w x unit v) d (takenIx w unit v t) (by rw [(claimed_used ..).twin]; exact alone)
  have body := run_handoverInBody_takes (r := begunRun s d env) (by rw [begunRun_core, beginSession_reread idle]; exact reread) alone
    (begunRun_readsHost idle env answers noWindow) (begunRun_readsWindow idle env answers isWindow opens known)
    ((entryOf_beginSession_state idle d).trans unused) (by rw [same]; exact account) aligned ticket header lease (by rw [same]; exact place) magic stamp
    (by rw [same]; exact may) answered
  exact (exec_handoverIn env).trans (congrArg Host.Outcome.next (acceptSession_leaves free idle (.inl unused) body quiet))
end

/-- Settles O35: the two bodies run to their ends on a descriptor that begins at once (`run_handoverOutBody_offers`,
`run_handoverInBody_takes`); what they leave is what `passLease` and `commitTake` make of it. -/
theorem handOverMovesSession : Obligations.HandOverMovesSession := by
  unfold Obligations.HandOverMovesSession
  intro d w x s free plain answers noWindow known opens _ isWindow sid
  have ⟨idle, _, _, _⟩ := plain
  have begunRings : ∀ env, (begunRun s d env).core.rings = s.core.rings := fun env => beginSession_rings idle d
  have others : ∀ env y, y ≠ sid → entryOf (begunRun s d env).core y = entryOf s.core y := fun env y hy => entryOf_beginSession_other idle d hy
  constructor
  · intro ix own pooled noLease aligned index isIn a held
    have used := offered_used (begunRun s d [.data (natLe 16 held)]).core d ix x
    have bus := offered_bus d ix x (begunRun_sess (d := d) idle [.data (natLe 16 held)])
    refine ⟨_, exec_handoverOut_offers free plain answers noWindow known opens isWindow own pooled noLease aligned index isIn rfl, ?_⟩
    subst isIn
    simp only [entryOf_complete, complete_mem, complete_bus]
    exact ⟨entryOf_passLease _ _, passLease_index _ _, (passLease_bus _ _).trans bus,
      complete_rings_congr ((passLease_rings _ _).trans (used.rings.trans (begunRings _))) d .ok 0 0,
      fun y hy => (entryOf_passLease_other _ _ hy).trans ((used.entryOf y).trans (others _ y hy))⟩
  · intro tk hd unit unused account aligned t h v place magic stamp may
    have used := claimed_used (begunRun s d [.data tk, .data hd, .data (natLe 16 v)]).core w x unit v
    have bus := claimed_bus w x unit v (begunRun_sess (d := d) idle [.data tk, .data hd, .data (natLe 16 v)])
    refine ⟨_, exec_handoverIn_takes free plain answers noWindow known opens isWindow unused account aligned rfl rfl rfl place magic stamp may rfl, ?_⟩
    simp only [entryOf_complete, complete_mem, complete_bus]
    exact ⟨entryOf_commitTake .., commitTake_index .., (commitTake_bus ..).trans bus,
      complete_rings_congr ((commitTake_rings ..).trans (used.rings.trans (begunRings _))) d .ok 0 0,
      fun y hy => (entryOf_commitTake_other _ _ _ hy).trans ((used.entryOf y).trans (others _ y hy))⟩

end Sys2Proof.Machine

/-! PROOFS of the statements about the block itself (R537, R551): what a step takes, what it leaves of the queue, and how it moves the measurement registers. -/

namespace Sys2Proof.Machine

/-! ## How a command may move the measurement registers -/

/-- R551: a tenant change: the next epoch, MR5 to MR8 zero, every other register extended. -/
def TenantMoves (r t : Rot) : Prop :=
  t.tenantEpoch = (r.tenantEpoch + 1) % 2 ^ 32 ∧ t.mrs.length = r.mrs.length ∧
  (∀ i, 5 ≤ i → i ≤ 8 → i < r.mrs.length → nth t.mrs i [] = List.replicate 32 0) ∧
  ∀ i, i < 16 → i < 5 ∨ 8 < i → Extended (nth r.mrs i []) (nth t.mrs i [])

/-- What a command does to the measurement registers; `power`: it may also begin them anew. -/
inductive RotMoves (power : Bool) (r t : Rot) : Prop where
  | extended (h : onlyExtends r t)
  | tenant (h : TenantMoves r t)
  | anew (h : power = true) (wf : mrsWf t)

/-- A state that a command answers: the queue as it was, the measurement registers moved. -/
def Answers (power : Bool) (s t : State) : Prop := t.pending = s.pending ∧ RotMoves power s.rot t.rot

/-- A state reached with the queue as it was and registers only extended. -/
def Measures (s t : State) : Prop := t.pending = s.pending ∧ onlyExtends s.rot t.rot

theorem Measures.trans {a b c : State} (h : Measures a b) (k : Measures b c) : Measures a c :=
  ⟨k.1.trans h.1, onlyExtends_trans h.2 k.2⟩

/-- What leaves the queue and the registers, whatever it does to the rest of the root of trust. -/
theorem Measures.of_same {s t : State} (q : t.pending = s.pending) (m : t.rot.mrs = s.rot.mrs) : Measures s t := by
  refine ⟨q, ?_⟩
  rw [onlyExtends, m]
  exact onlyExtends_refl s.rot

theorem Measures.refl (s : State) : Measures s s := .of_same rfl rfl

/-- A measured register is one extension on. -/
theorem Measures.of_extend {s t : State} (x : Nat × List Byte) (q : t.pending = s.pending) (m : t.rot.mrs = (extendMr s.rot x).mrs) :
    Measures s t := by
  refine ⟨q, ?_⟩
  rw [onlyExtends, m]
  exact extendMr_onlyExtends s.rot x

/-- What a carrying out leaves: another core, and the measurements that it made. -/
theorem Measures.of_run {s t : State} (h : ∃ c xs, t = { s with core := c, rot := extendAll s.rot xs }) : Measures s t := by
  obtain ⟨c, xs, rfl⟩ := h
  exact ⟨rfl, extendAll_onlyExtends s.rot xs⟩

theorem Measures.answers {b : Bool} {s t : State} (h : Measures s t) : Answers b s t := ⟨h.1, .extended h.2⟩

/-- A tenant change, and extensions of MR9 after it. -/
theorem TenantMoves.extendMr9 {r t : Rot} (h : TenantMoves r t) (bs : List Byte) : TenantMoves r (extendMr t (9, bs)) := by
  obtain ⟨epoch, long, zero, ext⟩ := h
  have keeps : ∀ i, i ≠ 9 → nth (extendMr t (9, bs)).mrs i [] = nth t.mrs i [] := fun i hi => by
    rw [extendMr_nth, if_neg (fun h => hi h.1.symm)]
  refine ⟨epoch, (extendMr_length t _).trans long, fun i h5 h8 hl => ?_, fun i hi ho => ?_⟩
  · rw [keeps i (by omega)]
    exact zero i h5 h8 hl
  · exact (ext i hi ho).trans' ((extendMr_onlyExtends t (9, bs)).2 i hi)

/-- R551: MR5 to MR8 set to a value, and no other register. -/
theorem nth_setFour (l : List (List Byte)) (z : List Byte) (i : Nat) :
    nth ((((l.set 5 z).set 6 z).set 7 z).set 8 z) i [] = if 5 ≤ i ∧ i ≤ 8 ∧ i < l.length then z else nth l i [] := by
  have set : ∀ (l : List (List Byte)) (j : Nat), nth (l.set j z) i [] = if j = i ∧ i < l.length then z else nth l i [] := fun l j => by
    simp only [nth, List.getD_eq_getElem?_getD, List.getElem?_set]
    by_cases h : j = i
    · subst h
      by_cases hl : j < l.length <;> simp [hl]
    · simp [h]
  simp only [set, List.length_set]
  by_cases hl : i < l.length
  · simp only [hl, and_true]
    grind
  · simp [hl]

/-- R551: the registers after a tenant change. -/
theorem tenantRot_moves (r : Rot) : TenantMoves r (tenantRot r) := by
  refine TenantMoves.extendMr9 (t := { emptyKeys r with
    tenantEpoch := (r.tenantEpoch + 1) % 2 ^ 32, flashEpoch := some ((r.tenantEpoch + 1) % 2 ^ 32)
    mrs := (((r.mrs.set 5 (List.replicate 32 0)).set 6 (List.replicate 32 0)).set 7 (List.replicate 32 0)).set 8 (List.replicate 32 0) }) ?_ _
  refine ⟨rfl, by simp, fun i h5 h8 hl => ?_, fun i _ ho => ?_⟩
  · exact (nth_setFour ..).trans (if_pos ⟨h5, h8, hl⟩)
  · exact (nth_setFour r.mrs _ i).trans (if_neg (by omega)) ▸ .same

/-! ## The shape of the registers -/

/-- R537: sixteen registers, each of 32 bytes. -/
theorem mrsWf_iff (r : Rot) : mrsWf r ↔ r.mrs.length = 16 ∧ ∀ i, i < 16 → (nth r.mrs i []).length = 32 := by
  refine and_congr_right fun n => ⟨fun h i hi => ?_, fun h m hm => ?_⟩
  · rw [nth, List.getD_eq_getElem _ _ (n ▸ hi)]
    exact h _ (List.getElem_mem _)
  · obtain ⟨i, hi, rfl⟩ := List.getElem_of_mem hm
    have := h i (n ▸ hi)
    rwa [nth, List.getD_eq_getElem _ _ hi] at this

/-- An extended register of 32 bytes has 32 bytes. -/
theorem Extended.length_eq {v w : List Byte} (h : Extended v w) (n : v.length = 32) : w.length = 32 := by
  cases h with
  | same => exact n
  | more u d _ _ => exact sha256_length _

/-- However a command moves the registers, they keep their shape. -/
theorem RotMoves.mrsWf {b : Bool} {r t : Rot} (h : RotMoves b r t) (wf : mrsWf r) : mrsWf t := by
  obtain ⟨n, each⟩ := (mrsWf_iff r).mp wf
  cases h with
  | anew _ wf => exact wf
  | extended h => exact (mrsWf_iff t).mpr ⟨h.1.trans n, fun i hi => (h.2 i hi).length_eq (each i hi)⟩
  | tenant h =>
    obtain ⟨_, long, zero, ext⟩ := h
    refine (mrsWf_iff t).mpr ⟨long.trans n, fun i hi => ?_⟩
    by_cases four : 5 ≤ i ∧ i ≤ 8
    · rw [zero i four.1 four.2 (n ▸ hi), List.length_replicate]
    · exact (ext i hi (by omega)).length_eq (each i hi)

/-! ## The root of trust: the mailbox, a tenant change, an unseal -/

theorem modDoe_measures (s : State) (f : Doe → Doe) : Measures s (modDoe s f) := .of_same rfl rfl

theorem respond_measures (s : State) (st : Status) (bs : List Byte) : Measures s (respond s st bs) := .of_same rfl rfl

theorem writeReservation_measures (s : State) (n : Nat) : Measures s (writeReservation s n) := by
  simp only [writeReservation]
  split <;> exact .of_same rfl rfl

theorem reserveFor_measures (s : State) (q : Nat) : Measures s (reserveFor s q) := by
  have first : ∀ s : State, Measures s (if s.rot.reserved < q then writeReservation s q else s) := fun s => by
    split
    · exact writeReservation_measures ..
    · exact .refl _
  have second : ∀ s : State, Measures s (if s.rot.reserved ≤ q then writeReservation s (min leafMax (s.rot.reserved + 256)) else s) := fun s => by
    split
    · exact writeReservation_measures ..
    · exact .refl _
  exact (first s).trans (second _)

theorem resumeLeaf_mrs (r : Rot) (t : Option Nat) : (resumeLeaf r t).mrs = r.mrs := by
  unfold resumeLeaf
  split <;> rfl

theorem quote_measures (s : State) (body : List Byte) : Measures s (quote s body).1 := by
  have resumed : ∀ r : Rot, r.mrs = s.rot.mrs → Measures s { s with rot := r } := fun r h => .of_same rfl h
  have leaf := resumeLeaf_mrs s.rot s.rot.twinKnows
  unfold quote
  split
  · exact respond_measures ..
  · dsimp only
    split
    · exact (resumed _ leaf).trans (respond_measures ..)
    · split
      · exact (resumed _ leaf).trans (reserveFor_measures ..)
      · exact ((resumed _ leaf).trans (reserveFor_measures ..)).trans (.of_same rfl rfl)

theorem keyLoad_measures (s : State) (body : List Byte) : Measures s (keyLoad s body) := by
  unfold keyLoad
  split
  · exact respond_measures ..
  · split
    · exact respond_measures ..
    · exact .of_extend (8, keyMeasure (leAt body 0 4) (leAt body 4 1)) rfl (by dsimp only; split <;> rfl)

theorem keyDestroy_measures (s : State) (body : List Byte) : Measures s (keyDestroy s body) := by
  simp only [keyDestroy]
  split
  · exact respond_measures ..
  · split
    · exact respond_measures ..
    · split
      · exact respond_measures ..
      · refine .of_extend (8, keyMeasure (leAt body 0 4) (if mapHas s.rot.sealKeys (leAt body 0 4) then 1 else 2)) rfl ?_
        dsimp only [respond]
        split <;> split <;> rfl

theorem plainObject_measures (s : State) (body answer : List Byte) : Measures s (plainObject s body answer) := by
  unfold plainObject
  split <;> exact respond_measures ..

theorem carryOut_measures (s : State) (x : DoeObject) : Measures s (carryOut s x).1 := by
  unfold carryOut
  split
  · exact .of_same rfl rfl
  · exact quote_measures ..
  · exact plainObject_measures ..
  · exact plainObject_measures ..
  · exact keyLoad_measures ..
  · exact keyDestroy_measures ..
  · exact respond_measures ..

theorem portAnswer_measures (s : State) (kind : Option Nat) (was : Reply) : Measures s (portAnswer s kind was) := by
  unfold portAnswer
  split
  · exact .of_same rfl rfl
  · exact .refl s

theorem serveObject_measures (s : State) : Measures s (serveObject s) := by
  unfold serveObject
  split
  · exact .refl s
  · next x xs _ =>
    split
    · exact .refl s
    · have out := carryOut_measures s x
      dsimp only
      split
      · exact out
      · split
        · exact (out.trans (modDoe_measures ..)).trans (portAnswer_measures ..)
        · exact out.trans (modDoe_measures ..)

theorem mailbox_measures (s : State) (x : DoeObject) : Measures s (mailbox s x) := by
  unfold mailbox
  split
  · exact .refl s
  · split
    · exact (modDoe_measures ..).trans (serveObject_measures _)
    · exact modDoe_measures ..

theorem doeControl_measures (s : State) (value : Nat) : Measures s (doeControl s value) := by
  unfold doeControl
  split
  · exact modDoe_measures ..
  · split
    · exact .refl s
    · dsimp only
      split
      · split
        · exact (modDoe_measures ..).trans (modDoe_measures ..)
        · exact (modDoe_measures ..).trans (mailbox_measures ..)
      · exact (modDoe_measures ..).trans (modDoe_measures ..)

theorem rtpStatus_measures (s : State) (st : Status) : Measures s (rtpStatus s st) := .of_same rfl rfl

/-- What leaves the queue and the registers is an answer, whatever the command. -/
theorem Answers.of_same {b : Bool} {s t : State} (q : t.pending = s.pending) (m : t.rot.mrs = s.rot.mrs) : Answers b s t :=
  (Measures.of_same q m).answers

theorem tenantChange_answers (b : Bool) (s : State) : Answers b s (tenantChange s) := ⟨rfl, .tenant (tenantRot_moves s.rot)⟩

theorem tenantCommand_answers (b : Bool) (s : State) : Answers b s (tenantCommand s) := by
  unfold tenantCommand
  split
  · exact .of_same rfl rfl
  · split
    · exact .of_same rfl rfl
    · exact tenantChange_answers b s

theorem unsealed_answers (b : Bool) (s : State) : Answers b s (unsealed s) :=
  ⟨rfl, .tenant ((tenantRot_moves s.rot).extendMr9 [0xDB])⟩

theorem unsealRun_answers (b : Bool) (s : State) (env : Env) : Answers b s (unsealRun s env) := by
  unfold unsealRun
  split
  · dsimp only
    split
    · exact unsealed_answers b _
    · exact .of_same rfl rfl
  · exact .of_same rfl rfl
  · exact (modDoe_measures ..).answers

theorem unsealCommand_answers (b : Bool) (s : State) (env : Env) : Answers b s (unsealCommand s env) := by
  unfold unsealCommand
  split
  · exact .of_same rfl rfl
  · split
    · exact .of_same rfl rfl
    · exact unsealRun_answers ..

theorem trustTick_answers (b : Bool) (s : State) : Answers b s (trustTick s) := by
  unfold trustTick
  split
  · split
    · exact unsealRun_answers ..
    · exact (Measures.refl s).answers
  · exact (serveObject_measures s).answers

theorem tick_answers (b : Bool) (s : State) : Answers b s (tick s) := by
  unfold tick
  split
  · exact trustTick_answers b { s with core := _ }
  · exact (Measures.refl s).answers

/-! ## Resets and power -/

theorem askReset_measures (s : State) (k : ResetCause) (same : Bool) : Measures s (askReset s k same) := by
  unfold askReset
  split <;> exact .of_same rfl rfl

/-- R537: registers that a fresh root of trust holds. -/
theorem blank_mrsWf {r : Rot} (h : r.mrs = List.replicate 16 (List.replicate 32 0) := by rfl) : mrsWf r := by
  rw [mrsWf, h]
  exact ⟨rfl, by decide⟩

theorem powerOff_answers (s : State) : Answers true s (powerOff s) := ⟨rfl, .anew rfl blank_mrsWf⟩

theorem powerOn_answers (s : State) (b : BootInfo) : Answers true s (powerOn s b) := by
  refine ⟨rfl, .anew rfl ?_⟩
  simp only [powerOn]
  split
  · exact extendAll_mrsWf _ _ blank_mrsWf
  · exact blank_mrsWf

theorem supplyLost_answers (s : State) (r : Rail) : Answers true s (supplyLost s r) := by
  unfold supplyLost
  split
  · exact powerOff_answers s
  · dsimp only
    split <;> exact .of_same rfl rfl

/-! ## Descriptors that are carried out, and writes -/

theorem settle_measures (s : State) (d : Desc) (env : Env) (m : M Done) (before : Option Waiting) : Measures s (settle s d env m before) :=
  .of_run (settle_cases s d env m before)

theorem resume_measures (s : State) (w : Waiting) (more : Env) : Measures s (resume s w more) :=
  ⟨(settle_measures { s with core := _ } ..).1, (settle_measures { s with core := _ } ..).2⟩

theorem nextSession_measures (s : State) (sid : Nat) (env : Env) : Measures s (nextSession s sid env) := by
  unfold nextSession
  split
  · exact .refl s
  · split
    · exact .refl s
    · exact settle_measures { s with core := _ } ..

theorem nextSeq_measures (s : State) (ring : Nat) (env : Env) : Measures s (nextSeq s ring env) := by
  unfold nextSeq
  split
  · exact .refl s
  · split
    · exact .refl s
    · exact settle_measures { s with core := _ } ..

theorem descriptorDispatch_measures (s : State) (q : Bool) (id : Nat) (env : Env) : Measures s (descriptorDispatch s q id env) := by
  unfold descriptorDispatch
  dsimp only
  split
  · exact .refl s
  · split
    · exact resume_measures ..
    · split
      · exact nextSession_measures ..
      · split
        · exact settle_measures ..
        · exact nextSeq_measures ..

theorem acceptRouted_measures (s : State) (d : Desc) : Measures s (acceptRouted s d) := by
  unfold acceptRouted
  dsimp only
  split
  · exact .of_same rfl rfl
  · exact .of_same rfl rfl
  · exact settle_measures ..
  · exact .of_same rfl rfl
  · exact .of_same rfl rfl

theorem descriptorRoute_measures (s : State) (ring : Nat) : Measures s (descriptorRoute s ring) := by
  unfold descriptorRoute
  dsimp only
  split
  · exact .refl s
  · split
    · exact .refl s
    · split
      · exact .refl s
      · exact .of_same rfl rfl
      · split
        · exact .refl s
        · exact acceptRouted_measures { s with core := _ } _

theorem timeOut_measures (s : State) (q : Bool) (id : Nat) (applies : Waiting → Bool) (wake : Core → Core) :
    Measures s (timeOut s q id applies wake) := by
  unfold timeOut
  split
  · exact .refl s
  · split
    · split
      · exact resume_measures { s with core := _ } ..
      · exact .refl s
    · exact .refl s

theorem pcieError_measures (s : State) (q : Bool) (id : Nat) : Measures s (pcieError s q id) := by
  unfold pcieError
  split
  · split
    · exact .of_same rfl rfl
    · exact .refl s
  · exact .refl s

theorem integrityFailure_measures (s : State) (slot : Nat) : Measures s (integrityFailure s slot) := by
  have each : ∀ (l : List Waiting) (s : State), Measures s (l.foldl (fun s w => resume s w (failedAns w)) s) := fun l => by
    induction l with
    | nil => exact .refl
    | cons w l ih => exact fun s => (resume_measures s w _).trans (ih _)
  unfold integrityFailure
  dsimp only
  split
  · exact .refl s
  · split
    · exact .of_same rfl rfl
    · exact each _ { s with core := _ }

theorem eventRun_measures (s : State) (env : Env) (m : M Unit) : Measures s (eventRun s env m) := by
  unfold eventRun
  split
  · exact .of_run ⟨_, _, rfl⟩
  · exact .of_same rfl rfl
  · exact .refl s

theorem epochRun_measures (s : State) (env : Env) (m : M Unit) : Measures s (epochRun s env m) := by
  unfold epochRun
  split
  · exact .of_same rfl rfl
  · exact .of_same rfl rfl
  · exact .refl s

theorem epochWrite_measures (s : State) (sid : Nat) (env : Env) : Measures s (epochWrite s sid env) := by
  unfold epochWrite
  split
  · exact .refl s
  · split
    · exact .refl s
    · split
      · exact .refl s
      · exact epochRun_measures ..

theorem epochEnd_measures (s : State) (env : Env) : Measures s (epochEnd s env) := by
  unfold epochEnd
  split
  · exact .refl s
  · split
    · exact .of_same rfl rfl
    · split
      · exact .refl s
      · dsimp only
        split
        · exact epochRun_measures ..
        · split
          · exact epochRun_measures ..
          · exact (epochRun_measures ..).trans (.of_same rfl rfl)

theorem policyPark_measures (s : State) (sid : Nat) (env : Env) : Measures s (policyPark s sid env) := by
  unfold policyPark
  dsimp only
  split
  · exact .refl s
  · split
    · exact .refl s
    · split <;> exact .of_same rfl rfl

theorem syncDone_measures (s : State) (too : Bool) (env : Env) : Measures s (syncDone s too env) := by
  unfold syncDone
  dsimp only
  split
  · exact .of_same rfl rfl
  · split
    · exact eventRun_measures { s with core := _ } ..
    · exact .of_same rfl rfl

theorem lockDone_measures (s : State) : Measures s (lockDone s) := by
  unfold lockDone
  dsimp only
  split
  · exact .refl s
  · split
    · exact .of_same rfl rfl
    · exact .of_extend (5, rwsString s.core) rfl rfl

theorem poolCfgWrite_measures (s : State) (w off size value : Nat) (env : Env) : Measures s (poolCfgWrite s w off size value env) := by
  unfold poolCfgWrite
  dsimp only
  split
  · split
    · exact .of_same rfl rfl
    · split <;> exact .of_same rfl rfl
  · split
    · exact .of_same rfl rfl
    · exact eventRun_measures { s with core := _ } ..

theorem poolWrite_measures (s : State) (off size value : Nat) : Measures s (poolWrite s off size value) := by
  unfold poolWrite
  dsimp only
  split
  · exact .of_same rfl rfl
  · exact poolCfgWrite_measures ..

/-- R86: a write that BAR0 takes does what its register does with it. -/
theorem bar0WriteS_answers (b : Bool) (s : State) (off size : Nat) (f : State → State) (h : ∀ s, Answers b s (f s)) :
    Answers b s (bar0WriteS s off size f) := by
  unfold bar0WriteS
  dsimp only
  split
  · exact .of_same rfl rfl
  · exact h { s with core := _ }

theorem commandWrite_answers (b : Bool) (s : State) (base off value : Nat) : Answers b s (commandWrite s base off value) := by
  unfold commandWrite
  split
  · exact (Measures.refl s).answers
  · split
    · split
      · exact tenantCommand_answers ..
      · exact unsealCommand_answers ..
      · exact (Measures.refl s).answers
    · split
      · exact .of_same rfl rfl
      · exact (askReset_measures ..).answers
      · exact (Measures.refl s).answers

theorem bar0Store_answers (b : Bool) (s : State) (off size value : Nat) : Answers b s (bar0Store s off size value) := by
  have put : ∀ c, Answers b s { s with core := c } := fun c => Answers.of_same rfl rfl
  have branch : ∀ (p : Prop) [Decidable p] (t u : State), Answers b s t → Answers b s u → Answers b s (if p then t else u) :=
    fun p _ t u ht hu => by
      split
      · exact ht
      · exact hu
  unfold bar0Store
  dsimp only
  iterate 8 refine branch _ _ _ (put _) ?_
  refine branch _ _ _ (poolWrite_measures ..).answers ?_
  refine branch _ _ _ (put _) ?_
  exact branch _ _ _ (commandWrite_answers ..) (put _)

theorem hostWrite_answers (b : Bool) (s : State) (bar off size value : Nat) : Answers b s (hostWrite s bar off size value) := by
  unfold hostWrite
  split
  · exact .of_same rfl rfl
  · split
    · exact bar0WriteS_answers b s off size _ fun s => bar0Store_answers b s off size value
    · split
      · unfold configStore
        split
        · exact (doeControl_measures ..).answers
        · exact .of_same rfl rfl
      · exact (Measures.refl s).answers

theorem hostRead_measures (s : State) (bar off size : Nat) : Measures s (hostRead s bar off size) := by
  have nonce : ∀ (up : Bool) (off : Nat), (if up = true then noteNonce s.rot off else s.rot).mrs = s.rot.mrs := fun up off => by
    unfold noteNonce
    cases up
    · rfl
    · simp only [if_true]
      split <;> rfl
  unfold hostRead
  split
  · unfold bar0Read
    dsimp only
    split
    · exact .refl s
    · split
      · exact .of_same rfl rfl
      · split
        · exact .of_same rfl rfl
        · exact .of_same rfl (nonce ..)
  · split
    · exact .of_same rfl rfl
    · split
      · exact .of_same rfl rfl
      · exact .refl s

/-! ## Every command -/

/-- Commands with which power comes or goes. -/
def turnsPower : Instr → Bool
  | .powerOnReset _ | .supplyLost _ | .surpriseRemoval => true
  | _ => false

/-- A command answers a next state that leaves the queue alone and moves the registers. -/
def Meets (b : Bool) (s : State) (o : Host.Outcome State Fault Refusal) : Prop := ∃ t, o = .next t ∧ Answers b s t

theorem Meets.of_next {b : Bool} {s t : State} (h : Answers b s t) : Meets b s (.next t) := ⟨t, rfl, h⟩

theorem Meets.of_measures {b : Bool} {s t : State} (h : Measures s t) : Meets b s (.next t) := ⟨t, rfl, h.answers⟩

/-- A branch on which a command does nothing else than on another. -/
theorem Answers.of_ite {b : Bool} {s t u : State} {p : Prop} [Decidable p] (ht : Answers b s t) (hu : Answers b s u) :
    Answers b s (if p then t else u) := by
  split
  · exact ht
  · exact hu

theorem Answers.refl (b : Bool) (s : State) : Answers b s s := (Measures.refl s).answers

theorem execReleaseListRetry_meets (b : Bool) (w : Nat) (env : Env) (s : State) : Meets b s (execReleaseListRetry w env s) := by
  unfold execReleaseListRetry
  dsimp only
  split
  · exact .of_measures (.refl s)
  · split
    · exact .of_measures (.of_same rfl rfl)
    · exact .of_measures (.refl s)

theorem execTakeoverLeaseSwap_meets (b : Bool) (sid : Nat) (env : Env) (s : State) : Meets b s (execTakeoverLeaseSwap sid env s) := by
  refine .of_next (.of_ite (.refl b s) ?_)
  split <;> exact .of_same rfl rfl

theorem execThermalTripCooled_meets (b : Bool) (hottest : Int) (s : State) : Meets b s (execThermalTripCooled hottest s) := by
  refine .of_next (.of_ite (.refl b s) ?_)
  split <;> exact .of_same rfl rfl

theorem execSigningRecord_meets (b : Bool) (bytes : List Byte) (s : State) : Meets b s (execSigningRecord bytes s) := by
  refine .of_next (.of_ite (.refl b s) ?_)
  split <;> exact .of_same rfl rfl

theorem execHello_meets (b : Bool) (h : Hello) (s : State) : Meets b s (execHello h s) :=
  .of_next (.of_ite (.refl b s) (.of_same rfl (resumeLeaf_mrs ..)))

theorem execHeartbeatSilence_meets (b : Bool) (env : Env) (s : State) : Meets b s (execHeartbeatSilence env s) :=
  .of_next (.of_ite (.refl b s) (.of_ite (.of_same rfl rfl) (eventRun_measures { s with core := _ } ..).answers))

/-- Every command answers a next state, leaves the queue alone, and moves the measurement registers as R537 and R551 let it. -/
theorem exec_meets (i : Instr) (s : State) : Meets (turnsPower i) s (exec i s) := by
  cases i
  case nop | fence | turnCancel | ringCreate | ringDestroy | ringDestroyDone | submissionTailWrite | doorbellCompareAndSwap |
      completionHeadWrite | streamHeadWrite | eventHeadWrite | setupDoneWrite | ideRequireWrite | linkHoldWrite | pairEnable | unpair |
      msixUnmask | supplyGoodAssert | perstRelease | stackTraining | thermalTrip | linkLaneRetrain | linkDown | linkReturn |
      linkHoldExpiry | fetchVisit | batchForm | stepCommit | streamRecordWrite | completionRecordWrite | eventRecordWrite |
      coalesceTimerExpiry | bankCommandIssue | scorePartial | distScan | gatherMax | fill | unitFaultRetry | pairDrain |
      pairFenceRepair | frameMigration | forwardSweep | refreshTick | refreshModeChange | governorPeriod | governorLoan | coreSwap |
      clusterFence | regionFence | stackFence | dieLost | loftFrameRetire | parityReplay | idleAgeTick | watchTrigger |
      unitThresholdAction | errorLogEntry | ckptTimerExpiry | ckptStepTrigger | ckptCut | haspSet | ckptPendingStart | hotCopyFill |
      twinFrameReceive | twinFrameReplay | twinLaneSpare | eyeCheck | heartbeatSend | giveUpReceived | takeover | domainPowerOff |
      domainWake | pllLock | deepIdleEntry | ideStreamSecure | ideKeySetSwitch => exact .of_measures (.of_same rfl rfl)
  case lateCompletion | stepFailed | sessionLost | bucketRefill | meterRefill | errorRateWindowEnd | errorRateRecord | unitPeriodEnd |
      unpairReceived | takeoverRingHold | frameGrant | deepIdleWake => exact .of_next (.of_ite (.of_same rfl rfl) (.refl ..))
  case xltMap | xltUnmap | tileCopy | prefixRegister | prefixRelease | grammarLoad | grammarUnload | vocabLoad | vocabUnload |
      modelLoad | modelUnload | indexCreate | indexDestroy | vecInsert | vecDelete | indexCompact | search | tableLoad | tableUnload |
      rowReplace | rowPool | rowUpdate | accountSet | accountDelete | bucketSet | meterSet | ckptClassSet | ckptStart | restore => exact .of_measures (.of_run (acceptSeq_cases ..))
  case sessOpen | sessClose | append | turnRun | park | revive | handoverOut | handoverIn => exact .of_measures (.of_run (acceptSession_cases ..))
  case doeDiscovery | quote | cert | kemKey | keyLoad | keyDestroy => exact .of_measures (mailbox_measures ..)
  case sessQuery => exact .of_next (.of_ite (settle_measures ..).answers (.refl ..))
  case policyPark => exact .of_measures (policyPark_measures ..)
  case poolWindowEnable => exact .of_next (bar0WriteS_answers _ _ _ _ _ fun t => .of_ite (.refl ..) (poolCfgWrite_measures t ..).answers)
  case releaseListRetry => exact execReleaseListRetry_meets ..
  case hostReset => exact .of_next (.of_ite (.refl ..) (.of_ite (bar0WriteS_answers _ _ _ _ _ fun t => .of_same rfl rfl) (.of_same rfl rfl)))
  case fundamentalReset =>
    exact .of_next (.of_ite (.refl ..) (.of_ite (bar0WriteS_answers _ _ _ _ _ fun t => (askReset_measures t ..).answers) (askReset_measures ..).answers))
  case thermalTripCooled => exact execThermalTripCooled_meets ..
  case powerOnReset => exact .of_next (.of_ite (.refl ..) (powerOn_answers ..))
  case supplyLost => exact .of_next (.of_ite (supplyLost_answers ..) (.refl ..))
  case surpriseRemoval => exact .of_next (powerOff_answers s)
  case tenantChange => exact .of_next (tenantCommand_answers ..)
  case debugUnseal => exact .of_next (unsealCommand_answers ..)
  case signingRecord => exact execSigningRecord_meets ..
  case hello => exact execHello_meets ..
  case twinSyncDone => exact .of_next (.of_ite (syncDone_measures ..).answers (.refl ..))
  case heartbeatSilence => exact execHeartbeatSilence_meets ..
  case witnessSwap => exact .of_next (.of_ite (eventRun_measures ..).answers (.refl ..))
  case sessionSync => exact .of_next (.of_ite (eventRun_measures ..).answers (.refl ..))
  case mirrorRecordApply => exact .of_next (.of_ite (eventRun_measures { s with core := _ } ..).answers (.refl ..))
  case twinRequest => exact .of_next (.of_ite (eventRun_measures ..).answers (.refl ..))
  case takeoverLeaseSwap => exact execTakeoverLeaseSwap_meets ..
  case epochWrite => exact .of_measures (epochWrite_measures ..)
  case epochEnd => exact .of_measures (epochEnd_measures ..)
  case descriptorRoute => exact .of_measures (descriptorRoute_measures ..)
  case descriptorDispatch => exact .of_measures (descriptorDispatch_measures ..)
  case tierTimeout => exact .of_measures (timeOut_measures ..)
  case pcieCompletionTimeout =>
    exact .of_next (.of_ite (.of_same rfl rfl) ((pcieError_measures ..).trans (timeOut_measures ..)).answers)
  case ideIntegrityFailure => exact .of_measures (integrityFailure_measures ..)
  case readClearCounter => exact .of_measures (hostRead_measures ..)
  case setupLockDone => exact .of_measures (lockDone_measures s)
  case registerWrite => exact .of_next (hostWrite_answers ..)

/-! ## The statements -/

/-- What a step answers: the state that its command, or one aon cycle, leaves. -/
theorem step_answers {s t : State} (h : step s = .next t) :
    (∃ c rest, s.pending = c :: rest ∧ RotMoves (turnsPower c) s.rot t.rot) ∨ (s.pending = [] ∧ RotMoves false s.rot t.rot) := by
  unfold step at h
  split at h
  · next q =>
    cases h
    exact .inr ⟨q, (tick_answers false s).2⟩
  · next c rest q =>
    obtain ⟨u, ran, _, moves⟩ := exec_meets c { s with pending := rest }
    cases ran.symm.trans h
    exact .inl ⟨c, rest, q, moves⟩

/-- Settles O1: both are what `step` says. -/
theorem stepTakesFrontCommand : Obligations.StepTakesFrontCommand := by
  unfold Obligations.StepTakesFrontCommand
  exact ⟨fun _ _ _ => rfl, fun _ => rfl⟩

/-- Settles O2: the first two parts of `exec_meets`. -/
theorem everyCommandAnswersNext : Obligations.EveryCommandAnswersNext := by
  unfold Obligations.EveryCommandAnswersNext
  intro c s
  obtain ⟨t, ran, queue, _⟩ := exec_meets c s
  exact ⟨t, ran, queue⟩

/-- Settles O3: a step moves the registers as `step_answers` says, and begins them anew only where power comes or goes. -/
theorem measurementsOnlyExtend : Obligations.MeasurementsOnlyExtend := by
  unfold Obligations.MeasurementsOnlyExtend
  intro s t wf ran noReset noLoss noRemoval
  have moves : RotMoves false s.rot t.rot := by
    rcases step_answers ran with ⟨c, rest, queue, moves⟩ | ⟨_, moves⟩
    · cases c
      case powerOnReset b => exact absurd queue (noReset b rest)
      case supplyLost r => exact absurd queue (noLoss r rest)
      case surpriseRemoval => exact absurd queue (noRemoval rest)
      all_goals exact moves
    · exact moves
  cases moves with
  | extended h => exact .inl h
  | tenant h =>
    obtain ⟨epoch, _, zero, ext⟩ := h
    exact .inr ⟨epoch, fun i h5 h8 => zero i h5 h8 (by rw [wf.1]; omega), ext⟩
  | anew h _ => cases h

/-- Settles O4: every way in which a step moves the registers keeps their shape (`RotMoves.mrsWf`). -/
theorem measurementsKeepShape : Obligations.MeasurementsKeepShape := by
  unfold Obligations.MeasurementsKeepShape
  intro s t wf ran
  rcases step_answers ran with ⟨_, _, _, moves⟩ | ⟨_, moves⟩ <;> exact moves.mrsWf wf

/-- Settles O5: the reset state's fields, and the reset values of two registers. -/
theorem resetState : Obligations.ResetState := by
  unfold Obligations.ResetState
  exact ⟨rfl, blank_mrsWf, rfl, rfl, rfl, rfl, by decide, by decide, by decide⟩

end Sys2Proof.Machine

/-! PROOFS of the integrity statements (17_integrity R466 to R487): parity bits and their repair, counts of repaired errors, the error log. -/

namespace Sys2Proof.Machine

/-! ## Parity bits (R466) -/

/-- The XOR of some bits: how many of them are 1, modulo 2. -/
theorem foldl_xor_eq (f : Nat → Bool) (l : List Nat) (b : Bool) :
    l.foldl (fun p i => p ^^ f i) b = (b ^^ (l.filter f).length % 2 == 1) := by
  induction l generalizing b with
  | nil => simp
  | cons x l ih =>
    rw [List.foldl_cons, ih, List.filter_cons]
    cases f x
    · simp
    · have := Nat.mod_two_eq_zero_or_one (l.filter f).length
      simp only [if_true, List.length_cons, Nat.add_mod (l.filter f).length 1]
      rcases this with h | h <;> cases b <;> simp [h]

/-- The XOR of the bits of two rows is the XOR of the rows' XORs. -/
theorem foldl_xor_xor (f g : Nat → Bool) (l : List Nat) (a b : Bool) :
    l.foldl (fun p i => p ^^ (f i ^^ g i)) (a ^^ b) = (l.foldl (fun p i => p ^^ f i) a ^^ l.foldl (fun p i => p ^^ g i) b) := by
  induction l generalizing a b with
  | nil => rfl
  | cons x l ih =>
    simp only [List.foldl_cons, ← ih]
    congr 1
    cases a <;> cases b <;> cases f x <;> cases g x <;> rfl

/-- The numbers of a parity below an even bound that meet a condition. -/
theorem filter_parity (f : Nat → Bool) (r n : Nat) (hr : r < 2) :
    ((List.range (2 * n)).filter fun k => k % 2 == r && f k).length = ((List.range n).filter fun i => f (2 * i + r)).length := by
  induction n with
  | zero => rfl
  | succ n ih =>
    rw [show 2 * (n + 1) = 2 * n + 1 + 1 by omega, List.range_succ, List.range_succ, List.range_succ]
    simp only [List.filter_append, List.length_append, ih, List.filter_cons, List.filter_nil]
    obtain rfl | rfl : r = 0 ∨ r = 1 := by omega
    · have : (2 * n + 1) % 2 = 1 := by omega
      cases f (2 * n) <;> simp [this]
    · have : (2 * n + 1) % 2 = 1 := by omega
      cases f (2 * n + 1) <;> simp [this]

/-- R466: the XOR of one half of a word's bits. -/
def halfParity (f : Nat → Bool) (r : Nat) : Bool := (List.range 32).foldl (fun p i => p ^^ f (2 * i + r)) false

theorem parityBits_eq (w : Word) : parityBits w = (halfParity w.getLsbD 0, halfParity w.getLsbD 1) := rfl

/-- It tells whether an odd number of the bits at the half's places is 1. -/
theorem halfParity_eq (f : Nat → Bool) (r : Nat) (hr : r < 2) :
    halfParity f r = (((List.range 64).filter fun k => k % 2 == r && f k).length % 2 == 1) := by
  rw [halfParity, foldl_xor_eq (fun i => f (2 * i + r)), Bool.false_xor, ← filter_parity f r 32 hr]

/-- A bit flipped changes the parity of its own half. -/
theorem halfParity_flip (w : Word) (i r : Nat) (hi : i < 64) (hr : r < 2) :
    halfParity (w ^^^ BitVec.twoPow 64 i).getLsbD r = (halfParity w.getLsbD r ^^ i % 2 == r) := by
  have one : ((List.range 32).filter fun k => 2 * k + r == i).length = if i % 2 = r then 1 else 0 := by
    interval_cases r <;> interval_cases i <;> rfl
  have flip : ∀ k, (w ^^^ BitVec.twoPow 64 i).getLsbD k = (w.getLsbD k ^^ k == i) := fun k => by
    rw [BitVec.getLsbD_xor, BitVec.getLsbD_twoPow, decide_eq_true hi, Bool.true_and, beq_eq_decide]
    congr 1
    exact decide_eq_decide.mpr eq_comm
  simp only [halfParity, flip]
  rw [show false = (false ^^ false) from rfl, foldl_xor_xor (fun k => w.getLsbD (2 * k + r)) (fun k => 2 * k + r == i)]
  congr 1
  rw [foldl_xor_eq (fun k => 2 * k + r == i), one]
  by_cases h : i % 2 = r <;> simp [h]

/-- R466: one bit flipped: the parity bit of its half no longer agrees. -/
theorem parityBits_flip (w : Word) (i : Nat) (hi : i < 64) :
    parityBits (w ^^^ BitVec.twoPow 64 i) = ((parityBits w).1 ^^ i % 2 == 0, (parityBits w).2 ^^ i % 2 == 1) := by
  simp only [parityBits_eq, halfParity_flip w i _ hi (by omega : 0 < 2), halfParity_flip w i _ hi (by omega : 1 < 2)]

/-- A word agrees with its own parity bits. -/
theorem parityGood_self (w : Word) : parityGood ⟨w, (parityBits w).1, (parityBits w).2⟩ = true := by simp [parityGood]

/-! ## Repaired errors counted (R479, R480) -/

/-- R479: the window's count of a class with one more error. -/
def oneMore (c : Core) (die : Bool) (cls : Nat) : Nat := satAdd 32 ((mapGet (c.errs.rates.get die).now cls).getD 0) 1

/-- R479: the error is counted. -/
def counted (c : Core) (die : Bool) (cls : Nat) : Core :=
  modRates c die fun r => { r with now := mapSet r.now cls (oneMore c die cls) }

/-- R480: the class's ERROR_RATE record of the window has been issued. -/
def toldRate (c : Core) (die : Bool) (cls : Nat) : Core := modRates c die fun r => { r with told := mapSet r.told cls () }

/-- R479, R480: an error of one of the eight classes is counted; the first count above the threshold issues the class's record. -/
theorem countError_eq (c : Core) (die : Bool) {cls : Nat} (h1 : 1 ≤ cls) (h8 : cls ≤ 8) : countError c die cls =
    if rateThresh c cls = 0 ∨ oneMore c die cls ≤ rateThresh c cls ∨ mapHas (c.errs.rates.get die).told cls = true then counted c die cls
    else issueEvent (toldRate (counted c die cls) die cls) 7 die 0 0 cls (oneMore c die cls) := by
  have known : ¬ ((decide (cls = 0) || decide (8 < cls)) = true) := by simp; omega
  have told : ((counted c die cls).errs.rates.get die).told = (c.errs.rates.get die).told := by simp [counted, modRates]
  have asks : (rateThresh (counted c die cls) cls = 0 || decide (oneMore c die cls ≤ rateThresh (counted c die cls) cls) ||
      mapHas ((counted c die cls).errs.rates.get die).told cls) = true ↔
      rateThresh c cls = 0 ∨ oneMore c die cls ≤ rateThresh c cls ∨ mapHas (c.errs.rates.get die).told cls = true := by
    rw [told, Bool.or_eq_true, Bool.or_eq_true, decide_eq_true_eq, decide_eq_true_eq, or_assoc]
    exact Iff.rfl
  have branches : countError c die cls =
      if (rateThresh (counted c die cls) cls = 0 || decide (oneMore c die cls ≤ rateThresh (counted c die cls) cls) ||
          mapHas ((counted c die cls).errs.rates.get die).told cls) = true then counted c die cls
      else issueEvent (toldRate (counted c die cls) die cls) 7 die 0 0 cls (oneMore c die cls) := by
    unfold countError
    rw [if_neg (by simpa using known)]
    rfl
  rw [branches]
  simp only [asks]

/-- R479: the window's counts after one more error. -/
theorem countError_now (c : Core) (die : Bool) {cls : Nat} (h1 : 1 ≤ cls) (h8 : cls ≤ 8) :
    ((countError c die cls).errs.rates.get die).now = mapSet (c.errs.rates.get die).now cls (oneMore c die cls) := by
  rw [countError_eq c die h1 h8]
  split <;> simp [counted, toldRate, modRates]

/-- R480: what one more error leaves of the rings. -/
theorem countError_rings (c : Core) (die : Bool) {cls : Nat} (h1 : 1 ≤ cls) (h8 : cls ≤ 8) : (countError c die cls).rings =
    if rateThresh c cls = 0 ∨ oneMore c die cls ≤ rateThresh c cls ∨ mapHas (c.errs.rates.get die).told cls = true then c.rings
    else (issueEvent c 7 die 0 0 cls (oneMore c die cls)).rings := by
  rw [countError_eq c die h1 h8]
  split
  · rfl
  · exact issueEvent_rings_congr (c := c) (d := toldRate (counted c die cls) die cls) rfl rfl ..

/-- Entering an item in the log leaves the counts of the windows. -/
theorem logErr_now (c : Core) (i : LogItem) (die : Bool) : ((logErr c i).errs.rates.get die).now = (c.errs.rates.get die).now := by
  have noted : ((c.errs.rates.set i.die { c.errs.rates.get i.die with
      logged := mapSet (c.errs.rates.get i.die).logged i.cls () }).get die).now = (c.errs.rates.get die).now := by
    cases die <;> cases i.die <;> rfl
  by_cases repaired : repairedKind i.kind = true
  · simp only [logErr, repaired, Bool.true_and, if_true]
    repeat' split
    · rfl
    all_goals exact noted
  · simp only [logErr, repaired, Bool.false_and, Bool.false_eq_true, if_false]
    repeat' split
    all_goals rfl

/-! ## A replay that repairs (R467) -/

/-- The first good word behind lost ones. -/
theorem findIdx_good {lost : List Fetched} (bad : ∀ f ∈ lost, parityGood f = false) (w : Word) :
    (lost ++ [Fetched.mk w (parityBits w).1 (parityBits w).2]).findIdx? parityGood = some lost.length := by
  have none_lost : lost.findIdx? parityGood = none := List.findIdx?_eq_none_iff.mpr bad
  rw [List.findIdx?_append, none_lost, Option.none_or, List.findIdx?_cons, parityGood_self, if_pos rfl, Option.map_some, Nat.zero_add]

/-- R467: a word of a cluster switch that a replay within the limit brings good: a repair of class 1. -/
theorem parityReplay_repairs (c : Core) (die : Bool) (wh : Where) (sid pa : Nat) {lost : List Fetched} (w : Word) (few : lost.length < 4)
    (bad : ∀ f ∈ lost, parityGood f = false) :
    parityReplay c die .clusterSwitch wh (lost ++ [⟨w, (parityBits w).1, (parityBits w).2⟩]) sid pa =
      logErr (countError c die 1) { cls := 1, kind := 1, die := die, severity := 0, wh := wh, session := sid, addr := pa } := by
  have within : (lost ++ [Fetched.mk w (parityBits w).1 (parityBits w).2]).take (parityLimit .clusterSwitch) =
      lost ++ [⟨w, (parityBits w).1, (parityBits w).2⟩] := List.take_of_length_le (by simp [parityLimit]; omega)
  simp only [parityReplay, within, findIdx_good bad]
  rfl

/-- Settles O55: one flipped bit changes one parity bit, two in different halves both (`parityBits_flip`); a good replay repairs
(`parityReplay_repairs`). -/
theorem parityDetects : Obligations.ParityDetects := by
  unfold Obligations.ParityDetects
  constructor
  · intro w i j hi hj
    refine ⟨?_, parityGood_self w, ?_, fun differ => ?_⟩
    · rw [parityBits_eq, halfParity_eq _ 0 (by omega), halfParity_eq _ 1 (by omega)]
    · rw [parityGood, parityBits_flip w i hi]
      generalize parityBits w = p
      rcases Nat.mod_two_eq_zero_or_one i with h | h <;> simp [h, Prod.ext_iff]
    · rw [parityGood, parityBits_flip _ j hj, parityBits_flip w i hi]
      generalize parityBits w = p
      rcases Nat.mod_two_eq_zero_or_one i with h | h
      · have h' : j % 2 = 1 := by omega
        simp [h, h', Prod.ext_iff]
      · have h' : j % 2 = 0 := by omega
        simp [h, h', Prod.ext_iff]
  · intro die w lost wh sid pa s serves few bad
    refine ⟨_, exec_parityReplay_serving serves .., ?_⟩
    obtain ⟨errs, regs, rings, same⟩ := countError_frame s.core die 1
    dsimp only
    rw [parityReplay_repairs _ _ _ _ _ w few bad, logErr_now, countError_now _ _ (by omega) (by omega), mapGet_set_same, logErr_levels, logErr_mem,
      logErr_sess, same]
    exact ⟨rfl, rfl, rfl, rfl⟩

/-! ## Counts of units (R482) -/

/-- R482: a stack after the end of its die's period. -/
def periodStack (die : Bool) (k : Nat) (x : Stack) : Stack :=
  if stackDie k == die then { x with pairs := x.pairs.map fun q => (q.1, { q.2 with errors := 0 }) } else x

theorem endPeriod_stackTab (c : Core) (die : Bool) :
    (endPeriod c die).stackTab = c.stackTab.map fun p => (p.1, periodStack die p.1 p.2) := by
  refine List.map_congr_left fun p _ => ?_
  unfold periodStack
  split <;> rfl

/-- R482: with a period's end no pair of the die has a count. -/
theorem pairOf_endPeriod (c : Core) (die : Bool) (k q : Nat) (own : stackDie k = die) :
    (pairOf (endPeriod c die) (512 * k + q % 512)).errors = 0 := by
  have stack : (512 * k + q % 512) / 512 = k := by omega
  have cleared : ∀ (l : Map Pair) (i : Nat),
      ((mapGet (l.map fun q : Nat × Pair => (q.1, { q.2 with errors := 0 })) i).getD {}).errors = 0 := fun l i => by
    refine (congrArg (fun o : Option Pair => (o.getD {}).errors) (mapGet_map l (fun p : Pair => { p with errors := 0 }) i)).trans ?_
    cases mapGet l i <;> rfl
  rw [pairOf, stackOf, stack, endPeriod_stackTab, mapGet_mapKeyed]
  cases mapGet c.stackTab k with
  | none => rfl
  | some x =>
    simp only [Option.map_some, Option.getD_some, periodStack, own, beq_self_eq_true, if_true]
    exact cleared ..

/-! ## The watch classes (R481, R516) -/

/-- R517, R518: a trigger of a class while no epoch and no RESTORE runs: the class's epoch, under the next number and sequence. -/
theorem trigger_free (c : Core) {cls : Nat} {k : CkClass} (known : mapGet c.ckpt.classes cls = some k) (free : ckptBusy c = false) :
    trigger c cls = startEpoch c cls none := by
  simp [trigger, mapHas, known, free]

/-- R518: what the start of an epoch leaves of the checkpoints. -/
theorem startEpoch_eq (c : Core) {cls : Nat} {k : CkClass} (d : Option Desc) (known : mapGet c.ckpt.classes cls = some k) :
    startEpoch c cls d = { c with ckpt := { c.ckpt with
      running := some { cls := cls, number := c.ckpt.next.getD (regGet c 0x710000), seq := k.seq, desc := d }
      next := some (c.ckpt.next.getD (regGet c 0x710000) % (2 ^ 64 - 1) + 1)
      classes := mapSet c.ckpt.classes cls { k with seq := k.seq + 1 } } } := by
  simp [startEpoch, known]

/-! ## The error log (R483, R486) -/

/-- R484: word 0 of an entry. -/
def logHead (die : Bool) (cls kind severity : Nat) (host : Bool) : Nat :=
  fieldAt 32 8 cls + fieldAt 40 8 kind + fieldAt 48 1 (b2n die) + fieldAt 49 2 severity + fieldAt 51 1 (b2n host)

/-- R483, R484: the fields of word 0 with a sequence number below them. -/
theorem logHead_fields (die host : Bool) {cls kind severity n : Nat} (hk : kind < 256) (hs : severity < 4) :
    (logHead die cls kind severity host + n % 2 ^ 32) % 2 ^ 32 = n % 2 ^ 32 ∧
    bits (logHead die cls kind severity host + n % 2 ^ 32) 47 40 = kind ∧
    bits (logHead die cls kind severity host + n % 2 ^ 32) 50 49 = severity := by
  have b : ∀ x : Bool, b2n x % 2 ^ 1 = b2n x ∧ b2n x < 2 := fun x => by cases x <;> decide
  simp only [logHead, fieldAt, bits, (b die).1, (b host).1]
  have d := (b die).2
  have h := (b host).2
  refine ⟨?_, ?_, ?_⟩ <;> omega

/-- R483: an item that no window counts, with die 0 there to acknowledge it, is entered with the next sequence number. -/
theorem logErr_put (c : Core) (i : LogItem) (kept : repairedKind i.kind = false) (there : c.levels.d0.lost = false) :
    logErr c i = { c with errs := logPut c.errs (logWords c.aon i) } := by
  simp [logErr, kept, there]

/-! ## ErrorsCountedAndLogged (R479 to R487, R516) -/

/-- A command that the device takes while it is ready. -/
theorem whenReady_ready {s : State} (h : ready s.core = true) (f : Core → Core) : whenReady s f = .next { s with core := f s.core } := by
  simp [whenReady, h]

theorem exec_errorRateRecord_ready {s : State} (h : ready s.core = true) (die : Bool) (cls : Nat) :
    exec (.errorRateRecord die cls) s = .next { s with core := countError s.core die cls } :=
  whenReady_ready h fun c => countError c die cls

theorem exec_errorRateWindowEnd_ready {s : State} (h : ready s.core = true) (die : Bool) :
    exec (.errorRateWindowEnd die) s = .next { s with core := modRates s.core die endWindow } :=
  whenReady_ready h fun c => modRates c die endWindow

theorem exec_unitPeriodEnd_ready {s : State} (h : ready s.core = true) (die : Bool) :
    exec (.unitPeriodEnd die) s = .next { s with core := endPeriod s.core die } :=
  whenReady_ready h fun c => endPeriod c die

/-- R482: one more error of a pair that stays below its threshold. -/
theorem exec_unitThresholdAction_below {s : State} (h : serving s.core = true) {stack pair : Nat} (hs : stack < 8) (hp : pair < 512)
    (below : (pairOf s.core (512 * stack + pair)).errors + 1 < regField s.core 0x600108 31 16) :
    exec (.unitThresholdAction (.bankPair stack pair)) s = .next { s with
      core := modPair s.core (512 * stack + pair) fun q => { q with errors := (pairOf s.core (512 * stack + pair)).errors + 1 } } := by
  have known : ¬ ((decide (8 ≤ stack) || decide (512 ≤ pair)) = true) := by simp; omega
  show Host.Outcome.next { s with core := if serving s.core then unitError s.core (.bankPair stack pair) else s.core } = _
  simp only [h, if_true, unitError, if_neg known, if_pos below]

/-- R481, R516: the window's checkpoint of the first watch class has been started. -/
def watchedOnce (c : Core) (die : Bool) : Core := modRates c die fun r => { r with watched := mapSet r.watched 6 () }

/-- R481, R516: a sum above the threshold of the first watch class, the only one that is set, starts its checkpoint. -/
theorem exec_watchTrigger_starts {s : State} {die : Bool} {k : CkClass} (h : serving s.core = true)
    (known : mapGet s.core.ckpt.classes 6 = some k) (enabled : k.enable = true) (set : 0 < regField s.core 0x600100 31 0)
    (above : regField s.core 0x600100 31 0 < watchSum s.core die) (first : mapHas (s.core.errs.rates.get die).watched 6 = false)
    (only : mapHas s.core.ckpt.classes 7 = false) (free : ckptBusy s.core = false) :
    exec (.watchTrigger die) s = .next { s with core := startEpoch (watchedOnce s.core die) 6 none } := by
  have six : watchClass s.core die 6 (regField s.core 0x600100 31 0) = startEpoch (watchedOnce s.core die) 6 none := by
    have passes : ¬ ((decide (regField s.core 0x600100 31 0 = 0) || decide (watchSum s.core die ≤ regField s.core 0x600100 31 0) ||
        !k.enable || mapHas (s.core.errs.rates.get die).watched 6) = true) := by
      simp [enabled, first]
      omega
    simp only [watchClass, known]
    rw [if_neg passes]
    exact trigger_free (watchedOnce s.core die) known free
  have seven : mapGet (startEpoch (watchedOnce s.core die) 6 none).ckpt.classes 7 = none := by
    rw [startEpoch_eq (watchedOnce s.core die) none known, mapGet_set_other _ _ _ _ (by omega)]
    exact Option.not_isSome_iff_eq_none.mp (Bool.not_eq_true _ ▸ only)
  show Host.Outcome.next { s with core := if serving s.core then _ else _ } = _
  simp only [h, if_true, six]
  rw [watchClass, seven]

/-- R483: an entry that die 0 acknowledges. -/
theorem exec_errorLogEntry_put {s : State} {die : Bool} {kind : Nat} (on : s.core.power.on = true) (there : s.core.levels.d0.lost = false)
    (kept : repairedKind kind = false) (severity : Nat) (host : Bool) (wh : Where) (session status opcode addr : Nat) :
    exec (.errorLogEntry die 0 kind severity host wh session status opcode addr) s = .next { s with core := { s.core with
      errs := logPut s.core.errs (logWords s.core.aon { kind := kind, die := die, severity := severity, host := host, wh := wh
                                                        session := session, status := status, opcode := opcode, addr := addr }) } } := by
  show Host.Outcome.next { s with core := if s.core.power.on then logErr s.core _ else s.core } = _
  rw [if_pos on, logErr_put _ _ kept there]

/-- Settles O56: each command by the lemma about it; a count is `countError_now` and `countError_rings`, a period's end `pairOf_endPeriod`, the
fields of an entry `logHead_fields`. -/
theorem errorsCountedAndLogged : Obligations.ErrorsCountedAndLogged := by
  unfold Obligations.ErrorsCountedAndLogged
  intro die s r
  refine ⟨fun cls up h1 h8 => ?_, fun up => ?_, fun up => ?_, fun stack pair up hs hp below => ?_,
    fun k up known enabled set above first only free => ?_, fun kind severity host wh session status opcode addr on there kept hs hk => ?_⟩
  · have now := countError_now s.core die h1 h8
    have rings := countError_rings s.core die h1 h8
    refine ⟨_, exec_errorRateRecord_ready up die cls, ?_, fun k hk => ?_, fun low => ?_, fun set high first => ?_⟩
    · exact now ▸ mapGet_set_same ..
    · exact now ▸ mapGet_set_other _ _ _ _ hk
    · exact rings.trans (if_pos (.inr (.inl low)))
    · refine rings.trans (if_neg ?_)
      rintro (h | h | h)
      · omega
      · exact absurd high (Nat.not_lt.mpr h)
      · exact absurd (first.symm.trans h) (by decide)
  · refine ⟨_, exec_errorRateWindowEnd_ready up die, ?_, ?_, rfl⟩
    · simp [modRates, endWindow, r]
    · simp [modRates]
  · refine ⟨_, exec_unitPeriodEnd_ready up die, ?_, ?_, ?_, pairOf_endPeriod s.core die⟩ <;> simp [endPeriod, modRates, r]
  · exact ⟨_, exec_unitThresholdAction_below up hs hp below, pairOf_modPair .., rfl⟩
  · have starts := startEpoch_eq (watchedOnce s.core die) none known
    refine ⟨_, _, starts ▸ exec_watchTrigger_starts up known enabled set above first only free, rfl, rfl, rfl, ?_⟩
    simp [watchedOnce, modRates, mapHas]
  · obtain ⟨seq, kinds, sev⟩ := logHead_fields die host (cls := 0) (n := s.core.errs.next) hk hs
    refine ⟨_, _, exec_errorLogEntry_put on there kept .., rfl, mapGet_set_same .., seq, kinds, sev, ?_, rfl, rfl⟩
    have fatal : (bits (logHead die 0 kind severity host + s.core.errs.next % 2 ^ 32) 50 49 = 3 && s.core.errs.fatal.isNone) = true ↔
        severity = 3 ∧ s.core.errs.fatal = none := by
      rw [sev]
      simp
    exact if_congr fatal rfl rfl

end Sys2Proof.Machine

/-! PROOFS of the checkpoint statements (19_checkpoint R516 to R533): what starts an epoch, how it is written, what a RESTORE brings back. -/

namespace Sys2Proof.Machine

/-! ## CheckpointsStart (R516 to R520) -/

/-- R563: a local timer of the checkpoint writers that ends deep idle leaves the checkpoints, the rings, memory, the sessions and every register
but the count of exits. -/
theorem wakeBy_writers (c : Core) : (wakeBy c .writers).ckpt = c.ckpt ∧ (wakeBy c .writers).rings = c.rings ∧ (wakeBy c .writers).mem = c.mem ∧
    (wakeBy c .writers).sess = c.sess ∧ regGet (wakeBy c .writers) 0x710000 = regGet c 0x710000 := by
  unfold wakeBy
  split
  · obtain ⟨tab, sch, left⟩ := startDomains_frame (leaveDeep c (wakePlls .writers)) (wakeDomains .writers)
    have base : regGet (leaveDeep c (wakePlls .writers)) 0x710000 = regGet c 0x710000 := regGet_put_other (modPower c _) _ _ _ _ _ (by decide)
    rw [left]
    rw [leaveDeep_frame] at base ⊢
    exact ⟨rfl, rfl, rfl, rfl, base⟩
  · exact ⟨rfl, rfl, rfl, rfl, rfl⟩

/-- R516: the timer of an enabled class fires its trigger. -/
theorem exec_ckptTimerExpiry_fires {s : State} {cls : Nat} {k : CkClass} (up : serving s.core = true)
    (known : mapGet s.core.ckpt.classes cls = some k) (enabled : k.enable = true) (timed : k.timerEn = true) :
    exec (.ckptTimerExpiry cls) s = .next { s with core := trigger (wakeBy s.core .writers) cls } := by
  show execCkptTimerExpiry cls s = _
  simp [execCkptTimerExpiry, onCore, known, up, enabled, timed]

/-- R516: the step count of an enabled class, once reached, fires its trigger. -/
theorem exec_ckptStepTrigger_fires {s : State} {cls : Nat} {k : CkClass} (up : serving s.core = true)
    (known : mapGet s.core.ckpt.classes cls = some k) (enabled : k.enable = true) (counts : 0 < k.steps) (reached : k.steps ≤ k.since) :
    exec (.ckptStepTrigger cls) s = .next { s with core := trigger s.core cls } := by
  show execCkptStepTrigger cls s = _
  simp [execCkptStepTrigger, onCore, known, up, enabled, counts, reached]

/-- R517: the lowest pending class starts. -/
theorem exec_ckptPendingStart_starts {s : State} {cls : Nat} {rest : Map Unit} (up : serving s.core = true) (free : ckptBusy s.core = false)
    (pending : s.core.ckpt.pending = (cls, ()) :: rest) (lowest : ∀ p ∈ rest, cls ≤ p.1) (none_waits : s.core.sess.waiting = []) :
    exec .ckptPendingStart s =
      .next { s with core := startEpoch { s.core with ckpt := { s.core.ckpt with pending := rest } } cls none } := by
  have first : earlierStart s.core cls = false := by
    simpa [earlierStart, pending, none_waits] using lowest
  show Host.Outcome.next { s with core := ckptPendingStart s.core } = _
  simp [ckptPendingStart, pending, up, free, first]

/-- R517: CKPT_START of a class that exists, with no epoch and no earlier start, starts it. -/
theorem run_ckptStartBody_starts {d : Desc} {k : CkClass} {r : Run0} (h0 : d.session = 0)
    (known : mapGet r.core.ckpt.classes (d.field 2 2 0 0) = some k) (free : ckptBusy r.core = false)
    (first : earlierStart r.core (d.field 2 2 0 0) = false) :
    ckptStartBody d r = .ok (.running, { r with core := startEpoch r.core (d.field 2 2 0 0) (some d) }) := by
  simp [ckptStartBody, h0, mapHas, known, free, first]

/-- R519, R520: CKPT_CLASS_SET of a host area, of a class that no epoch runs and that holds no run of units. -/
theorem run_ckptClassSetBody_host {d : Desc} {r : Run0} (h0 : d.session = 0) (good : classBad (classOf0 d) = false)
    (host : (classOf0 d).dest = false) (idle : (r.core.ckpt.running.map (·.cls)) ≠ some (d.field 2 2 0 0))
    (noRun : ∀ o, mapGet r.core.ckpt.classes (d.field 2 2 0 0) = some o → o.run = none) :
    ckptClassSetBody d r = .ok (.done .ok 0 0, { r with core := { r.core with ckpt := { r.core.ckpt with
      classes := mapSet r.core.ckpt.classes (d.field 2 2 0 0) { classOf0 d with
        run := none, attached := d.field 2 21 21 0 == 1
        seq := ((mapGet r.core.ckpt.classes (d.field 2 2 0 0)).map (·.seq)).getD 0
        since := ((mapGet r.core.ckpt.classes (d.field 2 2 0 0)).map (·.since)).getD 0 } } } }) := by
  have dropped : ∀ o : Option CkClass, (∀ k, o = some k → k.run = none) → dropRun o r = .ok ((), r) := fun o h => by
    cases o with
    | none => rfl
    | some k => simp [dropRun, h k rfl]
  simp [ckptClassSetBody, h0, good, host, idle, dropped _ noRun]

/-- Settles O37: each trigger fires (`exec_ckptTimerExpiry_fires` and its likes), and `startEpoch_eq` is the epoch that it starts. -/
theorem checkpointsStart : Obligations.CheckpointsStart := by
  unfold Obligations.CheckpointsStart
  intro cls d env s
  obtain ⟨ckpt, rings, mem, sess, base⟩ := wakeBy_writers s.core
  have busy : ckptBusy (wakeBy s.core .writers) = ckptBusy s.core := by simp only [ckptBusy, restoring, ckpt, sess]
  refine ⟨fun k up known => ⟨fun free => ⟨fun enabled timed => ?_, fun enabled counts reached => ?_, fun rest pending lowest none_waits => ?_,
    fun first h0 names earliest => ?_⟩, fun full enabled timed => ?_⟩, fun first h0 good host idle noRun => ?_⟩
  · have known' : mapGet (wakeBy s.core .writers).ckpt.classes cls = some k := ckpt ▸ known
    refine ⟨_, exec_ckptTimerExpiry_fires up known enabled timed, ?_⟩
    rw [trigger_free _ known' (busy.trans free), startEpoch_eq _ none known', ckpt, base]
    exact ⟨rfl, rfl, rfl, rings, mem, congrArg _ sess⟩
  · refine ⟨_, exec_ckptStepTrigger_fires up known enabled counts reached, ?_⟩
    rw [trigger_free _ known free, startEpoch_eq _ none known]
    exact ⟨rfl, rfl, rfl, rfl, rfl, rfl⟩
  · refine ⟨_, exec_ckptPendingStart_starts up free pending lowest none_waits, ?_⟩
    rw [startEpoch_eq { s.core with ckpt := { s.core.ckpt with pending := rest } } none known]
    exact ⟨⟨rfl, rfl, rfl, rfl, rfl, rfl⟩, rfl⟩
  · subst names
    refine ⟨_, congrArg Host.Outcome.next (acceptSeq_running first rfl (run_ckptStartBody_starts (r := begunSeqRun s d []) h0 known free earliest)), ?_⟩
    rw [startEpoch_eq (begunSeqRun s d []).core (some d) known]
    exact ⟨rfl, rfl, rfl, rfl, rfl, rfl⟩
  · have kept : trigger (wakeBy s.core .writers) cls = { wakeBy s.core .writers with
        ckpt := { s.core.ckpt with pending := mapSet s.core.ckpt.pending cls () } } := by
      simp [trigger, mapHas, ckpt, known, busy, full]
    refine ⟨_, exec_ckptTimerExpiry_fires up known enabled timed, ?_⟩
    rw [kept]
    exact ⟨rfl, rings, mem, sess⟩
  · exact congrArg Host.Outcome.next (acceptSeq_done first rfl h0 (run_ckptClassSetBody_host (r := begunSeqRun s d env) h0 good host idle noRun))

end Sys2Proof.Machine

namespace Sys2Proof.Machine

/-! ## A part of an epoch that runs (R526, R527) -/

/-- What an epoch's run has come to: the epoch as it stands, and what has gone out on the bus. -/
def wrote (r : Run0) (ep : Epoch) (bus : List Post) : Run0 :=
  { r with core := { r.core with bus := bus, ckpt := { r.core.ckpt with running := some ep } } }

/-- A run that begins is what its running epoch has come to. -/
theorem wrote_self {r : Run0} {ep : Epoch} (running : r.core.ckpt.running = some ep) : wrote r ep r.core.bus = r := by
  simp [wrote, ← running]

/-- R82, R89: the bus after a posted write. -/
def posted (c : Core) (a : Nat) (bs : List Byte) (bus : List Post) : List Post := (busPayload { c with bus := bus } a bs).bus

/-- What one epoch's run has to know: reads of host memory are answered, and the class of its epoch writes to a host area. -/
structure HostArea (r : Run0) (cls : Nat) (k : CkClass) : Prop where
  host : ReadsHost r
  known : mapGet r.core.ckpt.classes cls = some k
  own : k.dest = false

section
variable {r : Run0} {ep : Epoch} {k : CkClass} {bus : List Post} (h : HostArea r ep.cls k)
include h

theorem run_epochM : epochM (wrote r ep bus) = .ok ((ep, k), wrote r ep bus) := by
  have known : mapGet (wrote r ep bus).core.ckpt.classes ep.cls = some k := h.known
  rw [epochM, run_bind_ok (run_getC _)]
  simp only [show (wrote r ep bus).core.ckpt.running = some ep from rfl, known]
  rfl

theorem run_shardFits {n : Nat} (fits : ep.offset + n ≤ k.areaSize) : shardFits n (wrote r ep bus) = .ok ((), wrote r ep bus) := by
  rw [shardFits, run_bind_ok (run_epochM h)]
  exact run_check_passes (by simpa using fits) _ _

theorem run_shardAt : shardAt (wrote r ep bus) = .ok (areaAt r.core k (ep.seq % k.keep) + ep.offset, wrote r ep bus) := by
  have same : areaAt (wrote r ep bus).core k (ep.seq % k.keep) = areaAt r.core k (ep.seq % k.keep) := by simp [areaAt, h.own]
  rw [shardAt, run_bind_ok (run_epochM h)]
  exact congrArg (fun a => Except.ok (a + ep.offset, wrote r ep bus)) same

theorem run_areaWrite (a : Nat) (bs : List Byte) :
    areaWrite k a bs (wrote r ep bus) = .ok ((), wrote r ep (posted r.core a bs bus)) := by
  simp only [areaWrite, h.own, Bool.false_eq_true, if_false]
  exact postBus_up _ _ _ h.host.answers

/-- R82: a read of host memory takes its answer, whatever the epoch has written. -/
theorem run_readBus_wrote {ep' : Epoch} {bs : List Byte} {env : Env} (answered : r.env = .data bs :: env) (a n : Nat) :
    readBus 0 a n (wrote r ep' bus) = .ok (bytesAt bs 0 n, { wrote r ep' bus with env := env }) :=
  ReadsHost.run_readBus (r := wrote r ep' bus) ⟨h.host.had, h.host.unsent, h.host.answers, h.host.noWindow⟩ answered a n

theorem run_portOpen : portOpen (wrote r ep bus) = .ok (true, wrote r ep bus) := by
  rw [portOpen, run_bind_ok (run_get _)]
  have up : (wrote r ep bus).core.link.up = true := h.host.answers.1
  rw [up]
  rfl

omit h in
theorem run_modEpoch (f : Epoch → Epoch) : modEpoch f (wrote r ep bus) = .ok ((), wrote r (f ep) bus) := rfl

theorem run_passQueue_idle {die : Bool} (idle : ep.queued die = 0) : passQueue die (wrote r ep bus) = .ok ((), wrote r ep bus) := by
  rw [passQueue, run_bind_ok (run_epochM h)]
  simp [idle]

theorem run_passQueue {die : Bool} (waits : 0 < ep.queued die) (turn : ep.writing ≠ some (!die)) 
    (fits : ep.offset + (256 + ep.recorded die) ≤ k.areaSize) : passQueue die (wrote r ep bus) = .ok ((), wrote r
      { ep with passed := ep.passed.set die (ep.recorded die), writing := some die }
      (posted r.core (areaAt r.core k (ep.seq % k.keep) + ep.offset + 256 + ep.passed.get die) ((ep.filling.get die).flatten.drop (ep.passed.get die)) bus)) := by
  have may : (decide (0 < ep.queued die) && ep.writing != some (!die)) = true := by simp [waits, turn]
  rw [passQueue, run_bind_ok (run_epochM h)]
  simp only [may, if_true]
  rw [run_bind_ok (run_portOpen h), if_pos rfl, run_bind_ok (run_shardFits h fits), run_bind_ok (run_shardAt h), run_bind_ok (run_areaWrite h _ _), run_modEpoch]

/-- R526: a shard without records is not closed. -/
theorem run_closeShard_empty {die : Bool} (empty : ep.filling.get die = []) : closeShard die (wrote r ep bus) = .ok ((), wrote r ep bus) := by
  rw [closeShard, run_bind_ok (run_epochM h)]
  simp [empty]

/-- R526: the epoch with a record as the first of the shard that a die fills, which has gone out. -/
def firstRecord (ep : Epoch) (die : Bool) (x : List Byte) : Epoch :=
  { ep with filling := ep.filling.set die [x], passed := ep.passed.set die x.length, writing := some die }

/-- R526, R59: a record joins an empty shard while no other is being written, and goes out behind the place of the shard's header. -/
theorem run_addRecord_first {die : Bool} {x : List Byte} (empty : ep.filling.get die = []) (none_passed : ep.passed.get die = 0)
    (quiet : ep.writing = none) (long : 0 < x.length) (fits : ep.offset + 256 + x.length ≤ k.areaSize) :
    addRecord die x (wrote r ep bus) = .ok ((), wrote r (firstRecord ep die x)
      (posted r.core (areaAt r.core k (ep.seq % k.keep) + ep.offset + 256) x bus)) := by
  have blank : ep.recorded die = 0 := by simp [Epoch.recorded, empty]
  have joined : ({ ep with filling := ep.filling.mod die fun l => l ++ [x] } : Epoch) = { ep with filling := ep.filling.set die [x] } := by
    simp [PerDie.mod, empty]
  have recorded : Epoch.recorded { ep with filling := ep.filling.set die [x] } die = x.length := by simp [Epoch.recorded]
  have queued : Epoch.queued { ep with filling := ep.filling.set die [x] } die = x.length := by
    rw [Epoch.queued, recorded]
    simp [none_passed]
  rw [addRecord, run_bind_ok (run_epochM h)]
  simp only [blank, Nat.lt_irrefl, decide_false, Bool.false_and, Bool.false_eq_true, if_false]
  rw [run_bind_ok (run_modEpoch _), joined,
    run_passQueue (ep := { ep with filling := ep.filling.set die [x] }) h (by omega) (by simp [quiet]) (by rw [recorded]; show ep.offset + _ ≤ _; omega), recorded]
  simp [firstRecord, none_passed]
end

/-! ## Recording a session by its entry (R526, R528) -/

/-- What the manifest will require, with more requirements. -/
def needing (ep : Epoch) (l : List (Nat × Nat × Nat)) : Epoch :=
  { ep with needs := l.foldl (fun m x => if m.contains x then m else m ++ [x]) ep.needs }

/-- R528: a session's entry, as a record of kind 2. -/
def entryRecord (sid : Nat) (e : Entry) : List Byte := ckptRecord 2 sid 0 (wordsBytes (entryWords {} e 0))

theorem ckptRecord_long (kind sid handle : Nat) (body : List Byte) : 0 < (ckptRecord kind sid handle body).length := by
  rw [ckptRecord, pad256_length, cdiv, List.length_append, wordsBytes, words_length]
  simp only [List.length_cons, List.length_nil]
  omega

section
variable {r : Run0} {ep : Epoch} {k : CkClass} {bus : List Post} (h : HostArea r ep.cls k)
include h

/-- R367: no object that is left among the prefixes bears the handle. -/
theorem run_writePrefix_none {handle : Nat} (none_left : ∀ p ∈ ep.prefixes, p.handle ≠ handle) :
    writePrefix handle (wrote r ep bus) = .ok ((), wrote r ep bus) := by
  have found : (ep.prefixes.find? fun p => p.handle == handle) = none := List.find?_eq_none.mpr (by simpa using none_left)
  rw [writePrefix, run_bind_ok (run_epochM h)]
  simp only [found]
  rfl

/-- R526, R528: a session recorded by its entry alone joins its die's empty shard, and leaves the list. -/
theorem run_writeItem_entry {sid : Nat} {e : Entry} (others : ∀ p ∈ ep.prefixes, p.handle ≠ e.prefixHandle)
    (empty : ep.filling.get (dirDie sid) = []) (none_passed : ep.passed.get (dirDie sid) = 0) (quiet : ep.writing = none)
    (fits : ep.offset + 256 + (entryRecord sid e).length ≤ k.areaSize) :
    writeItem { session := sid, entry := e } (wrote r ep bus) = .ok ((), { wrote r ep bus with
      core := letItem (wrote r (firstRecord (needing ep (entryNeeds e {})) (dirDie sid) (entryRecord sid e))
        (posted r.core (areaAt r.core k (ep.seq % k.keep) + ep.offset + 256) (entryRecord sid e) bus)).core { session := sid, entry := e } }) := by
  have prefix_ : itemPrefix { session := sid, entry := e } (wrote r ep bus) = .ok ((), wrote r ep bus) := by
    unfold itemPrefix
    split
    · rfl
    · exact run_writePrefix_none h others
  rw [writeItem, run_bind_ok prefix_]
  dsimp only
  rw [run_bind_ok (α := Unit) (r' := wrote r (needing ep (entryNeeds e {})) bus) (a := ()) rfl]
  exact run_bind_ok (run_addRecord_first (ep := needing ep (entryNeeds e {})) h empty none_passed quiet (ckptRecord_long ..) fits)

/-- R59: while no shard is being written, the session is recorded at once. -/
theorem run_writeOne {i : CutItem} (empty : ep.filling.get (dirDie i.session) = []) (quiet : ep.writing = none) :
    writeOne i (wrote r ep bus) = writeItem i (wrote r ep bus) := by
  have recorded : ep.recorded (dirDie i.session) = 0 := by simp [Epoch.recorded, empty]
  have queued : ep.queued (dirDie i.session) = 0 := by rw [Epoch.queued, recorded, Nat.zero_sub]
  have yields : yieldShard (dirDie i.session) (wrote r ep bus) = .ok ((), wrote r ep bus) := by
    rw [yieldShard, run_bind_ok (run_epochM h)]
    simp [quiet]
  rw [writeOne, run_bind_ok yields, run_bind_ok (run_passQueue_idle h queued), run_bind_ok (run_epochM h)]
  simp only [queueFull, queued, ckptQueueMax, Nat.reduceMul, Nat.reducePow, Nat.reduceLeDiff, decide_false, Bool.false_eq_true, if_false]
end

/-- R521, R529: a session without frames and without a packed image leaves the list. -/
theorem letItem_entry {c : Core} {ep : Epoch} {sid : Nat} {e : Entry} (running : c.ckpt.running = some ep) :
    (letItem c { session := sid, entry := e }).ckpt.running = some { ep with
      items := ep.items.filter fun j => j.session != sid, marked := mapDel ep.marked sid } ∧
    (letItem c { session := sid, entry := e }).bus = c.bus ∧ (letItem c { session := sid, entry := e }).rings = c.rings := by
  simp [letItem, running, letPacked, setEpoch, List.filter_true]

/-- R526: the first of the list, when nothing is waited on, is the next of its directory die. -/
theorem writeNext_first {c : Core} {ep : Epoch} {i : CutItem} {rest : List CutItem} (items : ep.items = i :: rest)
    (calm : ∀ j ∈ ep.items, waitedOn c j = false) : writeNext c ep i.session = true := by
  have none_first : ∀ (p : CutItem → Bool), ((ep.items.filter p).filter fun j => waitedOn c j) = [] := fun p =>
    List.filter_eq_nil_iff.mpr fun j hj => by simp [calm j (List.mem_of_mem_filter hj)]
  have packed : ((ep.items.filter fun j => dirDie j.session == dirDie i.session).filter fun j => j.ix.isSome && waitedOn c j) = [] :=
    List.filter_eq_nil_iff.mpr fun j hj => by simp [calm j (List.mem_of_mem_filter hj)]
  simp only [writeNext, packed, none_first, List.nil_append]
  simp [items]

/-- R526: a part of an epoch whose run ends leaves what the run leaves. -/
theorem epochRun_ok {s : State} {env : Env} {m : M Unit} {r : Run0} (up : s.core.link.up = true)
    (runs : m { runOf s s.core (env ++ noAnswers) with opc := epochOpcode s.core } = .ok ((), r)) :
    epochRun s env m = { s with core := r.core } := by
  simp [epochRun, up, runs]

/-! ## The end of an epoch (R526, R528, R529) -/

/-- R528: the records of the manifest. -/
def manifestRecords (ep : Epoch) : List (List Byte) := [ckptRecord 4 0 0 (shardList ep.shards), ckptRecord 5 0 0 (needList ep.needs)]

/-- R527, R528: the manifest. -/
def manifest (c : Core) (ep : Epoch) : List Byte := shardBytes c ep false 0 (manifestRecords ep)

/-- R527: a shard's bytes depend on the device's number alone. -/
theorem shardBytes_congr {c d : Core} (regs : d.regs = c.regs) (ep : Epoch) (die : Bool) (id : Nat) (recs : List (List Byte)) :
    shardBytes d ep die id recs = shardBytes c ep die id recs := by
  have number : deviceNo d = deviceNo c := congrArg (fun v => bits v 31 0) (regGet_congr regs _)
  simp only [shardBytes, shardWords, number]

/-- R527: a shard is longer than its header and its records. -/
theorem shardBytes_long (c : Core) (ep : Epoch) (die : Bool) (id : Nat) (recs : List (List Byte)) :
    256 + recs.flatten.length ≤ (shardBytes c ep die id recs).length := by
  simp only [shardBytes, List.length_append, bytesAt_length]
  omega

/-- R526: the records of the manifest go out first, then its check array, then its header. -/
def manifestBus (c : Core) (at0 : Nat) (ep : Epoch) (bus : List Post) : List Post :=
  posted c at0 ((manifest c ep).take 256) (posted c (at0 + (256 + (manifestRecords ep).flatten.length))
    ((manifest c ep).drop (256 + (manifestRecords ep).flatten.length)) (posted c (at0 + 256) (manifestRecords ep).flatten bus))

section
variable {r : Run0} {ep : Epoch} {k : CkClass} {bus : List Post} (h : HostArea r ep.cls k)
include h

/-- R526, R527: a shard that lies in the area gets its check array and its header. -/
theorem run_endShard {die : Bool} {id : Nat} {recs : List (List Byte)}
    (fits : ep.offset + (shardBytes r.core ep die id recs).length ≤ k.areaSize) :
    let bs := shardBytes r.core ep die id recs
    let at0 := areaAt r.core k (ep.seq % k.keep) + ep.offset
    endShard die id recs (wrote r ep bus) = .ok (at0 + bs.length, wrote r { ep with offset := ep.offset + bs.length }
      (posted r.core at0 (bs.take 256) (posted r.core (at0 + (256 + recs.flatten.length)) (bs.drop (256 + recs.flatten.length)) bus))) := by
  have same : shardBytes (wrote r ep bus).core ep die id recs = shardBytes r.core ep die id recs := shardBytes_congr rfl ..
  intro bs at0
  rw [endShard, run_bind_ok (run_epochM h)]
  dsimp only
  rw [run_bind_ok (run_getC _), same, run_bind_ok (run_shardFits h fits), run_bind_ok (run_shardAt h), run_bind_ok (run_areaWrite h ..),
    run_bind_ok (run_areaWrite h ..), run_bind_ok (run_modEpoch _)]
  rfl

/-- R529: with nothing left, the manifest is written and, once the read of its end is answered, the epoch ends. -/
theorem run_writeManifest {bs : List Byte} {env : Env} (noPrefixes : ep.prefixes = []) (noRecords : ep.filling = ⟨[], []⟩)
    (quiet : ep.writing = none) (answered : r.env = .data bs :: env) (fits : ep.offset + (manifest r.core ep).length ≤ k.areaSize) :
    writeManifest (wrote r ep bus) = .ok ((), { wrote r ep bus with
      env := env
      core := finishEpoch (wrote r { ep with offset := ep.offset + (manifest r.core ep).length }
        (manifestBus r.core (areaAt r.core k (ep.seq % k.keep) + ep.offset) ep bus)).core ep .ok (ep.shards.length + 1) }) := by
  have empty : ∀ die, ep.filling.get die = [] := fun die => by rw [noRecords]; cases die <;> rfl
  have long := shardBytes_long r.core ep false 0 (manifestRecords ep)
  rw [writeManifest, run_bind_ok (run_epochM h)]
  simp only [quiet, show ((none : Option Bool) == some true) = false from rfl, Bool.false_eq_true, if_false]
  rw [run_bind_ok (run_epochM h), noPrefixes, List.map_nil, writePrefixes, run_bind_ok (run_pure () _),
    run_bind_ok (run_closeShard_empty h (empty false)), run_bind_ok (run_closeShard_empty h (empty true)), run_bind_ok (run_epochM h)]
  dsimp only
  rw [run_bind_ok (run_portOpen h)]
  simp only [Bool.not_true, Bool.false_eq_true, if_false]
  rw [← manifestRecords, run_bind_ok (run_shardFits h (Nat.le_trans (Nat.add_le_add_left long _) fits)), run_bind_ok (run_shardAt h),
    run_bind_ok (run_areaWrite h ..), run_bind_ok (run_endShard h fits), areaRead, h.own, if_neg (by decide),
    run_bind_ok (run_readBus_wrote h answered ..)]
  simp only [noPrefixes, quiet]
  rfl
end

/-- R142, R519, R529: an epoch with nothing left to let go, which a CKPT_START named, becomes its class's last, issues its event and
completes the CKPT_START. -/
theorem finishEpoch_last {c c0 : Core} {ep : Epoch} {d : Desc} (noItems : ep.items = []) (owner : ep.desc = some d) (n : Nat)
    (rings : c.rings = c0.rings) (regs : c.regs = c0.regs) :
    (finishEpoch c ep .ok n).ckpt.running = none ∧ mapGet (finishEpoch c ep .ok n).ckpt.last ep.cls = some ep.number ∧
    (finishEpoch c ep .ok n).bus = c.bus ∧ (finishEpoch c ep .ok n).rings =
      (complete (issueEvent c0 8 false 0 0 (ep.number % 2 ^ 64) (fieldAt 0 3 ep.cls + fieldAt 16 32 n)) d .ok (ep.number % 2 ^ 32) n).rings := by
  have ends : finishEpoch c ep .ok n = complete (issueEvent { c with ckpt := { c.ckpt with running := none, last := mapSet c.ckpt.last ep.cls ep.number } }
      8 false 0 0 (ep.number % 2 ^ 64) (fieldAt 0 3 ep.cls + fieldAt 16 32 n)) d .ok (ep.number % 2 ^ 32) n := by
    simp only [finishEpoch, noItems, List.foldl_nil, owner]
    rfl
  rw [ends]
  simp only [complete_ckpt, issueEvent_ckpt, complete_bus, issueEvent_bus, mapGet_set_same, true_and]
  apply complete_rings_congr
  apply issueEvent_rings_congr
  · exact rings
  · exact regGet_congr regs _

/-- R529: an epoch whose part has run and left none running has ended. -/
theorem epochEnd_ends {s : State} {ep : Epoch} {env : Env} {r : Run0} (running : s.core.ckpt.running = some ep) (up : alive s.core = true)
    (cut : cutDue s.core = false) (whole : ep.failed = none) (noItems : ep.items = []) (link : s.core.link.up = true)
    (runs : writeManifest { runOf s s.core (env ++ noAnswers) with opc := epochOpcode s.core } = .ok ((), r))
    (ended : r.core.ckpt.running = none) : exec (.epochEnd env) s = .next { s with core := r.core } := by
  show Host.Outcome.next (epochEnd s env) = _
  simp [epochEnd, running, whole, up, cut, noItems, epochRun_ok link runs, ended]

/-- R526: the next session of the list is recorded. -/
theorem exec_epochWrite_runs {s : State} {ep : Epoch} {env : Env} {i : CutItem} {rest : List CutItem} {r : Run0}
    (running : s.core.ckpt.running = some ep) (up : alive s.core = true) (cut : cutDue s.core = false) (whole : ep.failed = none)
    (items : ep.items = i :: rest) (calm : ∀ j ∈ ep.items, waitedOn s.core j = false) (link : s.core.link.up = true)
    (runs : writeOne i { runOf s s.core (env ++ noAnswers) with opc := epochOpcode s.core } = .ok ((), r)) :
    exec (.epochWrite i.session env) s = .next { s with core := r.core } := by
  have found : (ep.items.find? fun j => j.session == i.session) = some i := by rw [items, List.find?_cons_of_pos (by simp)]
  show Host.Outcome.next (epochWrite s i.session env) = _
  simp [epochWrite, running, whole, up, cut, writeNext_first items calm, found, epochRun_ok link runs]

/-! ## The cut (R521) -/

/-- R521: writing back the sessions of a list and keeping their barn frames leaves everything but the changed entries and the barn. -/
theorem foldl_barnRef (items : List CutItem) (c : Core) : ∃ barn changed,
    items.foldl (fun c i => writeBack (barnRef c i) i.session) c =
      { c with mem := { c.mem with barn := barn }, sess := { c.sess with changed := changed } } := by
  induction items generalizing c with
  | nil => exact ⟨_, _, rfl⟩
  | cons i items ih =>
    have first : ∃ barn changed, writeBack (barnRef c i) i.session =
        { c with mem := { c.mem with barn := barn }, sess := { c.sess with changed := changed } } := by
      unfold writeBack barnRef
      repeat' split
      all_goals exact ⟨_, _, rfl⟩
    obtain ⟨barn, changed, one⟩ := first
    obtain ⟨barn', changed', all⟩ := ih (writeBack (barnRef c i) i.session)
    exact ⟨barn', changed', by rw [List.foldl_cons, all, one]⟩

/-- R521: what the cut that both dies have taken leaves. -/
theorem takeCut_leaves {c : Core} {ep : Epoch} {k : CkClass} (known : mapGet c.ckpt.classes ep.cls = some k) :
    ∃ ep', (takeCut c ep).ckpt.running = some ep' ∧ ep'.cut = ep.cut ∧
      ep'.items = ((c.sess.dir.filter fun p => bit k.scope p.2.ckptClass).filterMap fun p => cutItem c p.1 p.2) ∧
      mapGet (takeCut c ep).ckpt.classes ep.cls = some { k with since := 0 } ∧ (takeCut c ep).sess.dir = c.sess.dir := by
  simp only [takeCut, known]
  generalize ((c.sess.dir.filter fun p => bit k.scope p.2.ckptClass).filterMap fun p => cutItem c p.1 p.2) = items
  obtain ⟨barn, changed, left⟩ := foldl_barnRef items c
  rw [left]
  exact ⟨_, rfl, rfl, rfl, mapGet_set_same .., rfl⟩

/-- R521, R316: a die whose step is empty takes its cut. -/
theorem exec_ckptCut_takes {s : State} {ep : Epoch} {die : Bool} (running : s.core.ckpt.running = some ep) (up : serving s.core = true)
    (due : ep.cut.get die = false) (still : inStep (s.core.sched.get die) = []) :
    exec (.ckptCut die) s = .next
      { s with
        core :=
          if (ep.cut.set die true).d0 && (ep.cut.set die true).d1 then takeCut s.core { ep with cut := ep.cut.set die true }
          else setEpoch s.core (some { ep with cut := ep.cut.set die true }) } := by
  show Host.Outcome.next { s with core := ckptCut s.core die } = _
  simp [ckptCut, running, up, due, still]

/-- Both dies have taken the cut when the other had. -/
theorem cut_both (p : PerDie Bool) (die : Bool) : ((p.set die true).d0 && (p.set die true).d1) = p.get (!die) := by
  cases die <;> simp [PerDie.set, PerDie.get]

/-- Settles O38: the cut is `takeCut_leaves`, a record `run_writeItem_entry` with `letItem_entry`, the manifest `run_writeManifest` with
`finishEpoch_last`. That the manifest counts among the shards is log entry 80. -/
theorem epochIsWritten : Obligations.EpochIsWritten := by
  unfold Obligations.EpochIsWritten
  intro ep s running
  refine ⟨fun die k up due still known => ⟨fun other => ?_, fun other => ?_⟩, fun sid w marked warm => ?_,
    fun up cut whole quiet answers noWindow k known own => ?_⟩
  · refine ⟨_, exec_ckptCut_takes running up due still, ?_⟩
    rw [cut_both, other]
    exact ⟨rfl, rfl⟩
  · have both : ep.cut.set die true = ⟨true, true⟩ := by
      cases die <;> simpa [PerDie.set, PerDie.get] using other
    obtain ⟨ep', runs, cuts, items, classes, dir⟩ := takeCut_leaves (ep := { ep with cut := ep.cut.set die true }) known
    refine ⟨_, ep', exec_ckptCut_takes running up due still, ?_⟩
    rw [cut_both, other]
    exact ⟨runs, cuts.trans both, items, classes, dir⟩
  · refine ⟨_, rfl, ?_⟩
    simp [haspSession, running, marked, mapGet_mod_same, warm]
  · have area : ∀ env, HostArea { runOf s s.core env with opc := epochOpcode s.core } ep.cls k :=
      fun env => ⟨⟨rfl, rfl, answers, noWindow⟩, known, own⟩
    have begins : ∀ env, wrote { runOf s s.core env with opc := epochOpcode s.core } ep s.core.bus =
      { runOf s s.core env with opc := epochOpcode s.core } := fun env => wrote_self running
    intro at0
    constructor
    · intro e sid rest calm others items alone empty none_passed env record fits
      have runs := (run_writeOne (bus := s.core.bus) (area (env ++ noAnswers)) (i := { session := sid, entry := e }) empty quiet).trans
        (run_writeItem_entry (area (env ++ noAnswers)) others empty none_passed quiet fits)
      rw [begins] at runs
      have ran := exec_epochWrite_runs running up cut whole items calm answers.1 runs
      obtain ⟨left, bus, rings⟩ := letItem_entry (sid := sid) (e := e) (c := (wrote { runOf s s.core (env ++ noAnswers) with opc := epochOpcode s.core }
        (firstRecord (needing ep (entryNeeds e {})) (dirDie sid) (entryRecord sid e))
        (posted s.core (at0 + 256) (entryRecord sid e) s.core.bus)).core) rfl
      refine ⟨_, _, ran, left, ?_, rfl, rfl, rfl, bus, rings⟩
      have gone : (ep.items.filter fun j => j.session != sid) = rest := by
        rw [items, List.filter_cons_of_neg (by simp), List.filter_eq_self]
        simpa using alone
      exact gone
    · intro d bs noItems noPrefixes noRecords owner recs whole_ body fits n
      have runs := run_writeManifest (bus := s.core.bus) (area ([.data bs] ++ noAnswers)) noPrefixes noRecords quiet rfl fits
      rw [begins] at runs
      obtain ⟨ended, last, bus, rings⟩ := finishEpoch_last (c0 := s.core) (c := (wrote { runOf s s.core ([.data bs] ++ noAnswers) with
        opc := epochOpcode s.core } { ep with offset := ep.offset + (manifest s.core ep).length } (manifestBus s.core at0 ep s.core.bus)).core)
        noItems owner (ep.shards.length + 1) rfl rfl
      exact ⟨_, epochEnd_ends running up cut whole noItems answers.1 runs ended, ended, last, bus, rings⟩

end Sys2Proof.Machine

/-!
PROOFS of sitting 12. RESTORE (O39): what its reads leave, and the sessions that come back by their entries.
-/

namespace Sys2Proof.Machine

/-! ## Parts of a run that read (R91, R197, R530) -/

/-- What a read of an area leaves as it was: measurements, rings, registers, sessions and the pair. -/
structure BooksKept (r r' : Run0) : Prop where
  ext : r'.ext = r.ext
  rings : r'.core.rings = r.core.rings
  regs : r'.core.regs = r.core.regs
  sess : r'.core.sess = r.core.sess
  twin : r'.core.twin = r.core.twin

theorem BooksKept.refl (r : Run0) : BooksKept r r := ⟨rfl, rfl, rfl, rfl, rfl⟩

theorem BooksKept.trans {a b c : Run0} (h : BooksKept a b) (k : BooksKept b c) : BooksKept a c :=
  ⟨k.ext.trans h.ext, k.rings.trans h.rings, k.regs.trans h.regs, k.sess.trans h.sess, k.twin.trans h.twin⟩

/-- A part that keeps the books wherever it ends well. -/
def Reads {α : Type} (m : M α) : Prop := ∀ r a r', m r = .ok (a, r') → BooksKept r r'

namespace Reads

section
variable {α β : Type}

theorem pure (x : α) : Reads (pure x : M α) := by
  rintro r a r' ⟨⟩
  exact .refl r

theorem get : Reads (get : M Run0) := by
  rintro r a r' ⟨⟩
  exact .refl r

theorem getC : Reads getC := by
  rintro r a r' ⟨⟩
  exact .refl r

theorem refuse (st : Status) : Reads (refuse st : M α) := by
  rintro r a r' ⟨⟩

theorem waitFor (slot stream need : Nat) : Reads (waitFor slot stream need : M α) := by
  rintro r a r' ⟨⟩

theorem modify {f : Run0 → Run0} (kept : ∀ r, BooksKept r (f r)) : Reads (modify f : M Unit) := by
  rintro r a r' ⟨⟩
  exact kept r

theorem modC {f : Core → Core} (rings : ∀ c, (f c).rings = c.rings) (regs : ∀ c, (f c).regs = c.regs)
    (sess : ∀ c, (f c).sess = c.sess) (twin : ∀ c, (f c).twin = c.twin) : Reads (modC f) :=
  modify fun r => ⟨rfl, rings r.core, regs r.core, sess r.core, twin r.core⟩

theorem bind {m : M α} {f : α → M β} (h : Reads m) (k : ∀ a, Reads (f a)) : Reads (m >>= f) := by
  intro r b r' ran
  rw [run_bind] at ran
  split at ran
  · next a r1 first => exact (h r a r1 first).trans (k a r1 b r' ran)
  · cases ran
end

/-- What an answer logs under Advanced Error Reporting keeps the books. -/
theorem takeAns (a : Ans) (env : Env) : Reads (takeAns a env) := by
  refine .bind (.modify fun r => ?_) fun _ => .pure _
  have aer : ∃ cfg, noteAns r.core r.resumed a = { r.core with cfg := cfg } := by
    unfold noteAns logAer
    repeat' split
    all_goals exact ⟨_, rfl⟩
  obtain ⟨cfg, noted⟩ := aer
  rw [noted]
  exact ⟨rfl, rfl, rfl, rfl, rfl⟩

theorem unsentAns (slot stream need : Nat) (a : Ans) (env : Env) : Reads (unsentAns slot stream need a env) := by
  refine .bind .get fun r => ?_
  split
  · exact .bind (.modify fun r => ⟨rfl, rfl, rfl, rfl, rfl⟩) fun _ => .pure _
  · exact .waitFor _ _ _

theorem windowOutcome (c : Core) (w : Nat) (failed timeout : Bool) : ∃ mem, windowOutcome c w failed timeout = { c with mem := mem } := by
  unfold Machine.windowOutcome
  repeat' split
  all_goals exact ⟨_, rfl⟩

theorem nextAns (slot stream need : Nat) : Reads (nextAns slot stream need) := by
  intro r a r' ran
  have marked : ∀ (b : Ans) (env : Env) (r1 : Run0), BooksKept r r1 → Machine.takeAns b env r1 = .ok (a, r') → BooksKept r r' :=
    fun b env r1 kept took => kept.trans (takeAns b env r1 a r' took)
  rw [Machine.nextAns, run_bind_ok (run_get r)] at ran
  cases env : r.env with
  | nil =>
    simp only [env] at ran
    split at ran
    · exact pure _ r a r' ran
    · exact waitFor _ _ _ r a r' ran
  | cons b env' =>
    simp only [env] at ran
    split at ran
    · exact marked b env' { r with had := r.had - 1 } ⟨rfl, rfl, rfl, rfl, rfl⟩ ran
    · split at ran
      · exact marked b env' { r with sent := false } ⟨rfl, rfl, rfl, rfl, rfl⟩ ran
      · split at ran
        · split at ran
          · exact unsentAns _ _ _ b env' r a r' ran
          · exact pure _ r a r' ran
        · split at ran
          · exact unsentAns _ _ _ b env' r a r' ran
          · exact takeAns b env' r a r' ran

theorem request (slot addr n : Nat) : Reads (request slot addr n) := by
  refine .bind .getC fun c => .bind (.nextAns _ _ _) fun a => ?_
  split
  · refine .bind (.modC ?_ ?_ ?_ ?_) fun _ => .pure _
    all_goals
      intro c
      obtain ⟨mem, counted⟩ := windowOutcome c slot false false
      rw [counted]
  · next st _ =>
    refine .bind .get fun r => .bind (.modC ?_ ?_ ?_ ?_) fun _ => .pure _
    all_goals
      intro c
      obtain ⟨mem, counted⟩ := windowOutcome c slot true (st == .tierTimeout)
      simp [counted, logTier]

theorem readBus (slot addr n : Nat) : Reads (readBus slot addr n) := by
  refine .bind (.request _ _ _) fun a => ?_
  split
  · exact .pure _
  · exact .refuse _

theorem areaRead (k : CkClass) (at0 n : Nat) : Reads (areaRead k at0 n) := by
  unfold Machine.areaRead
  split
  · exact .bind .getC fun c => .readBus _ _ _
  · exact .readBus _ _ _

theorem scanArea (k : CkClass) (a start : Nat) : ∀ fuel off, Reads (scanArea k a start fuel off)
  | 0, _ => .pure _
  | fuel + 1, off => by
    unfold Machine.scanArea
    split
    · exact .pure _
    · refine .bind (.areaRead _ _ _) fun bs => ?_
      split
      · exact .pure _
      · exact .bind (scanArea k a start fuel _) fun _ => .pure _

theorem scanAreas (k : CkClass) : ∀ l, Reads (scanAreas k l)
  | [] => .pure _
  | _ :: l => .bind .get fun _ => .bind (.scanArea _ _ _ _ _) fun _ => .bind (scanAreas k l) fun _ => .pure _

theorem readShard (k : CkClass) (h : ShardRef) : Reads (readShard k h) := .bind (.areaRead _ _ _) fun _ => .pure _

theorem readShards (k : CkClass) : ∀ l, Reads (readShards k l)
  | [] => .pure _
  | h :: l => by
    refine .bind (.readShard k h) fun x => ?_
    split
    · exact .pure _
    · exact .bind (readShards k l) fun _ => .pure _

theorem abandons : Reads (Machine.modC abandon) := .modC (fun _ => rfl) (fun _ => rfl) (fun _ => rfl) fun _ => rfl

theorem choose (k : CkClass) (hs : List ShardRef) : ∀ l, Reads (choose k hs l)
  | [] => .pure _
  | m :: l => by
    refine .bind (.readShard k m) fun x => ?_
    split
    · exact .bind .abandons fun _ => choose k hs l
    · split
      · exact choose k hs l
      · refine .bind (.readShards k _) fun y => ?_
        split
        · exact .bind .abandons fun _ => choose k hs l
        · exact .pure _

theorem newerSessions (k : CkClass) : ∀ l, Reads (newerSessions k l)
  | [] => .pure _
  | h :: l => by
    have rest : ∀ f : List Nat → List Nat, Reads (do return f (← Machine.newerSessions k l)) := fun _ => .bind (newerSessions k l) fun _ => .pure _
    unfold Machine.newerSessions
    split
    · exact .bind (.bind .getC fun _ => .request _ _ _) fun _ => rest _
    · exact .bind (.request _ _ _) fun _ => rest _

end Reads

/-! ## Sessions that come back LOST (R532) -/

/-- R532: what bringing back the sessions of some entry records leaves. -/
structure BroughtBack (c : Core) (recs : List RecordIn) (d : Core) : Prop where
  rings : d.rings = c.rings
  regs : d.regs = c.regs
  twin : d.twin = c.twin
  own : ∀ r ∈ recs, entryOf d r.session = lostEntry (entryOfWords ((List.range 8).map fun i => leAt r.body (8 * i) 8)) false
  others : ∀ sid, (∀ r ∈ recs, r.session ≠ sid) → entryOf d sid = entryOf c sid

/-- R532: an id that is FREE here, on a device that is not paired, is not busy; whether it is depends on its entry alone. -/
theorem idBusy_congr {c d : Core} {sid : Nat} (entry : entryOf d sid = entryOf c sid) (twin : d.twin = c.twin) : idBusy d sid = idBusy c sid := by
  simp only [idBusy, idOnTwin, paired, entry, twin]

/-- R532: without a pair a session recorded by its entry comes back. -/
theorem run_restoreLost {r : Run0} (h2 : r.core.twin.state ≠ 2) (h3 : r.core.twin.state ≠ 3) (sid : Nat) (body : List Byte) :
    restoreLost sid body r = .ok ((),
      { r with core := setEntry r.core sid (lostEntry (entryOfWords ((List.range 8).map fun i => leAt body (8 * i) 8)) false) }) := by
  rw [restoreLost]
  rw [run_bind_ok (run_modC _ _), run_bind_ok (run_getC _)]
  refine run_mirrorM (mirrored_alone ?_ ?_ sid) _
  · simpa using h2
  · simpa using h3

/-- R532: distinct sessions recorded by their entries alone, FREE here and with no pair, come back, each counted. -/
theorem restoreSessions_lost : ∀ (recs : List RecordIn) (r : Run0), r.core.twin.state ≠ 2 → r.core.twin.state ≠ 3 →
    (∀ x ∈ recs, x.kind = 2 ∧ idBusy r.core x.session = false) → (recs.map (·.session)).Nodup →
    ∃ c, restoreSessions recs r = .ok (recs.length, { r with core := c }) ∧ BroughtBack r.core recs c
  | [], r, _, _, _, _ => ⟨r.core, rfl, rfl, rfl, rfl, by simp, fun _ _ => rfl⟩
  | x :: recs, r, h2, h3, free, distinct => by
    rw [List.map_cons, List.nodup_cons] at distinct
    obtain ⟨fresh, distinct⟩ := distinct
    obtain ⟨⟨kind, idle⟩, free⟩ := List.forall_mem_cons.mp free
    have apart : ∀ y ∈ recs, y.session ≠ x.session := fun y hy same => fresh (same ▸ List.mem_map_of_mem hy)
    obtain ⟨c, ran, rings, regs, twin, own, others⟩ := restoreSessions_lost recs
      { r with core := setEntry r.core x.session (lostEntry (entryOfWords ((List.range 8).map fun i => leAt x.body (8 * i) 8)) false) }
      (by simpa using h2) (by simpa using h3)
      (fun y hy => ⟨(free y hy).1, (idBusy_congr (entryOf_set_other _ _ _ _ (apart y hy)) (setEntry_twin ..)).trans (free y hy).2⟩) distinct
    refine ⟨c, ?_, rings.trans (setEntry_rings ..), regs.trans (setEntry_regs ..), twin.trans (setEntry_twin ..), ?_, fun sid away => ?_⟩
    · rw [restoreSessions, run_bind_ok (run_getC _)]
      simp only [idle, kind, Bool.false_eq_true, if_false, if_true]
      rw [run_bind_ok (run_restoreLost h2 h3 _ _), run_bind_ok ran]
      rfl
    · refine List.forall_mem_cons.mpr ⟨?_, own⟩
      rw [others _ apart, entryOf_set_same _ _ _ (by simp [lostEntry])]
    · obtain ⟨hx, away⟩ := List.forall_mem_cons.mp away
      rw [others _ away, entryOf_set_other _ _ _ _ (Ne.symm hx)]

/-- R530, R531: the records of an epoch whose sessions are recorded by their entries alone: all of them sessions and not prefixes. -/
theorem lost_records {recs : List RecordIn} (kinds : ∀ r ∈ recs, r.kind = 2) :
    (recs.filter fun r => r.kind == 1 || r.kind == 2) = recs ∧ (recs.filterMap fun r => if r.kind = 3 then readPrefix r else none) = [] :=
  ⟨List.filter_eq_self.mpr fun r hr => by simp [kinds r hr], List.filterMap_eq_nil_iff.mpr fun r hr => by simp [kinds r hr]⟩

/-- What a RESTORE needs before it reads (R531). -/
structure RestoreSound (d : Desc) (c : Core) (k : CkClass) : Prop where
  session : d.session = 0
  known : mapGet c.ckpt.classes (d.field 2 2 0 0) = some k
  idle : ckptBusy c = false
  newest : d.field 3 63 0 0 = 0

/-- R530: what a RESTORE reads from: the counts of its last run are cleared. -/
def countsCleared (c : Core) : Core := { c with ckpt := { c.ckpt with skipped := 0, candidates := 0 } }

/-- R533: what a RESTORE of an epoch leaves, after its sessions are back. -/
def restored (d : Desc) (x : Chosen) (all : List ShardRef) (c : Core) : Core :=
  issueEvent (numberAbove c all) 8 false 0 0 (x.epoch % 2 ^ 64) (fieldAt 0 3 (d.field 2 2 0 0))

/-- R530 to R533: a RESTORE that finds an epoch whose needs are met, of sessions recorded by their entries alone, all FREE here. -/
theorem run_restoreBody_lost {d : Desc} {k : CkClass} {all : List ShardRef} {x : Chosen} {r r1 r2 r3 : Run0}
    (sound : RestoreSound d r.core k) (h2 : r.core.twin.state ≠ 2) (h3 : r.core.twin.state ≠ 3)
    (scans : scanAreas k (List.range k.keep) { r with core := countsCleared r.core } = .ok (all, r1))
    (chooses : let hs := all.filter fun h => h.cls == d.field 2 2 0 0; choose k hs (manifests hs) r1 = .ok (some x, r2))
    (met : (x.needs.any (needMissing r2.core)) = false) (free : ∀ y ∈ x.records, y.kind = 2 ∧ idBusy r.core y.session = false)
    (distinct : (x.records.map (·.session)).Nodup)
    (newer : newerSessions k ((all.filter fun h => h.cls == d.field 2 2 0 0).filter fun h => x.epoch < h.epoch) r2 = .ok ([], r3)) :
    ∃ c, restoreBody d r = .ok (.done .ok x.records.length 0, { r3 with core := restored d x all c }) ∧
      BroughtBack r.core x.records c ∧ r3.ext = r.ext := by
  have first : BooksKept r { r with core := countsCleared r.core } := ⟨rfl, rfl, rfl, rfl, rfl⟩
  have second : BooksKept r r2 := (first.trans (Reads.scanAreas _ _ _ _ _ scans)).trans (Reads.choose _ _ _ _ _ _ chooses)
  have third : BooksKept r r3 := second.trans (Reads.newerSessions _ _ _ _ _ newer)
  have idle : ∀ y ∈ x.records, ∀ {r'}, BooksKept r r' → idBusy r'.core y.session = false := fun y hy r' kept =>
    (idBusy_congr (entryOf_congr (congrArg _ kept.sess) _) kept.twin).trans (free y hy).2
  obtain ⟨sessions, prefixes⟩ := lost_records fun y hy => (free y hy).1
  obtain ⟨c, ran, back⟩ := restoreSessions_lost x.records r3 (third.twin ▸ h2) (third.twin ▸ h3) (fun y hy => ⟨(free y hy).1, idle y hy third⟩) distinct
  have fresh : ((d.field 2 3 3 0 == 0 && x.records.any fun y => idBusy r2.core y.session) ||
      ([] : List PrefixIn).any (stampClash r2.core)) = false := by
    rw [List.any_eq_false.mpr fun y hy => by simp [idle y hy second]]
    simp
  refine ⟨c, ?_, ⟨back.rings.trans third.rings, back.regs.trans third.regs, back.twin.trans third.twin, back.own, fun sid away =>
    (back.others sid away).trans (entryOf_congr (congrArg _ third.sess) sid)⟩, third.ext⟩
  rw [countsCleared] at scans
  rw [restoreBody, run_bind_ok (run_check_passes (by simp [sound.session]) _ _)]
  dsimp only
  rw [run_bind_ok (run_getC _)]
  simp only [sound.known, sound.newest, if_true]
  rw [run_bind_ok (run_check_passes sound.idle _ _), run_bind_ok (run_putC _ _), run_bind_ok scans, run_bind_ok chooses]
  dsimp only
  rw [run_bind_ok (run_getC _), run_bind_ok (run_check_passes met _ _), run_bind_ok (run_getC _), sessions, prefixes,
    run_bind_ok (run_check_passes fresh _ _), run_bind_ok newer, rebuildPrefixes, run_bind_ok (run_atomically ran), run_bind_ok (run_modC _ _)]
  simp only [List.contains_nil, List.filter_false, List.length_nil]
  rfl

/-- Settles O39: what RESTORE reads keeps its books (`Reads`), so that each session recorded by its entry is still FREE when it comes back.
The event tells of 0 shards (log entry 87), and the counts and the event are R533's. -/
theorem restoreBringsBack : Obligations.RestoreBringsBack := by
  unfold Obligations.RestoreBringsBack
  intro d env k all x r1 r2 r3 s free session known idle newest h2 h3 b c scans hs chooses met lost distinct newer
  obtain ⟨after, ran, back, ext⟩ := run_restoreBody_lost (r := begunSeqRun s d env) ⟨session, known, idle, newest⟩ h2 h3 scans chooses met lost distinct newer
  have ends := acceptSeq_done (r := { r3 with core := restored d x all after }) free ext session ran
  have entry : ∀ sid, entryOf (complete (restored d x all after) d .ok x.records.length 0) sid = entryOf after sid := fun sid =>
    (entryOf_complete ..).trans (entryOf_congr (by rw [restored, issueEvent_sess]; rfl) sid)
  refine ⟨_, congrArg Host.Outcome.next ends, fun y hy => (entry _).trans (back.own y hy), fun sid away => (entry _).trans (back.others sid away), ?_⟩
  apply complete_rings_congr
  apply issueEvent_rings_congr
  · exact back.rings
  · exact regGet_congr back.regs _

end Sys2Proof.Machine

/-!
PROOFS of sitting 12. Accounts, buckets and meters (O27).
-/

namespace Sys2Proof.Machine

/-! ## Accounts after a change that may wake them (R451, R464) -/

/-- R451: a change after which accounts of both dies may wake leaves each as the change left it but for its tag. -/
theorem acctOf_wakingBoth (c : Core) (f : Core → Core) (die : Bool) (a : Nat) :
    ∃ tag, acctOf (wakingBoth c f) die a = { acctOf (f c) die a with tag := tag } := by
  cases die with
  | false =>
    obtain ⟨tag, woken⟩ := acctOf_waking c false f a
    exact ⟨tag, (acctOf_waking_otherDie c true _ a).trans woken⟩
  | true =>
    obtain ⟨tag, woken⟩ := acctOf_waking c true (fun c => waking c false f) a
    exact ⟨tag, woken.trans (by rw [show acctOf (waking c false f) true a = acctOf (f c) true a from acctOf_waking_otherDie c false f a])⟩

/-- R464: a new scale changes no account but for its tag. -/
theorem acctOf_rescale (c : Core) (die : Bool) (a : Nat) : ∃ tag, acctOf (rescale c) die a = { acctOf c die a with tag := tag } := by
  obtain ⟨tag, woken⟩ := acctOf_wakingBoth c
    (fun c => { c with sched := ⟨{ c.sched.d0 with scale := scaleFor c false }, { c.sched.d1 with scale := scaleFor c true }⟩ }) die a
  exact ⟨tag, woken.trans (by cases die <;> rfl)⟩

@[simp] theorem acctOf_complete (c : Core) (d : Desc) (st : Status) (x y : Nat) (die : Bool) (a : Nat) :
    acctOf (complete c d st x y) die a = acctOf c die a := by
  rw [acctOf, complete_sched, acctOf]

@[simp] theorem sumCir_complete (c : Core) (d : Desc) (st : Status) (x y : Nat) : sumCir (complete c d st x y) = sumCir c := by
  rw [sumCir, complete_acctCfg, sumCir]

/-- R456: a change of an account on each die is that account's change on either. -/
theorem acctOf_modBoth (c : Core) (die : Bool) (a : Nat) (f : Acct → Acct) :
    acctOf (modAcct (modAcct c false a f) true a f) die a = f (acctOf c die a) := by
  cases die with
  | false => exact (acctOf_modAcct_otherDie _ true a a f).trans (acctOf_modAcct_same ..)
  | true => exact (acctOf_modAcct_same ..).trans (congrArg f (acctOf_modAcct_otherDie _ false a a f))

/-! ## ACCOUNT_SET (R456, R457) -/

/-- R457: the core with an account under a new rate and weight. -/
def accountRated (c : Core) (a : Nat) (g : AcctCfg) : Core := wakingBoth c fun c => { c with acctCfg := mapSet c.acctCfg a g }

/-- R457: the account that ACCOUNT_SET makes. -/
def freshAccount (d : Desc) : AcctCfg := { cir := d.field 2 31 0 0, weight := d.field 2 47 32 0, cbs := if d.field 2 31 0 0 = 0 then 1 else d.field 2 31 0 0 }

/-- R457: its committed bucket is one second's rate deep, at least 1. -/
theorem freshAccount_eq (d : Desc) :
    freshAccount d = { cir := d.field 2 31 0 0, weight := d.field 2 47 32 0, cbs := max (d.field 2 31 0 0) 1 } := by
  have depth : (if d.field 2 31 0 0 = 0 then 1 else d.field 2 31 0 0) = max (d.field 2 31 0 0) 1 := by
    split <;> omega
  rw [freshAccount, depth]

/-- R457: the core with an account made, its buckets full. -/
def accountMade (c : Core) (a : Nat) (g : AcctCfg) : Core :=
  let x := fun die => acctOf c die a
  setAcct (setAcct { c with acctCfg := mapSet c.acctCfg a g } false a { newAcct g c.sched.d0.vtime with decodeQ := (x false).decodeQ, laneQ := (x false).laneQ })
    true a { newAcct g c.sched.d1.vtime with decodeQ := (x true).decodeQ, laneQ := (x true).laneQ }

/-- R457: the core without an account. -/
def accountGone (c : Core) (a : Nat) : Core :=
  { c with
    acctCfg := mapDel c.acctCfg a
    sched := ⟨{ c.sched.d0 with accts := mapDel c.sched.d0.accts a }, { c.sched.d1 with accts := mapDel c.sched.d1.accts a }⟩ }

/-- R457: an account that is made has its committed bucket full on both dies. -/
theorem accountMade_full (c : Core) (a : Nat) (g : AcctCfg) (die : Bool) : (acctOf (accountMade c a g) die a).c = g.cbs := by
  cases die <;> simp [accountMade, acctOf, setAcct, newAcct, PerDie.mod, PerDie.set, PerDie.get]

/-- R457: a new rate and weight leave an account's bucket. -/
theorem accountRated_level (c : Core) (a : Nat) (g : AcctCfg) (die : Bool) : (acctOf (accountRated c a g) die a).c = (acctOf c die a).c := by
  obtain ⟨tag, woken⟩ := acctOf_wakingBoth c (fun c => { c with acctCfg := mapSet c.acctCfg a g }) die a
  rw [accountRated, woken]
  rfl

/-- R457, R464: what an ACCOUNT_SET ends with: both dies compute their scale anew, and the sum and the credits are its counts. -/
def accountsEnd (c : Core) (d : Desc) : Core := complete (rescale c) d .ok (sumCir (rescale c)) (credits (rescale c))

/-- What the end of an ACCOUNT_SET leaves. -/
theorem accountsEnd_leaves {c c0 : Core} (d : Desc) (rings : c.rings = c0.rings) (regs : c.regs = c0.regs) :
    (accountsEnd c d).acctCfg = c.acctCfg ∧ (accountsEnd c d).mem = c.mem ∧
    (accountsEnd c d).rings = (complete c0 d .ok (sumCir (accountsEnd c d)) (credits c0)).rings ∧
    ∀ die a, (acctOf (accountsEnd c d) die a).c = (acctOf c die a).c := by
  have same : rescale c = { c with sched := (rescale c).sched } := rescale_sched c
  refine ⟨by rw [accountsEnd, complete_acctCfg, same], by rw [accountsEnd, complete_mem, same], ?_, fun die a => ?_⟩
  · have credit : credits (rescale c) = credits c0 := by 
      have reg : regGet (rescale c) 0x500208 = regGet c0 0x500208 := regGet_congr (by rw [same]; exact regs) _
      rw [credits, regField, reg, ← regField, ← credits]
    rw [accountsEnd, credit, sumCir_complete]
    exact complete_rings_congr (by rw [same]; exact rings) ..
  · obtain ⟨tag, woken⟩ := acctOf_rescale c die a
    rw [accountsEnd, acctOf_complete, woken]

/-- R461: the sum of rates that an ACCOUNT_SET would make. -/
def sumSet (c : Core) (d : Desc) : Nat := sumCir c - ((mapGet c.acctCfg d.account).map (·.cir)).getD 0 + d.field 2 31 0 0

/-- R457: what an ACCOUNT_SET sets: a standing account's rate and weight, or an account of its own. -/
def accountSetTo (c : Core) (d : Desc) : Core :=
  match mapGet c.acctCfg d.account with
  | some g => accountRated c d.account { g with cir := d.field 2 31 0 0, weight := d.field 2 47 32 0 }
  | none => accountMade c d.account (freshAccount d)

theorem accountSetTo_rings (c : Core) (d : Desc) : (accountSetTo c d).rings = c.rings := by
  unfold accountSetTo
  split <;> rfl

theorem accountSetTo_regs (c : Core) (d : Desc) : (accountSetTo c d).regs = c.regs := by
  unfold accountSetTo
  split <;> rfl

theorem accountSetTo_mem (c : Core) (d : Desc) : (accountSetTo c d).mem = c.mem := by
  unfold accountSetTo
  split <;> rfl

section
variable {d : Desc} {s : State} (free : seqFree s.core d) (session : d.session = 0) (named : d.account ≠ 0)
include free session named

/-- R456, R457: an ACCOUNT_SET that stays within the credits. -/
theorem exec_accountSet_sets (weighs : d.field 2 47 32 0 ≠ 0) (fits : sumSet s.core d ≤ credits s.core) :
    exec (.accountSet d) s = .next { s with core := accountsEnd (accountSetTo (beginSeq s.core d) d) d } := by
  have within : ¬ credits (beginSeq s.core d) < sumSet (beginSeq s.core d) d := Nat.not_lt.mpr fits
  refine congrArg Host.Outcome.next (acceptSeq_done (r := { begunSeqRun s d [] with core := rescale (accountSetTo (beginSeq s.core d) d) })
    free rfl session ?_)
  rw [accountSetBody, run_bind_ok (run_check_passes (by simp [session, named]) _ _)]
  dsimp only
  rw [run_bind_ok (run_check_passes (by simpa using weighs) _ _), run_bind_ok (run_getC _), begunSeqRun_core, ← sumSet, decide_eq_false within]
  cases set : mapGet (beginSeq s.core d).acctCfg d.account with
  | none =>
    rw [accountSetTo, set]
    rfl
  | some g =>
    rw [accountSetTo, set]
    rfl

/-- R456: past the credits, a sum that is not lowered is refused. -/
theorem exec_accountSet_refuses (weighs : d.field 2 47 32 0 ≠ 0) (past : credits s.core < sumSet s.core d) (grows : sumCir s.core ≤ sumSet s.core d) :
    exec (.accountSet d) s = .next { s with core := complete (beginSeq s.core d) d .refusedFit (sumCir s.core) (credits s.core) } := by
  have beyond : credits (beginSeq s.core d) < sumSet (beginSeq s.core d) d := past
  have higher : sumCir (beginSeq s.core d) ≤ sumSet (beginSeq s.core d) d := grows
  refine congrArg Host.Outcome.next (acceptSeq_fails free session (c := beginSeq s.core d) ?_)
  rw [accountSetBody, run_bind_ok (run_check_passes (by simp [session, named]) _ _)]
  dsimp only
  rw [run_bind_ok (run_check_passes (by simpa using weighs) _ _), run_bind_ok (run_getC _), begunSeqRun_core, ← sumSet, decide_eq_true beyond,
    decide_eq_true higher]
  rfl

/-- R456: an account that no session names goes. -/
theorem exec_accountDelete_goes (set : mapHas s.core.acctCfg d.account = true) (unused : sessionsOfAccount s.core d.account = 0) :
    exec (.accountDelete d) s = .next { s with core := accountsEnd (accountGone (beginSeq s.core d) d.account) d } := by
  refine congrArg Host.Outcome.next (acceptSeq_done (r := { begunSeqRun s d [] with core := rescale (accountGone (beginSeq s.core d) d.account) })
    free rfl session ?_)
  have none_names : sessionsOfAccount (beginSeq s.core d) d.account = 0 := unused
  rw [accountDeleteBody, run_bind_ok (run_check_passes (by simp [session, named]) _ _), run_bind_ok (run_getC _)]
  dsimp only
  rw [run_bind_ok (run_check_passes (by simpa using set) _ _), begunSeqRun_core, none_names]
  rfl
end

/-! ## BUCKET_SET and METER_SET (R456, R458) -/

/-- R458: an account's settings as BUCKET_SET leaves them. -/
def deepened (d : Desc) (g : AcctCfg) : AcctCfg := { g with cbs := d.field 2 31 0 0, ebs := d.field 2 63 32 0, eir := d.field 3 31 0 0 }

/-- R458: what BUCKET_SET makes of an account on a die. -/
def filled (d : Desc) (x : Acct) : Acct :=
  { x with c := fillLevel (bits (d.word 0) 57 56) x.c (d.field 2 31 0 0), e := fillLevel (bits (d.word 0) 57 56) x.e (d.field 2 63 32 0) }

/-- R458: the core with an account's buckets set. -/
def bucketsSet (c : Core) (d : Desc) (g : AcctCfg) : Core :=
  wakingBoth c fun c => modAcct (modAcct { c with acctCfg := mapSet c.acctCfg d.account g } false d.account (filled d)) true d.account (filled d)

/-- R458: BUCKET_SET leaves, fills or empties the buckets of both dies, and changes their tags alone besides. -/
theorem acctOf_bucketsSet (c : Core) (d : Desc) (g : AcctCfg) (die : Bool) :
    ∃ tag, acctOf (bucketsSet c d g) die d.account = { filled d (acctOf c die d.account) with tag := tag } := by
  obtain ⟨tag, woken⟩ := acctOf_wakingBoth c (fun c =>
    modAcct (modAcct { c with acctCfg := mapSet c.acctCfg d.account g } false d.account (filled d)) true d.account (filled d)) die d.account
  rw [acctOf_modBoth] at woken
  exact ⟨tag, woken⟩

theorem fillLevel_eq (fill : Nat) (old : Int) (depth : Nat) :
    fillLevel fill old depth = if fill = 1 then (depth : Int) else if fill = 2 then 0 else old := by
  unfold fillLevel
  split <;> simp_all

theorem bucketsSet_rings (c : Core) (d : Desc) (g : AcctCfg) : (bucketsSet c d g).rings = c.rings := rfl

/-- R458: an account's settings as METER_SET leaves them. -/
def metered (d : Desc) (g : AcctCfg) : AcctCfg :=
  { g with
    mEnable := bit (d.word 0) 56, mCir := d.field 2 31 0 0, mPir := d.field 2 63 32 0
    mCbs := d.field 3 31 0 0, mPbs := d.field 3 63 32 0 }

/-- R458: the core with an account's meter set and its levels full. -/
def meterFull (c : Core) (d : Desc) (g : AcctCfg) : Core :=
  let full := fun x : Acct => { x with tc := d.field 3 31 0 0, tp := d.field 3 63 32 0 }
  modAcct (modAcct { c with acctCfg := mapSet c.acctCfg d.account g } false d.account full) true d.account full

theorem meterFull_rings (c : Core) (d : Desc) (g : AcctCfg) : (meterFull c d g).rings = c.rings := rfl

section
variable {d : Desc} {s : State} {g : AcctCfg} (free : seqFree s.core d) (session : d.session = 0) (named : d.account ≠ 0)
  (set : mapGet s.core.acctCfg d.account = some g)
include free session named set

/-- R458: BUCKET_SET with depths that are not 0 and a FILL that is not reserved. -/
theorem exec_bucketSet_sets (committed : d.field 2 31 0 0 ≠ 0) (excess : d.field 2 63 32 0 ≠ 0) (fill : bits (d.word 0) 57 56 ≠ 3) :
    exec (.bucketSet d) s = .next { s with core := complete (bucketsSet (beginSeq s.core d) d (deepened d g)) d .ok 0 0 } := by
  have held : mapGet (begunSeqRun s d []).core.acctCfg d.account = some g := set
  refine congrArg Host.Outcome.next (acceptSeq_done (r := { begunSeqRun s d [] with core := bucketsSet (beginSeq s.core d) d (deepened d g) }) free rfl session ?_)
  rw [bucketSetBody, run_bind_ok (run_check_passes (by simp [session, named]) _ _)]
  dsimp only
  rw [run_bind_ok (run_check_passes (by simp [committed, excess, fill]) _ _), run_bind_ok (run_getC _), held]
  rfl

/-- R458: METER_SET, of a meter that is enabled with depths that are not 0 and rates in order. -/
theorem exec_meterSet_sets (sound : bit (d.word 0) 56 = true → d.field 3 31 0 0 ≠ 0 ∧ d.field 3 63 32 0 ≠ 0 ∧ d.field 2 31 0 0 ≤ d.field 2 63 32 0) :
    exec (.meterSet d) s = .next { s with core := complete (meterFull (beginSeq s.core d) d (metered d g)) d .ok 0 0 } := by
  have held : mapGet (begunSeqRun s d []).core.acctCfg d.account = some g := set
  have passes : (bit (d.word 0) 56 && (d.field 3 31 0 0 == 0 || d.field 3 63 32 0 == 0 || decide (d.field 2 63 32 0 < d.field 2 31 0 0))) = false := by
    rw [Bool.and_eq_false_imp]
    intro enabled
    obtain ⟨c, p, order⟩ := sound enabled
    simp [c, p, order]
  refine congrArg Host.Outcome.next (acceptSeq_done (r := { begunSeqRun s d [] with core := meterFull (beginSeq s.core d) d (metered d g) }) free rfl session ?_)
  rw [meterSetBody, run_bind_ok (run_check_passes (by simp [session, named]) _ _)]
  dsimp only
  rw [run_bind_ok (run_check_passes passes _ _), run_bind_ok (run_getC _), held]
  rfl
end

/-- Settles O27: each descriptor as it runs under its premises, with what it leaves of the account's levels. -/
theorem accountsAndBudgetsSet : Obligations.AccountsAndBudgetsSet := by
  unfold Obligations.AccountsAndBudgetsSet
  refine ⟨?_, ?_⟩
  · intro d s free session named a cir sum
    refine ⟨fun weighs unset fits => ?_, fun g weighs set fits => ?_, exec_accountSet_refuses free session named, fun set unused => ?_⟩
    · have made : accountSetTo (beginSeq s.core d) d = accountMade (beginSeq s.core d) a (freshAccount d) := by
        rw [accountSetTo, show mapGet (beginSeq s.core d).acctCfg d.account = none from unset]
      obtain ⟨cfg, mem, rings, level⟩ := accountsEnd_leaves (c := accountSetTo (beginSeq s.core d) d) (c0 := s.core) d
        (accountSetTo_rings ..) (accountSetTo_regs ..)
      have full : ∀ die, (acctOf (accountsEnd (accountSetTo (beginSeq s.core d) d) d) die a).c = (max cir 1 : Nat) := fun die => by
        rw [level, made, accountMade_full, freshAccount_eq]
      refine ⟨_, exec_accountSet_sets free session named weighs fits, cfg.trans ?_, full false, full true, rings, mem.trans (accountSetTo_mem ..)⟩
      rw [made, freshAccount_eq]
      rfl
    · have rated : accountSetTo (beginSeq s.core d) d = accountRated (beginSeq s.core d) a { g with cir := cir, weight := d.field 2 47 32 0 } := by
        rw [accountSetTo, show mapGet (beginSeq s.core d).acctCfg d.account = some g from set]
      obtain ⟨cfg, -, rings, level⟩ := accountsEnd_leaves (c := accountSetTo (beginSeq s.core d) d) (c0 := s.core) d
        (accountSetTo_rings ..) (accountSetTo_regs ..)
      refine ⟨_, exec_accountSet_sets free session named weighs fits, cfg.trans (by rw [rated]; rfl), ?_, rings⟩
      exact (level false a).trans (by rw [rated]; exact accountRated_level ..)
    · obtain ⟨cfg, -, rings, -⟩ := accountsEnd_leaves (c := accountGone (beginSeq s.core d) a) (c0 := s.core) d rfl rfl
      exact ⟨_, exec_accountDelete_goes free session named set unused, cfg, rings⟩
  · intro d g s free session named set a
    have begun : (beginSeq s.core d).rings = s.core.rings := rfl
    refine ⟨fun committed excess fill => ?_, fun sound => ?_⟩
    · refine ⟨_, exec_bucketSet_sets free session named set committed excess fill, complete_acctCfg .., fun die => ?_, fun die => ?_,
        complete_rings_congr ((bucketsSet_rings ..).trans begun) ..⟩
      all_goals
        obtain ⟨tag, left⟩ := acctOf_bucketsSet (beginSeq s.core d) d (deepened d g) die
        rw [acctOf_complete, left]
        exact fillLevel_eq ..
    · refine ⟨_, exec_meterSet_sets free session named set sound, complete_acctCfg .., fun die => ?_, complete_rings_congr ((meterFull_rings ..).trans begun) ..⟩
      rw [acctOf_complete, meterFull, acctOf_modBoth]
      exact ⟨rfl, rfl⟩

end Sys2Proof.Machine

/-!
PROOFS of sitting 12. The mailbox's objects that change the root of trust: quotes (O41) and keys (O42).
-/

namespace Sys2Proof.Machine

/-! ## Objects that change the root of trust (R101, R542) -/

/-- R542: a free mailbox is as it was, once an object that changes the reply and the root of trust is carried out. -/
theorem mailbox_answers {s : State} (h : mailboxFree s.core = true) (x : DoeObject) (port : x.port = false) {rot : Rot} {bs : List Byte}
    (out : carryOut (doeWith s x) x = ({ doeWith s x with core := { (doeWith s x).core with reply := .data bs }, rot := rot }, true)) :
    mailbox s x = { s with core := { s.core with reply := .data bs }, rot := rot } := by
  rw [mailbox_free h x port, out, if_pos rfl]
  exact congrArg (fun t : State => { t with core := { t.core with reply := .data bs }, rot := rot }) (modDoe_doeWith h x)

/-- The core with a status as its reply. -/
def told (c : Core) (st : Status) : Core := { c with reply := .data (natLe 4 (stCode st)) }

theorem respond_status (s : State) (st : Status) : respond s st [] = { s with core := told s.core st } := by
  rw [respond, List.append_nil]
  rfl

/-! ## KEY_LOAD and KEY_DESTROY (R544 to R546) -/

/-- R545: the root of trust with a key stored under its purpose. -/
def keyStored (r : Rot) (id purpose : Nat) (k : List Byte) : Rot :=
  if purpose = 1 then { r with sealKeys := mapSet r.sealKeys id k } else { r with ideKeys := mapSet r.ideKeys id k }

/-- R544, R545: KEY_LOAD of a body that passes its checks: what unwraps is stored and measured, else the tag has failed. -/
theorem exec_keyLoad_passes {s : State} {body : List Byte} (h : mailboxFree s.core = true) (passes : keyLoadCheck s.rot body = none) :
    exec (.keyLoad body) s = .next (match unwrapKey s.rot body with
      | some k => { s with core := told s.core .ok
                           rot := extendMr (keyStored s.rot (leAt body 0 4) (leAt body 4 1) k) (8, keyMeasure (leAt body 0 4) (leAt body 4 1)) }
      | none => { s with core := told s.core .checkMismatch }) := by
  have checks : keyLoadCheck (doeWith s { kind := some 4, body := body }).rot body = none := passes
  cases unwraps : unwrapKey s.rot body with
  | none =>
    have opens : unwrapKey (doeWith s { kind := some 4, body := body }).rot body = none := unwraps
    refine congrArg Host.Outcome.next (mailbox_answers h { kind := some 4, body := body } rfl ?_)
    simp only [carryOut, keyLoad, checks, opens, respond_status]
    rfl
  | some k =>
    have opens : unwrapKey (doeWith s { kind := some 4, body := body }).rot body = some k := unwraps
    refine congrArg Host.Outcome.next (mailbox_answers h { kind := some 4, body := body } rfl ?_)
    simp only [carryOut, keyLoad, checks, opens, respond_status]
    rfl

/-- R545: a sealing key under a new id, with room for it, outside debug. -/
theorem keyLoadCheck_seal {r : Rot} {body : List Byte} (long : body.length = 1636) (pad : leAt body 5 3 = 0) (debug : r.debug = false)
    (seals : leAt body 4 1 = 1) (id : leAt body 0 4 ≠ 0) (new : mapHas r.sealKeys (leAt body 0 4) = false) (room : r.sealKeys.length < 64) :
    keyLoadCheck r body = none := by
  simp [keyLoadCheck, long, pad, debug, seals, id, new, room]

/-- R545: an IDE key of a stream there is. -/
theorem keyLoadCheck_ide {r : Rot} {body : List Byte} (long : body.length = 1636) (pad : leAt body 5 3 = 0)
    (ide : leAt body 4 1 = 2) (id : leAt body 0 4 < 64) : keyLoadCheck r body = none := by
  simp [keyLoadCheck, long, pad, ide, id]

/-- R546: KEY_DESTROY of an id: what it does with the key store and what it answers. -/
theorem exec_keyDestroy_answers {s : State} {body : List Byte} (h : mailboxFree s.core = true) {st : Status} {rot : Rot}
    (out : keyDestroy (doeWith s { kind := some 5, body := body }) body = respond { doeWith s { kind := some 5, body := body } with rot := rot } st []) :
    exec (.keyDestroy body) s = .next { s with core := told s.core st, rot := rot } := by
  refine congrArg Host.Outcome.next (mailbox_answers h { kind := some 5, body := body } rfl ?_)
  simp only [carryOut, out, respond_status]
  rfl

section
variable {s : State} {body : List Byte} (h : mailboxFree s.core = true) (long : body.length = 4)
include h long

/-- R546: a sealing key that no model slot names goes; it goes first when an id names an IDE key too (log entry 112). -/
theorem exec_keyDestroy_seal (held : mapHas s.rot.sealKeys (leAt body 0 4) = true) (idle : keyInUse s.core (leAt body 0 4) = false) :
    exec (.keyDestroy body) s = .next { s with
      core := told s.core .ok
      rot := extendMr { s.rot with sealKeys := mapDel s.rot.sealKeys (leAt body 0 4) } (8, keyMeasure (leAt body 0 4) 1) } := by
  have held' : mapHas (doeWith s { kind := some 5, body := body }).rot.sealKeys (leAt body 0 4) = true := held
  have idle' : keyInUse (doeWith s { kind := some 5, body := body }).core (leAt body 0 4) = false := idle
  refine exec_keyDestroy_answers h ?_
  simp only [keyDestroy, long, held', idle', ne_eq, not_true_eq_false, Bool.not_true, Bool.false_and, Bool.false_eq_true, if_true, if_false]
  rfl

/-- R546: one that a model slot names stays. -/
theorem exec_keyDestroy_used (held : mapHas s.rot.sealKeys (leAt body 0 4) = true) (used : keyInUse s.core (leAt body 0 4) = true) :
    exec (.keyDestroy body) s = .next { s with core := told s.core .wrongState } := by
  have held' : mapHas (doeWith s { kind := some 5, body := body }).rot.sealKeys (leAt body 0 4) = true := held
  have used' : keyInUse (doeWith s { kind := some 5, body := body }).core (leAt body 0 4) = true := used
  refine exec_keyDestroy_answers h ?_
  simp only [keyDestroy, long, held', used', ne_eq, not_true_eq_false, Bool.not_true, Bool.false_and, Bool.false_eq_true, if_true, if_false]
  rfl

/-- R546: an id of no key. -/
theorem exec_keyDestroy_unknown (seals : mapHas s.rot.sealKeys (leAt body 0 4) = false) (ide : mapHas s.rot.ideKeys (leAt body 0 4) = false) :
    exec (.keyDestroy body) s = .next { s with core := told s.core .unknownHandle } := by
  have seals' : mapHas (doeWith s { kind := some 5, body := body }).rot.sealKeys (leAt body 0 4) = false := seals
  have ide' : mapHas (doeWith s { kind := some 5, body := body }).rot.ideKeys (leAt body 0 4) = false := ide
  refine exec_keyDestroy_answers h ?_
  simp only [keyDestroy, long, seals', ide', ne_eq, not_true_eq_false, Bool.not_false, Bool.and_self, if_true, if_false]
  rfl
end

/-- Settles O42: a KEY_LOAD that passes its checks by `exec_keyLoad_passes`, a KEY_DESTROY by the three lemmas above. That a sealing key goes
first when an id names both kinds is log entry 112. -/
theorem keysLoadedAndDestroyed : Obligations.KeysLoadedAndDestroyed := by
  unfold Obligations.KeysLoadedAndDestroyed
  intro body s h id purpose key answer
  refine ⟨fun long pad debug => ⟨fun seals nonzero new room => ?_, fun ide low => ?_⟩, fun long =>
    ⟨exec_keyDestroy_seal h long, exec_keyDestroy_used h long, exec_keyDestroy_unknown h long⟩⟩
  · refine ⟨_, exec_keyLoad_passes h (keyLoadCheck_seal long pad debug seals nonzero new room), fun k unwraps => ?_, fun fails => ?_⟩
    · rw [show unwrapKey s.rot body = some k from unwraps, show leAt body 4 1 = 1 from seals]
      rfl
    · rw [show unwrapKey s.rot body = none from fails]
      rfl
  · refine ⟨_, exec_keyLoad_passes h (keyLoadCheck_ide long pad ide low), fun k unwraps => ?_, fun fails => ?_⟩
    · rw [show unwrapKey s.rot body = some k from unwraps, show leAt body 4 1 = 2 from ide]
      rfl
    · rw [show unwrapKey s.rot body = none from fails]
      rfl

/-! ## QUOTE (R539 to R541, R543) -/

/-- What a new reservation leaves: of the root of trust all but the signing state, the leaf too; of the core all but what goes to the twin. -/
structure Reserved (s t : State) : Prop where
  pending : t.pending = s.pending
  mrs : t.rot.mrs = s.rot.mrs
  sealKeys : t.rot.sealKeys = s.rot.sealKeys
  ideKeys : t.rot.ideKeys = s.rot.ideKeys
  leaf : t.rot.leaf = s.rot.leaf
  quoted : ∀ c nonce mask, quoteBody c t.rot nonce mask = quoteBody c s.rot nonce mask
  grows : s.rot.reserved ≤ t.rot.reserved
  core : ∃ ctl, t.core = { s.core with twin := { s.core.twin with ctl := ctl } }
  alone : paired s.core = false → t.core = s.core

theorem Reserved.refl (s : State) : Reserved s s := ⟨rfl, rfl, rfl, rfl, rfl, fun _ _ _ => rfl, Nat.le_refl _, ⟨_, rfl⟩, fun _ => rfl⟩

theorem Reserved.trans {a b c : State} (h : Reserved a b) (k : Reserved b c) : Reserved a c := by
  obtain ⟨ctl, first⟩ := h.core
  obtain ⟨ctl', second⟩ := k.core
  refine ⟨k.pending.trans h.pending, k.mrs.trans h.mrs, k.sealKeys.trans h.sealKeys, k.ideKeys.trans h.ideKeys, k.leaf.trans h.leaf,
    fun c nonce mask => (k.quoted c nonce mask).trans (h.quoted c nonce mask), Nat.le_trans h.grows k.grows, ⟨ctl', ?_⟩, fun alone => ?_⟩
  · rw [second, first]
  · rw [k.alone (by rw [h.alone alone]; exact alone), h.alone alone]

/-- R539: a record of a reservation that is not below the last. -/
theorem writeReservation_reserved {s : State} {n : Nat} (grows : s.rot.reserved ≤ n) : Reserved s (writeReservation s n) := by
  unfold writeReservation
  dsimp only
  split
  · next both => exact ⟨rfl, rfl, rfl, rfl, rfl, fun _ _ _ => rfl, grows, ⟨_, rfl⟩, fun alone => absurd both (by simp [alone])⟩
  · exact ⟨rfl, rfl, rfl, rfl, rfl, fun _ _ _ => rfl, grows, ⟨_, rfl⟩, fun _ => rfl⟩

@[simp] theorem writeReservation_to (s : State) (n : Nat) : (writeReservation s n).rot.reserved = n := by
  unfold writeReservation
  dsimp only
  split <;> rfl

/-- R539: on a paired device the record of a reservation waits to go to the twin. -/
theorem writeReservation_told {s : State} (both : paired s.core = true) (n : Nat) :
    (writeReservation s n).core.twin.ctl.contains (.reservation (writeReservation s n).rot.record) = true := by
  simp [writeReservation, both, sendMsg]

theorem writeReservation_paired {s : State} (n : Nat) : paired (writeReservation s n).core = paired s.core := by
  unfold writeReservation
  dsimp only
  split <;> rfl

/-- R539, R540: reserving for a leaf below the last leaves a reservation above it, which no lower one replaces. -/
theorem reserveFor_reserved {s : State} {q : Nat} (below : q < leafMax) : Reserved s (reserveFor s q) ∧ q < (reserveFor s q).rot.reserved := by
  have first : Reserved s (if s.rot.reserved < q then writeReservation s q else s) ∧
      q ≤ (if s.rot.reserved < q then writeReservation s q else s).rot.reserved := by
    split
    · next less => exact ⟨writeReservation_reserved (Nat.le_of_lt less), by simp⟩
    · next least => exact ⟨.refl s, Nat.le_of_not_lt least⟩
  unfold reserveFor
  generalize (if s.rot.reserved < q then writeReservation s q else s) = m at first
  obtain ⟨kept, least⟩ := first
  dsimp only
  split
  · next at_ =>
    refine ⟨kept.trans (writeReservation_reserved ?_), ?_⟩
    · omega
    · rw [writeReservation_to]
      omega
  · next above => exact ⟨kept, Nat.lt_of_not_le above⟩

/-- R539: a reservation that is above the leaf stands. -/
theorem reserveFor_stands {s : State} {q : Nat} (above : q < s.rot.reserved) : reserveFor s q = s := by
  simp [reserveFor, Nat.not_lt.mpr (Nat.le_of_lt above), Nat.not_le.mpr above]

/-- R539: one that is not is told to a paired twin. -/
theorem reserveFor_told {s : State} {q : Nat} (both : paired s.core = true) (at_ : s.rot.reserved ≤ q) :
    (reserveFor s q).core.twin.ctl.contains (.reservation (reserveFor s q).rot.record) = true := by
  unfold reserveFor
  dsimp only
  split
  · next less =>
    rw [writeReservation_to, if_pos (Nat.le_refl q)]
    exact writeReservation_told (by rw [writeReservation_paired]; exact both) _
  · exact writeReservation_told both _

/-- R540: resuming fixes the leaf, and nothing else that a quote tells of. -/
theorem resumeLeaf_reserved (s : State) (t : Option Nat) : (resumeLeaf s.rot t).leaf = some ((resumeLeaf s.rot t).leaf.getD 0) ∧
    (resumeLeaf s.rot t).mrs = s.rot.mrs ∧ (resumeLeaf s.rot t).sealKeys = s.rot.sealKeys ∧ (resumeLeaf s.rot t).ideKeys = s.rot.ideKeys ∧
    (∀ c nonce mask, quoteBody c (resumeLeaf s.rot t) nonce mask = quoteBody c s.rot nonce mask) ∧
    (resumeLeaf s.rot t).reserved = s.rot.reserved := by
  unfold resumeLeaf
  split
  · next known =>
    obtain ⟨q, leaf⟩ := Option.isSome_iff_exists.mp known
    exact ⟨by rw [leaf]; rfl, rfl, rfl, rfl, fun _ _ _ => rfl, rfl⟩
  · exact ⟨rfl, rfl, rfl, rfl, fun _ _ _ => rfl, rfl⟩

/-- R540, R543: the state in which a QUOTE that passes its check finds its leaf: the leaf fixed, a reservation above it made. -/
def quoting (s : State) (x : DoeObject) : State :=
  reserveFor { doeWith s x with rot := resumeLeaf s.rot s.rot.twinKnows } ((resumeLeaf s.rot s.rot.twinKnows).leaf.getD 0)

section
variable {s : State} {body : List Byte} (h : mailboxFree s.core = true) (long : body.length = 36) (pad : leAt body 34 2 = 0)
  (below : (resumeLeaf s.rot s.rot.twinKnows).leaf.getD 0 < leafMax)
include long pad below

/-- R543: a QUOTE below the last leaf, as the mailbox carries it out. -/
theorem carryOut_quote (x : DoeObject) (kind : x.kind = some 1) (of : x.body = body) : carryOut (doeWith s x) x =
    if signatureWaits (quoting s x).core (quoting s x).rot then (quoting s x, false)
    else
      let q := (resumeLeaf s.rot s.rot.twinKnows).leaf.getD 0
      let m := quoteBody (quoting s x).core (quoting s x).rot (bytesAt body 0 32) (leAt body 32 2)
      (respond { quoting s x with rot := { (quoting s x).rot with leaf := some (q + 1), exhausted := decide (leafMax ≤ q + 1) } } .ok
        (m ++ hssSign hssSeed q m), true) := by
  have low : ¬ leafMax ≤ (resumeLeaf (doeWith s x).rot (doeWith s x).rot.twinKnows).leaf.getD 0 := Nat.not_le.mpr below
  simp only [carryOut, kind, of, quote, long, pad, ne_eq, not_true_eq_false, decide_false, Bool.or_self, Bool.false_eq_true, if_false, low]
  rfl

include h

/-- R543: a QUOTE whose reservation stands in both logs is signed. -/
theorem exec_quote_signs (core : (quoting s { kind := some 1, body := body }).core = (doeWith s { kind := some 1, body := body }).core)
    (acknowledged : signatureWaits (quoting s { kind := some 1, body := body }).core (quoting s { kind := some 1, body := body }).rot = false) :
    let q := (resumeLeaf s.rot s.rot.twinKnows).leaf.getD 0
    let r := (quoting s { kind := some 1, body := body }).rot
    let m := quoteBody s.core r (bytesAt body 0 32) (leAt body 32 2)
    exec (.quote body) s = .next { s with
      core := { s.core with reply := .data (natLe 4 (stCode .ok) ++ (m ++ hssSign hssSeed q m)) }
      rot := { r with leaf := some (q + 1), exhausted := decide (leafMax ≤ q + 1) } } := by
  intro q r m
  have pending : (quoting s { kind := some 1, body := body }).pending = (doeWith s { kind := some 1, body := body }).pending :=
    (reserveFor_reserved below).1.pending
  refine congrArg Host.Outcome.next (mailbox_answers h { kind := some 1, body := body } rfl ?_)
  rw [carryOut_quote long pad below _ rfl rfl, acknowledged]
  simp only [Bool.false_eq_true, if_false, respond, core, pending]
  rfl

/-- R539: a QUOTE whose reservation the twin has not acknowledged waits. -/
theorem exec_quote_waits (waits : signatureWaits (quoting s { kind := some 1, body := body }).core (quoting s { kind := some 1, body := body }).rot = true) :
    exec (.quote body) s = .next (quoting s { kind := some 1, body := body }) := by
  refine congrArg Host.Outcome.next ?_
  rw [mailbox_free h _ rfl, carryOut_quote long pad below _ rfl rfl, waits]
  rfl
end

/-- Settles O41: what reserving leaves is `reserveFor_reserved`; an acknowledged QUOTE is `exec_quote_signs`, one that waits `exec_quote_waits`.
That the link's acknowledgement is the twin's is log entry 168. -/
theorem quoteSpendsLeaf : Obligations.QuoteSpendsLeaf := by
  unfold Obligations.QuoteSpendsLeaf
  intro body s h long pad r q below
  let x : DoeObject := { kind := some 1, body := body }
  obtain ⟨leaf, mrs, sealKeys, ideKeys, quoted, reserved⟩ := resumeLeaf_reserved s s.rot.twinKnows
  obtain ⟨kept, above⟩ := reserveFor_reserved (s := { doeWith s x with rot := r }) below
  refine ⟨fun may => ?_, fun both low => ?_⟩
  · have settled : (quoting s x).core = (doeWith s x).core ∧ signatureWaits (quoting s x).core (quoting s x).rot = false := by
      rcases may with alone | ⟨stands, acknowledged⟩
      · have core : (quoting s x).core = (doeWith s x).core := kept.alone alone
        refine ⟨core, ?_⟩
        rw [core, signatureWaits, show paired (doeWith s x).core = false from alone, Bool.false_and]
      · have same : quoting s x = { doeWith s x with rot := r } := reserveFor_stands stands
        rw [same]
        exact ⟨rfl, acknowledged⟩
    refine ⟨_, exec_quote_signs h long pad below settled.1 settled.2, rfl, above, reserved ▸ kept.grows, kept.mrs.trans mrs,
      kept.sealKeys.trans sealKeys, kept.ideKeys.trans ideKeys, ?_⟩
    have same : ∀ nonce mask, quoteBody s.core (quoting s x).rot nonce mask = quoteBody s.core s.rot nonce mask := fun nonce mask =>
      (kept.quoted _ nonce mask).trans (quoted _ nonce mask)
    intro m
    simp only [x] at same
    rw [same]
  · have told : (quoting s x).core.twin.ctl.contains (.reservation (quoting s x).rot.record) = true := reserveFor_told both low
    obtain ⟨ctl, core⟩ := kept.core
    have waits : signatureWaits (quoting s x).core (quoting s x).rot = true := by
      have still : paired (quoting s x).core = true := by
        rw [show (quoting s x).core = _ from core]
        exact both
      rw [signatureWaits, still, told, Bool.true_or, Bool.and_self]
    refine ⟨_, exec_quote_waits h long pad below waits, ?_, kept.leaf.trans leaf, above, told, ?_, kept.mrs.trans mrs, ?_, ?_⟩
    all_goals
      rw [show (quoting s { kind := some 1, body := body }).core = _ from core]
      rfl

end Sys2Proof.Machine

/-!
PROOFS of sitting 12. Power: what starting domains leaves; tenant changes and unseals (O43).
-/

namespace Sys2Proof.Machine

/-! ## What starting domains leaves (R558, R561, R562, R570) -/

/-- `d` is `c` but for the switched domains with their PLLs, the stacks, and the step schedulers, which apply what fell due. -/
def DomainsMoved (c d : Core) : Prop := d = { c with
  power := { c.power with domains := d.power.domains, waking := d.power.waking, started := d.power.started, locks := d.power.locks }
  stackTab := d.stackTab, sched := d.sched }

theorem DomainsMoved.refl (c : Core) : DomainsMoved c c := rfl

theorem DomainsMoved.trans {a b c : Core} (h : DomainsMoved a b) (k : DomainsMoved b c) : DomainsMoved a c :=
  Eq.trans (show c = _ from k) (by rw [show b = _ from h])

theorem DomainsMoved.foldl {α : Type} {f : Core → α → Core} (each : ∀ c x, DomainsMoved c (f c x)) : ∀ (l : List α) (c : Core), DomainsMoved c (l.foldl f c)
  | [], c => .refl c
  | x :: l, c => (each c x).trans (foldl each l (f c x))

/-- A change of the power state that sets the domains and their PLLs alone. -/
theorem modPower_moved (c : Core) {f : Power → Power} (sets : ∀ p, f p = { p with
    domains := (f p).domains, waking := (f p).waking, started := (f p).started, locks := (f p).locks }) : DomainsMoved c (modPower c f) := by
  rw [DomainsMoved, modPower, ← sets c.power]

theorem startDomains_moved (c : Core) (d : Nat) : DomainsMoved c (startDomains c d) := by
  obtain ⟨tab, sch, started⟩ := startDomains_frame c d
  rw [DomainsMoved, started]

/-- R561: the clusters of a region start. -/
theorem startRegion_moved (c : Core) (die : Bool) (region : Nat) : DomainsMoved c (startRegion c die region) :=
  (modPower_moved c fun _ => rfl).trans
    (.foldl (fun _ _ => startDomains_moved _ _) _ _)

theorem startWaiting_moved (c : Core) (die : Bool) : DomainsMoved c (startWaiting c die) := by
  unfold startWaiting
  split
  · exact .refl c
  · dsimp only
    split
    · exact startRegion_moved ..
    · exact .refl c

/-- R561, R570: setting the domains, those that wait and those that started last. -/
theorem setDomains_moved (c : Core) (domains : Nat) (waking : PerDie (List Nat)) (started : PerDie (Option (Nat × Nat))) :
    DomainsMoved c (modPower c fun p => { p with domains := domains, waking := waking, started := started }) := rfl

theorem startAll_moved (c : Core) : DomainsMoved c (startAll c) :=
  ((setDomains_moved c otherDomains ⟨List.range 32, List.range 32⟩ ⟨none, none⟩).trans (startWaiting_moved _ false)).trans (startWaiting_moved _ true)

theorem domainsAfter_moved (c : Core) (locks : Nat) : DomainsMoved c (domainsAfter c locks) := by
  unfold domainsAfter
  dsimp only
  split
  · exact ((modPower_moved c fun _ => rfl).trans (modPower_moved _ fun _ => rfl)).trans (startAll_moved _)
  · exact modPower_moved c fun _ => rfl

/-- R570, R571: READY is all that changes when a device may become ready. -/
theorem tryReady_frame (c : Core) : ∃ ready, tryReady c = { c with power := { c.power with ready := ready } } := by
  unfold tryReady
  dsimp only
  split
  · exact ⟨true, rfl⟩
  · exact ⟨c.power.ready, rfl⟩

/-! ## Tenant changes and unseals (R550, R551, R555, R556) -/

/-- R551: what everything but the root of trust takes its value after a host reset from. -/
def tenantKept (c : Core) : Core :=
  { keptCore c with
    errs := { next := c.errs.next, fatal := c.errs.fatal }
    link := { c.link with downTime := 0, holdOut := false, secure := 0, insecure := c.link.insecure ||| c.link.secure, keySet := [] }
    stackTab := c.stackTab.map fun x => (x.1, stackKept x.2)
    power := { c.power with deep := false, held := c.power.held && c.power.supplyLost, ready := c.power.ready && !(c.power.held && c.power.supplyLost) } }

/-- R551: what a tenant change leaves. -/
theorem tenantCore_leaves (c : Core) : ∃ power tab sch, tenantCore c = { tenantKept c with power := power, stackTab := tab, sched := sch } := by
  obtain ⟨r, becomes⟩ := tryReady_frame (domainsAfter (tenantKept c) allLocks)
  have all : tenantCore c = _ := becomes
  rw [all, show domainsAfter (tenantKept c) allLocks = _ from domainsAfter_moved _ _]
  exact ⟨_, _, _, rfl⟩

/-- What a tenant change, then an unseal, leaves: the epoch after this one, no key, no session, object, account or ring, no register value,
the set-up lock open, no IDE stream Secure, INT_FATAL and the bus as they were. -/
structure FreshTenant (s t : State) : Prop where
  epoch : t.rot.tenantEpoch = (s.rot.tenantEpoch + 1) % 2 ^ 32
  sealKeys : t.rot.sealKeys = []
  ideKeys : t.rot.ideKeys = []
  core : ∃ power tab sch, t.core = { tenantKept s.core with power := power, stackTab := tab, sched := sch }

theorem tenantChange_fresh (s : State) : FreshTenant s (tenantChange s) := ⟨rfl, rfl, rfl, tenantCore_leaves s.core⟩

theorem unsealed_fresh (s : State) : FreshTenant s (unsealed s) := ⟨rfl, rfl, rfl, tenantCore_leaves s.core⟩

/-- R550: no pair trains, syncs or is paired. -/
theorem tenantBarred_iff (c : Core) : tenantBarred c = true ↔ c.twin.state = 1 ∨ c.twin.state = 2 ∨ c.twin.state = 3 := by
  simp [tenantBarred, or_assoc]

section
variable {s : State} (up : barReady s.core = true) (quiet : s.core.doe.token = none)
include up quiet

/-- R550: while a pair trains, syncs or is paired, both commands are refused. -/
theorem exec_tenantChange_barred (barred : tenantBarred s.core = true) :
    exec .tenantChange s = .next { s with rot := { s.rot with status := stCode .wrongState } } := by
  show Host.Outcome.next (tenantCommand s) = _
  simp [tenantCommand, up, quiet, barred, rtpStatus]

theorem exec_debugUnseal_barred (barred : tenantBarred s.core = true) (env : Env) :
    exec (.debugUnseal env) s = .next { s with rot := { s.rot with status := stCode .wrongState } } := by
  show Host.Outcome.next (unsealCommand s env) = _
  simp [unsealCommand, up, quiet, barred, rtpStatus]

/-- R551: otherwise the tenant changes. -/
theorem exec_tenantChange_changes (free : tenantBarred s.core = false) : exec .tenantChange s = .next (tenantChange s) := by
  show Host.Outcome.next (tenantCommand s) = _
  simp [tenantCommand, up, quiet, free]

/-- R555, R556: an unseal with a token that can be read: it unseals, or sets ST_INVALID_FIELD. -/
theorem exec_debugUnseal_reads (free : tenantBarred s.core = false) (answers : hostAnswers s.core) (noWindow : mapGet s.core.mem.windows 0 = none)
    (bs : List Byte) : exec (.debugUnseal [.data bs]) s =
      .next (if tokenGood s.rot (bytesAt bs 0 5460) then unsealed s else rtpStatus s .invalidField) := by
  have read : readToken s.core (runOf s s.core ([.data bs] ++ noAnswers)) =
      .ok (bytesAt bs 0 5460, { runOf s s.core ([.data bs] ++ noAnswers) with env := noAnswers }) :=
    ReadsHost.run_readBus ⟨rfl, rfl, answers, noWindow⟩ rfl _ _
  have same : ({ s with core := { s.core with doe := { s.core.doe with token := none } } } : State) = s := by
    rw [← quiet]
  show Host.Outcome.next (unsealCommand s [.data bs]) = _
  simp only [unsealCommand, up, quiet, free, unsealRun, read, Bool.not_true, Option.isSome_none, Bool.or_self, Bool.false_eq_true, if_false]
  exact congrArg (fun t : State => Host.Outcome.next (if tokenGood t.rot (bytesAt bs 0 5460) then unsealed t else rtpStatus t .invalidField)) same
end

/-- Settles O43: refusals by the two `_barred` lemmas, a tenant change and an unseal by what `FreshTenant` says that both leave. -/
theorem tenantChangeErases : Obligations.TenantChangeErases := by
  unfold Obligations.TenantChangeErases
  intro s up quiet fresh barred
  have leaves : ∀ t, FreshTenant s t → fresh t := by
    rintro t ⟨epoch, sealKeys, ideKeys, power, tab, sch, core⟩
    refine ⟨epoch, sealKeys, ideKeys, ?_⟩
    rw [core]
    exact ⟨rfl, rfl, rfl, rfl, rfl, rfl, rfl, rfl, rfl, rfl, rfl, rfl⟩
  refine ⟨fun bars => ?_, fun free => ?_, fun free answers noWindow bs => ?_⟩
  · have bars := (tenantBarred_iff s.core).mpr bars
    exact ⟨exec_tenantChange_barred up quiet bars, exec_debugUnseal_barred up quiet bars⟩
  · have free := Bool.eq_false_iff.mpr (mt (tenantBarred_iff s.core).mp free)
    exact ⟨_, exec_tenantChange_changes up quiet free, leaves _ (tenantChange_fresh s), rfl⟩
  · have free := Bool.eq_false_iff.mpr (mt (tenantBarred_iff s.core).mp free)
    intro tok good
    have accepted : tokenGood s.rot tok = true ↔ good := by
      simp only [tokenGood, nonceBytes, Bool.and_eq_true, beq_iff_eq, good]
      tauto
    refine ⟨_, exec_debugUnseal_reads up quiet free answers noWindow bs, fun sound => ?_, fun bad => ?_⟩
    · rw [if_pos (accepted.mpr sound)]
      exact ⟨leaves _ (unsealed_fresh s), rfl⟩
    · rw [if_neg (mt accepted.mp bad)]
      rfl

end Sys2Proof.Machine

/-!
PROOFS of sitting 12. Power-up (O48).
-/

namespace Sys2Proof.Machine

/-! ## Extending measurement registers changes them alone (R537) -/

theorem extendAll_frame (xs : List (Nat × List Byte)) (r : Rot) : extendAll r xs = { r with mrs := (extendAll r xs).mrs } := by
  induction xs generalizing r with
  | nil => rfl
  | cons x xs ih => exact (ih (extendMr r x)).trans rfl

theorem extendAll_mrs_congr (xs : List (Nat × List Byte)) {r q : Rot} (h : r.mrs = q.mrs) : (extendAll r xs).mrs = (extendAll q xs).mrs := by
  induction xs generalizing r q with
  | nil => exact h
  | cons x xs ih => exact ih (by simp only [extendMr, h])

/-! ## Power-on (R535 to R537, R553, R570) -/

/-- Drawing the nonce draws. -/
theorem drawNonce_frame (c : Core) : ∃ draws, (drawNonce c).2 = { c with draws := draws } := ⟨c.draws + 4, rfl⟩

/-- R572: a die whose part did not verify is lost, and the device fails. -/
theorem partLost_when (c : Core) (die unverified : Bool) : ∃ levels, (if unverified then partLost c die else c) =
    { c with levels := levels, power := { c.power with failed := c.power.failed || unverified } } := by
  cases unverified with
  | false => exact ⟨c.levels, by rw [Bool.or_false]; rfl⟩
  | true => exact ⟨_, by rw [Bool.or_true]; rfl⟩

/-- R536, R572: what stays unverified fails the device, and loses the die. -/
theorem keepUnverified_frame (c : Core) : ∃ levels, keepUnverified c = { c with
    levels := levels, power := { c.power with failed := c.power.failed || c.power.unverified.d0 || c.power.unverified.d1 } } := by
  obtain ⟨levels, first⟩ := partLost_when c false c.power.unverified.d0
  rw [keepUnverified, first]
  exact partLost_when _ true c.power.unverified.d1

theorem logLost_frame (c : Core) (die : Bool) : ∃ errs, logLost c die = { c with errs := errs } := ⟨_, logErr_frame ..⟩

/-- R570: the core when the always-on supply rises. -/
def suppliedAlways (s : State) (b : BootInfo) : Core :=
  { draws := s.core.draws, bus := s.core.bus, power := { on := true, rails := 1, unverified := ⟨!(b.imageAOk || b.imageBOk), !b.die1Ok⟩ } }

/-- R570: what a device holds that has just got its always-on supply. -/
def poweredOn (s : State) (b : BootInfo) : Core :=
  { bus := s.core.bus, power := { on := true, rails := 1, unverified := ⟨!(b.imageAOk || b.imageBOk), !b.die1Ok⟩
                                  failed := !((b.imageAOk || b.imageBOk) && b.die1Ok) } }

/-- R535 to R540, R553: the root of trust of a device that has just got its always-on supply, before its parts are measured. -/
def bootedRot (s : State) (b : BootInfo) : Rot :=
  let epoch := s.rot.flashEpoch.getD b.tenantEpoch
  { tenantEpoch := epoch, flashEpoch := some epoch, reserved := b.leafF, logSeq := b.logSeq, twinLog := s.rot.twinLog
    imageB := !b.imageAOk && b.imageBOk, fwVersions := b.fwVersions, firmware := [nth b.parts 2 [], nth b.parts 3 []]
    fwDigests := [sha256 (nth b.parts 2 []), sha256 (nth b.parts 3 [])] }

/-- R535, R536: the boot chain draws the nonce, and logs what is lost when it does not verify. -/
theorem bootLog_frame (c : Core) (sound : Bool) (die : Bool) :
    ∃ draws errs, (if sound then (drawNonce c).2 else logLost (drawNonce c).2 die) = { c with draws := draws, errs := errs } := by
  obtain ⟨draws, drawn⟩ := drawNonce_frame c
  obtain ⟨errs, logged⟩ := logLost_frame { c with draws := draws } die
  rw [drawn]
  cases sound with
  | false => exact ⟨_, _, logged⟩
  | true => exact ⟨_, _, rfl⟩

/-- R535 to R537: what power-on leaves of the core. -/
theorem powerOn_core (s : State) (b : BootInfo) : ∃ draws levels errs,
    (powerOn s b).core = { poweredOn s b with draws := draws, levels := levels, errs := errs } := by
  have fails : (false || !(b.imageAOk || b.imageBOk) || !b.die1Ok) = !((b.imageAOk || b.imageBOk) && b.die1Ok) := by
    rw [Bool.false_or, Bool.not_and]
  obtain ⟨draws, errs, logged⟩ := bootLog_frame (suppliedAlways s b) ((b.imageAOk || b.imageBOk) && b.die1Ok) (b.imageAOk || b.imageBOk)
  obtain ⟨levels, kept⟩ := keepUnverified_frame { suppliedAlways s b with draws := draws, errs := errs }
  refine ⟨draws, levels, errs, ?_⟩
  rw [show (powerOn s b).core = keepUnverified _ from congrArg keepUnverified logged, kept, poweredOn, ← fails]
  rfl

/-- R537: what it leaves of the root of trust: the parts measured, when an image verified. -/
theorem powerOn_rot (s : State) (b : BootInfo) : ∃ nonce mrs, (powerOn s b).rot = { bootedRot s b with nonce := nonce, mrs := mrs } ∧
    (b.imageAOk = true → mrs = (extendAll {} (bootMeasures { b with tenantEpoch := s.rot.flashEpoch.getD b.tenantEpoch })).mrs) := by
  let ms := bootMeasures { b with tenantEpoch := s.rot.flashEpoch.getD b.tenantEpoch }
  let r : Rot := { bootedRot s b with nonce := (drawNonce (suppliedAlways s b)).1 }
  have boots : (powerOn s b).rot = if b.imageAOk || b.imageBOk then extendAll r ms else r := rfl
  rw [boots]
  split
  · exact ⟨_, _, extendAll_frame ms r, fun _ => extendAll_mrs_congr ms rfl⟩
  · next none_ => exact ⟨_, _, rfl, fun a => absurd (by simp [a]) none_⟩

/-! ## Supplies, PLLs, training and PERST# (R558, R570 to R573, R592) -/

/-- R592: with the last supply every domain leaves reset. -/
theorem startAll_when (c : Core) (last : Bool) : DomainsMoved c (if last then startAll c else c) := by
  split
  · exact startAll_moved c
  · exact .refl c

/-- R592: a supply that asserts in its order counts, and nothing else changes but the domains and READY. -/
theorem supplyGood_inOrder {c : Core} {r : Rail} (on : c.power.on = true) (order : c.power.rails &&& railsBefore r = railsBefore r) :
    ∃ power tab sch, supplyGood c r = { c with power := power, stackTab := tab, sched := sch } ∧ power.rails = c.power.rails ||| 2 ^ railBit r := by
  let m := modPower c fun p => { p with rails := c.power.rails ||| 2 ^ railBit r }
  have starts := startAll_when m (m.power.rails = allRails && c.power.rails != allRails)
  obtain ⟨_, ready⟩ := tryReady_frame (if m.power.rails = allRails && c.power.rails != allRails then startAll m else m)
  have goes : supplyGood c r = tryReady (if m.power.rails = allRails && c.power.rails != allRails then startAll m else m) := by
    simp only [supplyGood, on, order, bne_self_eq_false, Bool.not_true, Bool.or_self, Bool.false_eq_true, if_false]
    rfl
  rw [goes, ready]
  generalize (if m.power.rails = allRails && c.power.rails != allRails then startAll m else m) = d at starts
  rw [show d = _ from starts]
  exact ⟨_, _, _, rfl, rfl⟩

theorem exec_supplyGoodAssert_ignored {s : State} {r : Rail} (order : s.core.power.rails &&& railsBefore r ≠ railsBefore r) :
    exec (.supplyGoodAssert r) s = .next s := by
  show Host.Outcome.next { s with core := supplyGood s.core r } = _
  have ignored : supplyGood s.core r = s.core := by simp [supplyGood, order]
  rw [ignored]

/-- R558: a PLL that locks. -/
theorem exec_pllLock_locks {s : State} {die : Bool} {pll : Nat} (up : supplied s.core = true) (low : pll < 3) (deep : s.core.power.deep = false)
    (tripped : s.core.power.tripped = false) : ∃ t, exec (.pllLock die pll) s = .next t ∧
      t.core.power.locks = s.core.power.locks ||| 2 ^ (pll + if die then 4 else 0) := by
  let m := modPower s.core fun p => { p with locks := p.locks ||| 2 ^ (pll + if die then 4 else 0) }
  have goes : exec (.pllLock die pll) s = .next { s with core := tryReady m } := by
    show execPllLock die pll s = _
    simp [execPllLock, onCore, up, low, deep, tripped, m]
  obtain ⟨_, ready⟩ := tryReady_frame m
  refine ⟨_, goes, ?_⟩
  rw [ready]
  rfl

/-- R573: a sensor below 0 °C keeps the stacks from training. -/
theorem exec_stackTraining_cold {s : State} {coldest : Int} {ok : List Bool} {rows : List Nat} (up : supplied s.core = true)
    (locks : s.core.power.locks = allLocks) (untrained : s.core.power.trained = false) (sound : s.core.power.failed = false)
    (tripped : s.core.power.tripped = false) (cold : coldest < 0) :
    exec (.stackTraining coldest ok rows) s = .next { s with core := { s.core with power := { s.core.power with cold := true } } } := by
  show Host.Outcome.next { s with core := stackTraining s.core coldest ok rows } = _
  simp [stackTraining, up, locks, untrained, sound, tripped, cold, modPower]

/-- R570: the core with the first `n` stacks trained. -/
def stacksTrained (c : Core) (ok : List Bool) (rows : List Nat) (n : Nat) : Core :=
  (List.range n).foldl (fun c k => trainStack c k (ok.getD k false) (nth rows k 0)) c

/-- R570, R572: training fixes the state of each stack. -/
theorem stacksTrained_state (c : Core) (ok : List Bool) (rows : List Nat) (n : Nat) :
    (∃ tab, stacksTrained c ok rows n = { c with stackTab := tab }) ∧ ∀ k, k < n →
      (stackOf (stacksTrained c ok rows n) k).state = (if ok.getD k false then 1 else 2) ∧
      (stackOf (stacksTrained c ok rows n) k).trained = ok.getD k false := by
  induction n with
  | zero => exact ⟨⟨_, rfl⟩, fun _ h => absurd h (Nat.not_lt_zero _)⟩
  | succ n ih =>
    obtain ⟨⟨tab, before⟩, states⟩ := ih
    have last : stacksTrained c ok rows (n + 1) = trainStack (stacksTrained c ok rows n) n (ok.getD n false) (nth rows n 0) := by
      rw [stacksTrained, List.range_succ, List.foldl_append]
      rfl
    rw [last]
    refine ⟨⟨_, by rw [before]; rfl⟩, fun k hk => ?_⟩
    by_cases same : k = n
    · rw [same, stackOf, trainStack, mapGet_set_same]
      exact ⟨rfl, rfl⟩
    · have other : stackOf (trainStack (stacksTrained c ok rows n) n (ok.getD n false) (nth rows n 0)) k = stackOf (stacksTrained c ok rows n) k := by
        simp only [stackOf, trainStack]
        rw [mapGet_set_other _ _ _ _ same]
      rw [other]
      exact states k (by omega)

/-- R572: no stack of a die trained. -/
def NoneTrained (c : Core) (die : Bool) : Prop := ∀ i, i < 4 → (stackOf c ((if die then 4 else 0) + i)).state ≠ 1

/-- R572: a die of which no stack trained fails the device; the stacks stay as they are. -/
theorem untrainedDie_frame (c : Core) (die : Bool) : ∃ levels errs failed,
    untrainedDie c die = { c with levels := levels, errs := errs, power := { c.power with failed := failed } } ∧
    (failed = true ↔ c.power.failed = true ∨ NoneTrained c die) := by
  have any : ((List.range 4).filter fun i => (stackOf c ((if die then 4 else 0) + i)).state == 1).isEmpty = true ↔ NoneTrained c die := by
    rw [List.isEmpty_iff, List.filter_eq_nil_iff]
    simp [NoneTrained]
  obtain ⟨errs, logged⟩ := logLost_frame c die
  rw [untrainedDie]
  by_cases untrained : NoneTrained c die
  · rw [if_pos (any.mpr untrained), logged]
    exact ⟨_, _, true, rfl, iff_of_true rfl (.inr untrained)⟩
  · rw [if_neg (mt any.mp untrained)]
    exact ⟨c.levels, c.errs, c.power.failed, rfl, by simp [untrained]⟩

/-- R570, R572: the state of a stack when training fixes it, and whether none of a die's is trained. -/
theorem noneTrained_iff {c : Core} {ok : List Bool} {die : Bool}
    (states : ∀ k, k < 8 → (stackOf c k).state = if ok.getD k false then 1 else 2) :
    NoneTrained c die ↔ ∀ i, i < 4 → ok.getD ((if die then 4 else 0) + i) false = false := by
  refine forall₂_congr fun i hi => ?_
  rw [states _ (by split <;> omega)]
  cases ok.getD ((if die then 4 else 0) + i) false <;> simp

/-- R570, R572: training with the fast PLLs locked and no sensor too cold. -/
theorem exec_stackTraining_trains {s : State} {coldest : Int} {ok : List Bool} {rows : List Nat} (up : supplied s.core = true)
    (locks : s.core.power.locks = allLocks) (untrained : s.core.power.trained = false) (sound : s.core.power.failed = false)
    (tripped : s.core.power.tripped = false) (warm : 0 ≤ coldest) :
    ∃ t, exec (.stackTraining coldest ok rows) s = .next t ∧ t.core.power.trained = true ∧
      (∀ k, k < 8 → (stackOf t.core k).state = (if ok.getD k false then 1 else 2) ∧ (stackOf t.core k).trained = ok.getD k false) ∧
      (t.core.power.failed = true ↔ (∀ i, i < 4 → ok.getD (0 + i) false = false) ∨ ∀ i, i < 4 → ok.getD (4 + i) false = false) := by
  let begun := modPower s.core fun p => { p with cold := false, trained := true }
  let c := stacksTrained begun ok rows 8
  have goes : exec (.stackTraining coldest ok rows) s = .next { s with core := tryReady (untrainedDie (untrainedDie c false) true) } := by
    show Host.Outcome.next { s with core := stackTraining s.core coldest ok rows } = _
    simp only [stackTraining, up, locks, untrained, sound, tripped, Int.not_lt.mpr warm, bne_self_eq_false, Bool.not_true, Bool.or_self,
      Bool.false_eq_true, if_false]
    rfl
  obtain ⟨⟨tab, trained⟩, states⟩ := stacksTrained_state begun ok rows 8
  obtain ⟨levels0, errs0, failed0, die0, fails0⟩ := untrainedDie_frame c false
  obtain ⟨levels1, errs1, failed1, die1, fails1⟩ := untrainedDie_frame (untrainedDie c false) true
  obtain ⟨_, ready⟩ := tryReady_frame (untrainedDie (untrainedDie c false) true)
  have same : ∀ k, stackOf (tryReady (untrainedDie (untrainedDie c false) true)) k = stackOf c k := fun k =>
    stackOf_congr (by rw [ready, die1, die0]) k
  have fails : failed1 = true ↔ NoneTrained c false ∨ NoneTrained c true := by
    have first : NoneTrained (untrainedDie c false) true ↔ NoneTrained c true := by
      rw [die0]
      rfl
    have none_failed : c.power.failed = false := by
      rw [show c = _ from trained]
      exact sound
    rw [fails1, first, die0, fails0, none_failed]
    simp
  refine ⟨_, goes, ?_, fun k hk => ?_, ?_⟩
  · rw [ready, die1, die0, show c = _ from trained]
    rfl
  · rw [same]
    exact states k hk
  · rw [ready, die1]
    exact fails.trans (or_congr (noneTrained_iff fun k hk => (states k hk).1) (noneTrained_iff fun k hk => (states k hk).1))

/-- R570, R571: PERST# released over a link that trains; with all the rest in place the device is READY. -/
theorem exec_perstRelease_trains {s : State} {speed width : Nat} {flit : Bool} (up : supplied s.core = true) (perst : s.core.power.perst = true)
    (sound : s.core.power.failed = false) (link : trains speed width flit = true) :
    ∃ t, exec (.perstRelease speed width flit) s = .next t ∧ t.core.power.perst = false ∧ t.core.link.up = true ∧
      t.core.link.speed = speed ∧ t.core.link.width = width ∧
      (s.core.power.locks = allLocks → s.core.power.trained = true → s.core.power.tripped = false → s.core.power.held = false →
        t.core.power.ready = true) := by
  let c := modPower s.core fun p => { p with perst := false }
  let d := linkUp { c with link := { c.link with badLanes := 0 } } speed width flit
  have goes : exec (.perstRelease speed width flit) s = .next { s with core := tryReady d } := by
    show execPerstRelease speed width flit s = _
    have kept : (modPower s.core fun p => { p with perst := false }).power.failed = false := sound
    simp only [execPerstRelease, onCore, up, perst, kept, link, Bool.not_true, Bool.or_self, Bool.false_eq_true, if_false]
    rfl
  obtain ⟨r, ready⟩ := tryReady_frame d
  refine ⟨_, goes, ?_, ?_, ?_, ?_, fun locks trained tripped held => ?_⟩
  iterate 4
    · rw [ready]
      rfl
  · have all : (supplied d && d.power.locks == allLocks && d.power.trained && !d.power.perst && d.link.up && !d.power.failed &&
        !d.power.tripped && !d.power.held) = true := by
      have first : supplied d = true := up
      rw [first]
      simp [d, c, linkUp, modPower, locks, trained, sound, tripped, held]
    show (tryReady d).power.ready = true
    simp only [tryReady, all, if_true, modPower]

/-- Settles O48: power-on by `powerOn_core` and `powerOn_rot`, then each step of R570 in order. -/
theorem powerUp : Obligations.PowerUp := by
  unfold Obligations.PowerUp
  intro s
  refine ⟨fun b off => ?_, fun r on => ⟨fun order => ?_, exec_supplyGoodAssert_ignored⟩, fun die pll => exec_pllLock_locks,
    fun coldest ok rows up locks untrained sound tripped => ⟨fun warm => ?_, exec_stackTraining_cold up locks untrained sound tripped⟩,
    fun speed width flit => exec_perstRelease_trains⟩
  · obtain ⟨draws, levels, errs, core⟩ := powerOn_core s b
    obtain ⟨nonce, mrs, rot, measured⟩ := powerOn_rot s b
    have goes : exec (.powerOnReset b) s = .next (powerOn s b) := by
      show execPowerOnReset b s = _
      rw [execPowerOnReset, off]
      rfl
    refine ⟨_, goes, ?_⟩
    rw [core, rot]
    exact ⟨rfl, rfl, rfl, rfl, rfl, rfl, rfl, rfl, rfl, rfl, rfl, fun a => ⟨measured a, by simp [bootedRot, a]⟩⟩
  · obtain ⟨power, tab, sch, leaves, rails⟩ := supplyGood_inOrder on order
    refine ⟨{ s with core := supplyGood s.core r }, rfl, ?_⟩
    rw [leaves]
    exact ⟨rails, rfl, rfl, rfl⟩
  · obtain ⟨t, goes, trained, states, fails⟩ := exec_stackTraining_trains up locks untrained sound tripped warm (ok := ok) (rows := rows)
    refine ⟨t, goes, trained, states, fails.trans (or_congr ?_ ?_)⟩
    · simp only [Nat.zero_add]
    · refine ⟨fun none_ k low high => ?_, fun none_ i hi => none_ _ (Nat.le_add_right 4 i) (by omega)⟩
      rw [← Nat.add_sub_cancel' low]
      exact none_ _ (by omega)

end Sys2Proof.Machine

/-!
PROOFS of sitting 12. Resets, the thermal trip and lost supplies (O49).
-/

namespace Sys2Proof.Machine

/-! ## What a reset keeps (R565 to R568) -/

/-- R566, R567: what every host reset and fundamental reset does: it counts itself and names its cause, the keys go, and all is as after a reset
but for the measurement registers, the tenant epoch, the bus, and INT_FATAL while no entry of die 1 waits for a lost die 0. -/
structure ResetDone (k : ResetCause) (s t : State) : Prop where
  rot : t.rot = emptyKeys s.rot
  core : ∃ twin link tab sch levels errs power, t.core = { keptCore s.core with
    twin := twin, link := link, stackTab := tab, sched := sch, levels := levels, errs := errs, power := power }
  fatal : s.core.errs.held1 = [] → t.core.errs.fatal = s.core.errs.fatal
  cause : t.core.power.cause = causeCode k
  resets : t.core.power.resets = satAdd 16 s.core.power.resets 1

/-- Entries of die 1 that waited for a lost die 0 are all that taking them changes. -/
theorem takeHeld_frame (c : Core) : ∃ errs, takeHeld c = { c with errs := errs } ∧ (c.errs.held1 = [] → errs = c.errs) := by
  unfold takeHeld
  split
  · exact ⟨c.errs, rfl, fun _ => rfl⟩
  · next holds => exact ⟨_, rfl, fun none_ => absurd (by simp [none_]) holds⟩

/-- R106, R566, R567: the core of a host reset before its domains start. -/
def hostKept (c : Core) (k : ResetCause) : Core :=
  let c := sendGiveUp c
  let p := c.power
  let up := c.link.up && (k = .functionLevel || k = .rstHost)
  let link : Link :=
    if up then { up := true, speed := c.link.speed, width := c.link.width, flit := c.link.flit, badLanes := c.link.badLanes }
    else { badLanes := c.link.badLanes }
  let kept := c.stackTab.map fun x => (x.1, { stackKept x.2 with selfRefresh := p.tripped && x.2.selfRefresh })
  let power := { causeKept p k with ready := false, deep := false, held := p.held && p.supplyLost }
  { keptCore c with link := link, stackTab := kept, power := power }

/-- R567: the domains of a tripped device stay as they are. -/
def hostDomains (c : Core) (k : ResetCause) : Core :=
  if (sendGiveUp c).power.tripped then hostKept c k else domainsAfter (hostKept c k) allLocks

theorem hostDomains_moved (c : Core) (k : ResetCause) : DomainsMoved (hostKept c k) (hostDomains c k) := by
  unfold hostDomains
  split
  · exact .refl _
  · exact domainsAfter_moved ..

theorem hostReset_eq (s : State) (k : ResetCause) :
    hostReset s k = { s with core := tryReady (takeHeld (hostDomains s.core k)), rot := emptyKeys s.rot } := rfl

/-- R566, R567: what a host reset leaves. -/
theorem hostReset_done (s : State) (k : ResetCause) : ResetDone k s (hostReset s k) ∧
    (hostReset s k).core.power.trained = s.core.power.trained ∧
    (hostReset s k).core.link.up = (s.core.link.up && (k == .functionLevel || k == .rstHost)) := by
  have moved := hostDomains_moved s.core k
  rw [hostReset_eq]
  generalize hostDomains s.core k = d at moved
  obtain ⟨errs, took, fatal⟩ := takeHeld_frame d
  obtain ⟨_, ready⟩ := tryReady_frame (takeHeld d)
  have told := sendGiveUp_frame s.core
  have up : (hostKept s.core k).link.up = (s.core.link.up && (k == .functionLevel || k == .rstHost)) := by
    rw [hostKept, told]
    cases s.core.link.up <;> cases k <;> rfl
  have kept : ∃ twin link tab power, hostKept s.core k = { keptCore s.core with twin := twin, link := link, stackTab := tab, power := power } ∧
      power.cause = causeCode k ∧ power.resets = satAdd 16 s.core.power.resets 1 ∧ power.trained = s.core.power.trained := by
    rw [hostKept, told]
    exact ⟨_, _, _, _, rfl, rfl, rfl, rfl⟩
  obtain ⟨twin, link, tab, power, kept, cause, resets, trained⟩ := kept
  rw [kept] at moved up
  refine ⟨⟨rfl, ?_, fun none_ => ?_, ?_, ?_⟩, ?_, ?_⟩
  · rw [ready, took, show d = _ from moved]
    exact ⟨_, _, _, _, _, _, _, rfl⟩
  · rw [ready, took, fatal (by rw [show d = _ from moved]; exact none_), show d = _ from moved]
    rfl
  · rw [ready, took, show d = _ from moved]
    exact cause
  · rw [ready, took, show d = _ from moved]
    exact resets
  · rw [ready, took, show d = _ from moved]
    exact trained
  · rw [ready, took, show d = _ from moved]
    exact up

/-! ## A fundamental reset (R566 to R568, R572) -/

/-- R566 to R568: the core of a fundamental reset, its domains started, before its firmware is verified. -/
def fundamentalKept (c : Core) (k : ResetCause) : Core :=
  let c := sendGiveUp c
  { keptCore c with
    stackTab := c.stackTab.map fun x => (x.1, stackUntrained x.2)
    power := { causeKept c.power k with
      ready := false, deep := false, trained := false, cold := false, failed := false, tripped := false, cooled := false, resetHeld := none
      held := false, supplyLost := false, thermtrip := false, perst := k = .perst } }

/-- R568, R572: a die whose reloaded firmware does not verify is lost. -/
def firmwareChecked (c : Core) : Option Bool → Core
  | some die => partLost (logLost c die) die
  | none => c

theorem fundamentalReset_eq (s : State) (k : ResetCause) (same : Bool) : fundamentalReset s k same = { s with
    core := takeHeld (firmwareChecked (keepUnverified (domainsAfter (fundamentalKept s.core k) 0)) (firmwareBad s.rot same))
    rot := emptyKeys s.rot } := by
  rw [fundamentalReset]
  cases firmwareBad s.rot same <;> rfl

/-- R566: what a fundamental reset leaves of the power state, its domains and their PLLs apart. -/
structure PowerAnew (k : ResetCause) (p q : Power) : Prop where
  cause : q.cause = causeCode k
  resets : q.resets = satAdd 16 p.resets 1
  trained : q.trained = false
  ready : q.ready = false
  tripped : q.tripped = false
  held : q.held = false

/-- R566 to R568: what it leaves before the firmware is verified. -/
theorem fundamentalDomains_leaves (c : Core) (k : ResetCause) : ∃ twin tab sch levels power,
    keepUnverified (domainsAfter (fundamentalKept c k) 0) =
      { keptCore c with twin := twin, stackTab := tab, sched := sch, levels := levels, power := power } ∧
    PowerAnew k c.power power ∧ power.failed = (c.power.unverified.d0 || c.power.unverified.d1) := by
  have moved := domainsAfter_moved (fundamentalKept c k) 0
  generalize domainsAfter (fundamentalKept c k) 0 = d at moved
  obtain ⟨levels, kept⟩ := keepUnverified_frame d
  have told := sendGiveUp_frame c
  rw [fundamentalKept, told] at moved
  rw [kept, show d = _ from moved]
  exact ⟨_, _, _, _, _, rfl, ⟨rfl, rfl, rfl, rfl, rfl, rfl⟩, rfl⟩

/-- R566 to R568: a fundamental reset whose firmware verifies. -/
theorem fundamentalReset_verified {s : State} {same : Bool} (k : ResetCause) (verified : firmwareBad s.rot same = none) :
    ResetDone k s (fundamentalReset s k same) ∧ PowerAnew k s.core.power (fundamentalReset s k same).core.power ∧
    (fundamentalReset s k same).core.power.failed = (s.core.power.unverified.d0 || s.core.power.unverified.d1) ∧
    (fundamentalReset s k same).core.link.up = false := by
  obtain ⟨twin, tab, sch, levels, power, leaves, anew, failed⟩ := fundamentalDomains_leaves s.core k
  obtain ⟨errs, took, fatal⟩ := takeHeld_frame (keepUnverified (domainsAfter (fundamentalKept s.core k) 0))
  rw [leaves] at took fatal
  rw [fundamentalReset_eq, verified, firmwareChecked, leaves, took]
  exact ⟨⟨rfl, ⟨_, _, _, _, _, _, _, rfl⟩, fun none_ => Eq.trans (show errs.fatal = _ from congrArg _ (fatal none_)) rfl, anew.cause, anew.resets⟩, anew, failed, rfl⟩

/-- R572: one whose firmware does not verify fails the device and loses the die. -/
theorem fundamentalReset_unverified {s : State} {same die : Bool} (k : ResetCause) (bad : firmwareBad s.rot same = some die) :
    let t := fundamentalReset s k same
    t.core.power.failed = true ∧ t.core.power.ready = false ∧ (t.core.levels.get die).lost = true ∧ t.core.sess.dir = [] ∧ t.rot.mrs = s.rot.mrs := by
  obtain ⟨twin, tab, sch, levels, power, leaves, anew, -⟩ := fundamentalDomains_leaves s.core k
  obtain ⟨errs, logged⟩ := logLost_frame { keptCore s.core with twin := twin, stackTab := tab, sched := sch, levels := levels, power := power } die
  obtain ⟨_, took, -⟩ := takeHeld_frame (partLost { keptCore s.core with
    twin := twin, stackTab := tab, sched := sch, levels := levels, power := power, errs := errs } die)
  intro t
  simp only [t]
  rw [fundamentalReset_eq, bad, firmwareChecked, leaves, logged, took]
  exact ⟨rfl, anew.ready, by simp [partLost, modPower, modLevels], rfl, rfl⟩

/-! ## Resets as commands (R86, R565, R571, R576) -/

/-- R563, R581: reaching a register wakes: what that changes of the power state are the domains, their PLLs, and deep idle, which ends. -/
theorem hostAccess_frame (c : Core) (off : Nat) : ∃ domains locks deep tab sch regs, hostAccess c off = { c with
    power := { c.power with domains := domains, locks := locks, deep := deep }, stackTab := tab, sched := sch, regs := regs } := by
  have woken : ∃ domains locks deep tab sch regs, wakeBy c .bar0 = { c with
      power := { c.power with domains := domains, locks := locks, deep := deep }, stackTab := tab, sched := sch, regs := regs } := by
    unfold wakeBy
    split
    · obtain ⟨tab, sch, starts⟩ := startDomains_frame (leaveDeep c (wakePlls .bar0)) (wakeDomains .bar0)
      rw [starts, leaveDeep_frame]
      exact ⟨_, _, _, _, _, _, rfl⟩
    · exact ⟨_, _, _, _, _, _, rfl⟩
  obtain ⟨domains, locks, deep, tab, sch, regs, woken⟩ := woken
  rw [hostAccess, woken]
  unfold wakeBlock
  split
  · exact ⟨_, _, _, _, _, _, rfl⟩
  · obtain ⟨tab', sch', starts⟩ := startDomains_frame
      { c with power := { c.power with domains := domains, locks := locks, deep := deep }, stackTab := tab, sched := sch, regs := regs } (blockDomains off)
    rw [starts]
    exact ⟨_, _, _, _, _, _, rfl⟩

/-- R571: a reset that a BAR0 write asks for acts on the device as the access has woken it. -/
theorem bar0WriteS_reset (s : State) (f : State → State) (up : barReady s.core = true) :
    bar0WriteS s 0x900028 8 f = f { s with core := hostAccess s.core 0x900028 } := by
  have aligned : alignedAccess 0x900028 8 = true := by decide
  simp [bar0WriteS, up, on_of_barReady _ up, aligned]

/-- What the access has woken does not matter to a reset. -/
theorem ResetDone.of_access {k : ResetCause} {s t : State} {off : Nat} (h : ResetDone k { s with core := hostAccess s.core off } t) : ResetDone k s t := by
  obtain ⟨domains, locks, deep, tab, sch, regs, woken⟩ := hostAccess_frame s.core off
  obtain ⟨rot, core, fatal, cause, resets⟩ := h
  simp only [woken] at core fatal resets
  exact ⟨rot, core, fatal, cause, resets⟩

section
variable {k : ResetCause} {s : State} (on : s.core.power.on = true) (asked : k = .rstHost ∨ k = .rstFundamental → barReady s.core = true)
include on asked

/-- R565, R571: a host reset, from the link or from RST_CMD. -/
theorem exec_hostReset_resets (host : isFundamental k = false) : ∃ t, exec (.hostReset k) s = .next t ∧ ResetDone k s t ∧
    t.core.power.trained = s.core.power.trained ∧ t.core.link.up = (s.core.link.up && (k == .functionLevel || k == .rstHost)) := by
  by_cases command : k = .rstHost
  · have goes : exec (.hostReset k) s = .next (hostReset { s with core := hostAccess s.core 0x900028 } k) := by
      show execHostReset k s = _
      rw [command, ← bar0WriteS_reset s (hostReset · .rstHost) (asked (.inl command)), execHostReset, on]
      rfl
    obtain ⟨done, trained, link⟩ := hostReset_done { s with core := hostAccess s.core 0x900028 } k
    refine ⟨_, goes, done.of_access, trained.trans ?_, link.trans ?_⟩
    all_goals
      obtain ⟨domains, locks, deep, tab, sch, regs, woken⟩ := hostAccess_frame s.core 0x900028
      rw [woken]
  · have goes : exec (.hostReset k) s = .next (hostReset s k) := by
      show execHostReset k s = _
      simp [execHostReset, host, on, command]
    exact ⟨_, goes, hostReset_done s k⟩

/-- R565, R571: a fundamental reset of a device that has not tripped, from the board or from RST_CMD. -/
theorem exec_fundamentalReset_resets (fundamental : isFundamental k = true) (tripped : s.core.power.tripped = false) (same : Bool) :
    ∃ s', exec (.fundamentalReset k same) s = .next (fundamentalReset s' k same) ∧ s'.rot = s.rot ∧
      s'.core.power.unverified = s.core.power.unverified ∧ ∀ t, ResetDone k s' t → ResetDone k s t := by
  by_cases command : k = .rstFundamental
  · obtain ⟨domains, locks, deep, tab, sch, regs, woken⟩ := hostAccess_frame s.core 0x900028
    have still : (hostAccess s.core 0x900028).power.tripped = false := by
      rw [woken]
      exact tripped
    have goes : exec (.fundamentalReset k same) s = .next (fundamentalReset { s with core := hostAccess s.core 0x900028 } k same) := by
      show execFundamentalReset k same s = _
      have asks : askReset { s with core := hostAccess s.core 0x900028 } k same = fundamentalReset { s with core := hostAccess s.core 0x900028 } k same := by
        simp [askReset, still]
      rw [← asks, command, ← bar0WriteS_reset s (askReset · .rstFundamental same) (asked (.inr command)), execFundamentalReset, on]
      rfl
    refine ⟨_, goes, rfl, ?_, fun t => ResetDone.of_access⟩
    rw [woken]
  · have goes : exec (.fundamentalReset k same) s = .next (fundamentalReset s k same) := by
      show execFundamentalReset k same s = _
      simp [execFundamentalReset, askReset, fundamental, on, command, tripped]
    exact ⟨s, goes, rfl, rfl, fun _ => id⟩
end

/-! ## The trip and lost supplies (R576, R593) -/

/-- R576: the device trips at 105 °C. -/
theorem exec_thermalTrip_trips {s : State} {h : Int} (on : s.core.power.on = true) (tripped : s.core.power.tripped = false) (hot : 105 ≤ h) :
    ∃ t, exec (.thermalTrip h) s = .next t ∧ t.core.power.tripped = true ∧ t.core.power.thermtrip = true ∧
      ready t.core = false ∧ t.core.errs.next = s.core.errs.next + 1 ∧ t.core.sess = s.core.sess := by
  have goes : exec (.thermalTrip h) s = .next { s with core := thermalTrip s.core } := by
    show execThermalTrip h s = _
    simp [execThermalTrip, onCore, on, tripped, hot]
  have next : (thermalTrip s.core).errs.next = s.core.errs.next + 1 := by
    show (logErr (sendGiveUp s.core) _).errs.next = _
    rw [logErr_next _ _ rfl rfl, sendGiveUp_frame]
  refine ⟨_, goes, rfl, rfl, ?_, next, ?_⟩
  · simp [ready, alive, thermalTrip, stopPlls, modPower]
  · show (logErr (sendGiveUp s.core) _).sess = _
    rw [logErr_sess, sendGiveUp_frame]

/-- R593: what a lost supply leaves at once of a device that ran. -/
def supplyGone (c : Core) (r : Rail) : Core :=
  modPower c fun p => { p with
    rails := p.rails - (p.rails &&& 2 ^ railBit r), supplyLost := p.supplyLost || c.power.ready, domains := 0, waking := ⟨[], []⟩, locks := 0 }

/-- R593, R57: a device that is held keeps its levels, its sessions and the rest of its power state. -/
theorem holdDevice_leaves (c : Core) : (holdDevice c).power = { c.power with held := true } ∧ (holdDevice c).levels = c.levels ∧
    (holdDevice c).sess = c.sess := by
  rw [holdDevice, sendGiveUp_frame]
  exact ⟨rfl, rfl, rfl⟩

/-- R593: what a lost supply of a device that ran comes to: the twin link goes with die 1's logic or PHY, the die goes whose logic it feeds, and the
device is held. -/
def supplyMissed (c : Core) (r : Rail) : Core :=
  let c := if r = .vlogic1 || r = .vphy then { supplyGone c r with twin := { c.twin with linkUp := false } } else supplyGone c r
  match r with
  | .vlogic0 => loseDie c false
  | .vlogic1 => loseDie c true
  | _ => holdDevice (logErr c { kind := 0x10, severity := 3, wh := { level := 4 } })

/-- R57, R593: of the levels it takes those of the die that is lost, and it keeps the sessions. -/
theorem supplyMissed_leaves (c : Core) (r : Rail) : (supplyMissed c r).power = { (supplyGone c r).power with held := true } ∧
    (supplyMissed c r).sess = c.sess ∧ (supplyMissed c r).levels.d0.lost = (c.levels.d0.lost || r == .vlogic0) ∧
    (supplyMissed c r).levels.d1.lost = (c.levels.d1.lost || r == .vlogic1) := by
  have die : ∀ (d : Core) (x : Bool), d.sess = c.sess → d.levels = c.levels → d.power = (supplyGone c r).power →
      (loseDie d x).power = { (supplyGone c r).power with held := true } ∧ (loseDie d x).sess = c.sess ∧
      (loseDie d x).levels.d0.lost = (c.levels.d0.lost || !x) ∧ (loseDie d x).levels.d1.lost = (c.levels.d1.lost || x) := fun d x sess levels power => by
    obtain ⟨twin, lost⟩ := loseDie_frame d x
    rw [lost, logErr_frame, levels, power]
    exact ⟨rfl, sess, by cases x <;> simp [PerDie.mod, PerDie.set, PerDie.get], by cases x <;> simp [PerDie.mod, PerDie.set, PerDie.get]⟩
  have whole : ∀ (d : Core) (i : LogItem), d.sess = c.sess → d.levels = c.levels → d.power = (supplyGone c r).power →
      (holdDevice (logErr d i)).power = { (supplyGone c r).power with held := true } ∧ (holdDevice (logErr d i)).sess = c.sess ∧
      (holdDevice (logErr d i)).levels.d0.lost = (c.levels.d0.lost || false) ∧
      (holdDevice (logErr d i)).levels.d1.lost = (c.levels.d1.lost || false) := fun d i sess levels power => by
    obtain ⟨held, level, kept⟩ := holdDevice_leaves (logErr d i)
    rw [held, level, kept, logErr_power, logErr_levels, logErr_sess, Bool.or_false, Bool.or_false, power, levels]
    exact ⟨rfl, sess, rfl, rfl⟩
  unfold supplyMissed
  cases r with
  | vlogic0 => exact die _ false rfl rfl rfl
  | vlogic1 => exact die _ true rfl rfl rfl
  | vaon => exact whole _ _ rfl rfl rfl
  | vio => exact whole _ _ rfl rfl rfl
  | vsram => exact whole _ _ rfl rfl rfl
  | vphy => exact whole _ _ rfl rfl rfl
  | vpp => exact whole _ _ rfl rfl rfl
  | vstk => exact whole _ _ rfl rfl rfl
  | vstkq => exact whole _ _ rfl rfl rfl

/-- R593: a lost supply of a device that is ready. -/
theorem exec_supplyLost_missed {s : State} {r : Rail} (on : s.core.power.on = true) (ran : s.core.power.ready = true) (other : r ≠ .vaon) :
    exec (.supplyLost r) s = .next { s with core := supplyMissed s.core r } := by
  show execSupplyLost r s = _
  rw [execSupplyLost, if_pos on, supplyLost, if_neg other]
  simp only [ran, Bool.not_true, Bool.false_eq_true, if_false, supplyMissed, supplyGone]
  cases r <;> rfl

/-- Settles O49: a host reset by `hostReset_done`, a fundamental one by `fundamentalReset_verified` and `fundamentalReset_unverified`. That an
RST_CMD host reset leaves the link up is the model's reading of R567. -/
theorem resetsAndTrips : Obligations.ResetsAndTrips := by
  unfold Obligations.ResetsAndTrips
  intro k s on cleared asked verified
  have clears : ∀ t, ResetDone k s t → cleared t := by
    rintro t ⟨rot, ⟨_, _, _, _, _, _, _, core⟩, fatal, cause, resets⟩
    refine ⟨?_, ?_, ?_, ?_, ?_, ?_, ?_, by rw [rot]; rfl, by rw [rot]; rfl, by rw [rot]; rfl, by rw [rot]; rfl, fatal, ?_, cause, resets⟩
    all_goals
      rw [core]
      rfl
  refine ⟨fun host asks => ?_, fun fundamental asks tripped => ⟨fun sound clean => ?_, fun same die bad => ?_⟩, fun fundamental board tripped hot => ?_,
    fun h tripped hot => exec_thermalTrip_trips on tripped hot, fun h tripped cool => ⟨fun waits => ?_, fun waits sound => ?_⟩, ?_, fun r other ran => ?_⟩
  · obtain ⟨t, goes, done, trained, link⟩ := exec_hostReset_resets on asks host
    exact ⟨t, goes, clears t done, trained, link⟩
  · obtain ⟨s', goes, rot, unverified, back⟩ := exec_fundamentalReset_resets on asks fundamental tripped true
    obtain ⟨done, anew, failed, link⟩ := fundamentalReset_verified k (s := s') (same := true) (by rw [rot]; exact sound)
    exact ⟨_, goes, clears _ (back _ done), anew.trained, anew.ready, by rw [failed, unverified, clean]; rfl, anew.held, link⟩
  · obtain ⟨s', goes, rot, unverified, back⟩ := exec_fundamentalReset_resets on asks fundamental tripped same
    have lost := fundamentalReset_unverified k (s := s') (same := same) (by rw [rot]; exact bad)
    rw [rot] at lost
    exact ⟨_, goes, lost⟩
  · show execFundamentalReset k true s = _
    simp [execFundamentalReset, askReset, fundamental, on, board, tripped, hot, modPower]
  · show execThermalTripCooled h s = _
    simp [execThermalTripCooled, on, tripped, Int.not_le.mpr cool, waits, modPower]
  · have goes : exec (.thermalTripCooled h) s = .next (fundamentalReset s k true) := by
      show execThermalTripCooled h s = _
      simp [execThermalTripCooled, on, tripped, Int.not_le.mpr cool, waits]
    obtain ⟨done, anew, -, -⟩ := fundamentalReset_verified k sound
    exact ⟨_, goes, clears _ done, anew.tripped⟩
  · show execSupplyLost .vaon s = _
    rw [execSupplyLost, if_pos on]
    rfl
  · obtain ⟨power, sess, level0, level1⟩ := supplyMissed_leaves s.core r
    refine ⟨_, exec_supplyLost_missed on ran other, ?_⟩
    rw [power]
    exact ⟨rfl, by simp [supplyGone, modPower, ran], rfl, level0, level1, sess⟩

end Sys2Proof.Machine

/-!
PROOFS of sitting 12. Domains, PLLs and deep idle (O50).
-/

namespace Sys2Proof.Machine

/-! ## Domains that power off (R558, R560) -/

/-- R560: what a domain takes with it when it powers off. -/
def offWith (n : Nat) : Nat := 2 ^ n ||| if 72 ≤ n && n < 80 then 2 ^ (n + 8) else 0

theorem bit_offWith (n x : Nat) : bit (offWith n) x = (x == n || (decide (72 ≤ n ∧ n < 80) && x == n + 8)) := by
  unfold offWith
  by_cases stack : 72 ≤ n ∧ n < 80
  · simp [stack]
  · have none_ : (decide (72 ≤ n) && decide (n < 80)) = false := by simpa [Bool.and_eq_false_iff] using stack
    simp [stack, none_]

/-- R558, R560: what powering a domain off leaves. -/
theorem domainOff_leaves {c : Core} {n : Nat} (up : ready c = true) (timed : regField c 0x900000 31 0 ≠ 0) (on : domainOn c n = true)
    (may : mayPowerOff c n = true) : ∃ tab, domainOff c n = { c with
      power := { c.power with
        domains := c.power.domains - (c.power.domains &&& offWith n)
        locks := c.power.locks &&& pllsOf (c.power.domains - (c.power.domains &&& offWith n)) }
      stackTab := tab } := by
  have goes : (!ready c || decide (regField c 0x900000 31 0 = 0) || !domainOn c n || !mayPowerOff c n) = false := by simp [up, timed, on, may]
  simp only [domainOff, goes, Bool.false_eq_true, if_false]
  rw [← offWith]
  split <;> exact ⟨_, rfl⟩

/-! ## Domains that wake (R51, R561 to R563) -/

/-- R563: a wake ends deep idle; what that changes besides. -/
theorem leaveDeep_when (c : Core) : ∃ regs, (if c.power.deep then leaveDeep c 0 else c) = { c with power := { c.power with deep := false }, regs := regs } := by
  cases deep : c.power.deep with
  | false => exact ⟨c.regs, by rw [if_neg (by simp), ← deep]⟩
  | true =>
    rw [if_pos rfl, leaveDeep_frame, Nat.or_zero]
    exact ⟨_, rfl⟩

/-- R51: the domains of a device with a domain started and its parents. -/
theorem domainOn_start (c : Core) (n x : Nat) : domainOn (domainStart c n) x = (domainOn c x || x == n || bit (parentsOf n) x) := by
  obtain ⟨tab, sch, starts⟩ := startDomains_frame c (2 ^ n ||| parentsOf n)
  rw [domainOn, domainStart, starts]
  simp [domainOn, Bool.or_assoc]

/-- R558, R562: what starting a domain of a device that is ready leaves. -/
theorem domainStart_leaves {c : Core} (up : c.power.ready = true) (n : Nat) : (domainStart c n).power = { c.power with
      domains := c.power.domains ||| (2 ^ n ||| parentsOf n), locks := c.power.locks ||| pllsOf (2 ^ n ||| parentsOf n) } ∧
    (domainStart c n).sess = c.sess ∧ (domainStart c n).rings = c.rings := by
  obtain ⟨tab, sch, starts⟩ := startDomains_frame c (2 ^ n ||| parentsOf n)
  rw [domainStart, starts, if_pos up]
  exact ⟨rfl, rfl, rfl⟩

/-- R561, R562: a domain that is no cluster starts at once. -/
theorem domainWake_other {c : Core} {n : Nat} (up : ready c = true) (low : 64 ≤ n) (high : n < 112) :
    domainWake c n = domainStart (if c.power.deep then leaveDeep c 0 else c) n := by
  simp [domainWake, up, low, Nat.not_le.mpr high]

/-- R561, R562: a cluster that is on does not wait. -/
theorem domainWake_on {c : Core} {n : Nat} (up : ready c = true) (cluster : n < 64) (on : domainOn c n = true) (deep : c.power.deep = false) :
    domainWake c n = c := by
  have there : ¬ 112 ≤ n := by omega
  simp [domainWake, up, Nat.not_le.mpr cluster, there, on, deep]

/-- R561: a cluster that joins those of its die that wait. -/
def clusterAsks (c : Core) (n : Nat) : Core := modPower c fun p => { p with waking := p.waking.mod (decide (32 ≤ n)) (· ++ [n % 32]) }

theorem domainWake_asks {c : Core} {n : Nat} (up : ready c = true) (cluster : n < 64) (off : domainOn c n = false) :
    domainWake c n = startWaiting (clusterAsks (if c.power.deep then leaveDeep c 0 else c) n) (decide (32 ≤ n)) := by
  obtain ⟨regs, woken⟩ := leaveDeep_when c
  have there : ¬ 112 ≤ n := by omega
  have still : domainOn (if c.power.deep then leaveDeep c 0 else c) n = false := by
    rw [woken]
    exact off
  simp only [domainWake, up, Nat.not_le.mpr cluster, there, still, Bool.not_true, decide_false, Bool.or_self, Bool.false_eq_true, if_false]
  rfl

/-- The least of a list is one of its members. -/
theorem foldl_min_mem (l : List Nat) (a : Nat) : l.foldl Nat.min a ∈ a :: l := by
  induction l generalizing a with
  | nil => exact List.mem_singleton.mpr rfl
  | cons b l ih =>
    rw [List.foldl_cons]
    rcases Nat.le_total a b with le | le
    · rw [show Nat.min a b = a from Nat.min_eq_left le]
      rcases List.mem_cons.mp (ih a) with same | member
      · rw [same]
        exact List.mem_cons_self
      · exact List.mem_cons_of_mem _ (List.mem_cons_of_mem _ member)
    · rw [show Nat.min a b = b from Nat.min_eq_right le]
      exact List.mem_cons_of_mem _ (ih b)

/-- R561: while another region started less than 1 µs ago, the clusters of a die that wait go on waiting. -/
theorem startWaiting_waits {c : Core} {die : Bool} {r at_ : Nat} (started : c.power.started.get die = some (r, at_)) (soon : c.aon < at_ + regionGap)
    (others : ∀ k ∈ c.power.waking.get die, k / 8 ≠ r) : startWaiting c die = c := by
  unfold startWaiting
  split
  · rfl
  · next first rest waits =>
    have member : rest.foldl Nat.min first ∈ (c.power.waking.get die).map (· / 8) := waits ▸ foldl_min_mem rest first
    obtain ⟨k, waiting, region⟩ := List.mem_map.mp member
    have apart : (r == rest.foldl Nat.min first) = false := by simpa [← region] using (others k waiting).symm
    simp [mayStart, started, apart, Nat.not_le.mpr soon]

/-- R561: a cluster that waits alone, and may start, starts. -/
theorem startWaiting_alone {c : Core} {n : Nat} (cluster : n < 64) (alone : c.power.waking.get (decide (32 ≤ n)) = [n % 32])
    (may : mayStart c (decide (32 ≤ n)) (n % 32 / 8) = true) : startWaiting c (decide (32 ≤ n)) = domainStart (modPower c fun p => { p with
      waking := p.waking.set (decide (32 ≤ n)) [], started := p.started.set (decide (32 ≤ n)) (some (n % 32 / 8, c.aon)) }) n := by
  have number : (n % 32 + if 32 ≤ n then 32 else 0) = n := by
    split <;> omega
  simp only [startWaiting, alone, List.map_cons, List.map_nil, List.foldl_nil, may, if_true, startRegion, PerDie.mod]
  simp [number, modPower, alone]

/-! ## Deep idle (R563, R564) -/

/-- R563: an exit from deep idle is counted. -/
theorem leaveDeep_counted (c : Core) (plls : Nat) :
    regField (leaveDeep c plls) 0x900020 63 32 = satAdd 32 (regField c 0x900020 63 32) 1 := by
  rw [leaveDeep, regCount, regField_put_same _ _ _ _ _ (by decide)]
  exact Nat.mod_eq_of_lt (Nat.lt_of_le_of_lt (Nat.min_le_right _ _) (by decide))

/-- R558: one domain needs the PLL that clocks it. -/
theorem pllsOf_one {n : Nat} (there : n < 112) : pllsOf (2 ^ n) = pllOf n := by
  have upTo : ∀ m, (List.range m).foldl (fun v i => if bit (2 ^ n) i then v ||| pllOf i else v) 0 = if n < m then pllOf n else 0 := fun m => by
    induction m with
    | zero => rfl
    | succ m ih =>
      rw [List.range_succ, List.foldl_append, ih, List.foldl_cons, List.foldl_nil, bit_two_pow]
      by_cases same : m = n
      · rw [same, if_pos (beq_self_eq_true n), if_neg (Nat.lt_irrefl n), if_pos (Nat.lt_succ_self n), Nat.zero_or]
      · rw [if_neg (by simpa using same)]
        exact if_congr (by omega) rfl rfl
  exact (upTo 112).trans (if_pos there)

/-- R558: the PLL of its die's fabric clocks a step scheduler (log entry 166). -/
theorem plls_scheduler (die : Bool) : pllsOf (2 ^ schedDomain die) = if die then 0x20 else 0x02 := by
  rw [pllsOf_one (by cases die <;> decide)]
  cases die <;> rfl

/-- R563: a local timer of a step scheduler ends deep idle and powers the scheduler on. -/
theorem wakeBy_scheduler {c : Core} (deep : c.power.deep = true) (die : Bool) :
    wakeBy c (.scheduler die) = startDomains (leaveDeep c 0) (2 ^ schedDomain die) := by
  simp only [wakeBy, deep, if_true, wakePlls, wakeDomains]

/-- R563: what that leaves. -/
theorem wakeScheduler_first {c : Core} (up : c.power.ready = true) (deep : c.power.deep = true) (die : Bool) : ∃ regs tab sch,
    wakeScheduler c die = { c with
      power := { c.power with
        deep := false, domains := c.power.domains ||| 2 ^ schedDomain die, locks := c.power.locks ||| pllsOf (2 ^ schedDomain die) }
      regs := regs, stackTab := tab, sched := sch } ∧ regs = (leaveDeep c 0).regs := by
  obtain ⟨tab, sch, starts⟩ := startDomains_frame (leaveDeep c 0) (2 ^ schedDomain die)
  rw [← wakeBy_scheduler deep, leaveDeep_frame, if_pos up, Nat.or_zero] at starts
  have on : domainOn (wakeBy c (.scheduler die)) (schedDomain die) = true := by
    rw [starts, domainOn, bit_or, bit_two_pow, beq_self_eq_true, Bool.or_true]
  refine ⟨_, tab, sch, ?_, rfl⟩
  rw [wakeScheduler, if_pos on, starts]

/-- R563, R564: and what die 1's then does, which is awake. -/
theorem wakeScheduler_second {c : Core} (up : c.power.ready = true) (deep : c.power.deep = false) : ∃ locks tab sch,
    wakeScheduler c true = { c with
      power := { c.power with domains := (wakeScheduler c true).power.domains, locks := c.power.locks ||| locks }, stackTab := tab, sched := sch } ∧
    (∀ x, domainOn (wakeScheduler c true) x = (domainOn c x || x == 100)) ∧ (domainOn c 100 = false → locks = 0x20) := by
  rw [wakeScheduler, wakeBy_awake _ _ deep]
  cases on : domainOn c (schedDomain true) with
  | true =>
    have there : ∀ x, domainOn c x = (domainOn c x || x == 100) := fun x => by
      cases same : x == 100 with
      | false => rw [Bool.or_false]
      | true => rw [eq_of_beq same, show domainOn c 100 = true from on, Bool.or_true]
    refine ⟨0, c.stackTab, c.sched, ?_, there, fun off => absurd off (by simp [show domainOn c 100 = true from on])⟩
    rw [if_pos rfl, Nat.or_zero]
  | false =>
    obtain ⟨tab, sch, starts⟩ := startDomains_frame c (2 ^ schedDomain true)
    rw [if_pos up, plls_scheduler] at starts
    have started : domainStart c (schedDomain true) = startDomains c (2 ^ schedDomain true) := by
      rw [domainStart, show parentsOf (schedDomain true) = 0 from rfl, Nat.or_zero]
    simp only [Bool.false_eq_true, if_false]
    refine ⟨0x20, tab, sch, ?_, fun x => ?_, fun _ => rfl⟩
    · rw [started, starts]
      rfl
    · rw [domainOn_start, show parentsOf (schedDomain true) = 0 from rfl, show bit 0 x = false by simp [bit], Bool.or_false]
      rfl

/-- R563, R564: both step schedulers wake, with their PLLs (that both do is log entry 165). -/
theorem exec_deepIdleWake_wakes {s : State} (up : ready s.core = true) (deep : s.core.power.deep = true) :
    ∃ t, exec .deepIdleWake s = .next t ∧ t.core.power.deep = false ∧
      (∀ x, domainOn t.core x = (domainOn s.core x || x == 92 || x == 100)) ∧ bit t.core.power.locks 1 = true ∧
      (domainOn s.core 100 = false → bit t.core.power.locks 5 = true) ∧
      regField t.core 0x900020 63 32 = satAdd 32 (regField s.core 0x900020 63 32) 1 ∧ t.core.sess = s.core.sess := by
  have ran : s.core.power.ready = true := by
    simp only [ready, Bool.and_eq_true] at up
    exact up.2
  obtain ⟨regs, tab, sch, first, counted⟩ := wakeScheduler_first ran deep false
  obtain ⟨locks, tab', sch', second, domains, pll⟩ := wakeScheduler_second (c := wakeScheduler s.core false) (by rw [first]; exact ran) (by rw [first])
  have goes : exec .deepIdleWake s = .next { s with core := wakeScheduler (wakeScheduler s.core false) true } := by
    show execDeepIdleWake s = _
    simp [execDeepIdleWake, whenReady, up, deep]
  have before : ∀ x, domainOn (wakeScheduler s.core false) x = (domainOn s.core x || x == 92) := fun x => by
    rw [first, domainOn, bit_or, bit_two_pow, domainOn, show schedDomain false = 92 from rfl]
  have fabric : bit (pllsOf (2 ^ schedDomain false)) 1 = true := by
    rw [plls_scheduler]
    decide
  have same : (wakeScheduler (wakeScheduler s.core false) true).regs = (leaveDeep s.core 0).regs := by rw [second, first, counted]
  refine ⟨_, goes, ?_, fun x => ?_, ?_, fun off => ?_, ?_, ?_⟩
  · rw [second, first]
  · rw [domains, before]
  · rw [second, first, bit_or, bit_or, fabric, Bool.or_true, Bool.true_or]
  · rw [second, pll (by rw [before, off]; rfl), bit_or, show bit 0x20 5 = true by decide, Bool.or_true]
  · rw [← leaveDeep_counted s.core 0, regField, regGet_congr same, ← regField]
  · rw [second, first]

/-- Settles O50: a power-off by `domainOff_leaves`, a wake by the lemmas of its case. That DEEP_IDLE_WAKE wakes both step schedulers is log entry
165, which PLL clocks a domain log entry 166. -/
theorem domainsAndDeepIdle : Obligations.DomainsAndDeepIdle := by
  unfold Obligations.DomainsAndDeepIdle
  intro n s up
  have ran : s.core.power.ready = true := by
    simp only [ready, Bool.and_eq_true] at up
    exact up.2
  obtain ⟨regs, awake⟩ := leaveDeep_when s.core
  refine ⟨fun timed on may => ?_, fun low high => ?_, fun cluster => ?_, fun deep timed off waking queues => ?_, exec_deepIdleWake_wakes up⟩
  · obtain ⟨tab, leaves⟩ := domainOff_leaves up timed on may
    have left : ∀ x, domainOn (domainOff s.core n) x = (domainOn s.core x && !(x == n || (decide (72 ≤ n ∧ n < 80) && x == n + 8))) := fun x => by
      rw [leaves, domainOn, bit_sub_and, bit_offWith]
      rfl
    refine ⟨{ s with core := domainOff s.core n }, rfl, ?_, fun lo hi => ?_, fun x other group => ?_, ?_, ?_, ?_⟩
    · simp [left]
    · simp [left, lo, hi]
    · have apart : (decide (72 ≤ n ∧ n < 80) && x == n + 8) = false := by
        rw [Bool.and_eq_false_imp, decide_eq_true_iff, beq_eq_false_iff_ne]
        exact group
      rw [left, beq_eq_false_iff_ne.mpr other, apart, Bool.or_self, Bool.not_false, Bool.and_true]
    · rw [leaves]
    · rw [leaves]
    · rw [leaves]
  · obtain ⟨power, sess, rings⟩ := domainStart_leaves (c := { s.core with power := { s.core.power with deep := false }, regs := regs }) ran n
    have goes : exec (.domainWake n) s = .next { s with core := domainStart { s.core with power := { s.core.power with deep := false }, regs := regs } n } := by
      show Host.Outcome.next { s with core := domainWake s.core n } = _
      rw [domainWake_other up low high, awake]
    refine ⟨_, goes, domainOn_start _ n, ?_, ?_, sess, rings⟩
    · rw [power]
    · rw [power]
  · intro die region waits
    have deepless : ∀ deep : s.core.power.deep = false, (if s.core.power.deep then leaveDeep s.core 0 else s.core) = s.core := fun deep => by
      rw [deep, if_neg (by decide)]
    refine ⟨fun off alone may => ?_, fun deep on => ?_, fun r at_ deep off started soon others => ?_⟩
    · let c := clusterAsks { s.core with power := { s.core.power with deep := false }, regs := regs } n
      have lone : c.power.waking.get die = [n % 32] := by
        simp only [c, clusterAsks, modPower, PerDie.mod, die, PerDie.get_set]
        rw [show s.core.power.waking.get (decide (32 ≤ n)) = [] from alone]
        rfl
      have starts := startWaiting_alone cluster lone may
      obtain ⟨power, sess, -⟩ := domainStart_leaves (c := modPower c fun p => { p with
        waking := p.waking.set die [], started := p.started.set die (some (n % 32 / 8, c.aon)) }) ran n
      have goes : exec (.domainWake n) s = .next { s with core := domainStart (modPower c fun p => { p with
          waking := p.waking.set die [], started := p.started.set die (some (n % 32 / 8, c.aon)) }) n } := by
        show Host.Outcome.next { s with core := domainWake s.core n } = _
        rw [domainWake_asks up cluster off, awake, starts]
      refine ⟨_, goes, domainOn_start _ n, ?_, ?_, ?_, ?_, sess⟩
      · rw [power]
        rfl
      · rw [power]
        rfl
      · rw [power]
        exact PerDie.get_set ..
      · rw [power]
        exact PerDie.get_set ..
    · show Host.Outcome.next { s with core := domainWake s.core n } = _
      rw [domainWake_on up cluster on deep]
    · show Host.Outcome.next { s with core := domainWake s.core n } = _
      have waiting : (clusterAsks s.core n).power.waking.get die = waits ++ [n % 32] := PerDie.get_set ..
      rw [domainWake_asks up cluster off, deepless deep, startWaiting_waits (c := clusterAsks s.core n) started soon (by rw [waiting]; exact others)]
      rfl
  · show execDeepIdleEntry s = _
    simp [execDeepIdleEntry, onCore, up, deep, timed, off, waking, queues, modPower]

end Sys2Proof.Machine

/-! PROOFS of the twin link's statement (18_twin R488 to R492): frames, replays, lanes and heartbeats. -/

namespace Sys2Proof.Machine

/-! ## Frames taken and refused (R489, R490) -/

theorem frameGood_iff (t : Twin) (f : List Byte) : frameGood t f = true ↔
    f.length = 512 ∧ (crc32c (bytesAt f 0 496)).toNat = leAt f 496 4 ∧ leAt f 0 4 = t.rxNext := by
  simp [frameGood, and_assoc]

/-- R490: what a good frame leaves of the link before its credits count. -/
def frameTaken (t : Twin) (f : List Byte) : Twin :=
  { t with rxNext := (t.rxNext + 1) % 2 ^ 32, nak := false, retry := ackFrames t.retry (leAt f 4 4), replay := t.replay || bit (leAt f 8 1) 2 }

theorem frameReceive_good {t : Twin} {f : List Byte} (good : frameGood t f = true) :
    frameReceive t f = oweCredit (addCredits (frameTaken t f) (leAt f 9 1 % 4) (leAt f 10 2)) (leAt f 8 1 % 4) := by
  simp only [frameReceive, good, Bool.not_true, Bool.false_eq_true, if_false, frameTaken]
  cases bit (leAt f 8 1) 2 <;> simp

theorem frameReceive_bad {t : Twin} {f : List Byte} (bad : frameGood t f = false) : frameReceive t f = { t with nak := true } := by
  simp [frameReceive, bad]

/-- Credits owed and returned change nothing else of the link. -/
theorem credits_frame (t : Twin) (cls n owedCls : Nat) :
    ∃ owed credits, oweCredit (addCredits t cls n) owedCls = { t with owed := owed, credits := credits } := by
  unfold oweCredit addCredits
  split <;> split <;> exact ⟨_, _, rfl⟩

theorem oweCredit_owes (t : Twin) {cls : Nat} (h : cls < 3) :
    mapGet (oweCredit t cls).owed cls = some ((mapGet t.owed cls).getD 0 + 1) := by
  simp [oweCredit, h, mapGet_set_same]

theorem oweCredit_credits (t : Twin) (cls : Nat) : (oweCredit t cls).credits = t.credits := by
  unfold oweCredit
  split <;> rfl

theorem addCredits_owed (t : Twin) (cls n : Nat) : (addCredits t cls n).owed = t.owed := by
  unfold addCredits
  split <;> rfl

theorem addCredits_returns (t : Twin) {cls : Nat} (n : Nat) (h : cls < 3) :
    mapGet (addCredits t cls n).credits cls = some (min (creditMax cls) ((mapGet t.credits cls).getD 0 + n)) := by
  simp [addCredits, h, mapGet_set_same]

/-- R490: a frame that reaches a link that is up, in a device that is not in deep idle. -/
theorem exec_twinFrameReceive {s : State} (on : s.core.power.on = true) (deep : s.core.power.deep = false) (linkUp : s.core.twin.linkUp = true)
    (f : List Byte) : exec (.twinFrameReceive f) s = .next { s with core := modTwin s.core fun t => frameReceive t f } := by
  show execTwinFrameReceive f s = _
  have awake : (modTwin s.core fun t => frameReceive t f).power.deep = false := deep
  simp [execTwinFrameReceive, onCore, on, linkUp, wakeBy_awake _ _ awake]

/-! ## The layout of a frame (R488) -/

/-- R488: a frame's bytes before its check. -/
def frameBody (f : TxFrame) : List Byte :=
  natLe 4 f.seq ++ natLe 4 f.ack ++ natLe 1 (f.cls % 4 + 4 * b2n f.nak) ++ natLe 1 (f.creditCls % 4) ++ natLe 2 f.credits ++
    natLe 4 0 ++ bytesAt f.payload 0 framePayload

theorem wireFrame_eq (f : TxFrame) : wireFrame f = frameBody f ++ natLe 4 (crc32c (frameBody f)).toNat ++ natLe 12 0 := rfl

theorem frameBody_length (f : TxFrame) : (frameBody f).length = 496 := by simp [frameBody, framePayload]

theorem wireFrame_length (f : TxFrame) : (wireFrame f).length = 512 := by simp [wireFrame_eq, frameBody_length]

/-- What lies within the body is the body's. -/
theorem wireFrame_body (f : TxFrame) {o n : Nat} (h : o + n ≤ 496) : bytesAt (wireFrame f) o n = bytesAt (frameBody f) o n := by
  have len := frameBody_length f
  rw [wireFrame_eq, List.append_assoc, bytesAt_left _ _ _ _ (by omega)]

/-- A number laid out at the head of some bytes is read back. -/
theorem leAt_head {n v : Nat} (fits : v < 256 ^ n) (b : List Byte) : leAt (natLe n v ++ b) 0 n = v := by
  rw [leAt_left _ _ _ _ (by simp), leAt_natLe fits]

theorem wireFrame_crc (f : TxFrame) : (crc32c (bytesAt (wireFrame f) 0 496)).toNat = leAt (wireFrame f) 496 4 := by
  rw [wireFrame_body f (by omega), bytesAt_all _ _ (frameBody_length f), wireFrame_eq, List.append_assoc,
    leAt_right _ _ _ _ (frameBody_length f).le, frameBody_length, leAt_head]
  exact (crc32c (frameBody f)).isLt

/-- A field of the body is read from the frame. -/
theorem leAt_wireFrame (f : TxFrame) {o n : Nat} (h : o + n ≤ 496) : leAt (wireFrame f) o n = leAt (frameBody f) o n :=
  congrArg leNat (wireFrame_body f h)

/-- R488: the fields of a frame as its taker reads them. -/
theorem wireFrame_fields {f : TxFrame} (seq : f.seq < 2 ^ 32) (ack : f.ack < 2 ^ 32) (credits : f.credits < 2 ^ 16) :
    leAt (wireFrame f) 0 4 = f.seq ∧ leAt (wireFrame f) 4 4 = f.ack ∧ leAt (wireFrame f) 8 1 = f.cls % 4 + 4 * b2n f.nak ∧
      leAt (wireFrame f) 9 1 = f.creditCls % 4 ∧ leAt (wireFrame f) 10 2 = f.credits := by
  have nak : b2n f.nak ≤ 1 := by cases f.nak <;> decide
  have small : f.cls % 4 + 4 * b2n f.nak < 256 ^ 1 := by omega
  have fits : f.seq < 256 ^ 4 ∧ f.ack < 256 ^ 4 ∧ f.creditCls % 4 < 256 ^ 1 ∧ f.credits < 256 ^ 2 := by omega
  obtain ⟨seqFits, ackFits, clsFits, creditsFit⟩ := fits
  refine ⟨?_, ?_, ?_, ?_, ?_⟩ <;> rw [leAt_wireFrame f (by omega)] <;>
    simp (disch := simp) only [frameBody, List.append_assoc, leAt_right, natLe_length, Nat.reduceSub, leAt_head seqFits, leAt_head ackFits,
      leAt_head small, leAt_head clsFits, leAt_head creditsFit]

/-- R488, R490: a frame as its sender lays it out, with the sequence number that its taker expects. -/
theorem frameGood_wireFrame {t : Twin} {f : TxFrame} (next : f.seq = t.rxNext) (seq : f.seq < 2 ^ 32) (ack : f.ack < 2 ^ 32)
    (credits : f.credits < 2 ^ 16) : frameGood t (wireFrame f) = true :=
  (frameGood_iff t _).mpr ⟨wireFrame_length f, wireFrame_crc f, (wireFrame_fields seq ack credits).1.trans next⟩

/-- The bit that asks for a replay is read apart from the class below it. -/
theorem nak_bit (cls : Nat) (nak : Bool) : bit (cls % 4 + 4 * b2n nak) 2 = nak ∧ (cls % 4 + 4 * b2n nak) % 4 = cls % 4 := by
  have small : cls % 4 < 4 := Nat.mod_lt _ (by decide)
  generalize cls % 4 = k at small
  cases nak <;> interval_cases k <;> decide

/-! ## Replays (R490) and lanes (R491) -/

/-- R490: a frame counts one more resend. -/
def resent (f : TxFrame) : TxFrame := { f with resends := f.resends + 1 }

/-- R490: the link with every kept frame sent again. -/
def replayed (c : Core) : Core := modTwin c fun t => { t with replay := false, retry := t.retry.map resent }

/-- A counted error leaves the link alone. -/
theorem countError_twin (c : Core) (die : Bool) (cls : Nat) : (countError c die cls).twin = c.twin ∧ (countError c die cls).sess = c.sess := by
  obtain ⟨errs, regs, rings, counted⟩ := countError_frame c die cls
  rw [counted]
  exact ⟨rfl, rfl⟩

/-- R490: a replay that makes no frame's sixteenth resend. -/
theorem frameReplay_few {c : Core} (few : ∀ g ∈ c.twin.retry, g.resends < 15) (arriving : Bool) :
    frameReplay c arriving = countError (replayed c) true 8 := by
  have below : ((countError (replayed c) true 8).twin.retry.any fun f => decide (16 ≤ f.resends)) = false := by
    rw [(countError_twin _ _ _).1]
    show ((c.twin.retry.map resent).any fun f => decide (16 ≤ f.resends)) = false
    rw [List.any_map, List.any_eq_false]
    intro g hg
    have := few g hg
    show ¬ decide (16 ≤ g.resends + 1) = true
    rw [decide_eq_true_eq]
    omega
  show (if ((countError (replayed c) true 8).twin.retry.any fun f => decide (16 ≤ f.resends)) = true then _ else _) = _
  rw [below]
  rfl

/-- A lane that has not failed yet makes the failed lanes one more. -/
theorem length_mapSet_new {α : Type} {m : Map α} {i : Nat} (new : mapHas m i = false) (x : α) : (mapSet m i x).length = m.length + 1 := by
  induction m with
  | nil => rfl
  | cons p m ih =>
    obtain ⟨k, a⟩ := p
    have other : i ≠ k := fun h => by simp [mapHas, mapGet, h] at new
    have rest : mapHas m i = false := by simpa [mapHas, mapGet, other.symm] using new
    simp only [mapSet, other, if_false]
    split
    · rfl
    · simp [ih rest]

/-- R491: the first lane to fail, a data lane: a spare takes its place, and a REPAIR record says so. -/
theorem laneFails_first {c : Core} {lane : Nat} (linkUp : c.twin.linkUp = true) (data : lane < 32) (sound : c.twin.badLanes = []) (arriving : Bool) :
    laneFails c lane arriving =
      repairEvent (modTwin c fun t => { t with badLanes := [(lane, ())], sparesUsed := 1 }) true 5 0 0 lane := by
  have low : ¬ 34 ≤ lane := by omega
  simp [laneFails, linkUp, low, sound, mapHas, mapGet, mapSet, laneCarries, data, modTwin, badData]

/-- R491: the third lane to fail: the width is halved. -/
theorem laneFails_third {c : Core} {lane : Nat} (linkUp : c.twin.linkUp = true) (data : lane < 32) (new : mapHas c.twin.badLanes lane = false)
    (two : c.twin.badLanes.length = 2) (arriving : Bool) :
    laneFails c lane arriving = modTwin c fun t => { t with badLanes := mapSet t.badLanes lane (), half := true } := by
  have low : ¬ 34 ≤ lane := by omega
  simp [laneFails, linkUp, low, new, modTwin, length_mapSet_new new, two]

/-- R491: what a lane's failure does, told by the failure itself or by an eye check of that lane alone. -/
theorem exec_laneFails {s : State} (on : alive s.core = true) (lane : Nat) (arriving : Bool) :
    exec (.twinLaneSpare lane arriving) s = .next { s with core := laneFails s.core lane arriving } ∧
      exec (.eyeCheck [lane] arriving) s = .next { s with core := laneFails s.core lane arriving } := by
  constructor
  · show execTwinLaneSpare lane arriving s = _
    simp [execTwinLaneSpare, onCore, on]
  · show execEyeCheck [lane] arriving s = _
    simp [execEyeCheck, onCore, on]

/-- Settles O59 (R488 to R492): good and bad frames by what `frameReceive` makes of them, a frame laid out by reading its fields back, a replay and
a failed lane by their equations. -/
theorem twinLinkFrames : Obligations.TwinLinkFrames := by
  unfold Obligations.TwinLinkFrames
  intro s
  dsimp only
  refine ⟨fun f on deep linkUp => ⟨fun isGood => ?_, fun isBad => ?_⟩, fun f on deep linkUp next seq ack _ _ credits => ?_,
    fun arriving f fs on linkUp replay kept few => ?_, fun lane arriving on linkUp data new => ⟨fun sound => ?_, fun two => ?_⟩,
    fun on isReady => ?_⟩
  · have isGood := (frameGood_iff s.core.twin f).mpr isGood
    obtain ⟨owed, back, frame⟩ := credits_frame (frameTaken s.core.twin f) (leAt f 9 1 % 4) (leAt f 10 2) (leAt f 8 1 % 4)
    refine ⟨_, exec_twinFrameReceive on deep linkUp f, ?_⟩
    simp only [modTwin, frameReceive_good isGood, frame]
    exact ⟨rfl, rfl, rfl, rfl, trivial, trivial⟩
  · have isBad : frameGood s.core.twin f = false := Bool.eq_false_iff.mpr fun h => isBad ((frameGood_iff s.core.twin f).mp h)
    rw [exec_twinFrameReceive on deep linkUp f]
    simp only [modTwin, frameReceive_bad isBad]
  · have isGood : frameGood s.core.twin (wireFrame f) = true := frameGood_wireFrame next seq ack credits
    obtain ⟨-, readAck, readCls, readBack, readCredits⟩ := wireFrame_fields seq ack credits
    obtain ⟨nakBit, cls⟩ := nak_bit f.cls f.nak
    obtain ⟨owed, back, frame⟩ := credits_frame (frameTaken s.core.twin (wireFrame f)) (f.creditCls % 4 % 4) f.credits (f.cls % 4)
    have taken : frameReceive s.core.twin (wireFrame f) =
        oweCredit (addCredits (frameTaken s.core.twin (wireFrame f)) (f.creditCls % 4 % 4) f.credits) (f.cls % 4) := by
      rw [frameReceive_good isGood, readBack, readCredits, readCls, cls]
    refine ⟨_, exec_twinFrameReceive on deep linkUp _, ?_, ?_, ?_, ?_, fun data => ?_, fun data => ?_⟩ <;> simp only [modTwin]
    · rw [taken, frame]; rfl
    · rw [taken, frame]; rfl
    · rw [taken, frame, ← readAck]; rfl
    · rw [taken, frame]
      show (s.core.twin.replay || bit (leAt (wireFrame f) 8 1) 2) = _
      rw [readCls, nakBit]
    · rw [taken, show f.cls % 4 = f.cls by omega, oweCredit_owes _ data, addCredits_owed]; rfl
    · rw [taken, oweCredit_credits, show f.creditCls % 4 % 4 = f.creditCls by omega, addCredits_returns _ _ data]; rfl
  · have goes : exec (.twinFrameReplay arriving) s = .next { s with core := frameReplay s.core arriving } := by
      show execTwinFrameReplay arriving s = _
      simp [execTwinFrameReplay, onCore, on, linkUp, replay, kept]
    obtain ⟨twin, sess⟩ := countError_twin (replayed s.core) true 8
    refine ⟨_, goes, ?_⟩
    simp only [frameReplay_few few, twin, sess, countError_now (replayed s.core) true (cls := 8) (by decide) (by decide)]
    exact ⟨linkUp, rfl, rfl, mapGet_set_same .., rfl⟩
  · obtain ⟨fails, checked⟩ := exec_laneFails on lane arriving
    rw [fails, checked, laneFails_first linkUp data sound]
    have spare : let t := repairEvent (modTwin s.core fun t => { t with badLanes := [(lane, ())], sparesUsed := 1 }) true 5 0 0 lane
        t.twin.linkUp = true ∧ t.twin.half = s.core.twin.half ∧ t.twin.sparesUsed = 1 ∧ mapHas t.twin.badLanes lane = true ∧ t.sess = s.core.sess ∧
          t.rings = (issueEvent s.core 6 true 0 0 5 (fieldAt 6 10 lane)).rings := by
      simp only [repairEvent, issueEvent_twin, issueEvent_sess]
      refine ⟨linkUp, rfl, rfl, by simp [modTwin, mapHas, mapGet], rfl, ?_⟩
      rw [show fieldAt 0 3 0 + fieldAt 3 3 0 + fieldAt 6 10 lane = fieldAt 6 10 lane by simp [fieldAt]]
      exact issueEvent_rings_congr (by rfl) (by rfl) ..
    exact ⟨⟨_, rfl, spare⟩, ⟨_, rfl, spare⟩⟩
  · obtain ⟨fails, checked⟩ := exec_laneFails on lane arriving
    rw [fails, checked, laneFails_third linkUp data new two]
    exact ⟨⟨_, rfl, linkUp, rfl, rfl, rfl⟩, ⟨_, rfl, linkUp, rfl, rfl, rfl⟩⟩
  · show execHeartbeatSend s = _
    simp only [execHeartbeatSend, onCore, on, isReady, Bool.and_self, if_true]
    rfl

end Sys2Proof.Machine

/-! PROOFS of the pairing statement (18_twin R494 to R499, R505, 20_security R540): training, HELLO, synchronising, unpairing and grants. -/

namespace Sys2Proof.Machine

/-- A record issued counts a drop at most: the other registers stay. -/
theorem regGet_issueEvent (c : Core) (type : Nat) (die : Bool) (sid account a b : Nat) {o : Nat} (h : o ≠ 0x10038) :
    regGet (issueEvent c type die sid account a b) o = regGet c o := by
  unfold issueEvent regCount
  dsimp only
  split
  · exact regGet_put_other _ _ _ _ _ _ h
  · split
    · exact regGet_put_other _ _ _ _ _ _ h
    · split
      · exact regGet_put_other _ _ _ _ _ _ h
      · rfl

/-! ## Unpairing (R498) -/

/-- R498: what a device `t` that unpaired with no shadows has left of the device `c`. -/
def Unpaired (c t : Core) : Prop :=
  t.twin.linkUp = false ∧ t.twin.shadows = [] ∧ t.twin.mirror = [] ∧ t.twin.granted = ⟨0, 0⟩ ∧
    t.twin.lent = ⟨0, 0⟩ ∧ t.sess = c.sess ∧ t.obj = c.obj ∧
    freeOf t false = freeOf c false + c.twin.lent.d0 ∧ freeOf t true = freeOf c true + c.twin.lent.d1

/-- R498: unpairing with no shadows; a TWIN record says so when the pair was paired or synchronised. -/
theorem unpairTo_none {c : Core} (none : c.twin.shadows = []) (st : Nat) :
    Unpaired c (unpairTo c st) ∧ (unpairTo c st).twin.state = st ∧ regGet (unpairTo c st) 0x700000 = regGet c 0x700000 ∧
      (c.twin.state = 2 ∨ c.twin.state = 3 → (unpairTo c st).rings = (issueEvent c 9 true 0 0 2 0).rings) := by
  unfold unpairTo dropShadows twinEvent
  rw [none]
  dsimp only [List.foldl_nil]
  split
  case isTrue => 
    refine ⟨?_, ?_, ?_, fun _ => ?_⟩
    · simp only [Unpaired, freeOf, issueEvent_twin, issueEvent_sess, issueEvent_obj, issueEvent_mem]
      exact ⟨rfl, rfl, rfl, rfl, rfl, rfl, rfl, rfl, rfl⟩
    · rw [issueEvent_twin]; rfl
    · exact regGet_issueEvent _ _ _ _ _ _ _ (by decide)
    · exact issueEvent_rings_congr (by rfl) (by rfl) ..
  case isFalse unlinked =>
    refine ⟨⟨rfl, rfl, rfl, rfl, rfl, rfl, rfl, rfl, rfl⟩, rfl, rfl, fun linked => absurd ?_ unlinked⟩
    simpa using linked

/-- R498: a device that neither holds nor takes over, and is not linked to a twin, unpairs at once. -/
theorem pairOff_alone {c : Core} (held : c.twin.state ≠ 5) (taking : c.twin.taking = false)
    (alone : ¬ (c.twin.linkUp = true ∧ (c.twin.state = 2 ∨ c.twin.state = 3))) : pairOff c = unpairTo c 0 := by
  have unlinked : (c.twin.linkUp && (c.twin.state == 2 || c.twin.state == 3)) = false := by
    rw [Bool.eq_false_iff]
    simpa using alone
  simp [pairOff, startUnpair, held, taking, unlinked]

/-- R498: one that is linked to a twin begins to unpair. -/
theorem startUnpair_linked {c : Core} (linked : c.twin.linkUp = true ∧ (c.twin.state = 2 ∨ c.twin.state = 3)) :
    startUnpair c = modTwin c fun t => { t with unpairing := true } := by
  have linked : (c.twin.linkUp && (c.twin.state == 2 || c.twin.state == 3)) = true := by simpa using linked
  simp only [startUnpair, linked, if_true]

theorem pairOff_linked {c : Core} (taking : c.twin.taking = false) (linked : c.twin.linkUp = true ∧ (c.twin.state = 2 ∨ c.twin.state = 3)) :
    pairOff c = modTwin c fun t => { t with unpairing := true } := by
  have held : c.twin.state ≠ 5 := by omega
  simp [pairOff, held, taking, startUnpair_linked linked]

/-- A write of HNG_PAIR_CFG wakes the block's domains, and then acts. -/
theorem pairCfg_written {c : Core} (h : barReady c = true) (deep : c.power.deep = false) (f : Core → Core) :
    ∃ p tab sch, bar0Write c 0x700000 8 f = f { c with power := p, stackTab := tab, sched := sch } := by
  obtain ⟨p, tab, sch, wakes⟩ := wakeBlock_frame c 0x700000
  exact ⟨p, tab, sch, by rw [bar0Write_taken c _ _ _ h deep (by decide), wakes]⟩

/-- HNG_PAIR_CFG.EN as a write of it leaves it. -/
theorem en_put (c : Core) (x : Nat) (h : x < 2) : bit (regGet (regPut c 0x700000 0 0 x) 0x700000) 0 = (x == 1) := by
  have put := regField_put_same c 0x700000 0 0 x (by decide)
  rw [Nat.mod_eq_of_lt (by omega)] at put
  have field : bit (regGet (regPut c 0x700000 0 0 x) 0x700000) 0 = (regField (regPut c 0x700000 0 0 x) 0x700000 0 0 == 1) := by
    simp [bit, regField, bits]
  rw [field, put]

/-- R498: EN is cleared on a device that is linked to no twin and keeps no shadows. -/
theorem exec_unpair_alone {s : State} (h : barReady s.core = true) (deep : s.core.power.deep = false) (taking : s.core.twin.taking = false)
    (held : s.core.twin.state ≠ 5) (alone : ¬ (s.core.twin.linkUp = true ∧ (s.core.twin.state = 2 ∨ s.core.twin.state = 3)))
    (none : s.core.twin.shadows = []) :
    ∃ t, exec .unpair s = .next t ∧ t.core.twin.state = 0 ∧ Unpaired s.core t.core ∧ bit (regGet t.core 0x700000) 0 = false := by
  obtain ⟨p, tab, sch, written⟩ := pairCfg_written h deep fun c => pairOff (regPut c 0x700000 0 0 0)
  refine ⟨_, by show execUnpair s = _; rw [execUnpair, onCore, written], ?_⟩
  rw [pairOff_alone (by exact held) (by exact taking) (by exact alone)]
  obtain ⟨unpaired, state, regs, -⟩ := unpairTo_none (c := regPut { s.core with power := p, stackTab := tab, sched := sch } 0x700000 0 0 0) none 0
  exact ⟨state, unpaired, by rw [regs]; exact en_put _ 0 (by decide)⟩

/-- R498: EN is cleared on a device that is linked to its twin. -/
theorem exec_unpair_linked {s : State} (h : barReady s.core = true) (deep : s.core.power.deep = false) (taking : s.core.twin.taking = false)
    (linked : s.core.twin.linkUp = true ∧ (s.core.twin.state = 2 ∨ s.core.twin.state = 3)) :
    ∃ t, exec .unpair s = .next t ∧ (t.core.twin = { s.core.twin with unpairing := true } ∧ t.core.sess = s.core.sess ∧
      t.core.obj = s.core.obj ∧ t.core.mem = s.core.mem ∧ t.core.rings = s.core.rings) ∧ bit (regGet t.core 0x700000) 0 = false := by
  obtain ⟨p, tab, sch, written⟩ := pairCfg_written h deep fun c => pairOff (regPut c 0x700000 0 0 0)
  refine ⟨_, by show execUnpair s = _; rw [execUnpair, onCore, written, pairOff_linked (by exact taking) (by exact linked)], ?_⟩
  exact ⟨⟨rfl, rfl, rfl, rfl, rfl⟩, en_put _ 0 (by decide)⟩

/-- R498: what a device that unpairs does when its mirror records have gone. -/
theorem finishUnpair_sent {c : Core} (unpairing : c.twin.unpairing = true) (empty : c.twin.mirror = []) (sent : c.twin.saidUnpair = true)
    (gone : c.twin.ctl = []) : finishUnpair c = unpairTo c (b2n (pairEn c)) := by
  simp [finishUnpair, unpairing, empty, sent, gone]

/-! ## Training (R494) -/

/-- R494: EN is set on a device that neither synchronises, is paired, holds nor takes over. -/
theorem exec_pairEnable_trains {s : State} (h : barReady s.core = true) (deep : s.core.power.deep = false) (taking : s.core.twin.taking = false)
    (syncs : s.core.twin.state ≠ 2) (isPaired : s.core.twin.state ≠ 3) (held : s.core.twin.state ≠ 5)
    (off : pairEn s.core = false ∨ s.core.twin.state ≠ 1) (trained : Bool) :
    ∃ t, exec (.pairEnable trained) s = .next t ∧ t.core.twin.state = 1 ∧ t.core.twin.cause = 0 ∧
      t.core.twin.linkUp = trained ∧ bit (regGet t.core 0x700000) 0 = true ∧ t.core.sess = s.core.sess ∧ t.core.rings = s.core.rings ∧
      t.core.twin.ctl = if trained then [.hello (ownHello t.core s.rot)] else [] := by
  obtain ⟨p, tab, sch, written⟩ := pairCfg_written h deep fun c => pairOn (regPut c 0x700000 0 0 1) s.rot trained
  have again : ¬ ((ready s.core && pairEn s.core && decide (s.core.twin.state = 1)) = true) := by
    rcases off with off | off <;> simp [off]
  have starts : ∀ c : Core, c.twin = s.core.twin →
      pairOn c s.rot trained = trainLink (modTwin c fun t => { t with state := 1, cause := 0 }) s.rot trained := fun c same => by
    simp [pairOn, same, syncs, isPaired, held, taking]
  refine ⟨_, by show execPairEnable trained s = _; rw [execPairEnable, onCore, if_neg again, written, starts _ (by rfl)], ?_⟩
  cases trained
  · exact ⟨rfl, rfl, rfl, en_put _ 1 (by decide), rfl, rfl, rfl⟩
  · exact ⟨rfl, rfl, rfl, en_put _ 1 (by decide), rfl, rfl, rfl⟩

/-! ## HELLO (R494, R495) -/

/-- R494, R540: HELLO that reaches a device whose link has trained. -/
theorem exec_hello_trained {s : State} (up : ready s.core = true) (linkUp : s.core.twin.linkUp = true) (state : s.core.twin.state = 1) (h : Hello) :
    exec (.hello h) s = .next { s with
      core := helloCore s.core h, rot := resumeLeaf { s.rot with twinKnows := some h.leafT } (some h.leafT) } := by
  show execHello h s = _
  simp [execHello, up, linkUp, state]

/-- R494, R495: the devices synchronise when nothing speaks against it. -/
theorem helloCore_answers {c : Core} (state : c.twin.state = 1) (h : Hello) : (helloCore c h).sess = c.sess ∧
    (helloCore c h).twin.twinNo = h.deviceNo ∧ (helloCore c h).twin.cause = helloCause c h ∧
    (if helloCause c h = 0 then (helloCore c h).twin.state = 2 ∧ (helloCore c h).twin.toSend = sessionsToSend c ∧
      (helloCore c h).twin.toRecv = h.ids.filter (fun i => !h.lost.contains i)
    else (helloCore c h).twin.state = 6) := by
  have trained : ¬ c.twin.state ≠ 1 := by simp [state]
  unfold helloCore
  rw [if_neg trained]
  by_cases none : helloCause c h = 0
  · rw [if_neg (by simp [none]), if_pos none]
    exact ⟨rfl, rfl, none.symm, rfl, rfl, rfl⟩
  · rw [if_pos none, if_neg none]
    exact ⟨rfl, rfl, rfl, rfl⟩

/-! ## Sessions sent (R495) -/

/-- R495: the next session's copy joins those that go. -/
def copied (c : Core) (x : Nat) (body : MBody) : Core :=
  { c with twin := { c.twin with
    toSend := (stillToSend c).tail, copies := c.twin.copies ++ [mirrorRec c x body], bulk := c.twin.bulk ++ [.copy (mirrorRec c x body)] } }

/-- With no copy before it, it goes alone. -/
theorem copied_first {c : Core} (bulk : c.twin.bulk = []) (x : Nat) (body : MBody) : copied c x body =
    { c with twin := { c.twin with
      toSend := (stillToSend c).tail, copies := c.twin.copies ++ [mirrorRec c x body], bulk := [.copy (mirrorRec c x body)] } } := by
  rw [copied, bulk, List.nil_append]

theorem maySync_next {c : Core} {x : Nat} (up : ready c = true) (linkUp : c.twin.linkUp = true) (state : c.twin.state = 2)
    (unpairing : c.twin.unpairing = false) (next : (stillToSend c).head? = some x) (bulk : c.twin.bulk = [])
    (noRow : ∀ row ∈ c.sched.d0.placed ++ c.sched.d1.placed, row.session ≠ x) : maySync c x = true := by
  have rows : ((c.sched.d0.placed ++ c.sched.d1.placed).any fun r => r.session == x) = false := by
    rw [List.any_eq_false]
    intro r hr
    simpa using noRow r hr
  simp [maySync, up, linkUp, state, unpairing, next, bulk, copying, rows]

/-- The rot stays when nothing has been measured. -/
theorem exec_sessionSync {s : State} {x : Nat} {env : Env} {r : Run0} (may : maySync s.core x = true)
    (runs : syncSession x (runOf s s.core (env ++ noAnswers)) = .ok ((), r)) (ext : r.ext = []) :
    exec (.sessionSync x env) s = .next { s with core := r.core } := by
  show execSessionSync x env s = _
  rw [execSessionSync, if_pos may, eventRun_ok runs, ext]
  rfl

/-- R495: a warm session: its contents, and the chunks that a running APPEND has committed after it. -/
theorem syncSession_warm {x : Nat} {r : Run0} {wm : Warm} (warm : mapGet r.core.sess.warm x = some wm) :
    ∃ t, syncSession x r = .ok ((), t) ∧ t.ext = r.ext ∧
      t.core = match laneChunks r.core (entryOf r.core x) wm with
        | some b => mirror (copied r.core x (warmCopy r.core x (entryOf r.core x) wm)) x b
        | none => copied r.core x (warmCopy r.core x (entryOf r.core x) wm) := by
  unfold syncSession
  rw [run_bind_ok (run_getC r)]
  dsimp only
  rw [warm]
  dsimp only
  rw [run_bind_ok (run_pure _ _), run_bind_ok (run_modC _ _), Option.bind_some]
  cases laneChunks r.core (entryOf r.core x) wm with
  | some b => exact ⟨_, run_modC _ _, rfl, rfl⟩
  | none => exact ⟨_, rfl, rfl, rfl⟩

/-- A part that succeeds needs no answer of its own for a failure. -/
theorem orElse_ok {α : Type} {m : M α} {r t : Run0} {a : α} (runs : m r = .ok (a, t)) (d : α) : orElse m d r = .ok (a, t) := by
  simp only [orElse, runs]

/-- The bytes of a sheaf in the barn. -/
theorem keptBytes_barn {ix : SheafIx} (place : ix.place = 1) (r : Run0) : keptBytes ix r = .ok (barnBytes r.core ix, r) := by
  unfold keptBytes
  rw [run_bind_ok (run_getC r), if_pos place]
  rfl

/-- R495: what follows the body of a session that is not warm. -/
theorem syncSession_cold {x : Nat} {r t : Run0} {body : MBody} (cold : mapGet r.core.sess.warm x = none) (same : t.core = r.core)
    (formed : (match mapGet r.core.mem.index x with
      | some ix => if ix.place = 2 then pure (.copy (entryOf r.core x) none [] (some ix) none none)
        else do return .copy (entryOf r.core x) none (← orElse (keptBytes ix) []) none none none
      | none => pure (.copy (entryOf r.core x) none [] none none none) : M MBody) r = .ok (body, t)) :
    syncSession x r = .ok ((), { t with core := copied r.core x body }) := by
  unfold syncSession
  rw [run_bind_ok (run_getC r)]
  dsimp only
  rw [cold]
  cases index : mapGet r.core.mem.index x with
  | some ix =>
    rw [index] at formed
    dsimp only at formed ⊢
    rw [run_bind_ok formed, run_bind_ok (run_modC _ _), same]
    rfl
  | none =>
    rw [index] at formed
    dsimp only at formed ⊢
    rw [run_bind_ok formed, run_bind_ok (run_modC _ _), same]
    rfl

/-- R495: the three bodies of a session that is not warm. -/
theorem syncSession_bodies {x : Nat} {r : Run0} (cold : mapGet r.core.sess.warm x = none) :
    (∀ ix, mapGet r.core.mem.index x = some ix →
      (ix.place = 2 → syncSession x r = .ok ((), { r with core := copied r.core x (.copy (entryOf r.core x) none [] (some ix) none none) })) ∧
      (ix.place = 1 → syncSession x r =
        .ok ((), { r with core := copied r.core x (.copy (entryOf r.core x) none (barnBytes r.core ix) none none none) }))) ∧
    (mapGet r.core.mem.index x = none →
      syncSession x r = .ok ((), { r with core := copied r.core x (.copy (entryOf r.core x) none [] none none none) })) := by
  refine ⟨fun ix index => ⟨fun pool => ?_, fun barn => ?_⟩, fun index => ?_⟩ <;> refine syncSession_cold cold rfl ?_ <;> rw [index] <;> dsimp only
  · rw [if_pos pool]
    rfl
  · rw [if_neg (by omega), run_bind_ok (orElse_ok (keptBytes_barn barn r) [])]
    rfl
  · rfl

/-! ## Paired (R496) -/

/-- R496: with no session to come and none to go, the pair is paired. -/
theorem recvComplete_none {c : Core} (recv : c.twin.toRecv = []) :
    recvComplete c = if c.twin.recvDone then c
      else sendMsg (issueEvent (modTwin c fun t => { t with recvDone := true }) 9 true 0 0 5 0) .complete := by
  cases done : c.twin.recvDone <;> simp [recvComplete, done, recv, twinEvent]

/-- What this device says of being complete leaves the rest as it is. -/
theorem recvComplete_leaves {c : Core} (recv : c.twin.toRecv = []) : let t := recvComplete c
    t.sess = c.sess ∧ t.twin = { c.twin with recvDone := true, ctl := if c.twin.recvDone then c.twin.ctl else c.twin.ctl ++ [.complete] } ∧
      regGet t 0x700018 = regGet c 0x700018 ∧ (c.twin.recvDone = true → t = c) := by
  dsimp only
  rw [recvComplete_none recv]
  cases done : c.twin.recvDone
  · refine ⟨by simp [sendMsg, modTwin], by simp [sendMsg, modTwin], ?_, fun h => by simp at h⟩
    exact regGet_issueEvent _ _ _ _ _ _ _ (by decide)
  · refine ⟨rfl, ?_, rfl, fun _ => rfl⟩
    simp only [if_true, ← done]

/-- R493: without a witness nothing is swapped. -/
theorem pairWitness_none {r : Run0} (none : witnessWindow r.core = 0) : pairWitness r = .ok ((), r) := by
  unfold pairWitness
  rw [run_bind_ok (run_getC r), if_pos none]
  rfl

theorem enterPaired_first {c : Core} (taken : c.twin.taken = false) :
    enterPaired c = issueEvent (modTwin c fun t => { t with state := 3 }) 9 true 0 0 1 0 := by
  simp [enterPaired, twinEvent, modTwin, taken]

/-- R496: the pair becomes paired, and without a witness nothing else happens. -/
theorem exec_twinSyncDone_pairs {s : State} (env : Env) (up : ready s.core = true) (linkUp : s.core.twin.linkUp = true) (state : s.core.twin.state = 2)
    (recv : s.core.twin.toRecv = []) (sent : stillToSend s.core = []) (bulk : s.core.twin.bulk = []) (taken : s.core.twin.taken = false)
    (witness : regField s.core 0x700018 3 0 = 0) :
    exec (.twinSyncDone true env) s = .next { s with
      core := issueEvent (modTwin (recvComplete s.core) fun t => { t with state := 3 }) 9 true 0 0 1 0 } := by
  obtain ⟨sess, twin, regs, -⟩ := recvComplete_leaves recv
  have stays : stillToSend (recvComplete s.core) = [] := by
    rw [← sent]
    simp only [stillToSend, entryOf, twin, sess]
  have pairs : nowPaired (recvComplete s.core) true = true := by
    simp [nowPaired, copying, stays, twin, bulk]
  have first : (recvComplete s.core).twin.taken = false := by rw [twin]; exact taken
  show execTwinSyncDone true env s = _
  have goes : (ready s.core && s.core.twin.linkUp && s.core.twin.state == 2) = true := by simp [up, linkUp, state]
  rw [execTwinSyncDone, if_pos goes, syncDone]
  simp only [pairs, Bool.not_true, Bool.false_eq_true, if_false, enterPaired_first first]
  have unset : witnessWindow (issueEvent (modTwin (recvComplete s.core) fun t => { t with state := 3 }) 9 true 0 0 1 0) = 0 := by
    rw [witnessWindow, regField, regGet_issueEvent _ _ _ _ _ _ _ (by decide)]
    show bits (regGet (recvComplete s.core) 0x700018) 3 0 = 0
    rw [regs]
    exact witness
  split
  · rw [eventRun_ok (pairWitness_none (by exact unset))]
    rfl
  · rfl

/-! ## Grants (R499) -/

theorem exec_frameGrant_linked {s : State} (up : ready s.core = true) (linkUp : s.core.twin.linkUp = true)
    (linked : s.core.twin.state = 2 ∨ s.core.twin.state = 3) (die : Bool) (g : Grant) :
    exec (.frameGrant die g) s = .next { s with core := frameGrant s.core die g } := by
  have linked : (s.core.twin.linkUp && (s.core.twin.state == 2 || s.core.twin.state == 3)) = true := by simpa [linkUp] using linked
  show execFrameGrant die g s = _
  rw [execFrameGrant, whenReady_ready up, if_pos linked]

theorem frameGrant_asked {c : Core} {die : Bool} (room : floorOf c + grantBlock < freeOf c die) : frameGrant c die .asked =
    sendMsg (modTwin (reserveFree c die grantBlock) fun t => { t with lent := t.lent.mod die (· + grantBlock) }) (.grant die .received) :=
  if_pos room

theorem frameGrant_returned {c : Core} {die : Bool} (lent : grantBlock ≤ c.twin.lent.get die) : frameGrant c die .returned =
    modTwin (returnFree c die grantBlock) fun t => { t with lent := t.lent.mod die (· - grantBlock) } :=
  if_pos lent

theorem frameGrant_received {c : Core} {die : Bool} (few : grantLeft c die < 4096) : frameGrant c die .received =
    modTwin c fun t => { t with granted := t.granted.mod die (· + grantBlock), asked := t.asked.set die false } :=
  if_pos few

theorem frameGrant_gaveBack {c : Core} {die : Bool} (many : 16384 < grantLeft c die) : frameGrant c die .gaveBack =
    sendMsg (modTwin c fun t => { t with granted := t.granted.mod die (· - grantBlock) }) (.grant die .returned) :=
  if_pos many

theorem get_mod {α : Type} (p : PerDie α) (die : Bool) (f : α → α) : (p.mod die f).get die = f (p.get die) := by cases die <;> rfl

/-- Settles O58 (R494 to R499, R505, R540), from the equations of training, HELLO, copying, pairing, unpairing and grants. That a tick of the empty
queue runs `finishUnpair` is log entry 2; the states in which PAIR_ENABLE acts are log entry 108. -/
theorem pairingStates : Obligations.PairingStates := by
  unfold Obligations.PairingStates
  intro s
  dsimp only
  refine ⟨fun trained h deep taking syncs isPaired held off => exec_pairEnable_trains h deep taking syncs isPaired held off trained,
    fun h deep taking held => ⟨fun alone none => exec_unpair_alone h deep taking held alone none, fun linked => exec_unpair_linked h deep taking linked⟩,
    fun up linked unpairing => ?_, fun linked unpairing => ⟨fun left => ?_, fun empty unsaid ctl => ?_, fun empty said ctl none => ?_⟩,
    fun h up linkUp state => ?_, fun x up linkUp state unpairing next bulk noRow => ⟨fun wm env warm => ?_, fun ix env cold index => ?_, fun env cold index => ?_⟩,
    fun env up linkUp state recv sent bulk taken witness => ?_,
    fun die up linkUp linked => ⟨fun room => ?_, fun lent => ?_, fun few => ?_, fun many => ?_⟩⟩
  · have linkedB : (s.core.twin.linkUp && (s.core.twin.state == 2 || s.core.twin.state == 3)) = true := by simpa using linked
    refine ⟨_, by show execUnpairReceived s = _; rw [execUnpairReceived, whenReady_ready up, linkedB, unpairing,
      if_pos (by rfl), startUnpair_linked linked], ?_⟩
    exact ⟨rfl, rfl, rfl, rfl, rfl⟩
  · simp [finishUnpair, left]
  · simp [finishUnpair, unpairing, empty, unsaid, ctl, sendMsg, modTwin]
  · rw [finishUnpair_sent unpairing empty said ctl]
    obtain ⟨unpaired, state, -, rings⟩ := unpairTo_none none (b2n (pairEn s.core))
    exact ⟨unpaired, state, rings linked.2⟩
  · obtain ⟨sess, twinNo, cause, answer⟩ := helloCore_answers state h
    exact ⟨_, exec_hello_trained up linkUp state h, rfl, sess, twinNo, cause, answer⟩
  · obtain ⟨t, runs, ext, core⟩ := syncSession_warm (r := runOf s s.core (env ++ noAnswers)) warm
    rw [exec_sessionSync (maySync_next up linkUp state unpairing next bulk noRow) runs ext, core, ← copied_first bulk]
    rfl
  · obtain ⟨pool, barn⟩ := (syncSession_bodies (r := runOf s s.core (env ++ noAnswers)) cold).1 ix index
    constructor <;> intro place <;> rw [← copied_first bulk]
    · exact exec_sessionSync (maySync_next up linkUp state unpairing next bulk noRow) (pool place) rfl
    · exact exec_sessionSync (maySync_next up linkUp state unpairing next bulk noRow) (barn place) rfl
  · rw [← copied_first bulk]
    exact exec_sessionSync (maySync_next up linkUp state unpairing next bulk noRow) ((syncSession_bodies cold).2 index) rfl
  · obtain ⟨sess, twin, regs, same⟩ := recvComplete_leaves recv
    refine ⟨_, exec_twinSyncDone_pairs env up linkUp state recv sent bulk taken witness, ?_⟩
    simp only [issueEvent_twin, issueEvent_sess]
    refine ⟨rfl, ?_, sess, ?_, fun done => ?_, fun notDone => ?_⟩
    · simp only [modTwin, twin]
    · simp only [modTwin, twin]
    · rw [same done]
      exact issueEvent_rings_congr (by rfl) (by rfl) ..
    · simp [modTwin, twin, notDone]
  · have floor : 1024 ≤ freeOf s.core die := by omega
    refine ⟨_, by rw [exec_frameGrant_linked up linkUp linked, frameGrant_asked room], ?_⟩
    refine ⟨?_, get_mod .., rfl, rfl, rfl⟩
    show (s.core.mem.free.mod die (· - 1024)).get die + 1024 = s.core.mem.free.get die
    rw [get_mod]
    exact Nat.sub_add_cancel floor
  · refine ⟨_, by rw [exec_frameGrant_linked up linkUp linked, frameGrant_returned lent], ?_⟩
    refine ⟨get_mod .., ?_, rfl⟩
    show (s.core.twin.lent.mod die (· - 1024)).get die + 1024 = _
    rw [get_mod]
    exact Nat.sub_add_cancel lent
  · refine ⟨_, by rw [exec_frameGrant_linked up linkUp linked, frameGrant_received few], ?_⟩
    exact ⟨get_mod .., PerDie.get_set .., rfl, rfl⟩
  · have held : 1024 ≤ s.core.twin.granted.get die := by
      have : grantLeft s.core die ≤ s.core.twin.granted.get die := Nat.sub_le ..
      omega
    refine ⟨_, by rw [exec_frameGrant_linked up linkUp linked, frameGrant_gaveBack many], ?_⟩
    refine ⟨?_, rfl, rfl, rfl⟩
    show (s.core.twin.granted.mod die (· - 1024)).get die + 1024 = _
    rw [get_mod]
    exact Nat.sub_add_cancel held

end Sys2Proof.Machine

/-! PROOFS of the takeover statement (18_twin R504 to R511): silence, the witness, the takeover, kept completions, records and requests. -/

namespace Sys2Proof.Machine

/-! ## What starts a takeover (R505, R506) -/

/-- R505, R507: a takeover that started leaves the sessions and the shadows, and a TWIN record of kind 3 says so. -/
theorem startTakeover_leaves (c : Core) : (startTakeover c).twin = { c.twin with taking := true, seeking := false } ∧
    (startTakeover c).sess = c.sess ∧ (startTakeover c).rings = (issueEvent c 9 true 0 0 3 0).rings := by
  refine ⟨?_, ?_, ?_⟩
  · rw [startTakeover, twinEvent, issueEvent_twin]
    rfl
  · rw [startTakeover, twinEvent, issueEvent_sess]
    rfl
  · exact issueEvent_rings_congr (by rfl) (by rfl) ..

/-- R506: without a witness an attempt at it starts the takeover. -/
theorem tryWitness_none {r : Run0} (none : witnessWindow r.core = 0) : tryWitness r = .ok ((), { r with core := startTakeover r.core }) := by
  unfold tryWitness
  rw [run_bind_ok (run_getC r), if_pos none]
  rfl

theorem eventRun_tryWitness_none {s : State} (none : witnessWindow s.core = 0) (env : Env) :
    eventRun s env tryWitness = { s with core := startTakeover s.core } := by
  rw [eventRun_ok (tryWitness_none (by exact none))]
  rfl

/-- R505: no heartbeat has arrived for MISS periods. -/
theorem exec_heartbeatSilence {s : State} (up : alive s.core = true) (deep : s.core.power.deep = false) (state : s.core.twin.state = 3)
    (taking : s.core.twin.taking = false) (unpairing : s.core.twin.unpairing = false) (env : Env) :
    exec (.heartbeatSilence env) s = .next (if s.core.twin.linkUp then { s with core := modTwin s.core fun t => { t with silent := true } }
      else seekWitness { s with core := modTwin s.core fun t => { t with silent := true } } env) := by
  have awake : (modTwin s.core fun t => { t with silent := true }).power.deep = false := deep
  show execHeartbeatSilence env s = _
  simp only [execHeartbeatSilence, up, state, taking, unpairing, wakeBy_awake _ _ awake]
  rfl

/-! ## The witness (R493, R506) -/

/-- R493: a witness read. -/
theorem readWitness_answered {r : Run0} {word : Nat} {env : Env} (fresh : r.had = 0) (unsent : r.sent = false) (isWindow : witnessWindow r.core ≠ 0)
    (opens : slotBarred r.core (witnessWindow r.core) = false) (up : r.core.link.up = true) (tags : 0 < tagsFree r.core)
    (answered : r.env = .data (natLe 16 word) :: env) (short : word < 2 ^ 128) :
    readWitness r = .ok (word, { r with env := env, core := windowOutcome r.core (witnessWindow r.core) false false }) := by
  have answer := run_nextAns_window fresh unsent isWindow opens up tags answered (winAddr r.core (witnessWindow r.core) (witnessOff r.core))
    (readNeed r.core 16)
  have asked : request (witnessWindow r.core) (winAddr r.core (witnessWindow r.core) (witnessOff r.core)) 16 r =
      .ok (.data (natLe 16 word), { r with env := env, core := windowOutcome r.core (witnessWindow r.core) false false }) := by
    simp [request, answer, ansStatus, noteAns]
  have read : winRead (witnessWindow r.core) (witnessOff r.core) 16 r =
      .ok (natLe 16 word, { r with env := env, core := windowOutcome r.core (witnessWindow r.core) false false }) := by
    rw [winRead, run_bind_ok (run_getC r), readBus, run_bind_ok asked]
    dsimp only
    rw [bytesAt_all _ _ (natLe_length ..)]
    rfl
  rw [readWitness, run_bind_ok (run_getC r), run_bind_ok read, run_pure, leNat_natLe _ _ (by omega)]

/-- R506: the witness lost: the device holds, and its sessions stay. -/
theorem loseWitness_leaves (c : Core) : (loseWitness c).twin.state = 5 ∧ (loseWitness c).power.held = true ∧ (loseWitness c).sess = c.sess := by
  have lone : paired (twinEvent (modTwin c fun t => { t with state := 5, seeking := false }) 6 0) = false := by
    rw [paired, twinEvent, issueEvent_twin]
    rfl
  obtain ⟨power, -, sess⟩ := holdDevice_leaves (twinEvent (modTwin c fun t => { t with state := 5, seeking := false }) 6 0)
  refine ⟨?_, ?_, ?_⟩
  · have still : ∀ d, paired d = false → sendGiveUp { d with power := { d.power with held := true } } =
        { d with power := { d.power with held := true } } := fun d h => by
      have alone : paired { d with power := { d.power with held := true } } = false := h
      simp [sendGiveUp, alone]
    rw [loseWitness, holdDevice, still _ lone]
    show (twinEvent _ 6 0).twin.state = 5
    rw [twinEvent, issueEvent_twin]
    rfl
  · rw [loseWitness, power]
  · rw [loseWitness, sess, twinEvent, issueEvent_sess]
    rfl

/-- R506: the witness names the twin as the holder. -/
theorem tryWitness_lost {r : Run0} {word : Nat} {env : Env} (fresh : r.had = 0) (unsent : r.sent = false) (isWindow : witnessWindow r.core ≠ 0)
    (opens : slotBarred r.core (witnessWindow r.core) = false) (up : r.core.link.up = true) (tags : 0 < tagsFree r.core)
    (answered : r.env = .data (natLe 16 word) :: env) (short : word < 2 ^ 128) (names : bits word 31 0 = r.core.twin.twinNo)
    (holds : bits word 33 32 = 2) : tryWitness r =
      .ok ((), { r with env := env, core := loseWitness (windowOutcome r.core (witnessWindow r.core) false false) }) := by
  unfold tryWitness
  rw [run_bind_ok (run_getC r), if_neg isWindow, run_bind_ok (readWitness_answered fresh unsent isWindow opens up tags answered short)]
  rw [if_pos (by simp [names, holds])]
  rfl

/-! ## The takeover (R507 to R511) -/

/-- R511: the hold of the completions leaves sessions and memory. -/
theorem ringHold_leaves (c : Core) : (ringHold c).sess = c.sess ∧ (ringHold c).mem = c.mem ∧ ∃ h, (ringHold c).twin = { c.twin with ringHold := h } := by
  unfold ringHold
  split
  · exact ⟨rfl, rfl, _, rfl⟩
  · refine ⟨?_, ?_, true, ?_⟩
    · rw [twinEvent, issueEvent_sess]
    · rw [twinEvent, issueEvent_mem]
    · rw [twinEvent, issueEvent_twin]

/-- R463: a CAPACITY record leaves sessions, memory and the twin. -/
theorem capacityEvent_leaves (c : Core) (die : Bool) (cause f a : Nat) : (capacityEvent c die cause f a).sess = c.sess ∧
    (capacityEvent c die cause f a).mem = c.mem ∧ (capacityEvent c die cause f a).twin = c.twin := by
  have moved := rescale_sched (issueEvent c 3 die 0 0 (fieldAt 0 17 f + fieldAt 32 8 cause) a)
  have frame : capacityEvent c die cause f a = { issueEvent c 3 die 0 0 (fieldAt 0 17 f + fieldAt 32 8 cause) a with
      sched := (capacityEvent c die cause f a).sched } := moved
  generalize capacityEvent c die cause f a = d at frame
  rw [frame]
  exact ⟨issueEvent_sess .., issueEvent_mem .., issueEvent_twin ..⟩

/-- R507: the device after the pair's end, before its shadows are promoted. -/
def pairEnded (c : Core) : Core :=
  modTwin (returnFree (returnFree c false c.twin.lent.d0) true c.twin.lent.d1) fun t =>
    { freshLink t false with
      state := 4, taking := false, taken := true, takeovers := satAdd 16 t.takeovers 1, shadows := [], lent := ⟨0, 0⟩
      granted := ⟨0, 0⟩, mirror := [], mirrorSent := 0, entered := [], hello := none, toSend := [], toRecv := [], recvDone := false, requests := [] }

/-- R462, R463, R511: what a takeover tells at its end. -/
def takeoverTold (c : Core) (n : Nat) : Core :=
  ringHold (capacityEvent (capacityEvent (twinEvent c 4 n) false 4 32768 0) true 4 32768 0)

theorem takeover_eq (c : Core) : takeover c =
    takeoverTold (c.twin.shadows.foldl (fun c p => keptCompletion c p.1 p.2) (promoteAll c.twin.shadows (pairEnded c)).1)
      (promoteAll c.twin.shadows (pairEnded c)).2 := rfl

theorem takeoverTold_leaves (c : Core) (n : Nat) : (takeoverTold c n).sess = c.sess ∧ (takeoverTold c n).mem = c.mem ∧
    ∃ h, (takeoverTold c n).twin = { c.twin with ringHold := h } := by
  obtain ⟨sess, mem, h, twin⟩ := ringHold_leaves (capacityEvent (capacityEvent (twinEvent c 4 n) false 4 32768 0) true 4 32768 0)
  obtain ⟨sess1, mem1, twin1⟩ := capacityEvent_leaves (capacityEvent (twinEvent c 4 n) false 4 32768 0) true 4 32768 0
  obtain ⟨sess0, mem0, twin0⟩ := capacityEvent_leaves (twinEvent c 4 n) false 4 32768 0
  refine ⟨sess.trans (sess1.trans (sess0.trans (issueEvent_sess ..))), mem.trans (mem1.trans (mem0.trans (issueEvent_mem ..))), h, ?_⟩
  rw [takeoverTold, twin, twin1, twin0, twinEvent, issueEvent_twin]

/-- R507: the end of the pair as the twin's state shows it. -/
def TakenOver (w t : Twin) : Prop :=
  t.state = 4 ∧ t.taken = true ∧ t.taking = false ∧ t.shadows = [] ∧ t.lent = ⟨0, 0⟩ ∧ t.takeovers = satAdd 16 w.takeovers 1

/-- What is told at the end keeps it. -/
theorem TakenOver.told {w : Twin} {c : Core} (h : TakenOver w c.twin) (n : Nat) : TakenOver w (takeoverTold c n).twin := by
  obtain ⟨-, -, b, twin⟩ := takeoverTold_leaves c n
  rw [twin]
  exact h

theorem exec_takeover {s : State} (up : alive s.core = true) (taking : s.core.twin.taking = true) :
    exec .takeover s = .next { s with core := takeover s.core } := by
  show execTakeover s = _
  simp [execTakeover, onCore, up, taking]

/-- R507, R510: one shadow, with no turn and no completion kept. -/
theorem takeover_one {c : Core} {sid : Nat} {sh : Shadow} (one : c.twin.shadows = [(sid, sh)]) (turn : sh.turn = none) (fin : sh.fin = none) :
    takeover c = takeoverTold (promote (pairEnded c) sid sh).1 (b2n (promote (pairEnded c) sid sh).2) := by
  rw [takeover_eq, one]
  simp [promoteAll, keptCompletion, turn, fin]

/-- R25: the loss of a session that is not mirrored leaves the other sessions' entries and the twin. -/
theorem loseSession_others {c : Core} {sid : Nat} (alone : mirrored c sid = false) (cause : Nat) (st : Status) (op : Nat) (keep : Bool) :
    (loseSession c sid cause st op keep).twin = c.twin ∧
      ∀ i, i ≠ sid → entryOf (loseSession c sid cause st op keep) i = entryOf c i := by
  simp only [loseSession]
  generalize hc1 : sessionEvent (logErr (haspSession c sid) _) 2 sid _ _ = c1
  have books1 : c1.twin = c.twin ∧ c1.sess.dir = c.sess.dir := by
    rw [← hc1, sessionEvent, issueEvent_twin, issueEvent_sess, logErr_twin, logErr_sess, haspSession_frame]
    exact ⟨rfl, rfl⟩
  obtain ⟨c2, hc2, queues⟩ : ∃ c2, (if isWarm (entryOf c sid).state = true then leaveQueues c1 sid else c1) = c2 ∧ SchedMoved c1 c2 := by
    refine ⟨_, rfl, ?_⟩
    split
    · exact leaveQueues_sched c1 sid
    · exact .refl c1
  have books2 : c2.twin = c1.twin ∧ c2.sess.dir = c1.sess.dir := by
    rw [queues]
    exact ⟨rfl, rfl⟩
  obtain ⟨c3, moved, left⟩ := leaveWarm_moved c2 sid
  have books3 : (leaveWarm c2 sid).twin = c2.twin ∧ (leaveWarm c2 sid).sess.dir = c2.sess.dir := by
    rw [left, moved.frame]
    exact ⟨rfl, rfl⟩
  rw [hc2]
  generalize leaveWarm c2 sid = c4 at books3
  generalize ((Option.map (fun x => x.place) (mapGet c4.mem.index sid) == some 2) && !keep) = b
  generalize hc5 : (if b = true then clearIndex (freeStored c4 sid) sid else freeStored c4 sid) = c5
  have books5 : c5.twin = c4.twin ∧ c5.sess = c4.sess := by
    rw [← hc5]
    split
    · rw [clearIndex, putIndex_twin, putIndex_sess, freeStored_frame]
      exact ⟨rfl, rfl⟩
    · rw [freeStored_frame]
      exact ⟨rfl, rfl⟩
  have twin : c5.twin = c.twin := books5.1.trans (books3.1.trans (books2.1.trans books1.1))
  have dir : c5.sess.dir = c.sess.dir := (congrArg _ books5.2).trans (books3.2.trans (books2.2.trans books1.2))
  have alone5 : mirrored c5 sid = false := by
    rw [← alone]
    simp only [mirrored, paired, twin]
  rw [mirrorThen_alone alone5]
  exact ⟨(setEntry_twin ..).trans twin, fun i hi => (entryOf_set_other _ _ _ _ hi).trans (entryOf_congr dir i)⟩

/-- R507: the session of a packed shadow. -/
def parkedSession (c : Core) (sid : Nat) (sh : Shadow) (ix : SheafIx) : Core :=
  setEntry (setIndex c sid ix) sid { sh.entry with state := .parked, imagePlace := ix.place, rootFrame := 0 }

/-- R507: a packed shadow keeps its sheaf and becomes a PARKED session. -/
theorem promote_packed {c : Core} {sid : Nat} {sh : Shadow} {ix : SheafIx} (packed : sh.ix = some ix) (barn : ix.place = 1)
    (parked : sh.entry.state = .parked) (fits : indexNeed c sid ≤ freeOf c (dirDie sid)) :
    promote c sid sh = (parkedSession c sid sh ix, true) := by
  have room : ¬ freeOf c (dirDie sid) < indexNeed c sid := by omega
  have pool : ¬ ix.place = 2 := by omega
  have own : ¬ sh.entry.state = .pooled := by simp [parked]
  have made : promotePacked c sid sh ix = some (parkedSession c sid sh ix) := by
    simp only [promotePacked, parkedSession, if_neg room, if_neg pool, if_neg own]
  unfold promote
  rw [packed]
  dsimp only
  rw [made]

/-- The entry is PARKED, the index keeps the sheaf, and the other entries and the twin stay. -/
theorem parkedSession_keeps (c : Core) (sid : Nat) (sh : Shadow) (ix : SheafIx) : (parkedSession c sid sh ix).twin = c.twin ∧
    (entryOf (parkedSession c sid sh ix) sid).state = .parked ∧ mapGet (parkedSession c sid sh ix).mem.index sid = some ix ∧
    ∀ i, i ≠ sid → entryOf (parkedSession c sid sh ix) i = entryOf c i := by
  have dir : (setIndex c sid ix).sess.dir = c.sess.dir := congrArg (·.dir) (putIndex_sess ..)
  unfold parkedSession
  refine ⟨?_, ?_, ?_, fun i other => ?_⟩
  · rw [setEntry_twin, setIndex, putIndex_twin]
  · rw [entryOf_set_same _ _ _ (by simp)]
  · rw [setEntry_mem, setIndex, putIndex_index, mapGet_set_same]
  · rw [entryOf_set_other _ _ _ _ other, entryOf_congr dir]

/-- R25, R507: the session of a shadow whose contents have not come. -/
def lostSession (c : Core) (sid : Nat) (sh : Shadow) : Core :=
  loseSession (setEntry c sid { sh.entry with state := .lost, rootFrame := 0 }) sid 1 .lost 0 false

/-- The entry is LOST; on a device whose pair has ended the other entries and the twin stay. -/
theorem lostSession_leaves {c : Core} {sid : Nat} (alone : mirrored c sid = false) (sh : Shadow) : (lostSession c sid sh).twin = c.twin ∧
    (entryOf (lostSession c sid sh) sid).state = .lost ∧ ∀ i, i ≠ sid → entryOf (lostSession c sid sh) i = entryOf c i := by
  have alone : mirrored (setEntry c sid { sh.entry with state := .lost, rootFrame := 0 }) sid = false := by
    rw [← alone]
    simp only [mirrored, paired, setEntry_twin]
  obtain ⟨twin, others⟩ := loseSession_others alone 1 .lost 0 false
  exact ⟨twin.trans (setEntry_twin ..), (loseSession_leaves ..).1, fun i other => (others i other).trans (entryOf_set_other _ _ _ _ other)⟩

/-- R25, R507: a PARKED shadow whose contents have not come becomes a LOST session. -/
theorem promote_bare {c : Core} {sid : Nat} {sh : Shadow} (unpacked : sh.ix = none) (parked : sh.entry.state = .parked) (bare : sh.bare = true) :
    promote c sid sh = (lostSession c sid sh, false) := by
  unfold promote
  rw [unpacked]
  dsimp only
  rw [parked, bare]
  rfl

/-- R498, R507: the granted frames return. -/
theorem pairEnded_free (c : Core) (die : Bool) : freeOf (pairEnded c) die = freeOf c die + c.twin.lent.get die := by cases die <;> rfl

theorem pairEnded_takenOver (c : Core) : TakenOver c.twin (pairEnded c).twin := ⟨rfl, rfl, rfl, rfl, rfl, rfl⟩

/-- R507: nothing is mirrored any more. -/
theorem pairEnded_alone (c : Core) (sid : Nat) : mirrored (pairEnded c) sid = false := rfl

/-- R507: the takeover of one packed shadow. -/
theorem takeover_packed {c : Core} {sid : Nat} {sh : Shadow} {ix : SheafIx} (one : c.twin.shadows = [(sid, sh)]) (turn : sh.turn = none)
    (fin : sh.fin = none) (packed : sh.ix = some ix) (barn : ix.place = 1) (parked : sh.entry.state = .parked)
    (fits : indexNeed c sid ≤ freeOf c (dirDie sid)) : TakenOver c.twin (takeover c).twin ∧ (entryOf (takeover c) sid).state = .parked ∧
      mapGet (takeover c).mem.index sid = some ix ∧ ∀ i, i ≠ sid → entryOf (takeover c) i = entryOf c i := by
  have fits : indexNeed (pairEnded c) sid ≤ freeOf (pairEnded c) (dirDie sid) := by
    rw [pairEnded_free]
    exact Nat.le_add_right_of_le fits
  obtain ⟨twin, state, index, others⟩ := parkedSession_keeps (pairEnded c) sid sh ix
  obtain ⟨sess, mem, -⟩ := takeoverTold_leaves (parkedSession (pairEnded c) sid sh ix) (b2n true)
  rw [takeover_one one turn fin, promote_packed packed barn parked fits]
  refine ⟨TakenOver.told ?_ _, ?_, ?_, fun i other => ?_⟩
  · rw [twin]
    exact pairEnded_takenOver c
  · rw [entryOf_congr (congrArg (·.dir) sess), state]
  · rw [mem, index]
  · rw [entryOf_congr (congrArg (·.dir) sess), others i other]
    rfl

/-- R25, R507: the takeover of one shadow whose contents have not come. -/
theorem takeover_bare {c : Core} {sid : Nat} {sh : Shadow} (one : c.twin.shadows = [(sid, sh)]) (turn : sh.turn = none)
    (fin : sh.fin = none) (unpacked : sh.ix = none) (parked : sh.entry.state = .parked) (bare : sh.bare = true) :
    TakenOver c.twin (takeover c).twin ∧ (entryOf (takeover c) sid).state = .lost ∧ ∀ i, i ≠ sid → entryOf (takeover c) i = entryOf c i := by
  obtain ⟨twin, state, others⟩ := lostSession_leaves (c := pairEnded c) (sid := sid) (pairEnded_alone c sid) sh
  obtain ⟨sess, -, -⟩ := takeoverTold_leaves (lostSession (pairEnded c) sid sh) (b2n false)
  rw [takeover_one one turn fin, promote_bare unpacked parked bare]
  refine ⟨TakenOver.told ?_ _, ?_, fun i other => ?_⟩
  · rw [twin]
    exact pairEnded_takenOver c
  · rw [entryOf_congr (congrArg (·.dir) sess), state]
  · rw [entryOf_congr (congrArg (·.dir) sess), others i other]
    rfl

/-- R507: the takeover of a pair with no shadows. -/
theorem takeover_none {c : Core} (none : c.twin.shadows = []) : takeover c = takeoverTold (pairEnded c) 0 := by
  rw [takeover_eq, none]
  rfl

/-! ## Records and requests of the twin (R501, R504) -/

theorem exec_mirrorRecordApply {s : State} (up : alive s.core = true) (deep : s.core.power.deep = false)
    (linked : s.core.twin.state = 2 ∨ s.core.twin.state = 3) (r : MirrorRec) (env : Env) :
    exec (.mirrorRecordApply r env) s = .next (eventRun s env (applyRecord r)) := by
  have linked : (s.core.twin.state == 2 || s.core.twin.state == 3) = true := by simpa using linked
  show execMirrorRecordApply r env s = _
  simp [execMirrorRecordApply, up, linked, wakeBy_awake _ _ deep]

/-- R34, R501: the shadow of a session just opened. -/
def openedShadow (c : Core) (e : Entry) : Shadow := { entry := shadowEntry e, ctl := openedCtl c e, bare := 0 < e.nextPosition }

/-- R501: a session opened on the twin gets an empty shadow. -/
theorem applyRecord_opened {r : MirrorRec} {e : Entry} (body : r.body = .opened e none) (kept : e.state ≠ .lost) (run : Run0) :
    applyRecord r run = .ok ((), { run with core := setShadow (twinHas run.core r.session) r.session (openedShadow run.core e) }) := by
  unfold applyRecord
  rw [body]
  dsimp only
  rw [run_modC, applyOpened, if_neg kept]
  rfl

/-- R504: a request for a shadow's pages is answered with them. -/
theorem answerTwin_pages {run : Run0} {sid : Nat} {sh : Shadow} (shadow : mapGet run.core.twin.shadows sid = some sh) :
    ∃ t, answerTwin (.pages sid) run = .ok ((), t) ∧ t.core.sess = run.core.sess ∧ t.core.twin.shadows = run.core.twin.shadows ∧
      t.core.twin.answers = run.core.twin.answers ++ [(.pages sid, imageStream
        ({ entry := sh.entry, ctl := sh.ctl, mapCount := sh.mapCount, cols := sh.cols, cleared := sh.cleared } : Image))] := by
  have answer : twinAnswer (.pages sid) run = .ok (some (imageStream
      ({ entry := sh.entry, ctl := sh.ctl, mapCount := sh.mapCount, cols := sh.cols, cleared := sh.cleared } : Image)), run) := by
    unfold twinAnswer
    rw [run_bind_ok (run_getC run)]
    dsimp only
    rw [shadowOf, shadow]
    rfl
  unfold answerTwin
  rw [run_bind_ok answer]
  exact ⟨_, run_modC _ _, rfl, rfl, rfl⟩

/-- Settles O60 (R504 to R511), from what the takeover's parts leave. That a PARKED shadow with nothing kept becomes LOST is log entry 104. -/
theorem takeoverKeepsSessions : Obligations.TakeoverKeepsSessions := by
  unfold Obligations.TakeoverKeepsSessions
  intro s
  dsimp only
  refine ⟨fun env up deep state taking unpairing => ⟨fun linkUp => ?_, fun linkDown none => ?_⟩, fun up state taking unpairing => ?_,
    fun word env up seeking isWindow link opens tags short names holds => ?_, fun env up seeking none => ?_,
    fun up taking => ⟨fun none => ?_, fun sid sh one lent turn fin => ⟨fun ix packed barn parked fits => ?_, fun unpacked parked bare => ?_⟩⟩,
    fun up noHold broken kept => ?_, fun sid env up leased unindexed => ?_, fun r e env up deep linked body kept => ?_,
    fun sid sh env up linkUp state shadow => ?_⟩
  · rw [exec_heartbeatSilence up deep state taking unpairing, if_pos linkUp]
    rfl
  · obtain ⟨twin, sess, rings⟩ := startTakeover_leaves (modTwin s.core fun t => { t with silent := true, seeking := true })
    refine ⟨_, by rw [exec_heartbeatSilence up deep state taking unpairing, linkDown, if_neg (by decide), seekWitness,
      eventRun_tryWitness_none (by exact none)], ?_⟩
    refine ⟨congrArg (·.taking) twin, sess, congrArg (·.shadows) twin, rings.trans ?_⟩
    exact issueEvent_rings_congr (by rfl) (by rfl) ..
  · obtain ⟨twin, sess, rings⟩ := startTakeover_leaves s.core
    refine ⟨{ s with core := startTakeover s.core }, ?_, congrArg (·.taking) twin, sess, congrArg (·.shadows) twin, rings⟩
    show execGiveUpReceived s = _
    simp [execGiveUpReceived, onCore, up, paired, state, taking, unpairing]
  · have isWindow : witnessWindow s.core ≠ 0 := isWindow
    have stream : streamAt s.core (witnessWindow s.core) (winAddr s.core (witnessWindow s.core) (witnessOff s.core)) = witnessWindow s.core :=
      if_neg isWindow
    rw [stream] at opens
    have lost := tryWitness_lost (r := runOf s s.core (.data (natLe 16 word) :: env ++ noAnswers)) rfl rfl isWindow opens link tags rfl short names holds
    have goes : (alive s.core && s.core.twin.seeking) = true := by simp [up, seeking]
    refine ⟨_, by show execWitnessSwap _ s = _; rw [execWitnessSwap, if_pos goes, eventRun_ok (by exact lost)], ?_⟩
    obtain ⟨state, held, sess⟩ := loseWitness_leaves (windowOutcome s.core (witnessWindow s.core) false false)
    obtain ⟨mem, counted⟩ := Reads.windowOutcome s.core (witnessWindow s.core) false false
    exact ⟨state, held, sess.trans (by rw [counted])⟩
  · have goes : (alive s.core && s.core.twin.seeking) = true := by simp [up, seeking]
    obtain ⟨twin, sess, rings⟩ := startTakeover_leaves s.core
    refine ⟨_, by show execWitnessSwap env s = _; rw [execWitnessSwap, if_pos goes, eventRun_tryWitness_none (by exact none)], ?_⟩
    exact ⟨⟨congrArg (·.taking) twin, sess, congrArg (·.shadows) twin, rings⟩, congrArg (·.seeking) twin⟩
  · obtain ⟨sess, mem, -⟩ := takeoverTold_leaves (pairEnded s.core) 0
    have ended := (pairEnded_takenOver s.core).told 0
    have goes := exec_takeover up taking
    rw [takeover_none none] at goes
    refine ⟨_, goes, ended, congrArg (·.dir) sess, ?_, ?_⟩
    · exact (congrArg (fun m : Mem => m.free.get false) mem).trans (pairEnded_free s.core false)
    · exact (congrArg (fun m : Mem => m.free.get true) mem).trans (pairEnded_free s.core true)
  · obtain ⟨ended, state, index, others⟩ := takeover_packed one turn fin packed barn parked fits
    exact ⟨_, exec_takeover up taking, ended, state, index, others⟩
  · obtain ⟨ended, state, others⟩ := takeover_bare one turn fin unpacked parked bare
    exact ⟨_, exec_takeover up taking, ended, state, others⟩
  · have held : heldCount s.core ≠ 0 := by simp [heldCount, kept]
    have begins : ringHold s.core =
        twinEvent { s.core with twin := { s.core.twin with ringHold := true } } 7 (heldCount s.core) := by
      simp [ringHold, noHold, broken, held]
    refine ⟨{ s with core := ringHold s.core }, whenReady_ready up ringHold, ?_⟩
    simp only [begins, twinEvent, issueEvent_twin, issueEvent_sess, and_self]
  · obtain ⟨owner, owned⟩ := Option.isSome_iff_exists.mp leased
    have runs : takeoverLease sid { runOf s s.core (env ++ noAnswers) with sid := sid } =
        .ok ((), { runOf s s.core (env ++ noAnswers) with sid := sid, core := leaseTaken s.core sid }) := by
      unfold takeoverLease
      rw [run_bind_ok (run_getC _)]
      dsimp only [runOf]
      rw [owned, unindexed]
      rfl
    have goes : ¬ (!serving s.core || !mapHas s.core.twin.leases sid) = true := by simp [up, leased]
    refine ⟨_, by show execTakeoverLeaseSwap sid env s = _; rw [execTakeoverLeaseSwap, if_neg goes, runs], ?_⟩
    exact ⟨by simp [leaseTaken, mapHas], rfl, rfl⟩
  · refine ⟨_, openedShadow s.core e, by rw [exec_mirrorRecordApply up deep linked, eventRun_ok (applyRecord_opened body kept _)], ?_⟩
    exact ⟨mapGet_set_same .., rfl, rfl, rfl, rfl, rfl⟩
  · obtain ⟨t, runs, sess, shadows, answers⟩ := answerTwin_pages (run := runOf s s.core (env ++ noAnswers)) shadow
    have goes : (ready s.core && s.core.twin.linkUp && paired s.core) = true := by simp [up, linkUp, paired, state]
    refine ⟨_, by show execTwinRequest _ env s = _; rw [execTwinRequest, if_pos goes, eventRun_ok runs], ?_⟩
    exact ⟨sess, shadows, answers⟩

end Sys2Proof.Machine

/-! PROOFS of the statement about indexes and tables as objects (15_retrieval R428, R429, R431, R438, R440). -/

namespace Sys2Proof.Machine

/-! ## Hot copies give way to objects (R176) -/

/-- A sum over the numbers below `n` when one of its terms changes. -/
theorem foldl_add_changed {f g : Nat → Nat} {i : Nat} (same : ∀ k, k ≠ i → g k = f k) (n : Nat) :
    (List.range n).foldl (fun a k => a + g k) 0 + (if i < n then f i else 0) =
      (List.range n).foldl (fun a k => a + f k) 0 + (if i < n then g i else 0) := by
  induction n with
  | zero => rfl
  | succ n ih =>
    simp only [List.range_succ, List.foldl_append, List.foldl_cons, List.foldl_nil]
    by_cases last : n = i
    · subst last
      simp only [Nat.lt_irrefl, if_false, Nat.add_zero] at ih
      simp only [Nat.lt_succ_self, if_true]
      omega
    · have term := same n last
      have below : i < n + 1 ↔ i < n := by omega
      simp only [below]
      omega

/-- R176: hot copies of a slot on a die. -/
def hotOf (c : Core) (die : Bool) (slot : Nat) : Nat := (mapGet c.mem.hot (2 * slot + b2n die)).getD 0

/-- R176: hot copies after those of one slot are set. -/
theorem hotOn_setHot (c : Core) (die : Bool) {slot : Nat} (inTable : slot < 16) (n : Nat) :
    hotOn (setHot c die slot n) die + hotOf c die slot = hotOn c die + n := by
  have sums := foldl_add_changed (f := hotOf c die) (g := hotOf (setHot c die slot n) die) (i := slot)
    (fun k other => by rw [hotOf, hot_setHot, if_neg other]; rfl) 16
  rw [if_pos inTable, if_pos inTable, show hotOf (setHot c die slot n) die slot = n by rw [hotOf, hot_setHot, if_pos rfl]] at sums
  exact sums

/-- R176: one slot's hot copies give way as far as they must. -/
def trimSlot (die : Bool) (c : Core) (slot : Nat) : Core :=
  if hotOn c die - c.mem.loftFree.get die = 0 ∨ hotOf c die slot = 0 then c
  else setHot c die slot (hotOf c die slot - min (hotOn c die - c.mem.loftFree.get die) (hotOf c die slot))

theorem trimHot_eq (c : Core) (die : Bool) : trimHot c die = (List.range 16).reverse.foldl (trimSlot die) c := by
  unfold trimHot
  congr 1
  funext c slot
  simp only [trimSlot, hotOf, Bool.or_eq_true, decide_eq_true_eq]
  rfl

theorem trimSlot_loftFree (die : Bool) (c : Core) (slot : Nat) : (trimSlot die c slot).mem.loftFree = c.mem.loftFree := by
  unfold trimSlot
  split <;> rfl

/-- R176: hot copies fit, or every slot but those still to come has none. -/
def Trimmed (die : Bool) (todo : List Nat) (c : Core) : Prop :=
  hotOn c die ≤ c.mem.loftFree.get die ∨ ∀ k < 16, k ∉ todo → hotOf c die k = 0

theorem Trimmed.step {die : Bool} {slot : Nat} {todo : List Nat} {c : Core} (inTable : slot < 16) (h : Trimmed die (slot :: todo) c) :
    Trimmed die todo (trimSlot die c slot) := by
  by_cases fits : hotOn c die ≤ c.mem.loftFree.get die
  · have still : trimSlot die c slot = c := if_pos (.inl (by omega))
    rw [still]
    exact .inl fits
  have others := h.resolve_left fits
  by_cases none : hotOf c die slot = 0
  · have still : trimSlot die c slot = c := if_pos (.inr none)
    rw [still]
    refine .inr fun k hk away => ?_
    by_cases same : k = slot
    · rw [same, none]
    · exact others k hk (by simp [same, away])
  have sum := hotOn_setHot c die inTable (hotOf c die slot - min (hotOn c die - c.mem.loftFree.get die) (hotOf c die slot))
  have trims : trimSlot die c slot = _ := if_neg (by omega)
  rw [trims]
  by_cases enough : hotOn c die - c.mem.loftFree.get die ≤ hotOf c die slot
  · refine .inl ?_
    show _ ≤ c.mem.loftFree.get die
    omega
  · refine .inr fun k hk away => ?_
    rw [hotOf, hot_setHot]
    split
    · omega
    · next other => exact others k hk (by simp [other, away])

/-- R176: after a trim the hot copies of a die fit into its free object space. -/
theorem trimHot_fits (c : Core) (die : Bool) : hotOn (trimHot c die) die ≤ (trimHot c die).mem.loftFree.get die := by
  have run : ∀ (todo : List Nat) (c : Core), (∀ k ∈ todo, k < 16) → Trimmed die todo c → Trimmed die [] (todo.foldl (trimSlot die) c) := by
    intro todo
    induction todo with
    | nil => exact fun c _ h => h
    | cons slot todo ih =>
      exact fun c small h => ih _ (fun k hk => small k (.tail _ hk)) (h.step (small slot (.head _)))
  have trimmed := run (List.range 16).reverse c (by simp) (.inr fun k hk away => absurd (by simpa using hk) away)
  rw [trimHot_eq]
  refine trimmed.elim id fun none => ?_
  have empty : hotOn ((List.range 16).reverse.foldl (trimSlot die) c) die = 0 := by
    refine (List.foldl_ext _ (fun n _ => n) 0 fun n k hk => ?_).trans (List.foldl_fixed ..)
    exact congrArg (n + ·) (none k (List.mem_range.mp hk) List.not_mem_nil)
  omega

/-- R176: object space taken of a die's loft leaves its hot copies room, unless a step keeps them. -/
theorem takeLoft_fits {c : Core} {die : Bool} {n : Nat} (room : stepRuns c die = true → hotOn c die + n ≤ c.mem.loftFree.get die) :
    hotOn (takeLoft c die n) die ≤ (takeLoft c die n).mem.loftFree.get die := by
  simp only [takeLoft]
  split
  case isTrue runs =>
    have := room runs
    show hotOn c die ≤ (c.mem.loftFree.mod die fun f => f - n).get die
    rw [get_mod]
    omega
  case isFalse => exact trimHot_fits _ die

/-! ## Indexes (R428, R429) -/

theorem exec_indexCreate (d : Desc) (env : Env) (s : State) : exec (.indexCreate d env) s = .next (acceptSeq s d env (indexCreateBody d)) := rfl
theorem exec_indexDestroy (d : Desc) (s : State) : exec (.indexDestroy d) s = .next (acceptSeq s d [] (indexDestroyBody d)) := rfl
theorem exec_tableLoad (d : Desc) (env : Env) (s : State) : exec (.tableLoad d env) s = .next (acceptSeq s d env (tableLoadBody d)) := rfl
theorem exec_tableUnload (d : Desc) (s : State) : exec (.tableUnload d) s = .next (acceptSeq s d [] (tableUnloadBody d)) := rfl

/-- R440: no descriptor waits and no job is under way. -/
structure Quiet (c : Core) : Prop where
  waiting : c.sess.waiting = []
  jobs : c.obj.jobs = []

namespace Quiet
variable {c : Core} (h : Quiet c) (d : Desc)
include h

theorem beingDestroyed : beingDestroyed c d = false := by simp [Machine.beingDestroyed, h.waiting]
theorem objectBusy : objectBusy c d = false := by simp [Machine.objectBusy, h.waiting, h.jobs]
theorem inFlight (op : Nat) : inFlight c d op = [] := by simp [Machine.inFlight, h.waiting]
end Quiet

/-- R440: nothing destroys the object that a descriptor names. -/
theorem run_checkAlive {d : Desc} {r : Run0} (waiting : r.core.sess.waiting = []) : checkAlive d r = .ok ((), r) := by
  unfold checkAlive
  rw [run_bind_ok (run_get r)]
  exact run_check_passes (by simp [beingDestroyed, waiting]) _ _

theorem run_indexOf {d : Desc} {x : Index} {r : Run0} (waiting : r.core.sess.waiting = []) (named : mapGet r.core.obj.indexes (indexIdOf d) = some x) :
    indexOf d r = .ok (x, r) := by
  unfold indexOf indexNamed
  rw [run_bind_ok (run_checkAlive waiting), run_bind_ok (run_getC r), named]
  rfl

theorem run_tableOf {d : Desc} {x : Table} {r : Run0} (waiting : r.core.sess.waiting = []) (named : mapGet r.core.obj.tables (tableIdOf d) = some x) :
    tableOf d r = .ok (x, r) := by
  unfold tableOf tableNamed
  rw [run_bind_ok (run_checkAlive waiting), run_bind_ok (run_getC r), named]
  rfl

/-- R429: an index that nothing uses returns its frames and goes. -/
theorem run_indexDestroyBody {d : Desc} {x : Index} {r : Run0} (h0 : d.session = 0) (quiet : Quiet r.core)
    (named : mapGet r.core.obj.indexes (indexIdOf d) = some x) :
    let c := giveLoft (giveFree (dropListFrames r.core x) x.die x.fixed) x.die x.loft
    indexDestroyBody d r = .ok (.done .ok x.frames 0, { r with
      core := { c with obj := { c.obj with indexes := mapDel c.obj.indexes (indexIdOf d) } } }) := by
  unfold indexDestroyBody
  rw [run_bind_ok (run_check_passes (by simp [h0]) _ _), run_bind_ok (run_indexOf quiet.waiting named), run_bind_ok (run_getC r),
    quiet.objectBusy d]
  rfl

/-- R438: a table that nothing uses returns its frames and goes. -/
theorem run_tableUnloadBody {d : Desc} {x : Table} {r : Run0} (h0 : d.session = 0) (quiet : Quiet r.core)
    (named : mapGet r.core.obj.tables (tableIdOf d) = some x) :
    let c := freePlaces r.core x.die x.place
    tableUnloadBody d r = .ok (.done .ok x.frames 0, { r with
      core := { c with obj := { c.obj with tables := mapDel c.obj.tables (tableIdOf d) } } }) := by
  unfold tableUnloadBody
  rw [run_bind_ok (run_check_passes (by simp [h0]) _ _), run_bind_ok (run_tableOf quiet.waiting named), run_bind_ok (run_getC r),
    quiet.objectBusy d]
  rfl

/-- The index that INDEX_CREATE makes of the centroids it reads (R428). -/
def createdIndex (c : Core) (d : Desc) (need : Nat × Nat) (bs : List Byte) : Index :=
  { die := d.field 3 27 27 0 == 1, metric := d.field 3 22 21 0, format := d.field 3 26 23 0, dim := d.field 3 20 8 0, capacity := d.field 4 28 0 0
    centroids := ((List.range (d.field 3 44 28 0)).map fun i =>
      converted (d.field 3 22 21 0) (d.field 3 26 23 0) (f32s bs (4 * d.field 3 20 8 0 * i) (d.field 3 20 8 0))).map (·.getD [])
    fixed := need.1, loft := need.2
    run := if need.2 = 0 then {} else
      { first := c.mem.loftNext.get (d.field 3 27 27 0 == 1), frames := need.2, slices := sliceList c (d.field 3 27 27 0 == 1) } }

/-- R428: the frames that INDEX_CREATE takes. -/
def createNeeds (d : Desc) : Nat × Nat :=
  indexNeeds (d.field 3 44 28 0) (d.field 3 20 8 0) (d.field 3 26 23 0) (d.field 3 22 21 0) (d.field 4 28 0 0)

/-- R428: the die of an INDEX_CREATE. -/
def createDie (d : Desc) : Bool := d.field 3 27 27 0 == 1

/-- R428: the frames of an index are taken. -/
def createTakes (d : Desc) (c : Core) : Core := takeLoft (takeFree c (createDie d) (createNeeds d).1) (createDie d) (createNeeds d).2

/-- R428: what INDEX_CREATE takes is counted in memory alone. -/
theorem createTakes_frame (d : Desc) (c : Core) :
    createTakes d c = { c with mem := (createTakes d c).mem } ∧ (createTakes d c).mem.windows = c.mem.windows := by
  obtain ⟨loftFree, hot, lofted⟩ := takeLoft_turns (takeFree c (createDie d) (createNeeds d).1) (createDie d) (createNeeds d).2
  obtain ⟨free, pairFree, pairBulk, counts⟩ := takeFree_counts c (createDie d) (createNeeds d).1
  rw [createTakes, lofted, counts]
  exact ⟨rfl, rfl⟩

/-- R176: what INDEX_CREATE takes leaves the hot copies room, unless a step keeps them. -/
theorem createTakes_fits {d : Desc} {c : Core}
    (cool : stepRuns c (createDie d) = true → hotOn c (createDie d) + (createNeeds d).2 ≤ c.mem.loftFree.get (createDie d)) :
    hotOn (createTakes d c) (createDie d) ≤ (createTakes d c).mem.loftFree.get (createDie d) := by
  refine takeLoft_fits ?_
  obtain ⟨free, pairFree, pairBulk, counts⟩ := takeFree_counts c (createDie d) (createNeeds d).1
  rw [counts]
  exact cool

/-- R428: fields of an INDEX_CREATE in range. -/
structure CreateSound (d : Desc) : Prop where
  session : d.session = 0
  create : bit d.flags 0 = false
  aligned : d.field 2 63 0 0 % 4 = 0
  dim : 1 ≤ d.field 3 20 8 0 ∧ d.field 3 20 8 0 ≤ 4096
  cents : 1 ≤ d.field 3 44 28 0 ∧ d.field 3 44 28 0 ≤ 65536
  capacity : 1 ≤ d.field 4 28 0 0 ∧ d.field 4 28 0 0 ≤ 268435456
  metric : d.field 3 22 21 0 ≠ 3
  format : d.field 3 26 23 0 = 6 ∨ d.field 3 26 23 0 = 8

/-- R428: the checks of the fields pass. -/
theorem CreateSound.fields {d : Desc} (h : CreateSound d) :
    (d.session != 0 || d.field 3 20 8 0 == 0 || decide (4096 < d.field 3 20 8 0) || d.field 3 44 28 0 == 0 || decide (65536 < d.field 3 44 28 0) ||
      d.field 4 28 0 0 == 0 || decide (268435456 < d.field 4 28 0 0) || d.field 3 22 21 0 == 3 ||
      (d.field 3 26 23 0 != 6 && d.field 3 26 23 0 != 8) || d.field 2 63 0 0 % 4 != 0) = false := by
  obtain ⟨dim, dimMax⟩ := h.dim
  obtain ⟨cents, centsMax⟩ := h.cents
  obtain ⟨cap, capMax⟩ := h.capacity
  have format : (d.field 3 26 23 0 != 6 && d.field 3 26 23 0 != 8) = false := by
    rcases h.format with f | f <;> rw [f] <;> rfl
  simp only [format, h.session, h.aligned, Bool.or_eq_false_iff, decide_eq_false_iff_not, beq_eq_false_iff_ne, bne_self_eq_false, and_true, true_and]
  exact ⟨⟨⟨⟨⟨⟨by omega, by omega⟩, by omega⟩, by omega⟩, by omega⟩, by omega⟩, h.metric⟩

/-- R428: an INDEX_CREATE that fits takes its frames and makes the index of the centroids that it reads. -/
theorem run_indexCreateBody {d : Desc} {bs : List Byte} {r : Run0} (sound : CreateSound d) (host : ReadsHost r) (fresh : r.past = [])
    {env : Env} (answered : r.env = .data bs :: env) (waiting : r.core.sess.waiting = [])
    (unused : mapGet r.core.obj.indexes (indexIdOf d) = none) (stack : fitsStack r.core (createDie d) (createNeeds d).1 = true)
    (loft : fitsLoft r.core (createDie d) (createNeeds d).2 = true)
    (cool : stepRuns r.core (createDie d) = true → hotOn r.core (createDie d) + (createNeeds d).2 ≤ r.core.mem.loftFree.get (createDie d))
    (convert : ((List.range (d.field 3 44 28 0)).map fun i => converted (d.field 3 22 21 0) (d.field 3 26 23 0)
      (f32s (bytesAt bs 0 (4 * d.field 3 44 28 0 * d.field 3 20 8 0)) (4 * d.field 3 20 8 0 * i) (d.field 3 20 8 0))).any (·.isNone) = false) :
    ∃ t, indexCreateBody d r = .ok (.done .ok (createNeeds d).1 (createNeeds d).2, t) ∧ t.ext = r.ext ∧
      t.core = setIndexObj (createTakes d r.core) (indexIdOf d)
        (createdIndex r.core d (createNeeds d) (bytesAt bs 0 (4 * d.field 3 44 28 0 * d.field 3 20 8 0))) := by
  have free : (mapHas r.core.obj.indexes (indexIdOf d) ||
      (inFlight r.core d 0x60).any fun w => !destroys w.desc && indexIdOf w.desc == indexIdOf d) = false := by
    simp [mapHas, unused, inFlight, waiting]
  have fits : (!fitsStack r.core (createDie d) (createNeeds d).1 || !fitsLoft r.core (createDie d) (createNeeds d).2) = false := by
    simp [stack, loft]
  obtain ⟨frame, windows⟩ := createTakes_frame d r.core
  let taken : Run0 := { r with core := createTakes d r.core, base := createTakes d r.base, memo := r.memo ++ [r.core.mem.loftNext.get (createDie d)] }
  let created := setIndexObj (createTakes d r.core) (indexIdOf d)
    (createdIndex r.core d (createNeeds d) (bytesAt bs 0 (4 * d.field 3 44 28 0 * d.field 3 20 8 0)))
  have reads : ReadsHost taken := host.of_mem rfl rfl frame windows
  unfold indexCreateBody
  rw [if_neg (by simp [sound.create])]
  dsimp only
  rw [show indexNeeds (d.field 3 44 28 0) (d.field 3 20 8 0) (d.field 3 26 23 0) (d.field 3 22 21 0) (d.field 4 28 0 0) = createNeeds d from rfl,
    show (d.field 3 27 27 0 == 1) = createDie d from rfl, run_bind_ok (run_check_passes sound.fields _ _), run_bind_ok (run_getC r),
    run_bind_ok (run_check_passes free _ _), run_bind_ok (run_checkFresh_passes fits _ _), run_bind_ok (run_once_new _ _ fresh)]
  refine ⟨{ taken with env := env, core := created }, orUndo_ok _ _ _ _ ?_, rfl, rfl⟩
  change (waitHot (createDie d) >>= _) taken = _
  rw [run_bind_ok (run_waitHot (r := taken) (createTakes_fits cool)), run_bind_ok (reads.run_readBus answered _ _),
    run_bind_ok (run_check_passes convert _ _), run_bind_ok (run_modC _ _)]
  rfl

/-! ## Tables (R431, R438) -/

/-- R431: pages that are mapped, writable and outbound may hold a bound table. -/
theorem run_boundPages {die : Bool} {p : Nat} {r : Run0} (waiting : r.core.sess.waiting = []) (high : hostHalf / 65536 ≤ p) : ∀ n,
    (∀ i, i < n → ∃ h, xFind (r.core.mem.xmap.get die) (p + i) = some h ∧ h.2.kind = 0 ∧ h.2.write = true) →
    boundPages die p n r = .ok (true, r) := by
  intro n
  induction n with
  | zero => exact fun _ => rfl
  | succ n ih =>
    intro mapped
    obtain ⟨h, found, outbound, write⟩ := mapped n (Nat.lt_succ_self n)
    have page : xPage die (p + n) r = .ok (some h, r) := by
      have outside : ¬ p + n < hostHalf / 65536 := by omega
      unfold xPage
      rw [run_bind_ok (run_get r), if_neg outside, found]
      simp [unmapping, waiting]
    rw [boundPages, run_bind_ok page]
    simp only [outbound, write]
    exact ih fun i hi => mapped i (by omega)

/-- R438: fields of a TABLE_LOAD in range. -/
structure LoadSound (d : Desc) : Prop where
  session : d.session = 0
  load : bit d.flags 0 = false
  aligned : d.field 2 63 0 0 % 65536 = 0
  rows : 1 ≤ d.field 3 32 0 0 ∧ d.field 3 32 0 0 ≤ 2 ^ 32
  width : 32 ≤ d.field 4 13 0 0 ∧ d.field 4 13 0 0 ≤ 8192
  whole : d.field 4 13 0 0 % 32 = 0
  format : d.field 4 17 14 0 = 6 ∨ d.field 4 17 14 0 = 8 ∨ d.field 4 17 14 0 = 9

/-- R438: the checks of the fields pass. -/
theorem LoadSound.fields {d : Desc} (h : LoadSound d) :
    (d.session != 0 || d.field 3 32 0 0 == 0 || decide (2 ^ 32 < d.field 3 32 0 0) || decide (d.field 4 13 0 0 < 32) ||
      decide (8192 < d.field 4 13 0 0) || d.field 4 13 0 0 % 32 != 0 ||
      (d.field 4 17 14 0 != 6 && d.field 4 17 14 0 != 8 && d.field 4 17 14 0 != 9) || d.field 2 63 0 0 % 65536 != 0) = false := by
  obtain ⟨rows, rowsMax⟩ := h.rows
  obtain ⟨width, widthMax⟩ := h.width
  have format : (d.field 4 17 14 0 != 6 && d.field 4 17 14 0 != 8 && d.field 4 17 14 0 != 9) = false := by
    rcases h.format with f | f | f <;> rw [f] <;> rfl
  simp only [format, h.session, h.aligned, h.whole, Bool.or_eq_false_iff, decide_eq_false_iff_not, beq_eq_false_iff_ne, bne_self_eq_false,
    and_true, true_and]
  exact ⟨⟨⟨by omega, by omega⟩, by omega⟩, by omega⟩

/-- R438: the die of a TABLE_LOAD, and the pages of its rows. -/
def loadDie (d : Desc) : Bool := d.field 4 18 18 0 == 1
def loadPages (d : Desc) : Nat := cdiv (d.field 3 32 0 0) (rowsPerFrame (d.field 4 13 0 0))

/-- R437, R438: the frames of the accumulators. -/
def loadExtra (d : Desc) : Nat := if bit d.flags 2 then framesOf (4 * d.field 3 32 0 0) else 0

/-- R438, R211: the table of `n` frames of the bytes read: its frames are placed in pairs. -/
def tableLoaded (d : Desc) (bound : Bool) (n : Nat) (bs : List Byte) (c : Core) : Core :=
  let p := takePlaces (giveFree c (loadDie d) n) (loadDie d) n
  setTable p.2 (tableIdOf d)
    { die := loadDie d, format := d.field 4 17 14 0, width := d.field 4 13 0 0, rows := d.field 3 32 0 0, bound := bound
      adaptive := bit d.flags 2, va := if bound then d.field 2 63 0 0 else 0, frames := n, place := p.1, bytes := cellsWrite [] 0 bs }

/-- R438: what a TABLE_LOAD does once its fields are checked. -/
def tableLoadRest (d : Desc) (bound : Bool) (c : Core) (n : Nat) : M Done := do
  checkFresh (n != 0 && !fitsStack c (loadDie d) n) .noSpace
  let _ ← once fun c => (0, takeFree c (loadDie d) n)
  orUndo (fun c => giveFree c (loadDie d) n) do
    let bs ← if bound then pure [] else readBus 0 (d.field 2 63 0 0) (d.field 3 32 0 0 * d.field 4 13 0 0)
    modC (tableLoaded d bound n bs)
    return .done .ok n 0

/-- R438: the frames fit, or there are none. -/
theorem loadNeeds_fit {d : Desc} {c : Core} {n : Nat} (stack : n ≠ 0 → fitsStack c (loadDie d) n = true) :
    (n != 0 && !fitsStack c (loadDie d) n) = false := by
  by_cases none : n = 0
  · simp [none]
  · simp [stack none]

/-- R438: the frames are taken, the rows read, and the table made. -/
theorem run_tableLoadRest_reads {d : Desc} {n : Nat} {bs : List Byte} {r : Run0} {env : Env} (fresh : r.past = []) (host : ReadsHost r)
    (answered : r.env = .data bs :: env) (stack : n ≠ 0 → fitsStack r.core (loadDie d) n = true) :
    ∃ t, tableLoadRest d false r.core n r = .ok (.done .ok n 0, t) ∧ t.ext = r.ext ∧
      t.core = tableLoaded d false n (bytesAt bs 0 (d.field 3 32 0 0 * d.field 4 13 0 0)) (takeFree r.core (loadDie d) n) := by
  obtain ⟨free, pairFree, pairBulk, counts⟩ := takeFree_counts r.core (loadDie d) n
  let taken : Run0 := { r with core := takeFree r.core (loadDie d) n, base := takeFree r.base (loadDie d) n, memo := r.memo ++ [0] }
  have reads : ReadsHost taken := host.of_mem rfl rfl (takeFree_frame ..) (congrArg (·.mem.windows) counts)
  unfold tableLoadRest
  rw [run_bind_ok (run_checkFresh_passes (loadNeeds_fit stack) _ _), run_bind_ok (run_once_new _ _ fresh)]
  refine ⟨{ taken with env := env, core := tableLoaded d false n (bytesAt bs 0 (d.field 3 32 0 0 * d.field 4 13 0 0)) taken.core },
    orUndo_ok _ _ _ _ ?_, rfl, rfl⟩
  change (readBus 0 (d.field 2 63 0 0) (d.field 3 32 0 0 * d.field 4 13 0 0) >>= _) taken = _
  rw [run_bind_ok (reads.run_readBus answered _ _)]
  rfl

/-- R438: the frames of the accumulators are taken, and the table made over its pages. -/
theorem run_tableLoadRest_binds {d : Desc} {n : Nat} {r : Run0} (fresh : r.past = []) (stack : n ≠ 0 → fitsStack r.core (loadDie d) n = true) :
    ∃ t, tableLoadRest d true r.core n r = .ok (.done .ok n 0, t) ∧ t.ext = r.ext ∧
      t.core = tableLoaded d true n [] (takeFree r.core (loadDie d) n) := by
  unfold tableLoadRest
  rw [run_bind_ok (run_checkFresh_passes (loadNeeds_fit stack) _ _), run_bind_ok (run_once_new _ _ fresh)]
  exact ⟨_, orUndo_ok _ _ _ _ rfl, rfl, rfl⟩

/-- R439: no table has the id, and none is being loaded under it. -/
theorem tableId_free {c : Core} {d : Desc} (waiting : c.sess.waiting = []) (unused : mapGet c.obj.tables (tableIdOf d) = none) :
    (mapHas c.obj.tables (tableIdOf d) || (inFlight c d 0x68).any fun x => !destroys x.desc && tableIdOf x.desc == tableIdOf d) = false := by
  simp [mapHas, unused, inFlight, waiting]

section
variable {d : Desc} {r : Run0} (sound : LoadSound d) (fresh : r.past = []) (waiting : r.core.sess.waiting = [])
  (unused : mapGet r.core.obj.tables (tableIdOf d) = none)
include sound fresh waiting unused

/-- R207, R438: a table of rows that it reads takes its frames. -/
theorem run_tableLoadBody_loads {bs : List Byte} {env : Env} (loaded : bit d.flags 1 = false) (host : ReadsHost r)
    (answered : r.env = .data bs :: env) (stack : fitsStack r.core (loadDie d) (loadPages d + loadExtra d) = true) :
    ∃ t, tableLoadBody d r = .ok (.done .ok (loadPages d + loadExtra d) 0, t) ∧ t.ext = r.ext ∧
      t.core = tableLoaded d false (loadPages d + loadExtra d) (bytesAt bs 0 (d.field 3 32 0 0 * d.field 4 13 0 0))
        (takeFree r.core (loadDie d) (loadPages d + loadExtra d)) := by
  unfold tableLoadBody
  rw [if_neg (by simp [sound.load])]
  dsimp only
  rw [run_bind_ok (run_check_passes sound.fields _ _), run_bind_ok (run_getC r),
    run_bind_ok (run_check_passes (tableId_free waiting unused) _ _), loaded]
  exact run_tableLoadRest_reads fresh host answered fun _ => stack

/-- R431, R438: a table bound to its pages takes its accumulators' frames alone. -/
theorem run_tableLoadBody_binds (bound : bit d.flags 1 = true) (low : hostHalf ≤ d.field 2 63 0 0)
    (high : d.field 2 63 0 0 + 65536 * loadPages d ≤ globalEnd)
    (mapped : ∀ i, i < loadPages d → ∃ h, xFind (r.core.mem.xmap.get (loadDie d)) (d.field 2 63 0 0 / 65536 + i) = some h ∧
      h.2.kind = 0 ∧ h.2.write = true)
    (stack : loadExtra d ≠ 0 → fitsStack r.core (loadDie d) (loadExtra d) = true) :
    ∃ t, tableLoadBody d r = .ok (.done .ok (loadExtra d) 0, t) ∧ t.ext = r.ext ∧
      t.core = tableLoaded d true (loadExtra d) [] (takeFree r.core (loadDie d) (loadExtra d)) := by
  have inRange : (decide (d.field 2 63 0 0 < hostHalf) || decide (globalEnd < d.field 2 63 0 0 + 65536 * loadPages d)) = false := by
    simp [low, high]
  have pages := run_boundPages (die := loadDie d) (p := d.field 2 63 0 0 / 65536) waiting (Nat.div_le_div_right low) (loadPages d) mapped
  obtain ⟨t, runs, ext, core⟩ := run_tableLoadRest_binds (n := loadExtra d) fresh stack
  unfold tableLoadBody
  rw [if_neg (by simp [sound.load])]
  dsimp only
  rw [run_bind_ok (run_check_passes sound.fields _ _), run_bind_ok (run_getC r),
    run_bind_ok (run_check_passes (tableId_free waiting unused) _ _), bound, if_pos rfl,
    run_bind_ok (run_check_passes (by exact inRange) _ _), run_bind_ok (by exact pages), run_bind_ok (run_check_passes (by rfl) _ _), if_pos rfl, Nat.zero_add]
  exact ⟨t, runs, ext, core⟩
end

theorem begunSeqRun_quiet {s : State} (waiting : s.core.sess.waiting = []) (jobs : s.core.obj.jobs = []) (d : Desc) (env : Env) :
    Quiet (begunSeqRun s d env).core := ⟨waiting, jobs⟩

/-- Settles O29 (R428, R429, R431, R438, R440): the bodies run to their ends on a descriptor that begins at once. That a bound table without
accumulators makes no fit test is log entry 171. -/
theorem indexAndTableObjects : Obligations.IndexAndTableObjects := by
  unfold Obligations.IndexAndTableObjects
  intro d bs s free h0 waiting jobs
  dsimp only
  refine ⟨fun create answers noWindow aligned opcode dim dimMax cents centsMax cap capMax metric format unused stack loft cool convert => ?_,
    fun x named => ?_, fun load aligned rows rowsMax width widthMax whole format unused =>
      ⟨fun loaded answers noWindow stack => ?_, fun bound low high mapped stack => ?_⟩, fun x named => ?_⟩
  · have sound : CreateSound d := ⟨h0, create, aligned, ⟨dim, dimMax⟩, ⟨cents, centsMax⟩, ⟨cap, capMax⟩, metric, format⟩
    have id : indexIdOf d = d.field 3 7 0 0 := by simp only [indexIdOf, opcode]
    obtain ⟨t, runs, ext, core⟩ := run_indexCreateBody (r := begunSeqRun s d [.data bs]) sound (begunSeqRun_reads answers noWindow d _) rfl rfl waiting
      (by rw [id]; exact unused) stack loft cool convert
    rw [exec_indexCreate, acceptSeq_done free ext h0 runs, core, id]
    rfl
  · rw [exec_indexDestroy, acceptSeq_done free (by rfl) h0 (run_indexDestroyBody h0 (begunSeqRun_quiet waiting jobs d []) named)]
    rfl
  · have sound : LoadSound d := ⟨h0, load, aligned, ⟨rows, rowsMax⟩, ⟨width, widthMax⟩, whole, format⟩
    obtain ⟨t, runs, ext, core⟩ := run_tableLoadBody_loads (r := begunSeqRun s d [.data bs]) sound rfl waiting unused loaded
      (begunSeqRun_reads answers noWindow d _) rfl stack
    rw [exec_tableLoad, acceptSeq_done free ext h0 runs, core]
    rfl
  · have sound : LoadSound d := ⟨h0, load, aligned, ⟨rows, rowsMax⟩, ⟨width, widthMax⟩, whole, format⟩
    obtain ⟨t, runs, ext, core⟩ := run_tableLoadBody_binds (r := begunSeqRun s d []) sound rfl waiting unused bound low high mapped stack
    rw [exec_tableLoad, acceptSeq_done free ext h0 runs, core]
    rfl
  · rw [exec_tableUnload, acceptSeq_done free (by rfl) h0 (run_tableUnloadBody h0 (begunSeqRun_quiet waiting jobs d []) named)]
    rfl

end Sys2Proof.Machine

/-! PROOFS of the statement about vectors (15_retrieval R414 to R422): inserts, deletes and compaction. -/

namespace Sys2Proof.Machine

/-! ## Requests of items (R430) -/

/-- R91: a run goes on to read host memory where link, registers, pool windows and waiting requests stay. -/
theorem ReadsHost.of_same {r r' : Run0} (h : ReadsHost r) (had : r'.had = r.had) (sent : r'.sent = r.sent) (link : r'.core.link = r.core.link)
    (cfg : r'.core.cfg = r.core.cfg) (regs : r'.core.regs = r.core.regs) (waiting : r'.core.sess.waiting = r.core.sess.waiting)
    (windows : r'.core.mem.windows = r.core.mem.windows) : ReadsHost r' :=
  ⟨had.trans h.had, sent.trans h.unsent,
    hostAnswers_congr h.answers link cfg waiting (regGet_congr regs _) (ideStream_congr (fun w => by rw [windows]) fun o _ => regGet_congr regs o),
    by rw [windows]; exact h.noWindow⟩

theorem run_eachItem_nil (f : Nat → M Nat) (r : Run0) : eachItem f [] r = .ok (0, r) := rfl

/-- R430: an item that ends is followed by the others. -/
theorem run_eachItem_cons {f : Nat → M Nat} {i : Nat} {is : List Nat} {r t u : Run0} {n m : Nat} (item : f i r = .ok (n, t))
    (others : eachItem f is t = .ok (m, u)) : eachItem f (i :: is) r = .ok (n + m, u) := by
  rw [eachItem, run_bind_ok (run_get r)]
  simp only [item]
  change (eachItem f is >>= fun a => pure (n + a)) t = _
  rw [run_bind_ok others]
  rfl

/-- R119: a write that must go out once goes over a link that is up. -/
theorem run_oncePosted_new {f : Core → Nat × Core} {r : Run0} (fresh : r.past = []) (host : hostAnswers r.core) (a : Nat) :
    oncePosted 0 a f r =
      .ok ((f r.core).1, { r with core := (f r.core).2, base := (f r.base).2, memo := r.memo ++ [(f r.core).1] }) := by
  have gate : postGate 0 a r = .ok ((), r) := by simp [postGate, host.1, host.2.1 a]
  unfold oncePosted
  have unsettled : (!r.past.isEmpty) = false := by simp [fresh]
  rw [run_bind_ok (run_settled r)]
  simp only [unsettled, Bool.not_false, if_true]
  rw [run_bind_ok gate, run_once_new _ _ fresh]

/-! ## Deletes (R421) -/

theorem exec_vecDelete (d : Desc) (env : Env) (s : State) : exec (.vecDelete d env) s = .next (acceptSeq s d env (vecDeleteBody d)) := rfl
theorem exec_vecInsert (d : Desc) (env : Env) (s : State) : exec (.vecInsert d env) s = .next (acceptSeq s d env (vecInsertBody d)) := rfl
theorem exec_indexCompact (d : Desc) (s : State) : exec (.indexCompact d) s = .next (acceptSeq s d [] (indexCompactBody d)) := rfl

/-- R421: ids that become tombstones one after the other, and their count. -/
def buryAll (ixId : Nat) (id : Nat → Nat) (l : List Nat) (a : Nat × Core) : Nat × Core :=
  l.foldl (fun a i => (a.1 + (buryItem ixId (id i) a.2).1, (buryItem ixId (id i) a.2).2)) a

theorem buryAll_cons (ixId : Nat) (id : Nat → Nat) (i : Nat) (is : List Nat) (n : Nat) (c : Core) :
    buryAll ixId id (i :: is) (n, c) = buryAll ixId id is (n + (buryItem ixId (id i) c).1, (buryItem ixId (id i) c).2) := rfl

/-- The count goes on from where it stands. -/
theorem buryAll_add (ixId : Nat) (id : Nat → Nat) (is : List Nat) (n : Nat) (c : Core) :
    buryAll ixId id is (n, c) = (n + (buryAll ixId id is (0, c)).1, (buryAll ixId id is (0, c)).2) := by
  induction is generalizing n c with
  | nil => rfl
  | cons i is ih =>
    rw [buryAll_cons, buryAll_cons, ih, ih (0 + _), Nat.zero_add, Nat.add_assoc]

/-- R421: a tombstone changes the objects alone. -/
theorem buryItem_frame (ixId id : Nat) (c : Core) : (buryItem ixId id c).2 = { c with obj := (buryItem ixId id c).2.obj } := by
  unfold buryItem
  split <;> rfl

/-- R421, R430: the ids are read and buried in order. -/
theorem run_vecDeleteItems {d : Desc} {ids : Nat → List Byte} (rest : Env) : ∀ (is : List Nat) (r : Run0), ReadsHost r → r.past = [] →
    r.env = is.map (fun i => Ans.data (ids i)) ++ rest → ∃ t,
      eachItem (vecDeleteItem d) is r = .ok ((buryAll (indexIdOf d) (fun i => leAt (bytesAt (ids i) 0 4) 0 4) is (0, r.core)).1, t) ∧
      t.ext = r.ext ∧ t.core = (buryAll (indexIdOf d) (fun i => leAt (bytesAt (ids i) 0 4) 0 4) is (0, r.core)).2 := by
  intro is
  induction is with
  | nil => exact fun r _ _ _ => ⟨r, rfl, rfl, rfl⟩
  | cons i is ih =>
    intro r host fresh answers
    let q := buryItem (indexIdOf d) (leAt (bytesAt (ids i) 0 4) 0 4)
    let r' : Run0 := { r with env := is.map (fun i => Ans.data (ids i)) ++ rest, core := (q r.core).2, base := (q r.base).2, memo := r.memo ++ [(q r.core).1] }
    have item : vecDeleteItem d i r = .ok ((q r.core).1, r') := by
      unfold vecDeleteItem
      rw [run_bind_ok (host.run_readBus answers _ _), run_once_new _ _ (by exact fresh)]
      rfl
    have frame := buryItem_frame (indexIdOf d) (leAt (bytesAt (ids i) 0 4) 0 4) r.core
    have host' : ReadsHost r' := host.of_same rfl rfl (congrArg (·.link) frame) (congrArg (·.cfg) frame) (congrArg (·.regs) frame)
      (congrArg (·.sess.waiting) frame) (congrArg (·.mem.windows) frame)
    obtain ⟨t, runs, ext, core⟩ := ih r' host' fresh rfl
    rw [buryAll_cons, Nat.zero_add, buryAll_add]
    exact ⟨t, run_eachItem_cons item runs, ext, core⟩

/-- R421: VEC_DELETE of ids that are all read. -/
theorem run_vecDeleteBody {d : Desc} {ids : Nat → List Byte} {x : Index} {r : Run0} (rest : Env) (host : ReadsHost r) (fresh : r.past = [])
    (waiting : r.core.sess.waiting = []) (named : mapGet r.core.obj.indexes (indexIdOf d) = some x) (aligned : d.field 2 63 0 0 % 4 = 0)
    (nonempty : 1 ≤ d.field 3 28 8 0) (few : d.field 3 28 8 0 ≤ 1048576)
    (answers : r.env = (List.range (d.field 3 28 8 0)).map (fun i => Ans.data (ids i)) ++ rest) :
    let gone := buryAll (indexIdOf d) (fun i => leAt (bytesAt (ids i) 0 4) 0 4) (List.range (d.field 3 28 8 0)) (0, r.core)
    ∃ t, vecDeleteBody d r = .ok (.done .ok gone.1 (d.field 3 28 8 0 - gone.1), t) ∧ t.ext = r.ext ∧ t.core = gone.2 := by
  obtain ⟨t, runs, ext, core⟩ := run_vecDeleteItems (d := d) rest _ r host fresh answers
  refine ⟨t, ?_, ext, core⟩
  unfold vecDeleteBody
  rw [run_bind_ok (run_check_passes (by simp [aligned, few]) _ _), if_neg (by omega), run_bind_ok (run_indexOf waiting named), run_bind_ok runs]
  rfl

/-! ## Inserts (R414, R416 to R418) -/

/-- Records of a list are the index's. -/
theorem Index.list_records {x : Index} {i : Nat} {r : VecRec} (h : r ∈ x.list i) : r ∈ x.records := by
  unfold Index.list at h
  cases listed : mapGet x.lists i with
  | none => simp [listed] at h
  | some l =>
    rw [listed] at h
    exact List.mem_flatMap.mpr ⟨(i, l), mem_of_mapGet listed, h⟩

/-- A record appended to a list adds its id alone to those taken. -/
theorem Index.taken_setList {x : Index} {i : Nat} {r : VecRec} {v : Nat} (h : v ∈ (x.setList i (x.list i ++ [r])).taken) :
    v = r.vid ∨ v ∈ x.taken := by
  have nonempty : (x.list i ++ [r]).isEmpty = false := by simp
  obtain ⟨q, listed, rfl⟩ := List.mem_map.mp h
  obtain ⟨p, placed, inList⟩ := List.mem_flatMap.mp listed
  simp only [Index.setList, nonempty, Bool.false_eq_true, if_false] at placed
  rcases mem_mapSet _ _ _ _ placed with rfl | old
  · rcases List.mem_append.mp inList with own | new
    · exact .inr (List.mem_map_of_mem (Index.list_records own))
    · exact .inl (by rw [List.mem_singleton.mp new])
  · exact .inr (List.mem_map_of_mem (List.mem_flatMap.mpr ⟨p, old, inList⟩))

/-- R418: an index with fewer ids taken than its capacity has a free one. -/
theorem Index.freeId_isSome {x : Index} (room : x.taken.toFinset.card < x.capacity) : x.freeId.isSome = true := by
  rw [Index.freeId, List.find?_isSome]
  by_contra none
  push Not at none
  have sub : Finset.range (min (x.taken.length + 1) x.capacity) ⊆ x.taken.toFinset := by
    intro i hi
    have small := Finset.mem_range.mp hi
    have used := none i (List.mem_range.mpr (by omega))
    have below : i < x.capacity := by omega
    simpa [below] using used
  have count := Finset.card_le_card sub
  have length := List.toFinset_card_le x.taken
  rw [Finset.card_range] at count
  omega

/-- R429 orders 4 and 5: an index of a shape takes `k` vectors more: it has ids, and its die frames, for them. -/
structure TakesVectors (c : Core) (ixId : Nat) (x y : Index) (k : Nat) : Prop where
  named : mapGet c.obj.indexes ixId = some y
  die : y.die = x.die
  dim : y.dim = x.dim
  metric : y.metric = x.metric
  format : y.format = x.format
  ids : y.taken.toFinset.card + k ≤ y.capacity
  frames : k ≤ freeOf c y.die

/-- R414: what a vector's entry takes of its die. -/
theorem takeListFrame_frame (c : Core) (die : Bool) (pairs : List Nat) : ∃ pairFree, (takeListFrame c die pairs).2 =
    { c with mem := { c.mem with free := c.mem.free.mod die (· - 1), pairFree := pairFree } } := ⟨_, rfl⟩

/-- R414, R418: a vector that enters changes the index and what its die has free. -/
theorem insertItem_frame (ixId out : Nat) (v : List W32) (attr : Nat) {c : Core} {y : Index} (named : mapGet c.obj.indexes ixId = some y) :
    ∃ free pairFree, (insertItem ixId out v attr c).2 =
      busPayload (setIndexObj { c with mem := { c.mem with free := free, pairFree := pairFree } } ixId (insertOne c y v attr).2.1) out
        (natLe 4 (insertOne c y v attr).2.2) ∧ freeOf c y.die - 1 ≤ free.get y.die := by
  unfold insertItem
  rw [named]
  by_cases opens : y.opensFrame (y.listFor ((converted y.metric y.format v).getD [])) = true
  · obtain ⟨pairFree, taken⟩ := takeListFrame_frame c y.die (y.listPairs (y.listFor ((converted y.metric y.format v).getD [])))
    refine ⟨c.mem.free.mod y.die (· - 1), pairFree, ?_, by rw [get_mod]; exact Nat.le_refl _⟩
    simp only [insertOne, if_pos opens, taken]
  · refine ⟨c.mem.free, c.mem.pairFree, ?_, Nat.sub_le ..⟩
    simp only [insertOne, if_neg opens]

/-- R418: the index goes on to take what it has room for. -/
theorem TakesVectors.inserted {c : Core} {ixId : Nat} {x y : Index} {k : Nat} (h : TakesVectors c ixId x y (k + 1)) (out : Nat) (v : List W32)
    (attr : Nat) : TakesVectors (insertItem ixId out v attr c).2 ixId x (insertOne c y v attr).2.1 k := by
  obtain ⟨free, pairFree, frame, left⟩ := insertItem_frame ixId out v attr h.named
  refine ⟨?_, h.die, h.dim, h.metric, h.format, ?_, ?_⟩
  · rw [frame]
    exact mapGet_set_same ..
  · have sub : ((insertOne c y v attr).2.1).taken.toFinset ⊆ insert (y.freeId.getD 0) y.taken.toFinset := by
      intro id hid
      rw [Finset.mem_insert, List.mem_toFinset]
      exact Index.taken_setList (List.mem_toFinset.mp hid)
    have count := (Finset.card_le_card sub).trans (Finset.card_insert_le ..)
    have ids := h.ids
    show _ ≤ y.capacity
    omega
  · have frames := h.frames
    rw [frame]
    show k ≤ free.get y.die
    omega

/-- R416, R429: a vector that converts is not refused. -/
theorem TakesVectors.accepts {c : Core} {ixId : Nat} {x y : Index} {k : Nat} (h : TakesVectors c ixId x y (k + 1)) {v : List W32}
    (converts : (converted x.metric x.format v).isSome = true) : insertRefusal c y v = none := by
  obtain ⟨e, conv⟩ := Option.isSome_iff_exists.mp converts
  have frames := h.frames
  have free : freeOf c y.die ≠ 0 := by omega
  have id := Index.freeId_isSome (x := y) (by have := h.ids; omega)
  rw [insertRefusal, h.metric, h.format, conv]
  simp [free, Option.isNone_iff_eq_none, Option.isSome_iff_ne_none.mp id]

/-- R418: the vector, the `attr` value and the answers of item `i`. -/
def itemVector (x : Index) (vs : Nat → List Byte) (i : Nat) : List W32 := f32s (bytesAt (vs i) 0 (4 * x.dim)) 0 x.dim
def itemAttr (d : Desc) (as : Nat → List Byte) (i : Nat) : Nat := if d.field 3 63 0 0 = 0 then 0 else leAt (bytesAt (as i) 0 8) 0 8
def itemAnswers (d : Desc) (vs as : Nat → List Byte) (i : Nat) : Env := .data (vs i) :: if d.field 3 63 0 0 = 0 then [] else [.data (as i)]

/-- R418: where the id of item `i` goes. -/
def itemOut (d : Desc) (i : Nat) : Nat := d.field 4 63 0 0 + 4 * i

/-- R418: item `i` enters the index. -/
def insertNth (d : Desc) (x : Index) (vs as : Nat → List Byte) (i : Nat) (c : Core) : Nat × Core :=
  insertItem (indexIdOf d) (itemOut d i) (itemVector x vs i) (itemAttr d as i) c

/-- No bytes read as 0. -/
theorem leAt_none : leAt [] 0 8 = 0 := by decide

/-- R418, R429: one vector, read, inserted, and its id written. -/
theorem run_vecInsertItem {d : Desc} {x y : Index} {k i : Nat} {vs as : Nat → List Byte} {r : Run0} {env : Env} (host : ReadsHost r)
    (fresh : r.past = []) (answers : r.env = itemAnswers d vs as i ++ env) (takes : TakesVectors r.core (indexIdOf d) x y (k + 1))
    (converts : (converted x.metric x.format (itemVector x vs i)).isSome = true) :
    vecInsertItem d x.dim i r = .ok (1, { r with env := env, core := (insertNth d x vs as i r.core).2, base := (insertNth d x vs as i r.base).2
                                                 memo := r.memo ++ [(insertNth d x vs as i r.core).1] }) := by
  have kept : ((mapGet r.core.obj.indexes (indexIdOf d)).bind fun y => insertRefusal r.core y (itemVector x vs i)) = none := by
    rw [takes.named]
    exact takes.accepts converts
  unfold vecInsertItem
  dsimp only
  by_cases plain : d.field 3 63 0 0 = 0
  · rw [itemAnswers, if_pos plain] at answers
    rw [run_bind_ok (host.run_readBus answers _ _), run_bind_ok (run_getC _)]
    dsimp only
    rw [show f32s (bytesAt (vs i) 0 (4 * x.dim)) 0 x.dim = itemVector x vs i from rfl, kept]
    dsimp only
    rw [if_pos plain, run_bind_ok (run_pure _ _), run_bind_ok (run_oncePosted_new (by exact fresh) (by exact host.answers) _)]
    simp only [insertNth, itemAttr, if_pos plain, leAt_none]
    rfl
  · rw [itemAnswers, if_neg plain] at answers
    rw [run_bind_ok (host.run_readBus answers _ _), run_bind_ok (run_getC _)]
    dsimp only
    rw [show f32s (bytesAt (vs i) 0 (4 * x.dim)) 0 x.dim = itemVector x vs i from rfl, kept]
    dsimp only
    rw [if_neg plain, run_bind_ok ((host.answered _).run_readBus (by rfl) _ _),
      run_bind_ok (run_oncePosted_new (by exact fresh) (by exact host.answers) _)]
    simp only [insertNth, itemAttr, if_neg plain]
    rfl

/-- R418: an insertion leaves a run that reads host memory as it is. -/
theorem ReadsHost.inserted {d : Desc} {x y : Index} {vs as : Nat → List Byte} {i : Nat} {r r' : Run0} (h : ReadsHost r)
    (named : mapGet r.core.obj.indexes (indexIdOf d) = some y) (had : r'.had = r.had) (sent : r'.sent = r.sent)
    (core : r'.core = (insertNth d x vs as i r.core).2) : ReadsHost r' := by
  obtain ⟨free, pairFree, frame, -⟩ := insertItem_frame (indexIdOf d) (itemOut d i) (itemVector x vs i) (itemAttr d as i) named
  rw [insertNth, frame] at core
  exact h.of_same had sent (congrArg (·.link) core) (congrArg (·.cfg) core) (congrArg (·.regs) core) (congrArg (·.sess.waiting) core)
    (congrArg (·.mem.windows) core)

/-- R418, R430: vectors that convert, into an index with room for them, enter in order. -/
theorem run_vecInsertItems {d : Desc} {x : Index} {vs as : Nat → List Byte} (rest : Env) : ∀ (is : List Nat) (y : Index) (r : Run0), ReadsHost r →
    r.past = [] → r.env = is.flatMap (itemAnswers d vs as) ++ rest → TakesVectors r.core (indexIdOf d) x y is.length →
    (∀ i ∈ is, (converted x.metric x.format (itemVector x vs i)).isSome = true) → ∃ n t, eachItem (vecInsertItem d x.dim) is r = .ok (n, t) ∧
      t.ext = r.ext ∧ t.core = is.foldl (fun c i => (insertNth d x vs as i c).2) r.core := by
  intro is
  induction is with
  | nil => exact fun y r _ _ _ _ _ => ⟨0, r, rfl, rfl, rfl⟩
  | cons i is ih =>
    intro y r host fresh answers takes converts
    rw [List.flatMap_cons, List.append_assoc] at answers
    have item := run_vecInsertItem host fresh answers takes (converts i (.head _))
    obtain ⟨n, t, runs, ext, core⟩ := ih _ { r with
        env := is.flatMap (itemAnswers d vs as) ++ rest, core := (insertNth d x vs as i r.core).2, base := (insertNth d x vs as i r.base).2
        memo := r.memo ++ [(insertNth d x vs as i r.core).1] }
      (host.inserted takes.named rfl rfl rfl) fresh rfl (takes.inserted ..) fun j hj => converts j (.tail _ hj)
    exact ⟨_, t, run_eachItem_cons item runs, ext, core⟩

/-- R418: VEC_INSERT of vectors that convert, into an index with an id and a frame for each. -/
theorem run_vecInsertBody {d : Desc} {x : Index} {vs as : Nat → List Byte} {r : Run0} (rest : Env) (host : ReadsHost r) (fresh : r.past = [])
    (waiting : r.core.sess.waiting = []) (named : mapGet r.core.obj.indexes (indexIdOf d) = some x) (aligned : d.field 2 63 0 0 % 4 = 0)
    (attrs : d.field 3 63 0 0 % 8 = 0) (outs : d.field 4 63 0 0 % 4 = 0) (nonempty : 1 ≤ d.field 5 24 8 0) (few : d.field 5 24 8 0 ≤ 65536)
    (ids : d.field 5 24 8 0 ≤ x.capacity - x.taken.length) (frames : d.field 5 24 8 0 ≤ freeOf r.core x.die)
    (converts : ∀ i, i < d.field 5 24 8 0 → (converted x.metric x.format (itemVector x vs i)).isSome = true)
    (answers : r.env = (List.range (d.field 5 24 8 0)).flatMap (itemAnswers d vs as) ++ rest) :
    ∃ t, vecInsertBody d r = .ok (.done .ok (d.field 5 24 8 0) 0, t) ∧ t.ext = r.ext ∧
      t.core = (List.range (d.field 5 24 8 0)).foldl (fun c i => (insertNth d x vs as i c).2) r.core := by
  have takes : TakesVectors r.core (indexIdOf d) x x (List.range (d.field 5 24 8 0)).length := by
    refine ⟨named, rfl, rfl, rfl, rfl, ?_, by rwa [List.length_range]⟩
    have count := List.toFinset_card_le x.taken
    rw [List.length_range]
    omega
  obtain ⟨n, t, runs, ext, core⟩ := run_vecInsertItems rest _ x r host fresh answers takes fun i hi => converts i (List.mem_range.mp hi)
  refine ⟨t, ?_, ext, core⟩
  unfold vecInsertBody
  rw [run_bind_ok (run_check_passes (by simp [aligned, attrs, outs, few]) _ _), if_neg (by omega), run_bind_ok (run_indexOf waiting named),
    run_bind_ok (run_checkFresh_passes (decide_eq_false (by omega)) _ _), run_bind_ok runs]
  rfl

/-- R417, R418: where a vector that converts goes, and what else of the index stays. -/
theorem insertItem_enters {ixId out : Nat} {v : List W32} {attr : Nat} {c : Core} {x : Index} {e : List Nat} {id : Nat}
    (named : mapGet c.obj.indexes ixId = some x) (conv : converted x.metric x.format v = some e) (free : x.freeId = some id) :
    let vals := elemVals x.format e
    let i := (bestCentroids x.metric x.format x.centroids vals 1).headD 0
    ∃ y, mapGet (insertItem ixId out v attr c).2.obj.indexes ixId = some y ∧
      mapGet y.lists i = some (x.list i ++ [{ vid := id, live := true, norm2 := norm2Of x.metric vals, attr := attr, elems := e }]) ∧
      (∀ k, k ≠ i → mapGet y.lists k = mapGet x.lists k) ∧ y.centroids = x.centroids ∧
      (insertItem ixId out v attr c).2.bus = (busPayload c out (natLe 4 id)).bus := by
  intro vals i
  obtain ⟨frees, pairFree, frame, -⟩ := insertItem_frame ixId out v attr named
  have lists : (insertOne c x v attr).2.1.lists =
      mapSet x.lists i (x.list i ++ [{ vid := id, live := true, norm2 := norm2Of x.metric vals, attr := attr, elems := e }]) := by
    have nonempty : ∀ r : VecRec, (x.list i ++ [r]).isEmpty = false := fun r => by simp
    simp only [insertOne, conv, free, Option.getD_some, Index.setPairs, Index.setList]
    rw [show x.listFor e = i from rfl, nonempty]
    rfl
  have vid : (insertOne c x v attr).2.2 = id := by simp [insertOne, free]
  rw [frame]
  refine ⟨(insertOne c x v attr).2.1, mapGet_set_same .., ?_, fun k other => ?_, rfl, ?_⟩
  · rw [lists, mapGet_set_same]
  · rw [lists, mapGet_set_other _ _ _ _ other]
  · rw [vid]
    rfl

/-! ## Compaction (R422) -/

/-- R422: the lists are rewritten; a compaction that frames cut short completes with what it has done. -/
theorem exec_indexCompact_ends {s : State} {d : Desc} {x : Index} (free : seqFree s.core d) (h0 : d.session = 0)
    (waiting : s.core.sess.waiting = []) (named : mapGet s.core.obj.indexes (indexIdOf d) = some x) :
    let k := compactLists (indexIdOf d) (x.lists.map (·.1)) { core := beginSeq s.core d, index := x }
    exec (.indexCompact d) s = .next { s with
      core := complete (setIndexObj k.1.core (indexIdOf d) k.1.index) d (if k.2 then .ok else .noSpace) k.1.tombs k.1.freed } := by
  intro k
  have start : indexCompactBody d (begunSeqRun s d []) =
      (if k.2 then pure (.done .ok k.1.tombs k.1.freed) else failC .noSpace k.1.tombs k.1.freed : M Done)
        { begunSeqRun s d [] with core := setIndexObj k.1.core (indexIdOf d) k.1.index } := by
    unfold indexCompactBody
    rw [run_bind_ok (run_indexOf waiting named), run_bind_ok (run_getC _)]
    rfl
  rw [exec_indexCompact]
  cases whole : k.2
  · rw [whole] at start
    rw [acceptSeq_fails free h0 start]
    rfl
  · rw [whole] at start
    rw [acceptSeq_done free (by rfl) h0 start]
    rfl

/-- Settles O30 (R418, R421, R422): inserts and deletes by induction over their items, a compaction by its own equation. -/
theorem vectorEdits : Obligations.VectorEdits := by
  unfold Obligations.VectorEdits
  intro d ids x s free h0 waiting named
  dsimp only
  refine ⟨fun vs as answers noWindow aligned attrs outs nonempty few room capacity frames converts => ?_,
    fun answers noWindow aligned nonempty few => ?_, exec_indexCompact_ends free h0 waiting named⟩
  · obtain ⟨t, runs, ext, core⟩ := run_vecInsertBody (d := d) (vs := vs) (as := as)
      (r := begunSeqRun s d ((List.range (d.field 5 24 8 0)).flatMap (itemAnswers d vs as))) [] (begunSeqRun_reads answers noWindow d _) rfl
      waiting named aligned attrs outs nonempty few room frames converts (by rw [List.append_nil]; rfl)
    have goes : exec (.vecInsert d ((List.range (d.field 5 24 8 0)).flatMap (itemAnswers d vs as))) s = .next { s with
        core := complete ((List.range (d.field 5 24 8 0)).foldl (fun c i => (insertNth d x vs as i c).2) (beginSeq s.core d)) d .ok
          (d.field 5 24 8 0) 0 } := by
      rw [exec_vecInsert, acceptSeq_done free ext h0 runs, core]
      rfl
    refine ⟨goes, fun e id one conv free => ?_⟩
    obtain ⟨y, stands, entered, others, cents, bus⟩ := insertItem_enters (c := beginSeq s.core d) (out := itemOut d 0) (attr := itemAttr d as 0)
      (by exact named) conv free
    rw [one] at goes ⊢
    exact ⟨_, y, goes, by rw [complete_obj]; exact stands, entered, others, cents, by rw [complete_bus]; exact bus⟩
  · obtain ⟨t, runs, ext, core⟩ := run_vecDeleteBody (d := d) (ids := ids) (r := begunSeqRun s d _) [] (begunSeqRun_reads answers noWindow d _) rfl
      waiting named aligned nonempty few (by rw [List.append_nil]; rfl)
    rw [exec_vecDelete, acceptSeq_done free ext h0 runs, core]
    rfl

end Sys2Proof.Machine

/-! PROOFS of the statement about searches and pooled lookups (15_retrieval R419, R423 to R427, R432 to R434). -/

namespace Sys2Proof.Machine

/-! ## What retrieval leaves outside (R91) -/

/-- What decides whether requests to host memory go out, and what has gone out: link, registers below the counters of retrieval, pool windows,
waiting requests, posted writes and rings. -/
structure OutsideKept (c d : Core) : Prop where
  link : d.link = c.link
  cfg : d.cfg = c.cfg
  waiting : d.sess.waiting = c.sess.waiting
  windows : d.mem.windows = c.mem.windows
  regs : ∀ o, o < 0x430000 → regGet d o = regGet c o
  bus : d.bus = c.bus
  rings : d.rings = c.rings

namespace OutsideKept
variable {c d e : Core}

theorem refl (c : Core) : OutsideKept c c := ⟨rfl, rfl, rfl, rfl, fun _ _ => rfl, rfl, rfl⟩

theorem trans (h : OutsideKept c d) (k : OutsideKept d e) : OutsideKept c e where
  link := k.link.trans h.link
  cfg := k.cfg.trans h.cfg
  waiting := k.waiting.trans h.waiting
  windows := k.windows.trans h.windows
  regs o ho := (k.regs o ho).trans (h.regs o ho)
  bus := k.bus.trans h.bus
  rings := k.rings.trans h.rings

theorem foldl {α : Type} {f : Core → α → Core} (h : ∀ c x, OutsideKept c (f c x)) (l : List α) (c : Core) : OutsideKept c (l.foldl f c) := by
  induction l generalizing c with
  | nil => exact refl c
  | cons x l ih => exact (h c x).trans (ih _)

/-- R97: addresses lie in the same windows. -/
theorem ideStream (h : OutsideKept c d) (a : Nat) : ideStream d a = ideStream c a := by
  have inside : ∀ w ∈ (List.range 15).map (· + 1), inWindow d w a = inWindow c w a := by
    intro w hw
    obtain ⟨k, hk, rfl⟩ := List.mem_map.mp hw
    have small := List.mem_range.mp hk
    have base := h.regs (0x200200 + 0x20 * (k + 1)) (by omega)
    have length := h.regs (0x200208 + 0x20 * (k + 1)) (by omega)
    rw [inWindow, inWindow, regField, regField, regField, regField, h.windows, base, length]
  rw [Machine.ideStream, Machine.ideStream, List.find?_congr inside]

/-- R88, R91: host memory goes on to answer. -/
theorem hostAnswers (h : OutsideKept c d) (answers : hostAnswers c) : hostAnswers d :=
  hostAnswers_congr answers h.link h.cfg h.waiting (h.regs _ (by decide)) h.ideStream

/-- R129: a completion does the same to the rings. -/
theorem complete_rings (h : OutsideKept c d) (x : Desc) (st : Status) (a b : Nat) : (complete d x st a b).rings = (complete c x st a b).rings :=
  complete_rings_congr h.rings x st a b

/-- R97: a counter of retrieval counts. -/
theorem regCount (c : Core) {o : Nat} (high : 0x430000 ≤ o) (hi lo n : Nat) : OutsideKept c (regCount c o hi lo n) :=
  ⟨rfl, rfl, rfl, rfl, fun p hp => regGet_put_other _ _ _ _ _ _ (by omega), rfl, rfl⟩

/-- Frames change hands. -/
theorem of_frames (h : FramesMoved c d) : OutsideKept c d := by
  rw [h.frame]
  exact ⟨rfl, rfl, rfl, rfl, fun _ _ => rfl, rfl, rfl⟩
end OutsideKept

/-- R211: frames of pairs come free. -/
theorem freePlaces_moved (c : Core) (die : Bool) (pairs : List Nat) : FramesMoved c (freePlaces c die pairs) :=
  .foldl (fun c q => freeFrame_moved c die q) pairs c

/-- R476: a record whose check value fails is logged, and its pair may drain. -/
theorem noteBlock_outside (c : Core) (session opcode status pair pa : Nat) : OutsideKept c (noteBlock c session opcode status pair pa) := by
  unfold noteBlock
  dsimp only
  rw [logErr_frame]
  obtain ⟨tab, free, frame⟩ := startDrain_frame (modPair { c with errs := _ } pair fun p => { p with errors := p.errors + 1 }) pair
  rw [frame]
  exact ⟨rfl, rfl, rfl, rfl, fun _ _ => rfl, rfl, rfl⟩

theorem noteHeader_keeps (x : Index) (id : Nat) (c : Core) (h : Hit) : OutsideKept c (noteHeader x id c h) := by
  unfold noteHeader
  split
  · exact .refl c
  · exact noteBlock_outside ..

/-- R422: frames that searches scanned come free. -/
theorem freeLate_keeps (c : Core) (id : Nat) :
    OutsideKept c (freeLate c id) ∧ (mapHas c.obj.indexes id = true → mapHas (freeLate c id).obj.indexes id = true) := by
  unfold freeLate
  split
  case h_1 none => exact ⟨.refl c, fun h => h⟩
  case h_2 x named =>
    dsimp only
    have moved := FramesMoved.foldl (fun c p => freePlaces_moved c x.die (LateList.pairs p))
      ((x.late.map fun p => { p with rings := p.rings.filter fun r => scansList c r id p.list }).filter fun p => p.rings.isEmpty) c
    have kept := OutsideKept.of_frames moved
    exact ⟨⟨kept.link, kept.cfg, kept.waiting, kept.windows, kept.regs, kept.bus, kept.rings⟩, fun _ => by simp [mapHas]⟩

/-- A job ends. -/
theorem endJob_keeps (c : Core) (d : Desc) :
    OutsideKept c (endJob c d) ∧ (mapHas c.obj.indexes (indexIdOf d) = true → mapHas (endJob c d).obj.indexes (indexIdOf d) = true) := by
  unfold endJob
  dsimp only
  split
  · obtain ⟨kept, named⟩ := freeLate_keeps { c with obj := { c.obj with jobs := mapDel c.obj.jobs d.ring } } (indexIdOf d)
    exact ⟨⟨kept.link, kept.cfg, kept.waiting, kept.windows, kept.regs, kept.bus, kept.rings⟩, named⟩
  · exact ⟨⟨rfl, rfl, rfl, rfl, fun _ _ => rfl, rfl, rfl⟩, fun h => h⟩

/-! ## Commands that join their pairs' queues (R221) -/

/-- What commands that join the queues change: the stacks, and the jobs that a fenced stack fails. -/
def CmdsQueued (c d : Core) : Prop := d = { c with stackTab := d.stackTab, obj := { c.obj with jobs := d.obj.jobs } }

namespace CmdsQueued
variable {c d e : Core}

theorem refl (c : Core) : CmdsQueued c c := rfl

theorem trans (h : CmdsQueued c d) (k : CmdsQueued d e) : CmdsQueued c e := by
  unfold CmdsQueued at *
  rw [k, h]

theorem foldl {α : Type} {f : Core → α → Core} (h : ∀ c x, CmdsQueued c (f c x)) (l : List α) (c : Core) : CmdsQueued c (l.foldl f c) := by
  induction l generalizing c with
  | nil => exact refl c
  | cons x l ih => exact (h c x).trans (ih _)

theorem outside (h : CmdsQueued c d) : OutsideKept c d := by
  rw [h]
  exact ⟨rfl, rfl, rfl, rfl, fun _ _ => rfl, rfl, rfl⟩

theorem indexes (h : CmdsQueued c d) : d.obj.indexes = c.obj.indexes := by rw [h]
theorem tables (h : CmdsQueued c d) : d.obj.tables = c.obj.tables := by rw [h]
end CmdsQueued

theorem enqueue_queues (c : Core) (pair ring : Nat) {x : BankCmd} (owner : x.owner = .job ring) : CmdsQueued c (enqueue c pair x) := by
  unfold enqueue modJob
  rw [owner]
  dsimp only
  split
  · rfl
  · split <;> rfl

theorem scanList_queues (x : Index) (id ring k : Nat) (q : List Nat) (c : Core) (p : Nat × Nat) : CmdsQueued c (scanList x id ring k q c p) := by
  unfold scanList
  exact .foldl (fun c _ => enqueue_queues c _ ring rfl) _ c

theorem gatherGroup_queues (id ring bag pair size w : Nat) (staged : Bool) (rows : List (Nat × List Byte)) (c : Core) :
    CmdsQueued c (gatherGroup id ring bag pair size w staged rows c) :=
  .foldl (fun c _ => enqueue_queues c pair ring rfl) _ c

theorem gatherBag_queues (id : Nat) (t : Table) (ring : Nat) (c : Core) (b : Nat × List Nat × List (List Byte)) :
    CmdsQueued c (gatherBag id t ring c b) := by
  unfold gatherBag
  split
  · dsimp only
    split
    · exact gatherGroup_queues ..
    · exact .refl c
  · exact .foldl (fun c q => gatherGroup_queues ..) _ c

/-! ## The end of a search (R419, R424 to R427) -/

/-- R419: the best hits of a search. -/
def bestHits (d : Desc) (j : Job) (x : Index) : List Hit := (sortBy (fun u v : Hit => hitBefore x.metric u v) j.hits).take (searchK d)

/-- R424: those whose headers fail their check values. -/
def lostHits (d : Desc) (j : Job) (x : Index) : List Hit :=
  (bestHits d j x).filter fun h : Hit => x.records.any fun r => r.vid == h.item.vid && r.bad

/-- R425, R427: those that go out. -/
def outHits (d : Desc) (j : Job) (x : Index) : List Hit :=
  (bestHits d j x).filter fun h => !(lostHits d j x).contains h && filterPasses j.filter h.item

/-- R424, R476: failing headers are counted and logged. -/
def hitsNoted (d : Desc) (j : Job) (x : Index) (c : Core) : Core :=
  (lostHits d j x).foldl (noteHeader x (indexIdOf d)) (regCount c 0x430000 63 32 (lostHits d j x).length)

/-- R427: the status of a search, and its counts. -/
def searchDone (d : Desc) (j : Job) (x : Index) : Done :=
  .done (if (outHits d j x).length < searchK d then .fewer else .ok) (outHits d j x).length (j.skipped + (lostHits d j x).length)

theorem hitsNoted_outside (d : Desc) (j : Job) (x : Index) (c : Core) : OutsideKept c (hitsNoted d j x c) :=
  (OutsideKept.regCount c (by decide) 63 32 _).trans (.foldl (fun c h => noteHeader_keeps x (indexIdOf d) c h) _ _)

/-- R427: what a search leaves at its end. -/
structure SearchEnded (d : Desc) (j : Job) (x : Index) (c t : Core) : Prop where
  obj : t.obj = (hitsNoted d j x c).obj
  bus : t.bus = (if outHits d j x = [] then hitsNoted d j x c
    else busPayload (hitsNoted d j x c) (d.field 3 63 0 0) ((outHits d j x).flatMap hitBytes)).bus
  rings : t.rings = (hitsNoted d j x c).rings

/-- R419, R424 to R427: a search whose scans have all come back. -/
theorem run_searchFinish {d : Desc} {j : Job} {x : Index} {r : Run0} (answers : hostAnswers r.core)
    (named : mapGet r.core.obj.indexes (indexIdOf d) = some x) (sound : j.failed = none) :
    ∃ t, searchFinish d j r = .ok (searchDone d j x, t) ∧ t.ext = r.ext ∧ SearchEnded d j x r.core t.core := by
  have post := (hitsNoted_outside d j x r.core).hostAnswers answers
  have index : indexNamed d r = .ok (x, r) := by
    unfold indexNamed
    rw [run_bind_ok (run_getC r), named]
    rfl
  unfold searchFinish
  rw [run_bind_ok index, sound]
  dsimp only
  change ∃ t, (modC (hitsNoted d j x) >>= fun _ => if (!(outHits d j x).isEmpty) = true then
    postBus 0 (d.field 3 63 0 0) ((outHits d j x).flatMap hitBytes) >>= fun _ => _ else _) r = _ ∧ _
  rw [run_bind_ok (run_modC _ _)]
  by_cases none : outHits d j x = []
  · have silent : (!(outHits d j x).isEmpty) = false := by simp [none]
    rw [silent]
    exact ⟨_, rfl, rfl, rfl, by rw [if_pos none]; rfl, rfl⟩
  · have some : (!(outHits d j x).isEmpty) = true := by simp [none]
    rw [some, if_pos rfl, run_bind_ok (postBus_up _ _ _ (by exact post))]
    exact ⟨_, rfl, rfl, rfl, by rw [if_neg none]; rfl, rfl⟩

/-! ## SEARCH (R423, R426) -/

theorem exec_search (d : Desc) (env : Env) (s : State) : exec (.search d env) s = .next (acceptSeq s d env (searchBody d)) := rfl
theorem exec_rowPool (d : Desc) (env : Env) (s : State) : exec (.rowPool d env) s = .next (acceptSeq s d env (rowPoolBody d)) := rfl

theorem jobStarted_outside (d : Desc) (c : Core) : OutsideKept c (jobStarted d c) := ⟨rfl, rfl, rfl, rfl, fun _ _ => rfl, rfl, rfl⟩

/-- R417, R423: the scans of the lists that a search without a filter probes. -/
def scansIssued (d : Desc) (x : Index) (q : List Nat) (c : Core) : Core :=
  let lists := bestCentroids x.metric x.format x.centroids (elemVals 8 q) (d.field 4 27 19 0)
  ((List.range lists.length).zip lists).foldl (scanList x (indexIdOf d) d.ring (searchK d) q) (jobStarted d c)

theorem scansIssued_queues (d : Desc) (x : Index) (q : List Nat) (c : Core) :
    CmdsQueued (jobStarted d c) (scansIssued d x q c) :=
  .foldl (fun c p => scanList_queues x (indexIdOf d) d.ring (searchK d) q c p) _ _

theorem scansIssued_outside (d : Desc) (x : Index) (q : List Nat) (c : Core) : OutsideKept c (scansIssued d x q c) :=
  (jobStarted_outside d c).trans (scansIssued_queues d x q c).outside

/-- R423: fields of a SEARCH without a filter in range. -/
structure SearchSound (d : Desc) (x : Index) : Prop where
  query : d.field 2 63 0 0 % 4 = 0
  out : d.field 3 63 0 0 % 16 = 0
  filter : d.field 5 63 0 0 = 0
  k : 1 ≤ searchK d ∧ searchK d ≤ 1024
  probes : 1 ≤ d.field 4 27 19 0 ∧ d.field 4 27 19 0 ≤ 256 ∧ d.field 4 27 19 0 ≤ x.centroids.length

/-- R423: the checks of the fields pass. -/
theorem SearchSound.fields {d : Desc} {x : Index} (h : SearchSound d x) :
    (d.field 2 63 0 0 % 4 != 0 || d.field 3 63 0 0 % 16 != 0 || d.field 5 63 0 0 % 32 != 0 || searchK d == 0 || decide (1024 < searchK d) ||
      d.field 4 27 19 0 == 0 || decide (256 < d.field 4 27 19 0)) = false := by
  obtain ⟨k, kMax⟩ := h.k
  obtain ⟨probes, probesMax, -⟩ := h.probes
  simp only [h.query, h.out, h.filter, Bool.or_eq_false_iff, decide_eq_false_iff_not, beq_eq_false_iff_ne, bne_self_eq_false, and_true, true_and]
  exact ⟨⟨⟨by omega, by omega⟩, by omega⟩, by omega⟩

/-- R426: what a search does once its scans are issued. -/
def searchRest (d : Desc) : M Done := do
  let c ← getC
  if unitsBusy c (.job d.ring) then return .running
  modC fun c => endJob c d
  searchFinish d ((mapGet c.obj.jobs d.ring).getD { desc := d, filter := [] })

/-- R423: a search without a filter issues its scans. -/
theorem run_searchBody {d : Desc} {a : List Byte} {x : Index} {q : List Nat} {r : Run0} {env : Env} (host : ReadsHost r)
    (answered : r.env = .data a :: env) (waiting : r.core.sess.waiting = []) (named : mapGet r.core.obj.indexes (indexIdOf d) = some x)
    (sound : SearchSound d x) (conv : converted x.metric 8 (f32s (bytesAt a 0 (4 * x.dim)) 0 x.dim) = some q) :
    searchBody d r = searchRest d { r with env := env, core := scansIssued d x q r.core } := by
  unfold searchBody
  rw [run_bind_ok (run_check_passes sound.fields _ _), run_bind_ok (run_indexOf waiting named),
    run_bind_ok (run_check_passes (decide_eq_false (by have := sound.probes; omega)) _ _), run_bind_ok (host.run_readBus answered _ _),
    if_pos sound.filter, run_bind_ok (run_pure _ _)]
  dsimp only
  rw [show min 8 (leAt [] 0 1 % 16) = 0 by decide, if_pos rfl, run_bind_ok (run_pure _ _), conv]
  dsimp only
  rw [run_bind_ok (run_check_passes (by decide) _ _)]
  rfl

/-- R423: the search stays in progress while units hold its scans. -/
theorem run_searchRest_busy {d : Desc} {r : Run0} (busy : unitsBusy r.core (.job d.ring) = true) : searchRest d r = .ok (.running, r) := by
  unfold searchRest
  rw [run_bind_ok (run_getC r), if_pos busy]
  rfl

/-- R423, R426: with no scan held, the job ends and the search completes. -/
theorem run_searchRest_done {d : Desc} {j : Job} {x : Index} {r : Run0} (idle : unitsBusy r.core (.job d.ring) = false)
    (job : mapGet r.core.obj.jobs d.ring = some j) (sound : j.failed = none) (answers : hostAnswers r.core)
    (named : mapGet (endJob r.core d).obj.indexes (indexIdOf d) = some x) :
    ∃ t, searchRest d r = .ok (searchDone d j x, t) ∧ t.ext = r.ext ∧ SearchEnded d j x (endJob r.core d) t.core := by
  obtain ⟨t, runs, ext, ended⟩ := run_searchFinish (d := d) (j := j) (r := { r with core := endJob r.core d })
    ((endJob_keeps r.core d).1.hostAnswers answers) named sound
  refine ⟨t, ?_, ext, ended⟩
  unfold searchRest
  rw [run_bind_ok (run_getC r), idle, if_neg (by decide), run_bind_ok (run_modC _ _), job]
  exact runs

/-- R426, R427: a search that has completed. -/
structure Searched (d : Desc) (j : Job) (c t : Core) (x : Index) : Prop where
  obj : t.obj = (hitsNoted d j x (endJob c d)).obj
  bus : t.bus = (if outHits d j x = [] then hitsNoted d j x (endJob c d)
    else busPayload (hitsNoted d j x (endJob c d)) (d.field 3 63 0 0) ((outHits d j x).flatMap hitBytes)).bus
  rings : t.rings = (complete (hitsNoted d j x (endJob c d)) d (if (outHits d j x).length < searchK d then .fewer else .ok)
    (outHits d j x).length (j.skipped + (lostHits d j x).length)).rings

/-- Its completion leaves what its end left, and the rings with the completion's record. -/
theorem SearchEnded.completed {d : Desc} {j : Job} {x : Index} {c t : Core} (h : SearchEnded d j x (endJob c d) t) :
    Searched d j c (complete t d (if (outHits d j x).length < searchK d then .fewer else .ok) (outHits d j x).length
      (j.skipped + (lostHits d j x).length)) x where
  obj := (complete_obj ..).trans h.obj
  bus := (complete_bus ..).trans h.bus
  rings := complete_rings_congr h.rings ..

/-! ## ROW_POOL (R432 to R434) -/

/-- R432, R434: what a pooled lookup leaves at its end. -/
structure PoolEnded (d : Desc) (j : Job) (x : Table) (c t : Core) : Prop where
  obj : t.obj = c.obj
  bus : t.bus = (busPayload c (d.field 4 63 0 0) ((List.range (d.field 5 20 10 0)).flatMap fun i =>
    maxRows x.format x.width ((j.rows.filter fun p => p.1 == i).map (·.2)))).bus
  rings : t.rings = c.rings

/-- R432, R434: a lookup whose gathers have all come back. -/
theorem run_poolFinish {d : Desc} {j : Job} {x : Table} {r : Run0} (answers : hostAnswers r.core)
    (named : mapGet r.core.obj.tables (tableIdOf d) = some x) (sound : j.failed = none) :
    ∃ t, poolFinish d j r = .ok (.done .ok (d.field 5 20 10 0) 0, t) ∧ t.ext = r.ext ∧ PoolEnded d j x r.core t.core := by
  have table : tableNamed d r = .ok (x, r) := by
    unfold tableNamed
    rw [run_bind_ok (run_getC r), named]
    rfl
  have staged : OutsideKept r.core (giveStaging r.core x.die (poolStage x (d.field 5 20 10 0))) := ⟨rfl, rfl, rfl, rfl, fun _ _ => rfl, rfl, rfl⟩
  unfold poolFinish
  rw [run_bind_ok table]
  dsimp only
  rw [run_bind_ok (run_modC _ _), sound]
  dsimp only
  rw [run_bind_ok (postBus_up _ _ _ (by exact staged.hostAnswers answers))]
  exact ⟨_, rfl, rfl, rfl, rfl, rfl⟩

/-- R432: the rows of each bag that a lookup reads. -/
def poolRows (d : Desc) (x : Table) (a e : List Byte) : List (Option (List Nat)) :=
  (List.range (d.field 5 20 10 0)).map (bagRows x (bytesAt a 0 (4 * d.field 5 52 32 0)) (bytesAt e 0 (8 * d.field 5 20 10 0)) (d.field 5 52 32 0))

/-- R432, R434: the gathers of the rows, with the output's staging frames taken. -/
def gathersIssued (d : Desc) (x : Table) (rows : List (Option (List Nat))) (c : Core) : Core :=
  ((List.range (d.field 5 20 10 0)).zip ((rows.map (·.getD [])).zip (rows.map fun _ => ([] : List (List Byte))))).foldl
    (gatherBag (tableIdOf d) x d.ring) (jobStarted d (takeStaging c x.die (poolStage x (d.field 5 20 10 0))))

theorem takeStaging_outside (c : Core) (die : Bool) (n : Nat) : OutsideKept c (takeStaging c die n) :=
  ⟨rfl, rfl, rfl, rfl, fun _ _ => rfl, rfl, rfl⟩

theorem gathersIssued_queues (d : Desc) (x : Table) (rows : List (Option (List Nat))) (c : Core) :
    CmdsQueued (jobStarted d (takeStaging c x.die (poolStage x (d.field 5 20 10 0)))) (gathersIssued d x rows c) :=
  .foldl (fun c b => gatherBag_queues (tableIdOf d) x d.ring c b) _ _

theorem gathersIssued_outside (d : Desc) (x : Table) (rows : List (Option (List Nat))) (c : Core) : OutsideKept c (gathersIssued d x rows c) :=
  (takeStaging_outside c x.die _).trans ((jobStarted_outside d _).trans (gathersIssued_queues d x rows c).outside)

/-- R432: what a lookup does once its gathers are issued. -/
def poolRest (d : Desc) : M Done := do
  let c ← getC
  if unitsBusy c (.job d.ring) then return .running
  modC fun c => endJob c d
  poolFinish d ((mapGet c.obj.jobs d.ring).getD { desc := d })

/-- R433: the bags of a loaded table stage no rows. -/
theorem run_stageBags_loaded {d : Desc} {x : Table} (loaded : x.bound = false) (r : Run0) : ∀ bags : List (List Nat),
    stageBags d x bags r = .ok (bags.map fun _ => [], r) := by
  intro bags
  induction bags with
  | nil => rfl
  | cons rs bags ih =>
    rw [stageBags, loaded, if_neg (by decide), run_bind_ok (run_pure _ _)]
    dsimp only
    rw [run_bind_ok ih]
    rfl

/-- R432, R439: a lookup whose bags are in range. -/
structure PoolSound (d : Desc) (x : Table) : Prop where
  ids : d.field 2 63 0 0 % 4 = 0
  bags : d.field 3 63 0 0 % 8 = 0
  out : d.field 4 63 0 0 % 32 = 0
  nbags : 1 ≤ d.field 5 20 10 0 ∧ d.field 5 20 10 0 ≤ 1024
  nids : d.field 5 52 32 0 ≤ 1048576
  loaded : x.bound = false

/-- R432: the row ids of a lookup are read when there are any. -/
theorem ReadsHost.run_idsRead {n addr : Nat} {a : List Byte} {r : Run0} {env : Env} (host : ReadsHost r)
    (answered : r.env = (if n = 0 then [] else [Ans.data a]) ++ env) (k : List Byte → M Done) :
    (if n = 0 then (pure [] >>= k) else (readBus 0 addr (4 * n) >>= k) : M Done) r = k (bytesAt a 0 (4 * n)) { r with env := env } := by
  by_cases none : n = 0
  · subst none
    rw [if_pos rfl, List.nil_append] at answered
    rw [if_pos rfl, run_bind_ok (run_pure _ _), ← answered]
    rfl
  · rw [if_neg none] at answered
    rw [if_neg none, run_bind_ok (host.run_readBus answered _ _)]
    rfl

/-- R432: a lookup in a loaded table issues its gathers. -/
theorem run_rowPoolBody {d : Desc} {a e : List Byte} {x : Table} {r : Run0} {env : Env} (host : ReadsHost r)
    (answered : r.env = (if d.field 5 52 32 0 = 0 then [] else [Ans.data a]) ++ .data e :: env) (waiting : r.core.sess.waiting = [])
    (named : mapGet r.core.obj.tables (tableIdOf d) = some x) (sound : PoolSound d x) (inRange : (poolRows d x a e).any (·.isNone) = false)
    (room : poolStage x (d.field 5 20 10 0) ≤ r.core.mem.stagingFree.get x.die) :
    rowPoolBody d r = poolRest d { r with env := env, core := gathersIssued d x (poolRows d x a e) r.core } := by
  unfold rowPoolBody
  have fields : (d.field 2 63 0 0 % 4 != 0 || d.field 3 63 0 0 % 8 != 0 || d.field 4 63 0 0 % 32 != 0 || decide (1024 < d.field 5 20 10 0)) = false := by
    simp [sound.ids, sound.bags, sound.out, sound.nbags.2]
  rw [run_bind_ok (run_check_passes fields _ _), if_neg (by have := sound.nbags; omega),
    run_bind_ok (run_check_passes (decide_eq_false (by have := sound.nids; omega)) _ _), run_bind_ok (run_tableOf waiting named)]
  dsimp only
  rw [host.run_idsRead answered, run_bind_ok ((host.answered _).run_readBus rfl _ _)]
  have staged : ((poolRows d x a e).map (·.getD [])).map (fun _ => ([] : List (List Byte))) = (poolRows d x a e).map fun _ => [] := by
    rw [List.map_map]
    rfl
  have frames : (decide (r.core.mem.stagingFree.get x.die < poolStage x (d.field 5 20 10 0)) ||
      x.bound && stagedGroup r.core x == 0 && ((poolRows d x a e).map (·.getD [])).any fun x => !x.isEmpty) = false := by
    rw [sound.loaded, Bool.false_and, Bool.false_and, Bool.or_false]
    exact decide_eq_false (by omega)
  rw [show (List.range (d.field 5 20 10 0)).map (bagRows x (bytesAt a 0 (4 * d.field 5 52 32 0)) (bytesAt e 0 (8 * d.field 5 20 10 0))
    (d.field 5 52 32 0)) = poolRows d x a e from rfl, run_bind_ok (run_check_passes inRange _ _),
    run_bind_ok (run_stageBags_loaded sound.loaded _ _), run_bind_ok (run_getC _), if_neg (by simp only [frames]; decide), staged]
  rfl

/-- R432: the lookup stays in progress while units hold its gathers. -/
theorem run_poolRest_busy {d : Desc} {r : Run0} (busy : unitsBusy r.core (.job d.ring) = true) : poolRest d r = .ok (.running, r) := by
  unfold poolRest
  rw [run_bind_ok (run_getC r), if_pos busy]
  rfl

/-- R432, R434: with no gather held, the job ends and the lookup completes. -/
theorem run_poolRest_done {d : Desc} {j : Job} {x : Table} {r : Run0} (idle : unitsBusy r.core (.job d.ring) = false)
    (job : mapGet r.core.obj.jobs d.ring = some j) (sound : j.failed = none) (answers : hostAnswers r.core)
    (named : mapGet (endJob r.core d).obj.tables (tableIdOf d) = some x) :
    ∃ t, poolRest d r = .ok (.done .ok (d.field 5 20 10 0) 0, t) ∧ t.ext = r.ext ∧ PoolEnded d j x (endJob r.core d) t.core := by
  obtain ⟨t, runs, ext, ended⟩ := run_poolFinish (d := d) (j := j) (r := { r with core := endJob r.core d })
    ((endJob_keeps r.core d).1.hostAnswers answers) named sound
  refine ⟨t, ?_, ext, ended⟩
  unfold poolRest
  rw [run_bind_ok (run_getC r), idle, if_neg (by decide), run_bind_ok (run_modC _ _), job]
  exact runs

/-- R434: a pooled lookup that has completed; `c0` is the device before it began. -/
structure Pooled (d : Desc) (j : Job) (x : Table) (c0 c t : Core) : Prop where
  obj : t.obj = (endJob c d).obj
  bus : t.bus = (busPayload c0 (d.field 4 63 0 0) ((List.range (d.field 5 20 10 0)).flatMap fun i =>
    maxRows x.format x.width ((j.rows.filter fun p => p.1 == i).map (·.2)))).bus
  rings : t.rings = (complete c0 d .ok (d.field 5 20 10 0) 0).rings

/-- A posted write goes out the same. -/
theorem OutsideKept.busPayload {c d : Core} (h : OutsideKept c d) (a : Nat) (bs : List Byte) :
    (busPayload d a bs).bus = (busPayload c a bs).bus := by
  simp only [Machine.busPayload, busPost, maxPayload, h.cfg, h.bus]

/-- Its completion leaves what its end left, and the rings with the completion's record. -/
theorem PoolEnded.completed {d : Desc} {j : Job} {x : Table} {c0 c t : Core} (h : PoolEnded d j x (endJob c d) t) (outside : OutsideKept c0 c) :
    Pooled d j x c0 c (complete t d .ok (d.field 5 20 10 0) 0) where
  obj := (complete_obj ..).trans h.obj
  bus := (complete_bus ..).trans (h.bus.trans ((outside.trans (endJob_keeps c d).1).busPayload _ _))
  rings := complete_rings_congr (h.rings.trans (outside.trans (endJob_keeps c d).1).rings) ..

/-- A descriptor that begins leaves the outside. -/
theorem beginSeq_outside (c : Core) (d : Desc) : OutsideKept c (beginSeq c d) := ⟨rfl, rfl, rfl, rfl, fun _ _ => rfl, rfl, rfl⟩

/-- The end of a lookup's job leaves the objects that are not jobs. -/
theorem endJob_pool {c : Core} {d : Desc} (opcode : d.opcode = 0x6A) :
    endJob c d = { c with obj := { c.obj with jobs := mapDel c.obj.jobs d.ring } } := by
  unfold endJob
  rw [if_neg (by omega)]

theorem endJob_tables {c : Core} {d : Desc} (opcode : d.opcode = 0x6A) : (endJob c d).obj.tables = c.obj.tables := by
  rw [endJob_pool opcode]

/-! ## Dispatch of a job whose commands are back (R215, R432) -/

/-- R215: the ring's descriptor goes on with its job. -/
theorem exec_dispatch_job {s : State} {d : Desc} {j : Job} (serves : serving s.core = true) (waiting : s.core.sess.waiting = [])
    (inProgress : mapGet s.core.sess.seqProg d.ring = some d) (job : mapGet s.core.obj.jobs d.ring = some j) (own : j.desc = d)
    (idle : unitsBusy s.core (.job d.ring) = false) :
    exec (.descriptorDispatch true d.ring []) s = .next (settle s d [] (finishJob d j)) := by
  have inside : insideReady s.core d.ring = some d := by
    unfold insideReady
    rw [inProgress]
    simp [waiting, mapHas, job, idle]
  have goes : goOn s.core d = finishJob d j := by
    unfold goOn
    rw [job]
    exact if_pos own
  show Host.Outcome.next (descriptorDispatch s true d.ring []) = _
  simp [descriptorDispatch, serves, waiting, inside, goes]

/-- R215: with its commands back, a job ends, and its opcode says what follows. -/
theorem run_finishJob_search {d : Desc} (opcode : d.opcode = 0x64) (j : Job) (r : Run0) :
    finishJob d j r = searchFinish d j { r with core := endJob r.core d } := by
  unfold finishJob
  rw [run_bind_ok (run_modC _ _), opcode]
  rfl

theorem run_finishJob_pool {d : Desc} (opcode : d.opcode = 0x6A) (j : Job) (r : Run0) :
    finishJob d j r = poolFinish d j { r with core := endJob r.core d } := by
  unfold finishJob
  rw [run_bind_ok (run_modC _ _), opcode]
  rfl

/-- A body that ends completes its descriptor. -/
theorem settle_ends {s : State} {d : Desc} {m : M Done} {t : Run0} {st : Status} {a b : Nat} (h0 : d.session = 0)
    (runs : m (descRun s d [] none) = .ok (.done st a b, t)) (ext : t.ext = []) :
    settle s d [] m = { s with core := complete t.core d st a b } := by
  unfold settle
  rw [runs]
  simp only [ext, finishDesc_seq _ _ _ _ _ h0]
  rfl

section
variable {s : State} {d : Desc} {j : Job} (h0 : d.session = 0) (serves : serving s.core = true) (waiting : s.core.sess.waiting = [])
  (answers : hostAnswers s.core) (inProgress : mapGet s.core.sess.seqProg d.ring = some d) (job : mapGet s.core.obj.jobs d.ring = some j)
  (own : j.desc = d) (idle : unitsBusy s.core (.job d.ring) = false) (sound : j.failed = none)
include h0 serves waiting answers inProgress job own idle sound

/-- R426: dispatch completes a search whose scans are back. -/
theorem exec_dispatch_search (opcode : d.opcode = 0x64) (indexed : mapHas s.core.obj.indexes (indexIdOf d) = true) :
    ∃ t, exec (.descriptorDispatch true d.ring []) s = .next t ∧
      ∀ x, mapGet (endJob s.core d).obj.indexes (indexIdOf d) = some x → Searched d j s.core t.core x := by
  have kept := endJob_keeps s.core d
  obtain ⟨x, named⟩ := Option.isSome_iff_exists.mp (kept.2 indexed)
  obtain ⟨t, ends, ext, ended⟩ := run_searchFinish (d := d) (j := j)
    (r := { descRun s d [] none with core := endJob (descRun s d [] none).core d }) (kept.1.hostAnswers answers) named sound
  have runs := (run_finishJob_search opcode j (descRun s d [] none)).trans ends
  refine ⟨_, (exec_dispatch_job serves waiting inProgress job own idle).trans (congrArg _ (settle_ends h0 runs ext)), fun z is => ?_⟩
  obtain rfl : x = z := Option.some.inj (named.symm.trans is)
  exact ended.completed

/-- R434: dispatch completes a lookup whose gathers are back. -/
theorem exec_dispatch_pool {x : Table} {c0 : Core} (opcode : d.opcode = 0x6A) (named : mapGet s.core.obj.tables (tableIdOf d) = some x)
    (outside : OutsideKept c0 s.core) :
    ∃ t, exec (.descriptorDispatch true d.ring []) s = .next t ∧ Pooled d j x c0 s.core t.core := by
  obtain ⟨t, ends, ext, ended⟩ := run_poolFinish (d := d) (j := j)
    (r := { descRun s d [] none with core := endJob (descRun s d [] none).core d }) ((endJob_keeps s.core d).1.hostAnswers answers)
    ((congrArg (mapGet · (tableIdOf d)) (endJob_tables opcode)).trans named) sound
  have runs := (run_finishJob_pool opcode j (descRun s d [] none)).trans ends
  exact ⟨_, (exec_dispatch_job serves waiting inProgress job own idle).trans (congrArg _ (settle_ends h0 runs ext)), ended.completed outside⟩
end

/-- Settles O31 (R423, R426, R432, R434): the bodies issue their commands and end through `run_searchFinish` and `run_poolFinish`, at once or when
the dispatch finds the commands back. -/
theorem searchAndPool : Obligations.SearchAndPool := by
  unfold Obligations.SearchAndPool
  intro d a e s free h0 waiting answers noWindow
  dsimp only
  refine ⟨fun x q named opcode query out filter k kMax probes probesMax cents conv => ?_,
    fun x named loaded opcode ids bags out nbags nbagsMax nids room inRange => ?_, fun j job own sound idle => ⟨fun opcode indexed => ?_,
    fun opcode x named => ?_⟩⟩
  · have fields : SearchSound d x := ⟨query, out, filter, ⟨k, kMax⟩, probes, probesMax, cents⟩
    have runs := run_searchBody (r := begunSeqRun s d [.data a]) (begunSeqRun_reads answers noWindow d _) rfl waiting named fields conv
    have outside := scansIssued_outside d x q (beginSeq s.core d)
    refine ⟨fun busy => ?_, fun j idle job sound => ?_⟩
    · rw [run_searchRest_busy (by exact busy)] at runs
      rw [exec_search, acceptSeq_running free (by rfl) runs]
      rfl
    · have indexed : mapHas (scansIssued d x q (beginSeq s.core d)).obj.indexes (indexIdOf d) = true := by
        rw [(scansIssued_queues d x q (beginSeq s.core d)).indexes]
        exact Option.isSome_iff_exists.mpr ⟨x, named⟩
      obtain ⟨y, still⟩ := Option.isSome_iff_exists.mp ((endJob_keeps (scansIssued d x q (beginSeq s.core d)) d).2 indexed)
      obtain ⟨t, ends, ext, ended⟩ := run_searchRest_done
        (r := { begunSeqRun s d [.data a] with env := [], core := scansIssued d x q (beginSeq s.core d) })
        idle job sound (outside.hostAnswers (begunSeqRun_reads answers noWindow d []).answers) still
      refine ⟨_, by rw [exec_search, acceptSeq_done free ext h0 (runs.trans ends)], fun z is => ?_⟩
      obtain rfl : y = z := Option.some.inj (still.symm.trans is)
      obtain ⟨obj, bus, rings⟩ := ended.completed
      exact ⟨obj, bus, rings⟩
  · have fields : PoolSound d x := ⟨ids, bags, out, ⟨nbags, nbagsMax⟩, nids, loaded⟩
    have runs := run_rowPoolBody (d := d) (a := a) (e := e)
      (r := begunSeqRun s d ((if d.field 5 52 32 0 = 0 then [] else [Ans.data a]) ++ [.data e])) (begunSeqRun_reads answers noWindow d _) rfl
      waiting named fields inRange room
    have outside := gathersIssued_outside d x (poolRows d x a e) (beginSeq s.core d)
    refine ⟨fun busy => ?_, fun j idle job sound => ?_⟩
    · rw [run_poolRest_busy (by exact busy)] at runs
      rw [exec_rowPool, acceptSeq_running free (by rfl) runs]
      rfl
    · have still : mapGet (endJob (gathersIssued d x (poolRows d x a e) (beginSeq s.core d)) d).obj.tables (tableIdOf d) = some x := by
        rw [endJob_tables opcode, (gathersIssued_queues d x (poolRows d x a e) (beginSeq s.core d)).tables]
        exact named
      obtain ⟨t, ends, ext, ended⟩ := run_poolRest_done
        (r := { begunSeqRun s d ((if d.field 5 52 32 0 = 0 then [] else [Ans.data a]) ++ [.data e]) with
                  env := [], core := gathersIssued d x (poolRows d x a e) (beginSeq s.core d) })
        idle job sound (outside.hostAnswers (begunSeqRun_reads answers noWindow d []).answers) still
      refine ⟨_, by rw [exec_rowPool, acceptSeq_done free ext h0 (runs.trans ends)], ?_⟩
      obtain ⟨obj, bus, rings⟩ := ended.completed (beginSeq_outside s.core d |>.trans outside)
      exact ⟨obj, bus, rings⟩
  · obtain ⟨t, goes, ended⟩ := exec_dispatch_search (s := { s with core := beginSeq s.core d }) h0 free.1 waiting
      ((beginSeq_outside s.core d).hostAnswers answers) (mapGet_set_same ..) job own idle sound opcode indexed
    refine ⟨t, goes, fun x is => ?_⟩
    obtain ⟨obj, bus, rings⟩ := ended x is
    exact ⟨obj, bus, rings⟩
  · obtain ⟨t, goes, ended⟩ := exec_dispatch_pool (s := { s with core := beginSeq s.core d }) h0 free.1 waiting
      ((beginSeq_outside s.core d).hostAnswers answers) (mapGet_set_same ..) job own idle sound opcode named (beginSeq_outside s.core d)
    obtain ⟨obj, bus, rings⟩ := ended
    refine ⟨t, goes, obj.trans ?_, bus, rings⟩
    rw [endJob_pool opcode, endJob_pool opcode]
    rfl

end Sys2Proof.Machine

/-! PROOFS of the statement about row writes (15_retrieval R435 to R437). -/

namespace Sys2Proof.Machine

theorem exec_rowReplace (d : Desc) (env : Env) (s : State) : exec (.rowReplace d env) s = .next (acceptSeq s d env (rowReplaceBody d)) := rfl
theorem exec_rowUpdate (d : Desc) (env : Env) (s : State) : exec (.rowUpdate d env) s = .next (acceptSeq s d env (rowUpdateBody d)) := rfl

/-! ## What a written row leaves (R436) -/

/-- R436: a row written changes its table among the objects, and nothing outside. -/
theorem rowWritten_keeps {c : Core} {id : Nat} {x : Table} (named : mapGet c.obj.tables id = some x) (f : Table → Table) :
    (rowWritten c id f).obj = { c.obj with tables := mapSet c.obj.tables id (f x) } ∧ (rowWritten c id f).mem = c.mem ∧
      OutsideKept c (rowWritten c id f) := by
  have counted : rowWritten c id f = regCount (setTable c id (f x)) 0x430008 63 32 1 := by rw [rowWritten, named]
  have set : OutsideKept c (setTable c id (f x)) := ⟨rfl, rfl, rfl, rfl, fun _ _ => rfl, rfl, rfl⟩
  rw [counted]
  exact ⟨congrArg (·.obj) (regCount_frame ..), congrArg (·.mem) (regCount_frame ..), set.trans (OutsideKept.regCount _ (by decide) ..)⟩

/-- R436: a table's row as ROW_REPLACE and ROW_UPDATE leave it. -/
def rowPut (d : Desc) (row : Nat) (bs : List Byte) (acc : Option W32) (c : Core) : Core :=
  rowWritten c (tableIdOf d) fun t => setAdapt (setRow t row bs) row acc

/-- R435: a bound table's row goes out to its place. -/
def rowPosted (d : Desc) (row out : Nat) (bs : List Byte) (acc : Option W32) (c : Core) : Core :=
  rowWritten (busPayload c out bs) (tableIdOf d) (setAdapt · row acc)

/-- R436: a row of a loaded table is written once. -/
theorem run_writeRow_loaded {d : Desc} {x : Table} {r : Run0} (loaded : x.bound = false) (fresh : r.past = []) (row : Nat) (bs : List Byte)
    (acc : Option W32) : writeRow d x row bs acc r =
      .ok ((), { r with core := rowPut d row bs acc r.core, base := rowPut d row bs acc r.base, memo := r.memo ++ [0] }) := by
  unfold writeRow
  simp only [loaded, Bool.false_eq_true, if_false]
  rw [run_bind_ok (run_once_new _ _ fresh)]
  rfl

/-! ## Rows of a bound table (R435) -/

/-- R119, R192: a write that must go out once to an outbound address goes over a link that is up. -/
theorem run_oncePosted_outbound {f : Core → Nat × Core} {r : Run0} (fresh : r.past = []) (host : hostAnswers r.core) (a : Nat) :
    oncePosted (ideStream r.core a) a f r =
      .ok ((f r.core).1, { r with core := (f r.core).2, base := (f r.base).2, memo := r.memo ++ [(f r.core).1] }) := by
  obtain ⟨opens, stream⟩ := ideStream_open host a
  have gate : postGate (ideStream r.core a) a r = .ok ((), r) := by simp [postGate, barredAt, stream, host.1, opens]
  unfold oncePosted
  have unsettled : (!r.past.isEmpty) = false := by simp [fresh]
  rw [run_bind_ok (run_settled r)]
  simp only [unsettled, Bool.not_false, if_true]
  rw [run_bind_ok gate, run_once_new _ _ fresh]

/-- R435: with nothing waiting, no other request holds a row. -/
theorem run_holdRow_free {α : Type} {d : Desc} {row : Nat} {write : Bool} {m : M α} {r t : Run0} {a : α} (waiting : r.core.sess.waiting = [])
    (runs : m r = .ok (a, t)) : holdRow d row write m r = .ok (a, t) := by
  have free : rowBusy r.core d (tableIdOf d) row write = false := by simp [rowBusy, waiting]
  unfold holdRow
  rw [run_bind_ok (run_get r)]
  simp only [free, Bool.and_false, Bool.false_eq_true, if_false]
  rw [runs]

/-- R156: the page found for a number is the one under its own key. -/
theorem mapGet_of_xFind {m : Map XPage} {p k : Nat} {x : XPage} (found : xFind m p = some (k, x)) : mapGet m k = some x := by
  have at0 : ∀ j size, ((mapGet m j).bind fun y => if y.size = size then some (j, y) else none) = some (k, x) → mapGet m k = some x := by
    intro j size h
    obtain ⟨y, stands, is⟩ := Option.bind_eq_some_iff.mp h
    by_cases sized : y.size = size
    · rw [if_pos sized] at is
      obtain ⟨rfl, rfl⟩ := Prod.mk.inj (Option.some.inj is)
      exact stands
    · rw [if_neg sized] at is
      cases is
  rw [xFind, Option.or_eq_some_iff, Option.or_eq_some_iff] at found
  rcases found with small | ⟨-, middle | ⟨-, large⟩⟩
  · exact at0 _ _ small
  · exact at0 _ _ middle
  · exact at0 _ _ large

/-- R435: where row `row` of a bound table stands. -/
def rowVa (x : Table) (row : Nat) : Nat := x.va + row / rowsPerFrame x.width * 65536 + row % rowsPerFrame x.width * x.width

/-- R144, R435: a row whose place lies in a mapped, writable outbound page on a die without forwarded frames. -/
structure RowOutbound (c : Core) (x : Table) (row k : Nat) (pg : XPage) : Prop where
  bound : x.bound = true
  high : hostHalf ≤ rowVa x row
  low : rowVa x row < 2 ^ 48
  still : c.mem.forward.get x.die = []
  found : xFind (c.mem.xmap.get x.die) (rowVa x row / 65536) = some (k, pg)
  outbound : pg.kind = 0
  writable : (walkEntry (pageWord pg) (pg.size == 2) true).isOk = true

/-- R435: its place is found. -/
theorem run_rowPlace_outbound {x : Table} {row k : Nat} {pg : XPage} {r : Run0} (waiting : r.core.sess.waiting = [])
    (h : RowOutbound r.core x row k pg) : rowPlace x row true r = .ok ((k, pg, rowVa x row - 65536 * k), r) := by
  have page : xPage x.die (rowVa x row / 65536) r = .ok (some (k, pg), r) := by
    have outside : ¬ rowVa x row / 65536 < hostHalf / 65536 := Nat.not_lt.mpr (Nat.div_le_div_right h.high)
    unfold xPage
    rw [run_bind_ok (run_get r), if_neg outside, h.found]
    simp [unmapping, waiting]
  have settled : walkPage r.core x.die k = r.core := by simp [walkPage, h.still]
  have walks : walk x.die (rowVa x row) true r = .ok (.ok (k, pg, rowVa x row - 65536 * k), r) := by
    rw [walk, if_neg (Nat.not_le.mpr h.low), run_bind_ok page]
    cases entry : walkEntry (pageWord pg) (pg.size == 2) true with
    | error f => have writable := h.writable; rw [entry] at writable; cases writable
    | ok e => simp [entry, settled, mapGet_of_xFind h.found]
  unfold rowPlace
  rw [show x.va + row / rowsPerFrame x.width * 65536 + row % rowsPerFrame x.width * x.width = rowVa x row from rfl, run_bind_ok walks]
  rfl

/-- R435: a row of a bound table is posted to its place. -/
theorem run_writeRow_bound {d : Desc} {x : Table} {row k : Nat} {pg : XPage} {r : Run0} (waiting : r.core.sess.waiting = []) (fresh : r.past = [])
    (host : hostAnswers r.core) (h : RowOutbound r.core x row k pg) (bs : List Byte) (acc : Option W32) :
    let posted := rowPosted d row (outBus r.core (pg.pa + (rowVa x row - 65536 * k))) bs acc
    writeRow d x row bs acc r = .ok ((), { r with core := posted r.core, base := posted r.base, memo := r.memo ++ [0] }) := by
  intro posted
  unfold writeRow
  simp only [h.bound, if_true]
  rw [run_bind_ok (run_rowPlace_outbound waiting h)]
  simp only [h.outbound, if_true]
  rw [run_bind_ok (run_getC r), run_bind_ok (run_holdRow_free waiting (run_oncePosted_outbound fresh host _))]
  rfl

/-! ## One row of a request (R430, R439) -/

/-- R439 order 5: a row without a failing check block passes. -/
theorem run_checkRow_passes {d : Desc} {x : Table} {row : Nat} {reads : Bool} (sound : rowCheckFails x row reads = false) (r : Run0) :
    checkRow d x row reads r = .ok ((), r) := by
  unfold checkRow
  rw [sound]
  rfl

/-- R430: the table stands as it was. -/
theorem run_tableNow {d : Desc} {x : Table} {r : Run0} (named : mapGet r.core.obj.tables (tableIdOf d) = some x) :
    tableNow d x r = .ok (x, r) := by
  unfold tableNow
  rw [run_bind_ok (run_getC r), named]
  rfl

/-- R435: the row that the first id read names. -/
def firstRow (a : List Byte) : Nat := leAt (bytesAt a 0 4) 0 4

/-- R430, R439: an item's row id is read first. -/
theorem run_rowIdOf {d : Desc} {x : Table} {a : List Byte} {r : Run0} {env : Env} (host : ReadsHost r) (answered : r.env = .data a :: env)
    (inTable : firstRow a < x.rows) (i : Nat) : rowIdOf d x i r = .ok (firstRow a, { r with env := env }) := by
  unfold rowIdOf
  rw [run_bind_ok (host.run_readBus answered _ _), run_bind_ok (run_check_passes (decide_eq_false (by exact Nat.not_le.mpr inTable)) _ _)]
  rfl

/-- R437: the row and accumulator that the rule gives for the first row of a ROW_UPDATE. -/
def updatedFirst (d : Desc) (x : Table) (a e : List Byte) : List W32 × W32 :=
  updatedRow (d.field 4 27 27 0) (BitVec.ofNat 32 (d.field 5 31 0 0)) (BitVec.ofNat 32 (d.field 5 63 32 0))
    (rowToF32 x.format (cellsRead x.bytes (firstRow a * x.width) x.width))
    (f32s (bytesAt e 0 (4 * (x.width / elemBytes x.format))) 0 (x.width / elemBytes x.format)) ((mapGet x.adapt (firstRow a)).getD 0)

/-- R437: the accumulator is written by the adaptive rule alone. -/
def updatedAcc (d : Desc) (x : Table) (a e : List Byte) : Option W32 := if d.field 4 27 27 0 = 1 then some (updatedFirst d x a e).2 else none

section
variable {d : Desc} {x : Table} {a e : List Byte} {r t : Run0} (host : ReadsHost r) (answered : r.env = [.data a, .data e])
  (waiting : r.core.sess.waiting = []) (named : mapGet r.core.obj.tables (tableIdOf d) = some x) (inTable : firstRow a < x.rows)
  (one : d.field 4 26 10 0 = 1) (ids : d.field 2 63 0 0 % 4 = 0)
include host answered waiting named inTable one ids

/-- R436: ROW_REPLACE of one row reads its id and its bytes and writes it. -/
theorem run_rowReplaceBody_one (rows : d.field 3 63 0 0 % 32 = 0) (sound : rowCheckFails x (firstRow a) false = false)
    (writes : writeRow d x (firstRow a) (bytesAt e 0 x.width) none { r with env := [] } = .ok ((), t)) :
    rowReplaceBody d r = .ok (.done .ok 1 0, t) := by
  have item : rowReplaceItem d x 0 r = .ok (1, t) := by
    unfold rowReplaceItem
    rw [run_bind_ok (run_rowIdOf host answered inTable 0), run_bind_ok ((host.answered _).run_readBus rfl _ _),
      run_bind_ok (run_tableNow (by exact named)), run_bind_ok (run_checkRow_passes sound _), run_bind_ok writes]
    rfl
  unfold rowReplaceBody
  rw [run_bind_ok (run_check_passes (by simp [ids, rows, one]) _ _), if_neg (by omega), run_bind_ok (run_tableOf waiting named), one,
    List.range_one, run_bind_ok (run_eachItem_cons item (run_eachItem_nil _ t))]
  rfl

/-- R437: ROW_UPDATE of one row of a loaded table reads its id and its gradient and writes what the rule gives. -/
theorem run_rowUpdateBody_one (grads : d.field 3 63 0 0 % 4 = 0) (loaded : x.bound = false) (sound : x.bad = [])
    (rule : d.field 4 27 27 0 = 1 → x.adaptive = true)
    (writes : writeRow d x (firstRow a) (rowOfF32 x.format (updatedFirst d x a e).1) (updatedAcc d x a e) { r with env := [] } = .ok ((), t)) :
    rowUpdateBody d r = .ok (.done .ok 1 0, t) := by
  have checks : rowCheckFails x (firstRow a) true = false := by simp [rowCheckFails, sound, mapHas, mapGet]
  have reads : ∀ r : Run0, readRow d x (firstRow a) true .checkMismatch r = .ok (cellsRead x.bytes (firstRow a * x.width) x.width, r) := by
    intro r
    unfold readRow
    rw [loaded]
    rfl
  have item : rowUpdateItem d x 0 r = .ok (1, t) := by
    unfold rowUpdateItem
    dsimp only
    rw [run_bind_ok (run_rowIdOf host answered inTable 0), run_bind_ok ((host.answered _).run_readBus rfl _ _),
      run_bind_ok (run_tableNow (by exact named)), run_bind_ok (run_checkRow_passes checks _), run_bind_ok (reads _)]
    exact run_bind_ok writes
  have adaptive : (d.field 4 27 27 0 == 1 && ((mapGet r.core.obj.tables (tableIdOf d)).map fun t => !t.adaptive).getD false) = false := by
    rw [named]
    by_cases adapts : d.field 4 27 27 0 = 1
    · simp [rule adapts]
    · simp [adapts]
  unfold rowUpdateBody
  rw [run_bind_ok (run_check_passes (by simp [ids, grads, one]) _ _), if_neg (by omega), run_bind_ok (run_getC r),
    run_bind_ok (run_check_passes adaptive _ _), run_bind_ok (run_tableOf waiting named), one, List.range_one,
    run_bind_ok (run_eachItem_cons item (run_eachItem_nil _ t))]
  rfl

end

/-! ## What one row leaves -/

/-- R435 to R437: a request of one row that ends leaves its table, memory as it was, and its completion. -/
structure RowDone (d : Desc) (y : Table) (c t : Core) : Prop where
  obj : t.obj = { c.obj with tables := mapSet c.obj.tables (tableIdOf d) y }
  mem : t.mem = c.mem
  rings : t.rings = (complete c d .ok 1 0).rings

section
variable {d : Desc} {x : Table} {c : Core} (named : mapGet c.obj.tables (tableIdOf d) = some x) (row : Nat) (bs : List Byte) (acc : Option W32)
include named

/-- R436: a row put into a loaded table. -/
theorem rowPut_done : RowDone d (setAdapt (setRow x row bs) row acc) c (complete (rowPut d row bs acc (beginSeq c d)) d .ok 1 0) ∧
    (complete (rowPut d row bs acc (beginSeq c d)) d .ok 1 0).bus = c.bus := by
  obtain ⟨obj, mem, outside⟩ := rowWritten_keeps (c := beginSeq c d) named fun t => setAdapt (setRow t row bs) row acc
  have all := (beginSeq_outside c d).trans outside
  exact ⟨⟨(complete_obj ..).trans obj, (complete_mem ..).trans mem, complete_rings_congr all.rings ..⟩, (complete_bus ..).trans all.bus⟩

/-- R435: a row posted to its place outside. -/
theorem rowPosted_done (out : Nat) : RowDone d (setAdapt x row acc) c (complete (rowPosted d row out bs acc (beginSeq c d)) d .ok 1 0) ∧
    (complete (rowPosted d row out bs acc (beginSeq c d)) d .ok 1 0).bus = (busPayload c out bs).bus := by
  obtain ⟨obj, mem, outside⟩ := rowWritten_keeps (c := busPayload (beginSeq c d) out bs) named (setAdapt · row acc)
  have rings : (rowPosted d row out bs acc (beginSeq c d)).rings = c.rings := outside.rings
  exact ⟨⟨(complete_obj ..).trans obj, (complete_mem ..).trans mem, complete_rings_congr rings ..⟩,
    (complete_bus ..).trans (outside.bus.trans ((beginSeq_outside c d).busPayload out bs))⟩

end

/-- R436: a row of a table whose check blocks are all sound, put without an accumulator. -/
theorem setRow_sound {x : Table} (sound : x.bad = []) (row : Nat) (bs : List Byte) :
    setRow x row bs = { x with bytes := cellsWrite x.bytes (row * x.width) bs } := by
  rw [setRow, sound]
  rfl

/-- Settles O32 (R435 to R437): the body of a request of one row runs to the one write that it makes. -/
theorem rowWrites : Obligations.RowWrites := by
  unfold Obligations.RowWrites
  intro d a e x s free h0 waiting answers noWindow named one ids
  dsimp only
  intro inTable
  have host := begunSeqRun_reads answers noWindow d [.data a, .data e]
  refine ⟨fun rows => ⟨fun loaded sound => ?_, fun k pg bound high low still found outbound writable => ?_⟩, fun loaded sound grads => ?_⟩
  · have body := run_rowReplaceBody_one host rfl waiting named inTable one ids rows (by simp [rowCheckFails, sound, mapHas, mapGet])
      (run_writeRow_loaded loaded rfl _ _ _)
    obtain ⟨⟨obj, mem, rings⟩, bus⟩ := rowPut_done named (firstRow a) (bytesAt e 0 x.width) none
    rw [setRow_sound sound] at obj
    exact ⟨_, by rw [exec_rowReplace, acceptSeq_done free (by rfl) h0 body], obj, mem, bus, rings⟩
  · have body := run_rowReplaceBody_one host rfl waiting named inTable one ids rows (by simp [rowCheckFails, bound])
      (run_writeRow_bound (by exact waiting) rfl (by exact host.answers) ⟨bound, high, low, still, found, outbound, writable⟩ _ none)
    obtain ⟨⟨obj, mem, rings⟩, bus⟩ := rowPosted_done named (firstRow a) (bytesAt e 0 x.width) none
      (outBus s.core (pg.pa + (rowVa x (firstRow a) - 65536 * k)))
    exact ⟨_, by rw [exec_rowReplace, acceptSeq_done free (by rfl) h0 body], obj, mem, bus, rings⟩
  · have ends : (d.field 4 27 27 0 = 1 → x.adaptive = true) → ∃ t, exec (.rowUpdate d [.data a, .data e]) s = .next t ∧
        RowDone d (setAdapt (setRow x (firstRow a) (rowOfF32 x.format (updatedFirst d x a e).1)) (firstRow a) (updatedAcc d x a e)) s.core t.core := by
      intro rule
      have body := run_rowUpdateBody_one host rfl waiting named inTable one ids grads loaded sound rule (run_writeRow_loaded loaded rfl _ _ _)
      exact ⟨_, by rw [exec_rowUpdate, acceptSeq_done free (by rfl) h0 body], (rowPut_done named ..).1⟩
    rw [setRow_sound sound] at ends
    refine ⟨fun plain => ?_, fun adapts adaptive => ?_⟩
    · obtain ⟨t, goes, obj, mem, rings⟩ := ends fun other => absurd (other.symm.trans plain) (by decide)
      refine ⟨t, goes, ?_, mem, rings⟩
      simpa only [updatedAcc, updatedFirst, firstRow, updatedRow, plain, setAdapt, zero_ne_one, if_true, if_false] using obj
    · obtain ⟨t, goes, obj, mem, rings⟩ := ends fun _ => adaptive
      refine ⟨t, goes, ?_, mem, rings⟩
      simpa only [updatedAcc, updatedFirst, firstRow, updatedRow, adapts, setAdapt, one_ne_zero, if_true, if_false] using obj

end Sys2Proof.Machine
